-- ==== Sys2Proof/Syntax.lean ====
section
/-! DEFINITION. The commands of the VKN-PS24A block: one constructor of `Instr` per row of
spec/opcode_table.json, with the operands that the named rule gives the step.  A vector-engine
instruction carries every field of its layout in Table 5-3 (R142), reserved values included, so that
the refusals of R143 can be stated. -/

namespace Sys2Proof

/-- The hardware context that issues an instruction: global cell number and context number (R129). -/
structure Cx where
  cell : Nat
  ctx : Nat
  deriving DecidableEq, Repr

/-- The fields of layout VR (Table 5-3), apart from the opcode. -/
structure Vr where
  b55 : Bool := false
  vd : BitVec 5 := 0
  va : BitVec 5 := 0
  vb : BitVec 5 := 0
  vc : BitVec 5 := 0
  msk : BitVec 3 := 0
  men : Bool := false
  mz : Bool := false
  ty : BitVec 2 := 0
  bs : Bool := false
  imm : BitVec 17 := 0
  tag : BitVec 10 := 0
  deriving DecidableEq, Repr

/-- The fields of layout VS (Table 5-3), apart from the opcode; `cnt` holds COUNT − 1. -/
structure Vs where
  sd : BitVec 4 := 0
  sa : BitVec 4 := 0
  sb : BitVec 4 := 0
  sc : BitVec 4 := 0
  fmtD : BitVec 4 := 0
  fmtA : BitVec 4 := 0
  fmtB : BitVec 4 := 0
  ct : BitVec 2 := 0
  cnt : BitVec 13 := 0
  bb : Bool := false
  ms : Bool := false
  blk : Bool := false
  tag : BitVec 10 := 0
  deriving DecidableEq, Repr

/-- The fields of layout SC (Table 5-3), apart from the opcode; `b43` holds bits [43:40]. -/
structure Sc where
  sd : BitVec 4 := 0
  sa : BitVec 4 := 0
  sb : BitVec 4 := 0
  b43 : BitVec 4 := 0
  imm : BitVec 40 := 0
  deriving DecidableEq, Repr

/-- A Rolac operation: the channel and the tag of its notice (R378). -/
structure OpId where
  channel : Nat
  tag : Nat
  deriving DecidableEq, Repr

/-- A DMA engine (Table 7-3), by global number. -/
inductive Engine where
  | cell (n : Nat)
  | gs (block : Nat)
  | block (b : Nat)
  | region (r : Nat)
  deriving DecidableEq, Repr

/-- A hardware error as the region or hub error controller sees it (Table 1-7, R30, R203, R265). -/
inductive HwError where
  /-- a corrected error of region `r`; the counter it advances is named by the unit (Table 9-8) -/
  | correctedCellStore (cell : Nat)
  | correctedBlockStore (block : Nat)
  | correctedOther (region : Nat)
  /-- an uncorrectable SRAM word at a store address -/
  | sramWord (addr : Nat)
  /-- an uncorrectable error in the curve memory of a slot (Table 6-11) -/
  | curveMemory (cell slot : Nat)
  | cellFault (cell : Nat)
  | blockFault (block : Nat)
  | linkFault (link : Nat)
  | regionFault (region : Nat)
  | deviceFault
  deriving DecidableEq, Repr

/-- A write that a HBM3 controller accepts: bytes in increasing address order from `addr`, all within
one 64-byte block, by master identity `master` (R258). -/
structure HbmWrite where
  master : Nat
  addr : Nat
  data : List Byte
  /-- the operation that writes, and whether the write has PRIV_RESTORE = 1 (R295, R296) -/
  op : Option OpId := none
  priv : Bool := false
  deriving DecidableEq, Repr

/-- What a link-control flit carries of its sender (R313). -/
structure PeerInfo where
  deviceId : Nat
  localLink : Nat
  mode : Nat
  rtt : Nat
  deriving DecidableEq, Repr

/-- A message as Table 11-3 describes it, with its data bytes. -/
structure Msg where
  dest : Nat := 0
  srcId : Nat := 0
  srcRegion : Nat := 0
  op : Nat := 0
  length : Nat := 0
  mtag : Nat := 0
  data : List Byte := []
  deriving DecidableEq, Repr

/-- The device and region from which a Bridle message came. -/
structure Src where
  id : Nat
  region : Nat
  deriving DecidableEq, Repr

/-- A contribution that arrives at a shard's owner: collective, step, shard, contributing rank and
the contributed elements, encoded in FMT_IN (R340, R342). -/
structure Contribution where
  cid : Nat
  step : Nat
  shard : Nat
  rank : Nat
  data : List Byte
  deriving DecidableEq, Repr

/-- A collective result that arrives at a member: collective, step, first destination element, bytes
and, for a reduced shard, its 64-byte shard header (R340, R345). -/
structure CollResult where
  cid : Nat
  step : Nat
  shard : Nat
  element : Nat
  data : List Byte
  header : Option (List Byte) := none
  deriving DecidableEq, Repr

/-- A write into the mailbox slot area: writer identity, address, and data; for one that came over a link, the
device and region it came from, its MTAG, and the region by which it came (R371, R372). -/
structure SlotWrite where
  master : Nat
  addr : Nat
  data : List Byte
  remote : Option Src := none
  mtag : Nat := 0
  via : Nat := 0
  deriving DecidableEq, Repr

/-- What the board presents when it raises power-good (R401, R433, R435). -/
structure PowerUp where
  position : Nat
  enrollEnable : Bool
  vinMv : Nat
  v3p3Mv : Nat
  v1p8Mv : Nat
  deriving DecidableEq, Repr

/-- A management request, its datagrams joined in FRAG order (R422, Table 14-5). -/
structure Datagram where
  source : Nat
  version : Nat
  typ : Nat
  frag : Nat
  flags : Nat
  pstatus : Nat
  length : Nat
  seq : Nat
  target : Nat
  reserved : Nat
  body : List Byte
  mac : List Byte
  deriving DecidableEq, Repr

/-- One 10 µs sample of the rail monitors: watts by region, and of stacks, links, hub and losses (R426). -/
structure Watts where
  regions : List Nat
  hbm : Nat
  links : Nat
  hub : Nat
  losses : Nat
  deriving DecidableEq, Repr

/-- One 1 ms sample of temperatures: 16 sensors of each region die, 4 of the hub die, 12 stacks (R426). -/
structure Temps where
  regions : List (List Nat)
  hub : List Nat
  stackC : List Nat
  deriving DecidableEq, Repr

/-- One command per row of spec/opcode_table.json, in the table's order. -/
inductive Instr where
  /-- VADD: Register-form add of lanes a and b into the destination lane, for the types TY allows (R144). -/
  | vadd (cx : Cx) (f : Vr)
  /-- VSUB: Register-form subtract of b from a (R144). -/
  | vsub (cx : Cx) (f : Vr)
  /-- VMUL: Register-form multiply; for UINT32 only the low 32 bits are kept (R144). -/
  | vmul (cx : Cx) (f : Vr)
  /-- VFMA: Register-form fused multiply-add a × b + c, rounded or saturated once (R144). -/
  | vfma (cx : Cx) (f : Vr)
  /-- VFNMA: Register-form c − a × b, rounded or saturated once (R144). -/
  | vfnma (cx : Cx) (f : Vr)
  /-- VDIV: Register-form FP32 division with the defined results of Table 5-11 (R153). -/
  | vdiv (cx : Cx) (f : Vr)
  /-- VMIN: Register-form minimum; a numeric operand wins against NaN (R153). -/
  | vmin (cx : Cx) (f : Vr)
  /-- VMAX: Register-form maximum; a numeric operand wins against NaN (R153). -/
  | vmax (cx : Cx) (f : Vr)
  /-- VABS: Register-form absolute value (R144). -/
  | vabs (cx : Cx) (f : Vr)
  /-- VNEG: Register-form negation (R144). -/
  | vneg (cx : Cx) (f : Vr)
  /-- VSQRT: Register-form square root, rounded once (R153). -/
  | vsqrt (cx : Cx) (f : Vr)
  /-- VAND: Register-form bitwise and (R144). -/
  | vand (cx : Cx) (f : Vr)
  /-- VOR: Register-form bitwise or (R144). -/
  | vor (cx : Cx) (f : Vr)
  /-- VXOR: Register-form bitwise exclusive-or (R144). -/
  | vxor (cx : Cx) (f : Vr)
  /-- VNOT: Register-form bitwise not (R144). -/
  | vnot (cx : Cx) (f : Vr)
  /-- VSHL: Register-form shift left; a count of 32 or more gives 0 (R144). -/
  | vshl (cx : Cx) (f : Vr)
  /-- VSHR: Register-form logical shift right (R144). -/
  | vshr (cx : Cx) (f : Vr)
  /-- VSRA: Register-form arithmetic shift right (R144). -/
  | vsra (cx : Cx) (f : Vr)
  /-- VCMP: Register-form compare of a with b under the predicate in IMM, writing a mask register (R144). -/
  | vcmp (cx : Cx) (f : Vr)
  /-- VSEL: Register-form select of a or b by a mask register (R144). -/
  | vsel (cx : Cx) (f : Vr)
  /-- VCVT: Register-form conversion between FP32 and INT32 under R63 (R144). -/
  | vcvt (cx : Cx) (f : Vr)
  /-- VMOV: Register-form move of a into the destination (R144). -/
  | vmov (cx : Cx) (f : Vr)
  /-- VBCAST: Register-form broadcast of a scalar register into every lane (R144). -/
  | vbcast (cx : Cx) (f : Vr)
  /-- VIOTA: Register-form lane index plus a scalar, saturating (R144). -/
  | viota (cx : Cx) (f : Vr)
  /-- VPERM: Register-form permutation of lanes by an index vector (R144). -/
  | vperm (cx : Cx) (f : Vr)
  /-- VROT: Register-form rotation of lanes by an immediate (R144). -/
  | vrot (cx : Cx) (f : Vr)
  /-- VEXT: Register-form extraction of one lane into a scalar register (R144). -/
  | vext (cx : Cx) (f : Vr)
  /-- VINS: Register-form insertion of a scalar into one lane (R144). -/
  | vins (cx : Cx) (f : Vr)
  /-- VRSUM: Register-form tree sum of the active lanes into a scalar register (R155). -/
  | vrsum (cx : Cx) (f : Vr)
  /-- VRPROD: Register-form tree product of the active lanes (R155). -/
  | vrprod (cx : Cx) (f : Vr)
  /-- VRMAX: Register-form maximum over the active lanes (R155). -/
  | vrmax (cx : Cx) (f : Vr)
  /-- VRMIN: Register-form minimum over the active lanes (R155). -/
  | vrmin (cx : Cx) (f : Vr)
  /-- VRMEAN: Register-form mean of the active lanes, the sum divided once by the count (R158). -/
  | vrmean (cx : Cx) (f : Vr)
  /-- VRARGMAX: Register-form lane number of the maximum, ties to the lowest lane (R158). -/
  | vrargmax (cx : Cx) (f : Vr)
  /-- VRARGMIN: Register-form lane number of the minimum (R158). -/
  | vrargmin (cx : Cx) (f : Vr)
  /-- MAND: Mask and of two mask registers (R144). -/
  | mand (cx : Cx) (f : Vr)
  /-- MOR: Mask or of two mask registers (R144). -/
  | mor (cx : Cx) (f : Vr)
  /-- MXOR: Mask exclusive-or of two mask registers (R144). -/
  | mxor (cx : Cx) (f : Vr)
  /-- MNOT: Mask not of a mask register (R144). -/
  | mnot (cx : Cx) (f : Vr)
  /-- MPOP: Count of set bits of a mask register into a scalar register (R144). -/
  | mpop (cx : Cx) (f : Vr)
  /-- MFIRST: Lowest set bit of a mask register, or −1, into a scalar register (R144). -/
  | mfirst (cx : Cx) (f : Vr)
  /-- MLD: Load of 64 bytes into a mask register, poisoned words reading as zero bits (R153). -/
  | mld (cx : Cx) (f : Vr)
  /-- MST: Store of a mask register as 64 bytes (R144). -/
  | mst (cx : Cx) (f : Vr)
  /-- VLD: Register-form load of 512 elements, decoded from the named format or moved raw (R152). -/
  | vld (cx : Cx) (f : Vr)
  /-- VST: Register-form store of 512 lanes, encoded into the named format or moved raw (R152). -/
  | vst (cx : Cx) (f : Vr)
  /-- VRAND: Register-form random draws from the counter-based generator, raw or as uniform FP32 (R165). -/
  | vrand (cx : Cx) (f : Vr)
  /-- VGATH: Gather of lanes from indexed elements, with fill value and result mask for stray indices (R160). -/
  | vgath (cx : Cx) (f : Vr)
  /-- VSCAT: Scatter of lanes to indexed elements, one writer winning on duplicates (R162). -/
  | vscat (cx : Cx) (f : Vr)
  /-- VSCADD: Atomic scatter-add of lanes to indexed elements in unspecified order (R162). -/
  | vscadd (cx : Cx) (f : Vr)
  /-- TADD: Stream-form add over COUNT elements in memory (R145). -/
  | tadd (cx : Cx) (f : Vs)
  /-- TSUB: Stream-form subtract (R145). -/
  | tsub (cx : Cx) (f : Vs)
  /-- TMUL: Stream-form multiply (R145). -/
  | tmul (cx : Cx) (f : Vs)
  /-- TFMA: Stream-form fused multiply-add with C from s[SC] (R145). -/
  | tfma (cx : Cx) (f : Vs)
  /-- TFNMA: Stream-form c − a × b (R145). -/
  | tfnma (cx : Cx) (f : Vs)
  /-- TDIV: Stream-form division (R145). -/
  | tdiv (cx : Cx) (f : Vs)
  /-- TMIN: Stream-form minimum (R145). -/
  | tmin (cx : Cx) (f : Vs)
  /-- TMAX: Stream-form maximum (R145). -/
  | tmax (cx : Cx) (f : Vs)
  /-- TABS: Stream-form absolute value (R145). -/
  | tabs (cx : Cx) (f : Vs)
  /-- TNEG: Stream-form negation (R145). -/
  | tneg (cx : Cx) (f : Vs)
  /-- TSQRT: Stream-form square root (R145). -/
  | tsqrt (cx : Cx) (f : Vs)
  /-- TAND: Stream-form bitwise and with CT INT32 (R145). -/
  | tand (cx : Cx) (f : Vs)
  /-- TOR: Stream-form bitwise or (R145). -/
  | tor (cx : Cx) (f : Vs)
  /-- TXOR: Stream-form bitwise exclusive-or (R145). -/
  | txor (cx : Cx) (f : Vs)
  /-- TNOT: Stream-form bitwise not (R145). -/
  | tnot (cx : Cx) (f : Vs)
  /-- TSHL: Stream-form shift left (R145). -/
  | tshl (cx : Cx) (f : Vs)
  /-- TSHR: Stream-form logical shift right (R145). -/
  | tshr (cx : Cx) (f : Vs)
  /-- TSRA: Stream-form arithmetic shift right (R145). -/
  | tsra (cx : Cx) (f : Vs)
  /-- TCMP: Stream-form compare writing a bit stream, one bit per element (R145). -/
  | tcmp (cx : Cx) (f : Vs)
  /-- TSEL: Stream-form select of A or B by a bit stream (R145). -/
  | tsel (cx : Cx) (f : Vs)
  /-- TCVT: Stream-form copy of A into FMT_D through CT with one rounding (R145). -/
  | tcvt (cx : Cx) (f : Vs)
  /-- TCOPY: Stream-form bit-exact copy of A (R145). -/
  | tcopy (cx : Cx) (f : Vs)
  /-- TFILL: Stream-form fill of every element with the BB broadcast (R145). -/
  | tfill (cx : Cx) (f : Vs)
  /-- TIOTA: Stream-form element index plus a scalar, converted to FMT_D (R145). -/
  | tiota (cx : Cx) (f : Vs)
  /-- TRSUM: Stream row reduction: sum of each of R rows (R156). -/
  | trsum (cx : Cx) (f : Vs)
  /-- TRPROD: Stream row reduction: product of each row (R156). -/
  | trprod (cx : Cx) (f : Vs)
  /-- TRMAX: Stream row reduction: maximum of each row (R156). -/
  | trmax (cx : Cx) (f : Vs)
  /-- TRMIN: Stream row reduction: minimum of each row (R156). -/
  | trmin (cx : Cx) (f : Vs)
  /-- TRMEAN: Stream row reduction: mean of each row (R156). -/
  | trmean (cx : Cx) (f : Vs)
  /-- TRARGMAX: Stream row reduction: index of each row's maximum (R156). -/
  | trargmax (cx : Cx) (f : Vs)
  /-- TRARGMIN: Stream row reduction: index of each row's minimum (R156). -/
  | trargmin (cx : Cx) (f : Vs)
  /-- TRAND: Stream-form random draws, raw or as uniform values rounded toward zero (R166). -/
  | trand (cx : Cx) (f : Vs)
  /-- SADD: Scalar add with immediate, wrapping modulo 2^64 (R147). -/
  | sadd (cx : Cx) (f : Sc)
  /-- SSUB: Scalar subtract (R147). -/
  | ssub (cx : Cx) (f : Sc)
  /-- SMUL: Scalar multiply, low 64 bits (R147). -/
  | smul (cx : Cx) (f : Sc)
  /-- SAND: Scalar bitwise and (R147). -/
  | sand (cx : Cx) (f : Sc)
  /-- SOR: Scalar bitwise or (R147). -/
  | sor (cx : Cx) (f : Sc)
  /-- SXOR: Scalar bitwise exclusive-or (R147). -/
  | sxor (cx : Cx) (f : Sc)
  /-- SSHL: Scalar shift left (R147). -/
  | sshl (cx : Cx) (f : Sc)
  /-- SSHR: Scalar logical shift right (R147). -/
  | sshr (cx : Cx) (f : Sc)
  /-- SLI: Scalar load of a sign-extended immediate (R147). -/
  | sli (cx : Cx) (f : Sc)
  /-- SLHI: Scalar load of an immediate into the high 24 bits (R147). -/
  | slhi (cx : Cx) (f : Sc)
  /-- SRD: Read of a context special register into a scalar register (R167). -/
  | srd (cx : Cx) (f : Sc)
  /-- SWR: Write of a context special register where Table 5-9 allows, such as clearing EVT bits (R167). -/
  | swr (cx : Cx) (f : Sc)
  /-- SLD: Scalar load of 8 aligned bytes (R147). -/
  | sld (cx : Cx) (f : Sc)
  /-- SST: Scalar store of 8 aligned bytes (R147). -/
  | sst (cx : Cx) (f : Sc)
  /-- BR: Unconditional branch by an instruction offset (R147). -/
  | br (cx : Cx) (f : Sc)
  /-- BEQ: Branch when two scalar registers are equal (R147). -/
  | beq (cx : Cx) (f : Sc)
  /-- BNE: Branch when two scalar registers differ (R147). -/
  | bne (cx : Cx) (f : Sc)
  /-- BLT: Branch on signed less-than (R147). -/
  | blt (cx : Cx) (f : Sc)
  /-- BGE: Branch on signed greater-or-equal (R147). -/
  | bge (cx : Cx) (f : Sc)
  /-- LOOP: Decrement a scalar register and branch while it is not zero (R147). -/
  | loopCtx (cx : Cx) (f : Sc)
  /-- AISSUE: Issue of a product descriptor to the ordinary or deferred array queue, waiting while it is full (R277). -/
  | aissue (cx : Cx) (f : Sc)
  /-- AWAIT: Context waits until every product it issued has completed (R151). -/
  | await (cx : Cx) (f : Sc)
  /-- DISSUE: Issue of a cell DMA descriptor to the cell's DMA queue (R218). -/
  | dissue (cx : Cx) (f : Sc)
  /-- DWAIT: Context waits until every DMA descriptor it issued has completed (R151). -/
  | dwait (cx : Cx) (f : Sc)
  /-- FENCE: Context waits until its earlier stores are visible (R151). -/
  | fenceCtx (cx : Cx) (f : Sc)
  /-- BAR: Context waits until every context of the kernel on the cell reaches a barrier (R151). -/
  | bar (cx : Cx) (f : Sc)
  /-- END: The context ends; the kernel completes when its last context has ended (R151). -/
  | endCtx (cx : Cx) (f : Sc)
  /-- FEVAL: Special-function evaluation of the curve in a slot for each element (R181). -/
  | feval (cx : Cx) (f : Vs)
  /-- FEVALX: Special-function evaluation x × c(x), rounded once (R174). -/
  | fevalx (cx : Cx) (f : Vs)
  /-- FREFINE: Seed and slope streams for FP32 refinement of a shipped curve (R189). -/
  | frefine (cx : Cx) (f : Vs)
  /-- RSTAT: Row statistics: mean, variance, reciprocal standard deviation and count per row (R192). -/
  | rstat (cx : Cx) (f : Vs)
  /-- RNORM: Row normalisation using statistics records, γ and β (R195). -/
  | rnorm (cx : Cx) (f : Vs)
  /-- SMAX: One tile of the online soft maximum, updating per-row state records (R196). -/
  | smax (cx : Cx) (f : Vs)
  /-- RSCALE: Per-row correction, final division or correction step using soft-maximum state (R199). -/
  | rscale (cx : Cx) (f : Vs)
  /-- SCAN: Linear-recurrence scan forward or reverse with carry records (R200). -/
  | scan (cx : Cx) (f : Vs)
  /-- STREAM_CHUNK_ISSUE: the next chunk of the context's stream instruction issues (R149). -/
  | streamChunkIssue (cx : Cx)
  /-- CONTEXT_WAIT_END: a waiting context becomes ready (R134). -/
  | contextWaitEnd (cx : Cx)
  /-- KERNEL_START: an admitted launch starts its contexts (R392). -/
  | kernelStart (o : OpId)
  /-- CONTEXT_IMAGE_SAVE_DONE: the context images of a preempted kernel are saved (R168). -/
  | contextImageSaveDone (o : OpId)
  /-- CONTEXT_RESTORE_DONE: the context images of a resumed kernel are restored (R169). -/
  | contextRestoreDone (o : OpId)
  /-- KERNEL_ABORT_STOP: the contexts of an aborted kernel stop (R170). -/
  | kernelAbortStop (o : OpId)
  /-- PRODUCT_START: the head of the ordinary product queue is checked (R71). -/
  | productStart (cell : Nat)
  /-- PASS_START: a pass begins with a swap (R84). -/
  | passStart (cell : Nat)
  /-- ROW_RESULT_ACCEPT: a row's result reaches drain or accumulators (R84). -/
  | rowResultAccept (cell : Nat)
  /-- BLOCK_ROW_WRITE: the drain writes a completed write unit (R117). -/
  | blockRowWrite (cell : Nat)
  /-- DRAIN_ENCODE_SWEEP: the drain encodes a transposed tile (R114). -/
  | drainEncodeSweep (cell : Nat)
  /-- PRODUCT_COMPLETE: the product in the array completes (R122). -/
  | productComplete (cell : Nat)
  /-- ARRAY_PREEMPT_EFFECT: a preemption takes effect in the array (R90). -/
  | arrayPreemptEffect (cell : Nat)
  /-- TILE_CONTEXT_SAVE_DONE: the tile context has been saved (R91). -/
  | tileContextSaveDone (cell : Nat)
  /-- TILE_CONTEXT_RESTORE_DONE: the tile context has been restored (R92). -/
  | tileContextRestoreDone (cell : Nat)
  /-- ARRAY_ABORT_STOP: the array stops after an abort (R96). -/
  | arrayAbortStop (cell : Nat)
  /-- TABLE_LOAD_TAKE_EFFECT: held table loads take effect at a kernel boundary (R56). -/
  | tableLoadTakeEffect (cell : Nat)
  /-- CELL_READY: every live cell of the region has signalled ready (R94). -/
  | cellReady (region : Nat)
  /-- CLOCK_SWITCH_DONE: the clock switch of the region ends (R94). -/
  | clockSwitchDone (region : Nat)
  /-- HARDWARE_ERROR: a hardware error is classified (R30). -/
  | hardwareError (e : HwError)
  /-- DMA_DESCRIPTOR_START: the descriptor at the head of an engine's queue is checked and starts (R218). -/
  | dmaDescriptorStart (e : Engine)
  /-- DMA_DESCRIPTOR_COMPLETE: the oldest running descriptor completes (R228). -/
  | dmaDescriptorComplete (e : Engine)
  /-- DMA_ABORT_STOP: an engine stops an aborted operation's descriptors (R231). -/
  | dmaAbortStop (e : Engine)
  /-- SPARSE_JOB_PLAN: the sparse-work scheduler plans the block job (R245). -/
  | sparseJobPlan (block : Nat)
  /-- WORK_UNIT_DISPATCH: a cell takes the next dispatchable unit (R246). -/
  | workUnitDispatch (block cell : Nat)
  /-- WORK_UNIT_FINISH: the unit in a cell finishes (R247). -/
  | workUnitFinish (block cell : Nat)
  /-- BLOCK_JOB_PREEMPT_DONE: every started tile of a preempted job has drained (R250). -/
  | blockJobPreemptDone (block : Nat)
  /-- HBM_READ_RETURN: a stack read returns; `bad` is how many reads in a row fail the CRC (R261). -/
  | hbmReadReturn (stack addr bad : Nat)
  /-- HBM_WRITE_ACCEPT: a controller accepts a write (R258). -/
  | hbmWriteAccept (w : HbmWrite)
  /-- RESIDENCY_TAKE_EFFECT: a held residency configuration takes effect (R270). -/
  | residencyTakeEffect
  /-- TELEMETRY_RECORD_WRITE: a region writes its closed telemetry bank (R304). -/
  | telemetryRecordWrite (region : Nat)
  /-- UPDATE_HOLD_RELEASE: a held UPDATE launch starts (R360). -/
  | updateHoldRelease (o : OpId)
  /-- DEFERRED_PRODUCT_START: the head of the deferred queue starts (R278). -/
  | deferredProductStart (cell : Nat)
  /-- DEFERRED_YIELD: a deferred product yields (R278). -/
  | deferredYield (cell : Nat)
  /-- DEFERRED_RESUME: a yielded product resumes (R279). -/
  | deferredResume (cell : Nat)
  /-- DEADLINE_PROMOTION: a DEFERRED kernel is promoted at its deadline (R281). -/
  | deadlinePromotion (o : OpId)
  /-- FREEZE_TAKE_EFFECT: a held freeze-mask load takes effect (R294). -/
  | freezeTakeEffect
  /-- LINK_TRAINING_DONE: electrical training of a link ends with a measured round trip in link cycles (R313, R318). -/
  | linkTrainingDone (link : Nat) (ok : Bool) (rtt : Nat)
  /-- LINK_CONTROL_FLIT: a link-control flit arrives (R313). -/
  | linkControlFlit (link : Nat) (peer : PeerInfo)
  /-- LINK_SIGNAL_LOSS: a link loses signal or block lock in service (R313). -/
  | linkSignalLoss (link : Nat)
  /-- FLIT_RECEIVE: a data or Bridle flit of 256 bytes arrives (R317). -/
  | flitReceive (link : Nat) (flit : List Byte)
  /-- NULL_FLIT_RECEIVE: a null flit arrives (R317). -/
  | nullFlitReceive (link : Nat) (flit : List Byte)
  /-- RETRY_REQUEST: a retry request arrives (R317). -/
  | retryRequest (link : Nat) (flit : List Byte)
  /-- NULL_FLIT_TIMER: 32 flit slots have passed without other traffic (R317). -/
  | nullFlitTimer (link : Nat)
  /-- FLIT_TRANSMIT: the output of a link sends a flit (R322). -/
  | flitTransmit (link : Nat)
  /-- REMOTE_WRITE: a write message from a link is performed or refused (R29). -/
  | remoteWrite (region : Nat) (m : Msg)
  /-- READ_REQUEST: a read request message is served (R316). -/
  | readRequest (region : Nat) (m : Msg)
  /-- READ_RESPONSE: a read response message returns (R316). -/
  | readResponse (region : Nat) (m : Msg)
  /-- ATOMIC_ADD: an atomic add message is applied (R316). -/
  | atomicAdd (region : Nat) (m : Msg)
  /-- COLLECTIVE_CONTRIBUTION: a contribution reaches the shard owner (R342). -/
  | collectiveContribution (region : Nat) (c : Contribution)
  /-- COLLECTIVE_RESULT: a collective result is written to a member's destination (R340). -/
  | collectiveResult (region : Nat) (c : CollResult)
  /-- HEARTBEAT: a HEARTBEAT body arrives (R328). -/
  | heartbeat (region link : Nat) (b : List Byte)
  /-- LOST: a LOST body arrives (R347). -/
  | lost (region : Nat) (b : List Byte)
  /-- BRIDLE_QUIESCE: a remote QUIESCE body arrives (R399). -/
  | bridleQuiesce (region : Nat) (src : Src) (b : List Byte)
  /-- BRIDLE_ABORT: a remote ABORT body arrives (R399). -/
  | bridleAbort (region : Nat) (src : Src) (b : List Byte)
  /-- COMMIT_VOTE: a commit vote body arrives (R358). -/
  | commitVote (src : Src) (b : List Byte)
  /-- COMMIT_RESULT: a commit result body arrives (R359). -/
  | commitResult (b : List Byte)
  /-- PLC_FINAL: a finalisation notice arrives (R325). -/
  | plcFinal (region : Nat) (b : List Byte)
  /-- UNREACHABLE: an UNREACHABLE body arrives (R335). -/
  | unreachable (region : Nat) (b : List Byte)
  /-- BRIDLE_ECHO: an ECHO body arrives (R325). -/
  | bridleEcho (region : Nat) (src : Src) (b : List Byte)
  /-- BRIDLE_BAD: a Bridle message of reserved type or with bad zero bytes arrives (R324, R325). -/
  | bridleBad (link typ : Nat) (b : List Byte)
  /-- HEARTBEAT_TIMER: 10 µs of the region counter have passed (R328). -/
  | heartbeatTimer (region : Nat)
  /-- PEER_SILENCE_TIMEOUT: 40 µs of silence on a link (R328). -/
  | peerSilenceTimeout (link : Nat)
  /-- BRIDLE_DELIVERY_TIMEOUT: a Bridle message met no answer; `oob` says whether the management path delivered it (R329). -/
  | bridleDeliveryTimeout (o : OpId) (oob : Bool)
  /-- ETHERNET_FRAME_RECEIVE: a frame arrives on an Ethernet-mode link (R337). -/
  | ethernetFrameReceive (link : Nat) (frame : List Byte)
  /-- TUNNEL_RESEND_TIMER: 100 µs without an ACK on a tunnel (R338). -/
  | tunnelResendTimer (link tunnel : Nat)
  /-- TUNNEL_FENCE_TIMEOUT: 10 ms without an ACK on a tunnel (R338). -/
  | tunnelFenceTimeout (link tunnel : Nat)
  /-- COLLECTIVE_START: a held collective starts (R282). -/
  | collectiveStart (o : OpId)
  /-- SHARD_DEADLINE: a shard's deadline expires (R342). -/
  | shardDeadline (region cid shard : Nat)
  /-- MIRROR_COPY_COMPLETE: all mirror writes of a region are visible, or the copy failed (R354). -/
  | mirrorCopyComplete (region : Nat) (ok : Bool)
  /-- FLASH_IMAGE_COMPLETE: a flash image's header has been written, or a write error ended it (R355). -/
  | flashImageComplete (ok : Bool)
  /-- VOTE_TIMEOUT: VOTE_TIMEOUT passes with a child's vote missing (R358). -/
  | voteTimeout (child : Nat)
  /-- RESULT_TIMEOUT: RESULT_TIMEOUT passes; `answer` is the result body the root gave over the management port, if any (R361). -/
  | resultTimeout (answer : Option (List Byte))
  /-- PAIR_HANDSHAKE: the peer Hedgerow's power domain arrives, none where it is not VALID; `forced` is FORCED of the pair operation when the peer asks for a keeper (R365). -/
  | pairHandshake (peer : Nat) (domain : Option Nat) (forced : Bool)
  /-- MAILBOX_SLOT_WRITE: a write into the slot area (R371). -/
  | mailboxSlotWrite (w : SlotWrite)
  /-- MAILBOX_SLOT_TAKE: a 16-byte read of a slot (R373). -/
  | mailboxSlotTake (reader channel : Nat)
  /-- OPERATION_ADMIT: the next admissible operation of a region's queue is admitted (R381). -/
  | operationAdmit (region : Nat)
  /-- RECORD_COMMIT: an operation's record is committed and written (R387). -/
  | recordCommit (o : OpId)
  /-- RING_HEAD_POLL: Rolac re-reads a ring's HEAD word (R386). -/
  | ringHeadPoll (ring : Nat)
  /-- REMOTE_CONTROL_TIMEOUT: no answer to a remote control request in 100 µs; `oob` says whether the management path answered (R399). -/
  | remoteControlTimeout (o : OpId) (oob : Bool)
  /-- BINDING_LOCK: 1 is written to MBX_LOCK.LOCK (R370). -/
  | bindingLock (master : Nat)
  /-- SAMPLE_STROBE: 1 is written to HUB_CNT_SAMPLE.SAMPLE (R40). -/
  | sampleStrobe (master : Nat)
  /-- SAMPLE_LATCH_DONE: all five latches are written (R40). -/
  | sampleLatchDone
  /-- REGISTER_WRITE: a 64-bit register write (R10). -/
  | registerWrite (master addr value : Nat)
  /-- DMA_REGION: Rolac operation running a descriptor chain on the home region's DMA (R214). -/
  | dmaRegion (o : OpId)
  /-- DMA_BLOCK: Rolac operation running a chain on a block's DMA (R214). -/
  | dmaBlock (o : OpId)
  /-- DMA_GATHER: Rolac operation running a chain on a block's gather/scatter unit (R226). -/
  | dmaGather (o : OpId)
  /-- KERNEL_LAUNCH: Rolac operation launching a kernel on named contexts of home-region cells (R131). -/
  | kernelLaunch (o : OpId)
  /-- BLOCK_JOB: Rolac operation starting a sparse block job from its job descriptor (R244). -/
  | blockJob (o : OpId)
  /-- INV_ROOT: Rolac operation running the damped inverse-root routine (R299). -/
  | invRoot (o : OpId)
  /-- CODEBOOK_LOAD: Rolac operation loading a CB16 or CB256 codebook slot into named cells (R54). -/
  | codebookLoad (o : OpId)
  /-- FMT_LOAD: Rolac operation loading the format-descriptor table into named cells (R58). -/
  | fmtLoad (o : OpId)
  /-- CURVE_LOAD: Rolac operation loading a curve image or shipped curve into a slot, with the monotonicity check (R180). -/
  | curveLoad (o : OpId)
  /-- RESCALE_PLACE: Rolac operation placing a rescale table image at an address (R107). -/
  | rescalePlace (o : OpId)
  /-- SCHEDULE_LOAD: Rolac operation loading a Girth schedule for the next step opening (R290). -/
  | scheduleLoad (o : OpId)
  /-- FREEZE_LOAD: Rolac operation loading freeze-mask bits for a run of pages (R294). -/
  | freezeLoad (o : OpId)
  /-- ALL_REDUCE: Rolac collective reducing all members' sources into every destination (R340). -/
  | allReduce (o : OpId)
  /-- REDUCE_SCATTER: Rolac collective delivering each member its reduced shard (R340). -/
  | reduceScatter (o : OpId)
  /-- ALL_GATHER: Rolac collective gathering every member's source into every destination (R340). -/
  | allGather (o : OpId)
  /-- ALL_TO_ALL: Rolac collective exchanging blocks between all members (R340). -/
  | allToAll (o : OpId)
  /-- BROADCAST: Rolac collective copying the root's source to every member (R340). -/
  | broadcast (o : OpId)
  /-- SNAP_CONFIG: Rolac operation loading the slot table, commit group, keeper buffers and cadences (R350). -/
  | snapConfig (o : OpId)
  /-- SNAP_COMMIT: Rolac operation casting the device's round-0 vote for the step (R358). -/
  | snapCommit (o : OpId)
  /-- SNAP_PAIR: Rolac operation pairing with a keeper, checking power domains (R365). -/
  | snapPair (o : OpId)
  /-- SNAP_RESTORE: Rolac operation restoring slot state from a mirror, flash image or HBM image (R363). -/
  | snapRestore (o : OpId)
  /-- SNAP_RECOVER: Rolac operation selecting the slot that holds step D and taking a new commit group (R363). -/
  | snapRecover (o : OpId)
  /-- SNAP_RELEASE: Rolac operation releasing the upload pin of a store-step image (R356). -/
  | snapRelease (o : OpId)
  /-- PRIV_COPY: Rolac operation running a DMA chain that may bypass the freeze mask (R297). -/
  | privCopy (o : OpId)
  /-- COUNTER_COPY: Rolac operation copying listed registers to memory (R391). -/
  | counterCopy (o : OpId)
  /-- CYCLE_SAMPLE: Rolac operation sampling all counters and writing the latches and SEQ (R40). -/
  | cycleSample (o : OpId)
  /-- ABORT: Rolac control operation aborting a target or a channel's operations (R393). -/
  | abort (o : OpId)
  /-- PREEMPT: Rolac control operation preempting a kernel or block job (R395). -/
  | preempt (o : OpId)
  /-- RESUME: Rolac control operation re-admitting a preempted operation, possibly on new cells (R397). -/
  | resume (o : OpId)
  /-- QUIESCE: Rolac control operation stopping admission of new work in DRAIN, ABORT_ALL or PREEMPT_ALL mode (R398). -/
  | quiesce (o : OpId)
  /-- UNQUIESCE: Rolac control operation ending quiescence (R398). -/
  | unquiesce (o : OpId)
  /-- ECHO: Rolac control operation sending an ECHO to a remote device and timing the answer (R399). -/
  | echo (o : OpId)
  /-- RESIDENCY_SET: Rolac operation setting residency pool size and layer count (R270). -/
  | residencySet (o : OpId)
  /-- TELEMETRY_SET: Rolac operation setting the telemetry record base and ring depth per region (R304). -/
  | telemetrySet (o : OpId)
  /-- PEER_LOAD: Rolac operation loading the peer management-address table (R329). -/
  | peerLoad (o : OpId)
  /-- ROUTE_LOAD: Rolac operation loading route-table entries into named regions (R334). -/
  | routeLoad (o : OpId)
  /-- ETH_CONFIG: Rolac operation configuring an Ethernet-mode link's addresses, tunnels and rings (R337). -/
  | ethConfig (o : OpId)
  /-- RING_SETUP: Rolac operation setting up a completion ring (R385). -/
  | ringSetup (o : OpId)
  /-- IDENTITY_READ: Rolac operation returning fabric identity, power domain and fences in its record (R391). -/
  | identityRead (o : OpId)
  /-- POWER_GOOD_RISE: power-good rises with the straps and rails given (R401, R435). -/
  | powerGoodRise (p : PowerUp)
  /-- IMAGE_VERIFY: Cantle finishes reading and checking an image (R408). -/
  | imageVerify (bank type : Nat)
  /-- BOOT_FIRMWARE_START: stage 5 starts (R402). -/
  | bootFirmwareStart
  /-- STACK_TRAINING_DONE: a stack finishes training or fails (R255). -/
  | stackTrainingDone (stack : Nat) (ok : Bool)
  /-- HBM_INIT_DONE: a controller has zeroed its stack (R263). -/
  | hbmInitDone (stack : Nat)
  /-- BINDING_TABLE_SETUP: stage 9 starts (R402). -/
  | bindingTableSetup
  /-- BOOT_STAGE_TIMEOUT: a stage runs past twice its time (R404). -/
  | bootStageTimeout
  /-- IDENTITY_CHUNK_RESERVE: a chunk has been reserved and its bottom tree signed (R414). -/
  | identityChunkReserve
  /-- I2C_BOARD_REPORT: the board controller writes its report (R405). -/
  | i2cBoardReport (domain : Option Nat) (serial : Option (List Byte))
  /-- STATUS: management request STATUS (R425). -/
  | status (d : Datagram)
  /-- TELEMETRY: management request TELEMETRY (R425). -/
  | telemetry (d : Datagram)
  /-- ATTEST: management request ATTEST (R418). -/
  | attest (d : Datagram)
  /-- CERT: management request CERT (R425). -/
  | cert (d : Datagram)
  /-- RESET: management request RESET (R422). -/
  | mgtReset (d : Datagram)
  /-- FENCE_CLEAR: management request FENCE_CLEAR (R31). -/
  | fenceClear (d : Datagram)
  /-- POWER_CAP: management request POWER_CAP (R427). -/
  | powerCap (d : Datagram)
  /-- UPDATE_BEGIN: management request UPDATE_BEGIN (R420). -/
  | updateBegin (d : Datagram)
  /-- UPDATE_DATA: management request UPDATE_DATA (R420). -/
  | updateData (d : Datagram)
  /-- UPDATE_COMMIT: management request UPDATE_COMMIT (R420). -/
  | updateCommit (d : Datagram)
  /-- UPDATE_VERIFY_DONE: verification of the inactive bank finishes (R420). -/
  | updateVerifyDone
  /-- ENROLL: management request ENROLL (R417); `enable` is the level of ENROLL_ENABLE when it arrives (R433). -/
  | enroll (d : Datagram) (enable : Bool)
  /-- RELEASE: management request RELEASE (R417). -/
  | release (d : Datagram)
  /-- BRIDLE_FORWARD: management request BRIDLE_FORWARD (R424). -/
  | bridleForward (d : Datagram)
  /-- POWER_SAMPLE: the rail monitors are sampled (R427). -/
  | powerSample (w : Watts)
  /-- TEMPERATURE_SAMPLE: junction sensors and stack readouts are sampled (R427). -/
  | temperatureSample (t : Temps)
  /-- ARBITER_TICK: the 10 ms tick (R427). -/
  | arbiterTick
  /-- POWER_BRAKE_ASSERT: POWER_BRAKE is asserted (R428). -/
  | powerBrakeAssert
  /-- POWER_BRAKE_RELEASE: POWER_BRAKE is released (R428). -/
  | powerBrakeRelease
  /-- POWER_GOOD_FALL: power-good falls (R434). -/
  | powerGoodFall
  /-- RAIL_UNDERVOLTAGE: a rail (0 VIN_MAIN, 1 V3P3_AUX, 2 V1P8_IO) has held the given level for more than 10 µs (R435). -/
  | railUndervoltage (rail millivolts : Nat)
  /-- SYSREF_LOSS: SYSREF is lost (R442). -/
  | sysrefLoss
  /-- LINKREF_LOSS: a region's LINKREF is lost (R442). -/
  | linkrefLoss (region : Nat)
  /-- MANAGEMENT_PORT_BLOCK_LOCK: the management port gains or loses block lock (R430). -/
  | managementPortBlockLock (up : Bool)
  /-- MALFORMED_MANAGEMENT_DATAGRAM: a malformed datagram arrives (R423). -/
  | malformedManagementDatagram (d : Datagram)
  /-- COMMAND_PROCESSOR_WATCHDOG: a command-processor watchdog expires (R390). -/
  | commandProcessorWatchdog (core : Nat)
  deriving DecidableEq, Repr

end Sys2Proof
end

