-- ==== Sys2Proof/Decode.lean ====
section
/-! DEFINITION. Words. Every row of spec/opcode_table.json gives no bits, so no word spells a command of the block
(log entry 4). The 64-bit words of the vector engine's own instruction set are those of Tables 5-3 and 5-5 to 5-7
and 6-1 (R142): the split of a word by layout, the instruction that its opcode selects, and its issue port. -/

namespace Sys2Proof

/-- The command that a word spells by the table's bits: none, since no row gives any. -/
def decodeTableWord (_nbits _w : Nat) : Option Instr := none

/-! ### The layouts of Table 5-3 -/

/-- The opcode, bits [63:56]. -/
def opcodeOf (w : Nat) : Nat := natBits w 63 56

/-- Layout VR. -/
def vrOfWord (w : Nat) : Vr :=
  { b55 := natBit w 55, vd := BitVec.ofNat 5 (natBits w 54 50), va := BitVec.ofNat 5 (natBits w 49 45)
    vb := BitVec.ofNat 5 (natBits w 44 40), vc := BitVec.ofNat 5 (natBits w 39 35), msk := BitVec.ofNat 3 (natBits w 34 32)
    men := natBit w 31, mz := natBit w 30, ty := BitVec.ofNat 2 (natBits w 29 28), bs := natBit w 27
    imm := BitVec.ofNat 17 (natBits w 26 10), tag := BitVec.ofNat 10 (natBits w 9 0) }

/-- Layout VS. -/
def vsOfWord (w : Nat) : Vs :=
  { sd := BitVec.ofNat 4 (natBits w 55 52), sa := BitVec.ofNat 4 (natBits w 51 48), sb := BitVec.ofNat 4 (natBits w 47 44)
    sc := BitVec.ofNat 4 (natBits w 43 40), fmtD := BitVec.ofNat 4 (natBits w 39 36)
    fmtA := BitVec.ofNat 4 (natBits w 35 32), fmtB := BitVec.ofNat 4 (natBits w 31 28), ct := BitVec.ofNat 2 (natBits w 27 26)
    cnt := BitVec.ofNat 13 (natBits w 25 13), bb := natBit w 12, ms := natBit w 11, blk := natBit w 10
    tag := BitVec.ofNat 10 (natBits w 9 0) }

/-- Layout SC. -/
def scOfWord (w : Nat) : Sc :=
  { sd := BitVec.ofNat 4 (natBits w 55 52), sa := BitVec.ofNat 4 (natBits w 51 48), sb := BitVec.ofNat 4 (natBits w 47 44)
    b43 := BitVec.ofNat 4 (natBits w 43 40), imm := BitVec.ofNat 40 (natBits w 39 0) }

/-! ### Opcodes (Tables 5-5, 5-6, 5-7 and 6-1) -/

/-- The register-form instruction of an opcode. -/
def vrInstr (cx : Cx) (op : Nat) (f : Vr) : Option Instr :=
  match op with
  | 0x00 => some (.vadd cx f)
  | 0x01 => some (.vsub cx f)
  | 0x02 => some (.vmul cx f)
  | 0x03 => some (.vfma cx f)
  | 0x04 => some (.vfnma cx f)
  | 0x05 => some (.vdiv cx f)
  | 0x06 => some (.vmin cx f)
  | 0x07 => some (.vmax cx f)
  | 0x08 => some (.vabs cx f)
  | 0x09 => some (.vneg cx f)
  | 0x0A => some (.vsqrt cx f)
  | 0x0C => some (.vand cx f)
  | 0x0D => some (.vor cx f)
  | 0x0E => some (.vxor cx f)
  | 0x0F => some (.vnot cx f)
  | 0x10 => some (.vshl cx f)
  | 0x11 => some (.vshr cx f)
  | 0x12 => some (.vsra cx f)
  | 0x14 => some (.vcmp cx f)
  | 0x15 => some (.vsel cx f)
  | 0x16 => some (.vcvt cx f)
  | 0x18 => some (.vmov cx f)
  | 0x19 => some (.vbcast cx f)
  | 0x1A => some (.viota cx f)
  | 0x1B => some (.vperm cx f)
  | 0x1C => some (.vrot cx f)
  | 0x1D => some (.vext cx f)
  | 0x1E => some (.vins cx f)
  | 0x20 => some (.vrsum cx f)
  | 0x21 => some (.vrprod cx f)
  | 0x22 => some (.vrmax cx f)
  | 0x23 => some (.vrmin cx f)
  | 0x24 => some (.vrmean cx f)
  | 0x25 => some (.vrargmax cx f)
  | 0x26 => some (.vrargmin cx f)
  | 0x28 => some (.mand cx f)
  | 0x29 => some (.mor cx f)
  | 0x2A => some (.mxor cx f)
  | 0x2B => some (.mnot cx f)
  | 0x2C => some (.mpop cx f)
  | 0x2D => some (.mfirst cx f)
  | 0x2E => some (.mld cx f)
  | 0x2F => some (.mst cx f)
  | 0x30 => some (.vld cx f)
  | 0x31 => some (.vst cx f)
  | 0x34 => some (.vrand cx f)
  | 0x38 => some (.vgath cx f)
  | 0x39 => some (.vscat cx f)
  | 0x3A => some (.vscadd cx f)
  | _ => none

/-- The stream-form or special-function instruction of an opcode. -/
def vsInstr (cx : Cx) (op : Nat) (f : Vs) : Option Instr :=
  match op with
  | 0x40 => some (.tadd cx f)
  | 0x41 => some (.tsub cx f)
  | 0x42 => some (.tmul cx f)
  | 0x43 => some (.tfma cx f)
  | 0x44 => some (.tfnma cx f)
  | 0x45 => some (.tdiv cx f)
  | 0x46 => some (.tmin cx f)
  | 0x47 => some (.tmax cx f)
  | 0x48 => some (.tabs cx f)
  | 0x49 => some (.tneg cx f)
  | 0x4A => some (.tsqrt cx f)
  | 0x4C => some (.tand cx f)
  | 0x4D => some (.tor cx f)
  | 0x4E => some (.txor cx f)
  | 0x4F => some (.tnot cx f)
  | 0x50 => some (.tshl cx f)
  | 0x51 => some (.tshr cx f)
  | 0x52 => some (.tsra cx f)
  | 0x54 => some (.tcmp cx f)
  | 0x55 => some (.tsel cx f)
  | 0x56 => some (.tcvt cx f)
  | 0x58 => some (.tcopy cx f)
  | 0x59 => some (.tfill cx f)
  | 0x5A => some (.tiota cx f)
  | 0x60 => some (.trsum cx f)
  | 0x61 => some (.trprod cx f)
  | 0x62 => some (.trmax cx f)
  | 0x63 => some (.trmin cx f)
  | 0x64 => some (.trmean cx f)
  | 0x65 => some (.trargmax cx f)
  | 0x66 => some (.trargmin cx f)
  | 0x74 => some (.trand cx f)
  | 0xE0 => some (.feval cx f)
  | 0xE1 => some (.fevalx cx f)
  | 0xE2 => some (.frefine cx f)
  | 0xE4 => some (.rstat cx f)
  | 0xE5 => some (.rnorm cx f)
  | 0xE8 => some (.smax cx f)
  | 0xEA => some (.rscale cx f)
  | 0xEC => some (.scan cx f)
  | _ => none

/-- The scalar or control instruction of an opcode. -/
def scInstr (cx : Cx) (op : Nat) (f : Sc) : Option Instr :=
  match op with
  | 0x80 => some (.sadd cx f)
  | 0x81 => some (.ssub cx f)
  | 0x82 => some (.smul cx f)
  | 0x83 => some (.sand cx f)
  | 0x84 => some (.sor cx f)
  | 0x85 => some (.sxor cx f)
  | 0x86 => some (.sshl cx f)
  | 0x87 => some (.sshr cx f)
  | 0x88 => some (.sli cx f)
  | 0x89 => some (.slhi cx f)
  | 0x8A => some (.srd cx f)
  | 0x8B => some (.swr cx f)
  | 0x8C => some (.sld cx f)
  | 0x8D => some (.sst cx f)
  | 0x90 => some (.br cx f)
  | 0x91 => some (.beq cx f)
  | 0x92 => some (.bne cx f)
  | 0x93 => some (.blt cx f)
  | 0x94 => some (.bge cx f)
  | 0x95 => some (.loopCtx cx f)
  | 0x98 => some (.aissue cx f)
  | 0x99 => some (.await cx f)
  | 0x9A => some (.dissue cx f)
  | 0x9B => some (.dwait cx f)
  | 0x9C => some (.fenceCtx cx f)
  | 0x9D => some (.bar cx f)
  | 0x9F => some (.endCtx cx f)
  | _ => none

/-- The instruction that a word spells for context `cx`; none where its opcode is reserved (R142). -/
def instrOfWord (cx : Cx) (w : Nat) : Option Instr :=
  let op := opcodeOf w
  if op < 0x40 then vrInstr cx op (vrOfWord w)
  else if op < 0x80 ∨ 0xE0 ≤ op ∧ op < 0xF0 then vsInstr cx op (vsOfWord w)
  else if op < 0xC0 then scInstr cx op (scOfWord w)
  else none

/-- Is the word's opcode reserved (R142, R174)? -/
def reservedWord (w : Nat) : Bool := (instrOfWord ⟨0, 0⟩ w).isNone

/-! ### Issue ports (Tables 5-1, 5-8 and 6-1) -/

/-- The four ports through which the arbiter of a cell issues. -/
inductive Port where
  | v
  | f
  | m
  | c
  deriving DecidableEq, Repr

/-- The port that an opcode needs. -/
def portOf (op : Nat) : Port :=
  if [0x2E, 0x2F, 0x30, 0x31, 0x38, 0x39, 0x3A].contains op then .m
  else if 0x28 ≤ op ∧ op ≤ 0x2D then .c
  else if op < 0x80 then .v
  else if op < 0xE0 then .c
  else if [0xE5, 0xEA, 0xEC].contains op then .v
  else .f

end Sys2Proof
end

