-- ==== Sys2Proof/Config.lean ====
section
/-! DEFINITION. What the spec leaves open: free values, opaque to every proof. Each is applied to the
state's plain counter of drawn values, or to the operands that it depends on. -/

namespace Sys2Proof

/-- A fresh free value of any use, by the number of values drawn before it (log entry 5). -/
opaque Config.free : Nat → Nat

/-- The FP32 bits of a table or refine value whose rounding the fixed-point error leaves undecided, by
function and argument (log entry 20). -/
opaque Config.tableTie : Nat → Nat → Nat

/-- Which FP32 value within 1 ulp of the exact one the refine evaluator gives RSTAT, by the FP32 bits of its
operand (R192, log entry 21). -/
opaque Config.rstdPick : Nat → Nat

/-- In which cycles a counter of cycles advances that this model does not time: the lowest bit, by register address
and hub counter (log entry 40). -/
opaque Config.timing : Nat → Nat → Nat

/-- Is a port of a cell free of ready normal-priority contexts in a cycle in which their results or Table 5-8's
occupancy may hold them, by cell, context and hub counter (log entry 72)? -/
opaque Config.portFree : Nat → Nat → Nat → Bool

/-- SHA-256 hash of the Vikaene public key in a fuse slot (R407). -/
opaque Config.vikaeneHash : Nat → List Byte

/-- The device's identity public key (R414), the certificate chain (R425), and the signature that a leaf of
the identity tree gives over a message (R415). -/
opaque Config.identKey : List Byte
opaque Config.certBytes : List Byte
opaque Config.identSign : Nat → List Byte → List Byte

end Sys2Proof
end

