-- ==== Sys2Proof/Machine/Num.lean ====
section
/-! DEFINITION. Number formats and exact arithmetic (chapter "Number Formats, Scales and Codebooks").
A decoded value is exact: a signed dyadic number, an infinity or NaN; every conversion decodes exactly
and rounds once (R63). -/

namespace Sys2Proof.Machine

/-- An exact value: NaN, ±∞, or (−1)^neg × m × 2^e; zero keeps its sign (R44, R63). -/
inductive Val where
  | nan
  | inf (neg : Bool)
  | fin (neg : Bool) (m : Nat) (e : Int)
  deriving DecidableEq, Repr

def Val.zero : Val := .fin false 0 0
def Val.one : Val := .fin false 1 0

/-- Format codes (Table 2-1); 11 stands for INT32 (Table 10-9), 12 for UINT32 registers (R136). -/
def fFP32 : Nat := 0
def fBF16 : Nat := 1
def fFP16 : Nat := 2
def fE4M3 : Nat := 3
def fE5M2 : Nat := 4
def fE3M2 : Nat := 5
def fE2M1 : Nat := 6
def fINT8 : Nat := 7
def fINT4 : Nat := 8
def fCB16 : Nat := 9
def fCB256 : Nat := 10
def fINT32 : Nat := 11

/-- Bits per element (Table 2-1). -/
def fmtBits (f : Nat) : Nat :=
  match f with
  | 0 => 32 | 1 => 16 | 2 => 16 | 3 => 8 | 4 => 8 | 5 => 6 | 6 => 4 | 7 => 8 | 8 => 4 | 9 => 4 | 10 => 8
  | _ => 32

/-- Formats that always carry scale groups (R48). -/
def fmtScaled (f : Nat) : Bool := f == 3 || f == 4 || f == 5 || f == 6 || f == 9
def fmtInt (f : Nat) : Bool := f == 7 || f == 8 || f == 11
def fmtCodebook (f : Nat) : Bool := f == 9 || f == 10
def fmtFloat (f : Nat) : Bool := f ≤ 6
/-- Formats whose elements are whole bytes. -/
def fmtByteSized (f : Nat) : Bool := fmtBits f % 8 == 0

/-- A floating-point layout (Table 2-2): width, significand bits with the hidden one, the exponent of
the smallest subnormal, the code of the largest finite value, whether the top exponent holds infinities
and NaN. -/
structure FpLayout where
  width : Nat
  p : Nat
  qmin : Int
  maxCode : Nat
  ieee : Bool
  deriving DecidableEq, Repr

/-- Table 2-2. -/
def fpLayout (f : Nat) : FpLayout :=
  match f with
  | 0 => ⟨32, 24, -149, 0x7F7FFFFF, true⟩
  | 1 => ⟨16, 8, -133, 0x7F7F, true⟩
  | 2 => ⟨16, 11, -24, 0x7BFF, true⟩
  | 3 => ⟨8, 4, -9, 0x7E, false⟩
  | 4 => ⟨8, 3, -16, 0x7B, true⟩
  | 5 => ⟨6, 3, -4, 0x1F, false⟩
  | 6 => ⟨4, 2, -1, 0x7, false⟩
  | 13 => ⟨64, 53, -1074, 0x7FEFFFFFFFFFFFFF, true⟩   -- FP64, inside Girth only (R291)
  | _ => ⟨32, 24, -149, 0x7F7FFFFF, true⟩

/-- The exact value of a magnitude code that is neither infinity nor NaN (R44). -/
def magVal (L : FpLayout) (neg : Bool) (c : Nat) : Val :=
  let m := L.p - 1
  let e := c / 2 ^ m
  let f := c % 2 ^ m
  if e = 0 then .fin neg f L.qmin else .fin neg (2 ^ m + f) (L.qmin + (e : Int) - 1)

/-- Decode a floating-point code (R43, R44, R45). -/
def decodeFp (f c : Nat) : Val :=
  let L := fpLayout f
  let mag := c % 2 ^ (L.width - 1)
  let neg := natBit c (L.width - 1)
  if L.ieee && decide (L.maxCode < mag) then
    if mag = L.maxCode + 1 then .inf neg else .nan
  else if f = 3 ∧ mag = 0x7F then .nan
  else magVal L neg mag

/-- Decode a two's-complement code of `w` bits. -/
def decodeInt (w c : Nat) : Val :=
  let v := sext w c
  .fin (decide (v < 0)) v.natAbs 0

/-- Rounding of a magnitude: to nearest even (R60), toward zero (R166), away from zero, or stochastic
with 16 random bits (R61). -/
inductive Rnd where
  | ne
  | tz
  | up
  | st (r : Nat)
  deriving DecidableEq, Repr

/-- Round the non-negative rational `n ÷ d` to an integer. -/
def roundNat (r : Rnd) (n d : Nat) : Nat :=
  let k := n / d
  let m := n % d
  match r with
  | .ne => if 2 * m > d ∨ (2 * m = d ∧ k % 2 = 1) then k + 1 else k
  | .tz => k
  | .up => if m = 0 then k else k + 1
  | .st b => if 65536 ≤ 65536 * m / d + b then k + 1 else k

/-- `⌊log₂(n ÷ d)⌋` for `n > 0`. -/
def flog2 (n d : Nat) : Int :=
  let l : Int := (Nat.log2 n : Int) - (Nat.log2 d : Int)
  let ge : Bool := if 0 ≤ l then decide (d * 2 ^ l.toNat ≤ n) else decide (d ≤ n * 2 ^ (-l).toNat)
  if ge then l else l - 1

/-- The magnitude `n ÷ d × 2^e` rounded to the layout's precision with the exponent range left open
above: the magnitude code, which exceeds `maxCode` when the result is beyond the largest finite. -/
def roundMag (L : FpLayout) (r : Rnd) (n d : Nat) (e : Int) : Nat :=
  if n = 0 then 0 else
    let q : Int := max (flog2 n d + e - ((L.p : Int) - 1)) L.qmin
    let s : Int := e - q
    let k := if 0 ≤ s then roundNat r (n * 2 ^ s.toNat) d else roundNat r n (d * 2 ^ (-s).toNat)
    (q - L.qmin).toNat * 2 ^ (L.p - 1) + k

/-- Compare `n1 ÷ d1 × 2^e1` with `n2 × 2^e2`. -/
def magLt (n1 d1 : Nat) (e1 : Int) (n2 : Nat) (e2 : Int) : Bool :=
  let m := min e1 e2
  decide (n1 * 2 ^ (e1 - m).toNat < n2 * 2 ^ (e2 - m).toNat * d1)

/-- The magnitude of the largest finite value of a layout, as (m, e). -/
def maxFin (L : FpLayout) : Nat × Int :=
  match magVal L false L.maxCode with
  | .fin _ m e => (m, e)
  | _ => (0, 0)

/-- Is the magnitude `n ÷ d × 2^e` above the largest finite value? -/
def aboveMax (L : FpLayout) (n d : Nat) (e : Int) : Bool :=
  let (m, em) := maxFin L
  let lo := min e em
  decide (m * 2 ^ (em - lo).toNat * d < n * 2 ^ (e - lo).toNat)

/-- Event classes (Table 2-6). -/
def evOver : Nat := 0
def evSat : Nat := 1
def evFlush : Nat := 2
def evVan : Nat := 3
def evInv : Nat := 4
def evEmpty : Nat := 5
def evOob : Nat := 6
def evPoison : Nat := 7
def evBound : Nat := 8
def evVar : Nat := 9

/-- A code with its sign bit. -/
def withSign (L : FpLayout) (neg : Bool) (mag : Nat) : Nat :=
  if neg then 2 ^ (L.width - 1) + mag else mag

/-- The canonical NaN of each format that has one (R45). -/
def canonNan (f : Nat) : Nat :=
  match f with
  | 0 => 0x7FC00000 | 1 => 0x7FC0 | 2 => 0x7E00 | 3 => 0x7F | 4 => 0x7E | 13 => 0x7FF8000000000000
  | _ => 0

/-- Has the floating-point format a NaN code? -/
def hasNan (f : Nat) : Bool := f ≤ 4

/-- Encode the finite magnitude `n ÷ d × 2^e` with sign `neg` (Table 2-5), with its event. -/
def encodeMag (f : Nat) (r : Rnd) (neg : Bool) (n d : Nat) (e : Int) : Nat × List Nat :=
  let L := fpLayout f
  if n = 0 then (withSign L neg 0, [])
  else if aboveMax L n d e then
    if f ≤ 2 ∨ f = 13 then
      if L.maxCode < roundMag L .ne n d e then (withSign L neg (L.maxCode + 1), [evOver])
      else (withSign L neg L.maxCode, [])
    else (withSign L neg L.maxCode, [evSat])
  else
    let c := roundMag L r n d e
    (withSign L neg c, if c = 0 then [evVan] else [])

/-- Encode an exact value into a floating-point format under Table 2-5. A NaN into a format without a
NaN code gives code 0 and an invalid event; the group's scale byte is then 0xFF (R51). -/
def encodeFp (f : Nat) (r : Rnd) : Val → Nat × List Nat
  | .nan => if hasNan f || f == 13 then (canonNan f, []) else (0, [evInv])
  | .inf neg =>
    let L := fpLayout f
    if L.ieee then (withSign L neg (L.maxCode + 1), []) else (withSign L neg L.maxCode, [evSat])
  | .fin neg m e => encodeMag f r neg m 1 e

/-- Round a finite magnitude to a signed integer of `w` bits (R60, Table 2-5). -/
def encodeInt (w : Nat) (r : Rnd) : Val → Nat × List Nat
  | .nan => (0, [evInv])
  | .inf neg => (if neg then 2 ^ (w - 1) else 2 ^ (w - 1) - 1, [evSat])
  | .fin neg m e =>
    let lim := if neg then 2 ^ (w - 1) else 2 ^ (w - 1) - 1
    if m = 0 then (0, [])
    else if magLt lim 1 0 m e then (lim, [evSat])
    else
      let k := if 0 ≤ e then m * 2 ^ e.toNat else roundNat r m (2 ^ (-e).toNat)
      (if neg then (2 ^ w - k) % 2 ^ w else k, if k = 0 then [evVan] else [])

/-- The sign of a value that is not NaN. -/
def Val.neg? : Val → Bool
  | .nan => false
  | .inf n => n
  | .fin n _ _ => n

def Val.isNan : Val → Bool
  | .nan => true
  | _ => false

def Val.isZero : Val → Bool
  | .fin _ m _ => m == 0
  | _ => false

def Val.isFinite : Val → Bool
  | .fin _ _ _ => true
  | _ => false

def Val.isInf : Val → Bool
  | .inf _ => true
  | _ => false

def Val.negate : Val → Val
  | .nan => .nan
  | .inf n => .inf (!n)
  | .fin n m e => .fin (!n) m e

def Val.abs : Val → Val
  | .nan => .nan
  | .inf _ => .inf false
  | .fin _ m e => .fin false m e

/-- Exact scaling by a power of two. -/
def Val.scale (k : Int) : Val → Val
  | .fin n m e => .fin n m (e + k)
  | v => v

/-- The signed mantissa of a finite value at exponent `q ≤ e`. -/
def sMant (neg : Bool) (m : Nat) (e q : Int) : Int :=
  let a : Int := ((m * 2 ^ (e - q).toNat : Nat) : Int)
  if neg then -a else a

/-- Order of two values that are not NaN: −1, 0 or 1; +0 and −0 compare equal. -/
def Val.cmp (a b : Val) : Int :=
  match a, b with
  | .inf n1, .inf n2 => if n1 == n2 then 0 else if n1 then -1 else 1
  | .inf n, _ => if n then -1 else 1
  | _, .inf n => if n then 1 else -1
  | .fin n1 m1 e1, .fin n2 m2 e2 =>
    let q := min e1 e2
    let x := sMant n1 m1 e1 q
    let y := sMant n2 m2 e2 q
    if x < y then -1 else if x = y then 0 else 1
  | _, _ => 0

def Val.lt (a b : Val) : Bool := !a.isNan && !b.isNan && decide (a.cmp b < 0)
def Val.le (a b : Val) : Bool := !a.isNan && !b.isNan && decide (a.cmp b ≤ 0)
def Val.eqv (a b : Val) : Bool := !a.isNan && !b.isNan && decide (a.cmp b = 0)

/-- Exact sum, with the zero rule of IEEE 754 to nearest (R64) and the invalid case of Table 2-6. -/
def Val.add (a b : Val) : Val × List Nat :=
  match a, b with
  | .nan, _ => (.nan, [])
  | _, .nan => (.nan, [])
  | .inf n1, .inf n2 => if n1 == n2 then (.inf n1, []) else (.nan, [evInv])
  | .inf n, .fin _ _ _ => (.inf n, [])
  | .fin _ _ _, .inf n => (.inf n, [])
  | .fin n1 m1 e1, .fin n2 m2 e2 =>
    let q := min e1 e2
    let s := sMant n1 m1 e1 q + sMant n2 m2 e2 q
    if s = 0 then (.fin (n1 && n2) 0 0, []) else (.fin (decide (s < 0)) s.natAbs q, [])

def Val.sub (a b : Val) : Val × List Nat := a.add b.negate

/-- Exact product. -/
def Val.mul (a b : Val) : Val × List Nat :=
  match a, b with
  | .nan, _ => (.nan, [])
  | _, .nan => (.nan, [])
  | .inf n1, .inf n2 => (.inf (n1 != n2), [])
  | .inf n1, .fin n2 m2 _ => if m2 = 0 then (.nan, [evInv]) else (.inf (n1 != n2), [])
  | .fin n1 m1 _, .inf n2 => if m1 = 0 then (.nan, [evInv]) else (.inf (n1 != n2), [])
  | .fin n1 m1 e1, .fin n2 m2 e2 => (.fin (n1 != n2) (m1 * m2) (e1 + e2), [])

/-- Exact `a × b + c`; a NaN operand counts no event whatever the others would form (R66). -/
def Val.fma (a b c : Val) : Val × List Nat :=
  if a.isNan || b.isNan || c.isNan then (.nan, [])
  else
    let (p, e1) := a.mul b
    if e1 = [] then p.add c else (.nan, e1)

/-- A value rounded to a floating-point format and decoded again, with the rounding's event. -/
def roundTo (f : Nat) (v : Val) : Val × List Nat :=
  let (c, ev) := encodeFp f .ne v
  (decodeFp f c, ev)

/-- Result of an exact operation, rounded once into `f` (R60, R64). -/
def rounded (f : Nat) (r : Val × List Nat) : Val × List Nat :=
  let (v, ev) := roundTo f r.1
  (v, r.2 ++ ev)

/-- Division rounded once into `f` (Table 2-6, Table 5-11). -/
def divTo (f : Nat) (a b : Val) : Val × List Nat :=
  match a, b with
  | .nan, _ => (.nan, [])
  | _, .nan => (.nan, [])
  | .inf _, .inf _ => (.nan, [evInv])
  | .inf n1, .fin n2 _ _ => (.inf (n1 != n2), [])
  | .fin n1 _ _, .inf n2 => (.fin (n1 != n2) 0 0, [])
  | .fin n1 m1 e1, .fin n2 m2 e2 =>
    if m2 = 0 then
      if m1 = 0 then (.nan, [evInv]) else (.inf (n1 != n2), [evOver])
    else
      let (c, ev) := encodeMag f .ne (n1 != n2) m1 m2 (e1 - e2)
      (decodeFp f c, ev)

/-- A dyadic number that rounds as `√(m × 2^e)` does at any precision up to 60 bits: the integer root
with a sticky bit below it. -/
def sqrtSticky (m : Nat) (e : Int) : Nat × Int :=
  let m' := if e % 2 = 0 then m else 2 * m
  let e' := if e % 2 = 0 then e else e - 1
  let n := m' * 2 ^ 256
  let s := Nat.sqrt n
  (2 * s + (if s * s = n then 0 else 1), e' / 2 - 128 - 1)

/-- Square root rounded once into `f` (Table 5-11). -/
def sqrtTo (f : Nat) : Val → Val × List Nat
  | .nan => (.nan, [])
  | .inf n => if n then (.nan, [evInv]) else (.inf false, [])
  | .fin n m e =>
    if m = 0 then (.fin n 0 0, [])
    else if n then (.nan, [evInv])
    else
      let (k, q) := sqrtSticky m e
      let (c, ev) := encodeMag f .ne false k 1 q
      (decodeFp f c, ev)

/-- The value decoded from 32 bits as FP32. -/
def f32 (w : Word) : Val := decodeFp 0 w.toNat

/-- The FP32 bits of a value that is already exact in FP32. -/
def toF32 (v : Val) : Word := BitVec.ofNat 32 (encodeFp 0 .ne v).1

/-- The value decoded from 32 bits as INT32. -/
def i32 (w : Word) : Val := decodeInt 32 w.toNat

/-- Saturate an integer to INT32 (R136, Table 5-11). -/
def satI32 (v : Int) : Int × List Nat :=
  if v < -(2 ^ 31) then (-(2 ^ 31), [evSat])
  else if 2 ^ 31 - 1 < v then (2 ^ 31 - 1, [evSat])
  else (v, [])

/-- The bits of an INT32 result. -/
def ofI32 (v : Int) : Word := BitVec.ofInt 32 v

/-- Maximum of two floating-point values: a numeric operand wins against NaN, +0 ranks above −0
(R64, Table 5-11). -/
def Val.maxv (a b : Val) : Val :=
  if a.isNan then b else if b.isNan then a
  else if a.cmp b = 0 then (if a.neg? then b else a)
  else if a.cmp b < 0 then b else a

/-- Minimum of two floating-point values. -/
def Val.minv (a b : Val) : Val :=
  if a.isNan then b else if b.isNan then a
  else if a.cmp b = 0 then (if a.neg? then a else b)
  else if a.cmp b < 0 then a else b

/-- Codebook entries: `n` exact values in index order. -/
abbrev Codebook := List Val

/-- Distance of a finite value to a codebook entry, compared through exact differences: is `v` strictly
nearer to `a` than to `b`? All three are finite. -/
def nearer (v a b : Val) : Bool :=
  match (v.sub a).1.abs.lt (v.sub b).1.abs with
  | r => r

/-- The first index among `idx` whose entry is best under `better new old`. -/
def bestIdx (cb : Codebook) (better : Val → Val → Bool) : List Nat → Option Nat
  | [] => none
  | i :: rest =>
    some (rest.foldl (fun acc j => if better (cb.getD j .nan) (cb.getD acc .nan) then j else acc) i)

def idxWhere (cb : Codebook) (p : Val → Bool) : List Nat :=
  (List.range cb.length).filter fun i => p (cb.getD i .nan)

/-- Encode a value into a codebook (R57); the value is already divided by its scale in CB16. The `Bool`
says that a CB16 group must take scale 0xFF. -/
def encodeCb (cb : Codebook) (cb16 : Bool) (v : Val) : Nat × List Nat × Bool :=
  let fin := idxWhere cb Val.isFinite
  let nans := idxWhere cb Val.isNan
  let nonzero := fin.filter fun i => !(cb.getD i .nan).isZero
  if fin.isEmpty then
    match nans with
    | i :: _ => (i, [evInv], false)
    | [] => (0, [evInv], v.isNan && cb16)
  else
    match v with
    | .nan =>
      match nans with
      | i :: _ => (i, [], false)
      | [] => (0, [evInv], cb16)
    | .inf neg =>
      if nonzero.isEmpty then (fin.headD 0, [evSat], false)
      else
        let i := (bestIdx cb (fun a b => if neg then a.lt b else b.lt a) fin).getD 0
        (i, [evSat], false)
    | .fin _ m _ =>
      if nonzero.isEmpty then (fin.headD 0, if m = 0 then [] else [evVan], false)
      else
        let i := (bestIdx cb (fun a b => nearer v a b) fin).getD 0
        let big := fin.foldl (fun acc j => Val.maxv acc (cb.getD j .nan).abs) Val.zero
        let sat := big.lt v.abs
        let van := m ≠ 0 && (cb.getD i .nan).isZero
        (i, if sat then [evSat] else if van then [evVan] else [], false)

/-- The E8 scale code of a group under R51: `A` is the largest finite magnitude, `M` the largest finite
value of the destination, both positive. `⌈log₂(A ÷ M)⌉ + 127`, clamped. -/
def scaleCode (am : Nat) (ae : Int) (mm : Nat) (me : Int) : Nat :=
  let l := flog2 am mm + (ae - me)
  let exact : Bool :=
    let k := l - (ae - me)
    if 0 ≤ k then decide (am = mm * 2 ^ k.toNat) else decide (am * 2 ^ (-k).toNat = mm)
  let s := if exact then l else l + 1
  let c := s + 127
  if c < 0 then 0 else if 254 < c then 254 else c.toNat

/-- Drop repeated event classes: an element counts each class at most once (R66). -/
def dedupEv (ev : List Nat) : List Nat := (List.range 10).filter fun c => ev.contains c

end Sys2Proof.Machine
end

