-- ==== Sys2Proof/Machine/FMap.lean ====
section
/-! DEFINITION. Sparse maps: a list of (key, value) pairs in one canonical form, keys strictly rising and
no entry equal to the value `d` that an unlisted key reads as.  Memory, register files, queues keyed by
number and the per-unit tables of `State` are such lists. -/

namespace Sys2Proof.Machine

/-- A sparse map; every read and write names the default value of unlisted keys. -/
abbrev FMap (α : Type) := List (Nat × α)

/-- The value at key `k`; `d` when unlisted. -/
def fget {α : Type} (d : α) : FMap α → Nat → α
  | [], _ => d
  | (a, v) :: t, k => if a = k then v else fget d t k

/-- Write `v` at key `k`, keeping the canonical form. -/
def fset {α : Type} [DecidableEq α] (d : α) : FMap α → Nat → α → FMap α
  | [], k, v => if v = d then [] else [(k, v)]
  | (a, w) :: t, k, v =>
    if v = d then
      if a = k then fset d t k v else (a, w) :: fset d t k v
    else if k < a then (k, v) :: (a, w) :: t
    else if a = k then (k, v) :: t
    else (a, w) :: fset d t k v

/-- Apply `f` to the value at key `k`. -/
def fupd {α : Type} [DecidableEq α] (d : α) (m : FMap α) (k : Nat) (f : α → α) : FMap α :=
  fset d m k (f (fget d m k))

/-- Every listed key is above `k`. -/
def fabove {α : Type} (k : Nat) : FMap α → Bool
  | [] => true
  | (a, _) :: t => decide (k < a) && fabove k t

/-- The canonical form: keys strictly rising, no default entry. -/
def fwf {α : Type} [DecidableEq α] (d : α) : FMap α → Bool
  | [] => true
  | (a, v) :: t => fabove a t && decide (v ≠ d) && fwf d t

/-- The values at `n` consecutive keys from `k`. -/
def fgets {α : Type} (d : α) (m : FMap α) (k n : Nat) : List α :=
  (List.range n).map fun i => fget d m (k + i)

/-- Write a list at consecutive keys from `k`. -/
def fsets {α : Type} [DecidableEq α] (d : α) : FMap α → Nat → List α → FMap α
  | m, _, [] => m
  | m, k, v :: vs => fsets d (fset d m k v) (k + 1) vs

/-- The part of a map with keys from `k` up to `k + n`. -/
def fslice {α : Type} (m : FMap α) (k n : Nat) : FMap α :=
  m.filter fun p => decide (k ≤ p.1) && decide (p.1 < k + n)

/-- The listed values at consecutive keys from `k` that are not the default. -/
def flisted {α : Type} [DecidableEq α] (d : α) (k : Nat) : List α → FMap α
  | [] => []
  | v :: vs => if v = d then flisted d (k + 1) vs else (k, v) :: flisted d (k + 1) vs

/-- Replace the values at consecutive keys from `k` in one pass. -/
def fputRow {α : Type} [DecidableEq α] (d : α) (m : FMap α) (k : Nat) (vs : List α) : FMap α :=
  (m.filter fun p => decide (p.1 < k)) ++ flisted d k vs
    ++ m.filter fun p => decide (k + vs.length ≤ p.1)

/-- Read a row of `n` values in one pass. -/
def fgetRow {α : Type} (d : α) (m : FMap α) (k n : Nat) : List α := fgets d (fslice m k n) k n

end Sys2Proof.Machine
end

