-- ==== Sys2Proof/Machine/State.lean ====
section
/-! DEFINITION. The state of the VKN-PS24A: every register, store, queue, mode and pin that the spec gives
the device, as plain data, with the queue of waiting commands.  Per-unit tables are sparse maps keyed by
the unit's global number (Table 0-7). -/

namespace Sys2Proof.Machine

/-- A step stops with a fault.  No meaning of this model raises one: every command either has its effect or
leaves the state as it is (log entry 2), so a fault is safe and does not occur. -/
inductive Fault where
  /-- raised by no meaning; it stands so that the type is not empty (safe) -/
  | deviceStopped
  deriving DecidableEq, Repr

/-- A command that the model refuses. -/
inductive Refusal where
  /-- raised by Dispatch.lean for a command that has no meaning yet (safe) -/
  | notModelled (mnemonic : String)
  deriving DecidableEq, Repr

/-! ### Contexts of the vector engine (R129) -/

/-- The result of an earlier row, or of an element of it, that waits for its scale group to fill. -/
structure PendEl where
  /-- 0 FP32 bits, 1 an integer, 2 the identity of an empty row, 3 an inactive element -/
  kind : Nat := 0
  bits : Int := 0
  /-- event classes already counted for it, bit c for class c (R66) -/
  seen : Nat := 0
  deriving DecidableEq, Repr

/-- A stream instruction in progress: the position that Table 5-12 saves and the partial row result. -/
structure Stream where
  opc : Nat := 0
  f : Vs := {}
  /-- next chunk (STREAM_POS) -/
  pos : Nat := 0
  /-- next row (ROW_POS) -/
  row : Nat := 0
  /-- PARTIAL: result so far, index of the best element, active count of the row, of earlier rows -/
  acc : Int := 0
  idx : Nat := 0
  held : Bool := false
  act : Nat := 0
  total : Nat := 0
  /-- (format, class) events that the row has met (R66) -/
  evs : List (Nat × Nat) := []
  pend : List PendEl := []
  deriving DecidableEq, Repr

/-- What a context waits for (Table 5-14, CELL_CTX.STATE; R134). -/
inductive CtxState where
  | free
  | ready
  | await
  | dwait
  | bar
  | stopped
  | ended
  deriving DecidableEq, Repr

/-- One hardware context (R129). -/
structure Ctx where
  /-- vector registers: lane i of v[r] at key 512 r + i -/
  vreg : FMap Word := []
  /-- mask registers m0 to m7 -/
  mask : FMap (BitVec 512) := []
  /-- scalar registers; s0 reads as zero through `sget` (R130) -/
  sreg : FMap DWord := []
  pc : Nat := 0
  count : DWord := 0
  evt : DWord := 0
  seed : DWord := 0
  step : DWord := 0
  st : CtxState := .free
  /-- the wait that the context returns to when a preempted kernel resumes (R168) -/
  waited : CtxState := .ready
  /-- the Rolac operation whose kernel holds the context -/
  op : Option OpId := none
  stream : Option Stream := none
  deriving DecidableEq, Repr

/-! ### The matrix array and the drain -/

/-- The work unit of a block job that a product stands for: index in the plan, its K-tiles `a` to `b`, and
whether its tile is split (R245). -/
structure UnitRef where
  ix : Nat := 0
  a : Nat := 0
  b : Nat := 0
  split : Bool := false
  deriving DecidableEq, Repr

/-- A product descriptor in a cell's queues or array, with its progress (R70, R72, Table 3-5). -/
structure Product where
  pid : Nat := 0
  /-- device-local address of the product descriptor, and of the store that its offsets count from -/
  addr : Nat := 0
  issuer : Option Cx := none
  /-- program counter of the AISSUE (R22) -/
  pc : Nat := 0
  op : OpId := ⟨0, 0⟩
  deferred : Bool := false
  /-- seed and step of the issuing context when the product started (R164) -/
  seed : DWord := 0
  step : DWord := 0
  /-- copies of the two descriptors, taken at the check of R71 -/
  desc : List Byte := []
  drn : List Byte := []
  tile : Nat := 0
  ktile : Nat := 0
  row : Nat := 0
  link : Nat := 0
  /-- second half-pass of an FP32 K-tile (R85) -/
  half : Bool := false
  /-- the pass's swap has been made -/
  open_ : Bool := false
  /-- LAST_TILE; none when no tile's stores have completed -/
  last : Option Nat := none
  /-- rescale slice of the output tile: (entry, poisoned) for up to 128 columns (R107) -/
  slice : List (DWord × Bool) := []
  /-- address of the tile-context image, after a yield or a preemption, and the event classes that its
  entries have met (R66) -/
  saved : Option Nat := none
  savedEv : FMap Nat := []
  /-- a unit of a block job, and whether its last row is in -/
  unit : Option UnitRef := none
  ended : Bool := false
  /-- occupancy bits of the write units that the output tile in progress had written when a preemption or a
  yield flushed its buffer (R118, R125) -/
  doneBits : Nat := 0
  deriving DecidableEq, Repr

/-- Which stationary tile a buffer holds: of which product and descriptor, for which output tile, K-tile, link
and half-pass (R73, R85, R88). -/
structure StatKey where
  pid : Nat := 0
  desc : List Byte := []
  tile : Nat := 0
  ktile : Nat := 0
  link : Nat := 0
  half : Bool := false
  deriving DecidableEq, Repr

/-- A stationary tile in a buffer: for each column its elements from array row 0 down as FP32 or INT32
images (rows and columns beyond the list hold +0, R74), and the scale code of each column's group (R76). -/
structure Stat where
  cols : List (List Word) := []
  scales : List Byte := []
  /-- the tile, when the buffer has been loaded completely (R75) -/
  key : Option StatKey := none
  /-- poisoned elements read with the tile and not charged yet (R81) -/
  poison : Nat := 0
  deriving DecidableEq, Repr

/-- One streaming row in the feeder queues: what each array row presents as a 32-bit image, which of them are
presented (R241), the row's scale code, and its poisoned elements (R77). -/
structure FeedRow where
  vals : List Word := []
  keep : List Bool := []
  scale : Nat := 127
  poison : Nat := 0
  deriving DecidableEq, Repr

/-- A row in the feeder queues in chained mode: 128 images and the row's scale code (R88, R124). -/
structure FedRow where
  vals : List Word := []
  scale : Byte := 127
  deriving DecidableEq, Repr

/-- A row of the drain after S4: its 128 FP32 values and its events as (format, class) pairs (R120). -/
structure DrnRow where
  vals : List Word := []
  evs : List (Nat × Nat) := []
  deriving DecidableEq, Repr

/-- A tile buffer of the drain (R101). -/
structure TileBuf where
  prod : Product := {}
  rows : FMap DrnRow := []
  /-- write units already written -/
  units : Nat := 0
  /-- the transposed encode sweep has been made (R114) -/
  swept : Bool := false
  /-- which of the two buffers holds the tile (CELL_DRN_STATUS.BUF_BUSY) -/
  slot : Nat := 0
  /-- occupancy bits of the units already written (R118) -/
  bits : Nat := 0
  /-- the buffer holds replayed rows and has not gone on yet (R125) -/
  replay : Bool := false
  deriving DecidableEq, Repr

/-- CELL_ARR_STATUS.STATE (Table 3-8). -/
inductive ArrState where
  | idle | firstLoad | streaming | holding | emptying | saving | restoring | stopping
  deriving DecidableEq, Repr

/-- The array and drain of a cell (Table 3-1). -/
structure Arr where
  /-- ordinary and deferred descriptor queues (R73, R277) -/
  queue : List Product := []
  dqueue : List Product := []
  /-- the product in the array -/
  cur : Option Product := none
  /-- a deferred product whose context is saved after a yield (R278) -/
  yielded : Option Product := none
  /-- products whose rows are all in and whose output is still being written -/
  draining : List Product := []
  /-- products of a preempted kernel, kept for its resume -/
  kept : List Product := []
  /-- number of the next product or DMA descriptor that the cell's contexts issue -/
  nextPid : Nat := 1
  st : ArrState := .idle
  acc : FMap Word := []
  /-- event classes that accumulator entry (i, j) has met, as a bit set (R81) -/
  accEv : FMap Nat := []
  /-- the two stationary buffers: the active one, and the one loaded in the background (R75) -/
  active : Stat := {}
  back : Stat := {}
  /-- the 128 feeder queues, which move in step: up to 32 entries, each the one, two or four rows of an entry
  cycle (R68, R77) -/
  feed : List (List FeedRow) := []
  /-- the operation whose sums the accumulators hold, until its record is committed (R96) -/
  accOwner : Option OpId := none
  /-- holds of HOLD_NEXT products that were aborted: the operation, and whether the product was deferred; each
  lasts until the operation's record is committed (Table 4-6) -/
  holds : List (OpId × Bool) := []
  /-- the first 16 bytes of the tile head of A that covers the K-tile, and whether they were poisoned
  (R240) -/
  head : List Byte := []
  headBad : Bool := false
  fed : FMap FedRow := []
  bufs : List TileBuf := []
  /-- a preemption has been requested of the product in the array (R90) -/
  preReq : Bool := false
  /-- the abort of the product in the array has been requested (R96) -/
  abortReq : List OpId := []
  saves : Word := 0
  resumes : Word := 0
  deriving DecidableEq, Repr

/-! ### DMA engines (Table 7-3) -/

/-- A descriptor chain in an engine's queue, at its next descriptor, or a running descriptor. -/
structure DmaItem where
  addr : Nat := 0
  op : OpId := ⟨0, 0⟩
  issuer : Option Cx := none
  /-- program counter of the DISSUE, and its place among the cell's products and descriptors (R22) -/
  pc : Nat := 0
  seq : Nat := 0
  /-- position in the chain -/
  pos : Nat := 0
  /-- PRIV_RESTORE is accepted (PRIV_COPY, Hedgerow, restores; R216) -/
  priv : Bool := false
  /-- bytes of a remote source that have returned, by fabric address, and outstanding requests:
  (MTAG, fabric address, bytes) -/
  fetched : FMap Byte := []
  /-- the destination map failed R222 -/
  overlap : Bool := false
  waits : List (Nat × Nat × Nat) := []
  deriving DecidableEq, Repr

structure Dma where
  queue : List DmaItem := []
  running : List DmaItem := []
  done : Word := 0
  overlap : Word := 0
  stopping : Bool := false
  deriving DecidableEq, Repr

/-! ### Cells -/

/-- A curve slot (R178, Table 6-9): empty, a shipped curve named by FUNC, or an image that software gave;
and the result of the load's checks (R187). -/
structure Curve where
  loaded : Bool := false
  /-- FUNC of a shipped curve, 0 for an image -/
  shipped : Nat := 0
  image : List Byte := []
  nonmono : Bool := false
  failSide : Bool := false
  failSeg : Nat := 0
  poisoned : Bool := false
  deriving DecidableEq, Repr

/-- A table load that a cell holds until its next kernel boundary (R56). -/
inductive TableLoad where
  | cb16 (slot : Nat) (codes : List Byte)
  | cb256 (slot : Nat) (codes : List Byte)
  | fmt (words : List Word)
  | curve (slot : Nat) (c : Curve)
  deriving DecidableEq, Repr

structure Cell where
  ctxs : FMap Ctx := []
  arr : Arr := {}
  dma : Dma := {}
  /-- CB16 slots: entry i of slot s at 16 s + i; CB256: entry i of slot s at 256 s + i (R54) -/
  cb16 : FMap Byte := []
  cb256 : FMap (BitVec 16) := []
  fmt : FMap Word := []
  curves : FMap Curve := []
  held : List TableLoad := []
  /-- the window's 64-bit counters, keyed by register offset (Tables 3-8, 4-7, 5-14, 6-9, 7-10, 8-7, 9-8, 10-11) -/
  ctr : FMap DWord := []
  deriving DecidableEq, Repr

/-! ### Blocks -/

/-- A work unit of a block job (R245): row tile, column tile, K-tiles `a` to `b`. -/
structure WUnit where
  rt : Nat := 0
  ct : Nat := 0
  a : Nat := 0
  b : Nat := 0
  /-- cell (0 to 7) that runs it -/
  cell : Option Nat := none
  done : Bool := false
  /-- scratch slot that holds its partial sums -/
  slot : Option Nat := none
  deriving DecidableEq, Repr

/-- The block job of the sparse-work scheduler (R244 to R250). -/
structure SpsJob where
  op : OpId := ⟨0, 0⟩
  addr : Nat := 0
  prod : List Byte := []
  drn : List Byte := []
  pred : Nat := 0
  scratch : Nat := 0
  scratchBytes : Nat := 0
  cells : Nat := 0
  next : Nat := 0
  units : List WUnit := []
  planned : Bool := false
  /-- prediction bits of each tile of A as planning read them, at row tile × K-tiles + K-tile (R248) -/
  preds : List Nat := []
  /-- event classes that the elements of split tiles have met, entry (i, j) of tile t at 16384 t + 128 i + j
  (R66, R247) -/
  met : FMap Nat := []
  stopping : Bool := false
  aborting : Bool := false
  deriving DecidableEq, Repr

structure Block where
  dma : Dma := {}
  gs : Dma := {}
  job : Option SpsJob := none
  /-- the window's 64-bit counters, keyed by register offset (Tables 7-10, 8-7, 9-8) -/
  ctr : FMap DWord := []
  /-- BLK_RES (Table 9-8) -/
  resLayers : Nat := 4
  resBase : Nat := 0x800000
  deriving DecidableEq, Repr

/-- One HBM3 controller (Table 9-8). -/
structure Hbm where
  temp : Nat := 0
  trainFail : Bool := false
  st : Nat := 0
  /-- the window's 64-bit counters, keyed by register offset -/
  ctr : FMap DWord := []
  poisonLast : Nat := 0
  deriving DecidableEq, Repr

/-! ### Rolac operations (R377, R380) -/

inductive Phase where
  /-- accepted, waiting for admission (or, in group 0x07xx, to run) -/
  | waiting
  /-- admitted; its body has not been checked yet -/
  | admitted
  /-- its body is accepted and Rolac holds it (R270, R294, R307, R360, R282, R392) -/
  | held
  | running
  /-- an abort or a preemption has marked the entry (R393) -/
  | aborting
  | preempting
  | preempted
  /-- its outcome is decided; the record waits for commit (R387) -/
  | finished
  deriving DecidableEq, Repr

/-- A saved context: which named cell and which context, where its image lies, the stream instruction in
progress, and whether it had ended but for visibility. -/
structure SavedCtx where
  index : Nat := 0
  ctx : Nat := 0
  addr : Nat := 0
  stream : Option Stream := none
  ended : Bool := false
  deriving DecidableEq, Repr

/-- One entry of an operation table. -/
structure OpEntry where
  id : OpId := ⟨0, 0⟩
  phase : Phase := .waiting
  opcode : Nat := 0
  /-- the descriptor as Rolac copied it -/
  desc : List Byte := []
  ptr : Nat := 0
  ring : Nat := 0
  ordered : Bool := false
  resident : Bool := false
  region : Nat := 0
  cls : Nat := 0
  sender : Nat := 0
  /-- step open at acceptance (R378) and the hub counter then (R281) -/
  step : DWord := 0
  accepted : DWord := 0
  /-- status codes that applied so far (R389, R445) -/
  stats : List Nat := []
  /-- DETAIL0, DETAIL1, and blocks dropped (Table 13-3) -/
  d0 : DWord := 0
  d1 : DWord := 0
  dropped : DWord := 0
  reason : Nat := 0
  /-- what DETAIL2 holds when the operation's units are not counted by `dropped` (Table 13-3) -/
  d2 : DWord := 0
  resumed : Bool := false
  /-- its contexts or units have started -/
  started : Bool := false
  /-- a DEFERRED launch accepted after its bucket's collective (R282) -/
  tooLate : Bool := false
  /-- it has been admitted, so that it is in flight until its record is committed (R381) -/
  admitted : Bool := false
  /-- no hold of R274, R307 or R360 keeps the launch back -/
  released : Bool := true
  /-- images are saved: the record to come says PREEMPTED and the entry stays (R395) -/
  preempt : Bool := false
  /-- the notice's answer for a remote request: requester and its SEQ (R399) -/
  answer : Option (Src × Nat) := none
  /-- the request came through the management port, and its answer goes back there (R424) -/
  byPort : Bool := false
  /-- hub counter when a remote request was sent, and its own SEQ (R399) -/
  sent : Option (DWord × Nat) := none
  /-- an EVAL, DEFERRED or UPDATE kernel: cells it runs on, promotion (R281) -/
  cells : List Nat := []
  promoted : Bool := false
  /-- contexts that have ended -/
  ended : List Cx := []
  /-- a product that a preemption had asked to stop ended before its next tile boundary (Table 3-7) -/
  outran : Bool := false
  /-- context images of a preempted kernel (R168) -/
  saves : List SavedCtx := []
  /-- a control operation: targets it waits for, how many it named, and whether its mark came first (R393) -/
  targets : List OpId := []
  named : Nat := 0
  marked : Bool := false
  /-- status of the target's record when that was committed before the request ran -/
  seen : Option Nat := none
  /-- QUIESCE: operations aborted and preempted so far -/
  nAbort : Nat := 0
  nPreempt : Nat := 0
  deriving DecidableEq, Repr

/-! ### Links (R310 to R338) -/

/-- What messages to another device complete with their last flit, and no field of Table 11-3 spells: collective traffic
for a member, which messages of OP 4 and 5 carry (R340), and the ranges of fabric addresses whose blocks or words a copy
marks as poisoned (R231). -/
inductive Shipment where
  | contribution (device region : Nat) (c : Contribution)
  | result (device region : Nat) (c : CollResult)
  | poison (ranges : List (Nat × Nat))
  deriving DecidableEq, Repr

/-- A flit that waits for its slot, or that its peer has not acknowledged yet. -/
structure TxFlit where
  payload : List Byte := []
  vc : Nat := 0
  cls : Nat := 0
  /-- TYPE of Table 11-2 -/
  typ : Nat := 0
  som : Bool := true
  eom : Bool := true
  /-- the operation that sent the message -/
  op : Option OpId := none
  /-- the region that places a Bridle flit (R327); none for one in transit -/
  region : Option Nat := none
  /-- the link input whose buffer a flit in transit holds, and 2 VC + class of its place there (R321) -/
  src : Option (Nat × Nat) := none
  /-- times that it has been sent again (R319) -/
  tries : Nat := 0
  /-- what a link-control flit carries (R313) -/
  control : Option PeerInfo := none
  /-- what its message completes -/
  note : Option Shipment := none
  deriving DecidableEq, Repr

/-- One tunnel (R338): its table entry, numbering, retry window of (number, flits), and the region counter at
the last ACK or at the first unacknowledged datagram. -/
structure Tunnel where
  entry : List Byte := []
  txSeq : Nat := 0
  /-- flits sent through the tunnel, which gives each its place in the retry area -/
  flitNo : Nat := 0
  rxNext : Nat := 0
  window : List (Nat × List TxFlit) := []
  /-- messages that wait for room in the window -/
  queue : List (List TxFlit) := []
  since : DWord := 0
  /-- region counter at the last sending of the oldest datagram -/
  tried : DWord := 0
  fenced : Bool := false
  deriving DecidableEq, Repr

structure Link where
  /-- LNK_STATUS (Table 11-12) -/
  mode : Nat := 0
  st : Nat := 0
  peerId : Nat := 0
  peerLink : Nat := 0
  rtt : Nat := 0
  /-- electrical training has ended; and what the peer's link-control flit said -/
  trained : Bool := false
  peer : Option PeerInfo := none
  txq : List TxFlit := []
  retry : List (Nat × TxFlit) := []
  resend : List (Nat × TxFlit) := []
  /-- SEQ of the next new flit, and of the last flit accepted -/
  txSeq : Nat := 0
  rxLast : Nat := 4095
  discarding : Bool := false
  /-- credits held, reserved by 2 VC + class, and shared; credits to return, by 2 VC + class (R321) -/
  resv : FMap Nat := []
  shared : Nat := 0
  owed : FMap Nat := []
  /-- flits that the link's input buffer holds, by 2 VC + class (R321) -/
  inbuf : FMap Nat := []
  /-- payloads of messages being received, flit by flit, by 2 VC + class -/
  rx : FMap (List (List Byte)) := []
  /-- Bridle flits that wait in Rolac under R327, and the region counter at each flit offered in the last 10 µs,
  by region -/
  bridleWait : List TxFlit := []
  offers : List (Nat × DWord) := []
  /-- flit slots since the last Bridle flit; the channel whose turn runs and flits left in it (R322) -/
  sinceBridle : Nat := 16
  turn : Nat := 1
  turnLeft : Nat := 44
  /-- region counters of re-sends within the last 1 ms (R319) -/
  resendAt : List DWord := []
  lastRx : DWord := 0
  unresponsive : Bool := false
  bridleMax : Nat := 0
  /-- counters, keyed by register offset -/
  ctr : FMap DWord := []
  /-- ETH_CONFIG (Table 13-12) -/
  mac : List Byte := []
  ipv6 : List Byte := []
  port : Nat := 0
  retryArea : Nat := 0
  hostRx : Nat := 0
  hostTx : Nat := 0
  tunnels : FMap Tunnel := []
  /-- priorities that the peer has paused, with the region counter at which each pause ends (R336) -/
  paused : FMap DWord := []
  /-- host frames that have arrived for the node operating system, oldest first -/
  frames : List (List Byte) := []
  deriving DecidableEq, Repr

/-! ### Pleacher (R339 to R348) -/

/-- An active collective of a member of the region. -/
structure Coll where
  op : OpId := ⟨0, 0⟩
  body : List Byte := []
  group : List Nat := []
  rank : Nat := 0
  step : Nat := 0
  /-- shards or source ranks whose result has arrived -/
  got : List Nat := []
  /-- shards with LATE above 0 -/
  late : List Nat := []
  /-- shards owned in this device by which the member's contribution is neither accepted nor discarded yet (R346) -/
  unsettled : List Nat := []
  deriving DecidableEq, Repr

/-- A shard that a member of the region owns, for one step. -/
structure Shard where
  body : List Byte := []
  group : List Nat := []
  cid : Nat := 0
  step : Nat := 0
  shard : Nat := 0
  /-- FP32 or INT32 sums; empty until the first contribution -/
  sums : List Word := []
  ranks : List Nat := []
  first : DWord := 0
  final : Bool := false
  deriving DecidableEq, Repr

/-- Deferred contributions of one step to a shard (R343). -/
structure Deferral where
  cid : Nat := 0
  shard : Nat := 0
  step : Nat := 0
  base : Nat := 0
  sums : List Word := []
  count : Nat := 0
  deriving DecidableEq, Repr

/-- A message that has reached its region. -/
inductive Deliver where
  | msg (m : Msg)
  | contribution (c : Contribution)
  | result (c : CollResult)
  /-- a Bridle message from a device that came through the management port (R424) -/
  | forwarded (device typ : Nat) (body : List Byte)
  deriving DecidableEq, Repr

/-! ### Regions -/

/-- The telemetry banks of a region (R302 to R304, Table 10-11). -/
structure Tlm where
  records : Word := 0
  ring : Nat := 0
  bank : Bool := false
  writing : Bool := false
  base : Nat := 0
  /-- live and closed banks: 32-bit word w of tag t's entry of Table 10-9 at 80 t + w -/
  live : FMap Word := []
  closed : FMap Word := []
  flags : Nat := 0
  closedFlags : Nat := 0
  closedStep : DWord := 0
  openCycle : DWord := 0
  closedOpen : DWord := 0
  closedClose : DWord := 0
  /-- ROWCYC, VBUSY and CELL_CYCLE of the region's cell i at the opening, at 3 i, 3 i + 1 and 3 i + 2, and the
  sums of their advances over live cells in the closed attempt -/
  openCtr : FMap DWord := []
  closedRowCyc : DWord := 0
  closedVbusy : DWord := 0
  closedCycles : DWord := 0
  deriving DecidableEq, Repr

structure Region where
  cycle : DWord := 0
  latch : DWord := 0
  seq : BitVec 8 := 0
  /-- RGN_FENCE (Table 1-8) -/
  fence : DWord := 0
  clkSteps : Word := 0
  clkStep : Nat := 0
  /-- the step that the arbiter has ordered and that the region has not reached yet (R94) -/
  clkTarget : Option Nat := none
  clkSwitching : Bool := false
  /-- phase of the cell clock against the fabric clock, in units of 1/1600 cell cycle (the model's own) -/
  clkPhase : Nat := 0
  frzDropped : DWord := 0
  tlm : Tlm := {}
  dma : Dma := {}
  /-- boot firmware has released the region (R401) -/
  released : Bool := false
  /-- RGN_ROUTE words (Table 11-7); unlisted entries read 0xFF -/
  routes : FMap Nat := []
  inbox : List Deliver := []
  /-- region counter at the last HEARTBEAT -/
  lastBeat : DWord := 0
  /-- contributions that came before their collective, with the counter at arrival -/
  early : List (DWord × Contribution) := []
  colls : List Coll := []
  shards : List Shard := []
  defers : List Deferral := []
  /-- PLC_FINAL notices met before the member contributed: (CID, step, shard, POLICY) -/
  finals : List (Nat × Nat × Nat × Nat) := []
  /-- corrected errors without a register of their own (R30) -/
  corrected : DWord := 0
  /-- 64-bit counters of the region, DMA and Pleacher windows, keyed by address (Tables 7-10, 11-12) -/
  ctr : FMap DWord := []
  /-- number of MTAGs given out, and the operation of each remote write by its MTAG -/
  mtag : Nat := 0
  wrote : List (Nat × OpId) := []
  /-- Bridle messages sent, by MTAG: target device, TYPE and body (R329) -/
  bridles : FMap (Nat × Nat × List Byte) := []
  deriving DecidableEq, Repr

/-! ### The mailbox block (R369 to R400) -/

/-- A channel's slot: the notice, when full, the hub counter at the write, and the remote writer. -/
structure Slot where
  full : Bool := false
  notice : List Byte := []
  at_ : DWord := 0
  remote : Option Src := none
  /-- region by which a remote notice came -/
  via : Nat := 0
  deriving DecidableEq, Repr

/-- A completion ring (R385, Table 13-16). -/
structure Ring where
  valid : Bool := false
  log2 : Nat := 0
  notify : Nat := 0
  base : Nat := 0
  headAddr : Nat := 0
  tail : DWord := 0
  /-- HEAD as Rolac last read it (R386) -/
  head : DWord := 0
  deriving DecidableEq, Repr

structure Mbx where
  locked : Bool := false
  quiesced : Bool := false
  /-- MBX_BIND, MBX_NOTICE (64-bit images, keyed by channel) -/
  bind : FMap DWord := []
  notice : FMap DWord := []
  slots : FMap Slot := []
  emptied : FMap DWord := []
  ringpend : DWord := 0
  rings : FMap Ring := []
  pickupMax : Word := 0
  ctr : FMap DWord := []
  deriving DecidableEq, Repr

/-! ### Girth (R288 to R292) -/

structure Girth where
  gen : Word := 0
  /-- the schedule image in use, and a loaded one that waits for the next opening, with its two
  destination values -/
  image : Option (List Byte) := none
  next : Option (List Byte × Nat × Nat) := none
  stepOut : DWord := 0
  blkOffset : Nat := 0
  hbmAddr : Nat := 0
  out : FMap Word := []
  busy : Bool := false
  deriving DecidableEq, Repr

/-! ### Hedgerow -/

/-- One entry of the slot table (R350). -/
structure SlotEntry where
  region : Nat := 0
  baseA : Nat := 0
  baseB : Nat := 0
  length : Nat := 0
  deriving DecidableEq, Repr

/-- A queue pair and LBA range of a region (Table 13-11, NVME). -/
structure Nvme where
  sq : Nat := 0
  cq : Nat := 0
  ns : Nat := 0
  lba : Nat := 0
  count : Nat := 0
  deriving DecidableEq, Repr

/-- One of the three image areas of the flash (R355). -/
structure FlashArea where
  step : Nat := 0
  seed : Nat := 0
  cursor : Nat := 0
  lengths : List Nat := []
  data : FMap Byte := []
  complete : Bool := false
  pinned : Bool := false
  /-- order of writing -/
  age : Nat := 0
  deriving DecidableEq, Repr

/-- A round of the commit tree at this device (R358). -/
structure Round where
  step : Nat := 0
  phase : Nat := 0
  /-- own vote and its REASON -/
  own : Option (Bool × Nat) := none
  /-- votes of children: (rank, YES, REASON, COVERED, FIRST_NO) -/
  votes : List (Nat × Bool × Nat × Nat × Nat) := []
  sent : Bool := false
  deriving DecidableEq, Repr

/-- A mirror buffer that is being read back: operation, region, fabric address, bytes in all, MTAG of the request
that is out, and the bytes that have returned. -/
structure Restore where
  op : OpId := ⟨0, 0⟩
  region : Nat := 0
  src : Nat := 0
  len : Nat := 0
  tag : Nat := 0
  got : List Byte := []
  deriving DecidableEq, Repr

/-- Hedgerow's state (Table 12-10); what the spec gives each region is keyed by region. -/
structure Hrw where
  /-- the slot table, in entry order within each region -/
  slots : List SlotEntry := []
  /-- HRW_CURRENT.SLOT: 0 slot A, 1 slot B (R352) -/
  current : Nat := 0
  configured : Bool := false
  group : List Nat := []
  cid : Nat := 0
  fanout : Nat := 2
  recoveryRing : Nat := 0
  flashEvery : Nat := 50
  storeEvery : Nat := 1000
  voteTimeout : Nat := 0
  resultTimeout : Nat := 0
  runState : Nat := 0
  mirrors : List Nat := []
  nvme : List Nvme := []
  committed : Nat := 0
  durable : Nat := 0
  /-- a first durable round has finished since configuration or recovery -/
  hasDurable : Bool := false
  recoverWait : Bool := false
  undecided : Bool := false
  /-- the keeper, or the ward, shares or may share the power domain (R365) -/
  keeperShares : Bool := false
  wardShares : Bool := false
  paired : Bool := false
  keeper : Nat := 0
  keeperDomain : Nat := 0
  ward : Nat := 0
  hasWard : Bool := false
  /-- the pair operation in progress, with KEEPER_ID and FORCED -/
  pairing : Option (OpId × Nat × Bool) := none
  /-- regions whose mirror copy runs, its step, and whether a region's copy failed -/
  shipping : List Nat := []
  shipStep : Nat := 0
  shipFailed : Bool := false
  shipped : Bool := false
  copies : FMap Word := []
  shipBytes : FMap DWord := []
  shipPoison : FMap Word := []
  /-- the flash: three areas, the step being written, and its counters -/
  areas : List FlashArea := [{}, {}, {}]
  flashing : Option Nat := none
  /-- a flash step that waits for the running copy -/
  flashNext : Option Nat := none
  lastFlash : Nat := 0
  flashErrors : Nat := 0
  storeSkipped : Nat := 0
  holdCycles : DWord := 0
  /-- the open rounds and the snapshot commit operation with its SEED and CURSOR -/
  rounds : List Round := []
  commit : Option (OpId × Nat × Nat) := none
  /-- regions that were fenced when the open step opened (R358) -/
  openFences : List Nat := []
  /-- a restore opened the step (FLAGS bit 3 of the telemetry record) -/
  restored : Bool := false
  /-- restores that wait for the keeper's mirror, at most one for a region -/
  restoring : List Restore := []
  deriving DecidableEq, Repr

/-! ### The hub -/

structure Hub where
  cycle : DWord := 0
  latch : DWord := 0
  seq : BitVec 8 := 0
  busy : Bool := false
  /-- HUB_PROXY_MAP entries (Table 1-5) -/
  proxy : FMap DWord := []
  /-- HUB_STEP: the open step, 0 before the first opening (R273) -/
  step : DWord := 0
  /-- the destination table: base, length, stream (R284) -/
  grads : List (Nat × Nat × Nat) := []
  /-- BUCKETs of collectives accepted in the open step (R282) -/
  buckets : List Nat := []
  /-- the hub fabric clock runs (R401) -/
  running : Bool := false
  /-- HUB_FABRIC and HUB_POWER_DOMAIN (Table 11-12) -/
  deviceId : Nat := 0
  position : Nat := 0
  podMode : Bool := false
  domain : Option Nat := none
  /-- SEQ of the next remote control request (R399), and peer management addresses (R329) -/
  ctlSeq : Nat := 0
  peers : FMap (List Byte) := []
  /-- the scalars of the open step are visible in every destination (R274) -/
  scalars : Bool := false
  deriving DecidableEq, Repr

/-! ### Cantle, management and power -/

/-- Units named by a FENCES field (Table 14-4), as a number. -/
abbrev Fences := Nat

/-- What survives a reset: fuses, Cantle's non-volatile store and the boot flash (R407 to R420). -/
structure Store where
  /-- image of type t in bank b at 5 b + t, header included -/
  images : FMap (List Byte) := []
  active : Nat := 0
  /-- a bank that an update has marked next to boot -/
  nextBank : Option Nat := none
  /-- fuse minimum of each image type, and revoked Vikaene key slots -/
  svn : FMap Nat := []
  revoked : FMap Bool := []
  fences : Fences := 0
  ownerHash : Option (List Byte) := none
  /-- a RELEASE takes effect at the next start-up (R417) -/
  releaseNext : Bool := false
  mgtKey : List Byte := []
  /-- SEQ of the device's own last management request, which only ever rises (R329, R423) -/
  mgtSeq : Nat := 0
  nextChunk : Nat := 0
  serial : Option (List Byte) := none
  lastPosition : Option Nat := none
  deriving DecidableEq, Repr

structure Cantle where
  stage : Nat := 0
  bank : Nat := 0
  fallback : Bool := false
  recovery : Bool := false
  bootTimeout : Bool := false
  exhausted : Bool := false
  ready : Bool := false
  /-- next global leaf (CNT_LEAF) and whether the background chunk is reserved -/
  leaf : Nat := 0
  spare : Bool := false
  /-- next image type to check in stages 2 to 4, and digests of the images booted -/
  nextType : Nat := 0
  measure : FMap (List Byte) := []
  bootImage : Option (List Byte) := none
  /-- the boot image verifies and breaks R412 -/
  bootBad : Bool := false
  serial : Option (List Byte) := none
  relocated : Bool := false
  deriving DecidableEq, Repr

structure Mgt where
  linkUp : Bool := false
  /-- 0 none; 1 receiving; 2 verifying; 3 committed; 4 failed -/
  update : Nat := 0
  updateFail : Nat := 0
  updType : Nat := 0
  updSize : Nat := 0
  /-- bytes buffered that Cantle has not written to the flash yet -/
  buffered : Nat := 0
  rx : DWord := 0
  refused : DWord := 0
  /-- last SEQ of up to 64 sources, most recently used first (R423) -/
  seqs : List (Nat × Nat) := []
  pendSeq : Nat := 0
  pendType : Nat := 0
  pendResult : Nat := 0
  /-- management-port settings of the boot image -/
  port : Nat := 50321
  addr : List Byte := []
  gateway : List Byte := []
  prefixLen : Nat := 0
  deriving DecidableEq, Repr

structure Power where
  cap : Nat := 2200
  /-- samples of the last 10 ms, newest first -/
  samples : List Watts := []
  brake : Bool := false
  trip : Bool := false
  /-- samples for which the fast rule is not tested -/
  fastSkip : Nat := 0
  /-- step that the power rules and the heat rule require of each region -/
  pwrHold : FMap Nat := []
  heatHold : FMap Nat := []
  /-- ticks in a row of each recovery condition; P100 stayed at or below 2,450 W since the last tick -/
  lowTicks : Nat := 0
  calm : Bool := true
  coolTicks : FMap Nat := []
  temps : FMap Nat := []
  stackMax : FMap Nat := []
  hubTemp : Nat := 0
  fast : Nat := 0
  sustained : Nat := 0
  thermal : Nat := 0
  brakes : Nat := 0
  deriving DecidableEq, Repr

/-- The lands that the board drives or reads (Table 15-5). -/
structure Pins where
  powerGood : Bool := false
  enroll : Bool := false
  fault : Bool := false
  thermTrip : Bool := false
  /-- reset holds until POWER_GOOD has fallen and risen (R435, Table 15-8) -/
  heldReset : Bool := false
  deriving DecidableEq, Repr

/-- What has left the device: bus responses to local masters, flits, Ethernet frames, management
datagrams. -/
inductive Out where
  | bus (master : Nat) (ok : Bool) (data : List Byte)
  | flit (link : Nat) (bytes : List Byte)
  | datagram (d : Datagram)
  /-- a link-control flit, whose body the spec does not lay out (R313) -/
  | control (link : Nat) (p : PeerInfo)
  /-- the Ethernet frame of a tunnel datagram (R338) -/
  | tunnel (link tunnel : Nat) (frame : List Byte)
  /-- a Bridle message that goes through the management port, to a management address (R329) -/
  | oob (address : List Byte) (d : Datagram)
  /-- collective traffic for a member of another device (R340) -/
  | contribution (device region : Nat) (c : Contribution)
  | result (device region : Nat) (c : CollResult)
  /-- ranges of fabric addresses whose blocks or words a copy to another device marks as poisoned (R231) -/
  | poison (ranges : List (Nat × Nat))
  /-- a handshake of R365: own ID, HUB_POWER_DOMAIN, and FORCED of a pairing that this device asks for -/
  | handshake (device own : Nat) (domain : Option Nat) (forced : Bool)
  /-- an NVMe Write with FUA on a region's queue pair (R355): flash area and step, submission queue, namespace, first LBA
  of the area, whether it is the image's header, and its bytes -/
  | nvme (region area step sq ns lba : Nat) (header : Bool) (bytes : Nat)
  deriving DecidableEq, Repr

/-- The whole device. -/
structure State where
  /-- commands that wait, first in, first out -/
  pending : List Instr := []
  /-- HBM, block stores and cell stores by device-local address (Table 1-2); unlisted bytes read 0 -/
  mem : FMap Byte := []
  /-- poisoned HBM blocks and SRAM words, keyed by their first address (R261, R265) -/
  poison : FMap Bool := []
  cells : FMap Cell := []
  blocks : FMap Block := []
  regions : FMap Region := []
  hbms : FMap Hbm := []
  links : FMap Link := []
  /-- ring connections that are down: k joins region k to region k + 1 mod 4 (R19) -/
  ringDown : FMap Bool := []
  hub : Hub := {}
  store : Store := {}
  cnt : Cantle := {}
  mgt : Mgt := {}
  pwr : Power := {}
  pins : Pins := {}
  mbx : Mbx := {}
  gth : Girth := {}
  hrw : Hrw := {}
  /-- frozen 64 KiB pages (R293) -/
  frozen : FMap Bool := []
  /-- operation tables and admission queues of the four cores, in acceptance order (R380) -/
  ops : List OpEntry := []
  /-- refused operations whose records wait for commit (R378) -/
  refused : List OpEntry := []
  out : List Out := []
  /-- how many free values have been drawn (the model's own; log entry 5) -/
  fresh : Nat := 0
  deriving DecidableEq, Repr

/-- The machine right after reset. -/
def State.reset : State := {}

end Sys2Proof.Machine
end

