-- ==== Sys2Proof/Machine/Ops.lean ====
section
/-! DEFINITION. Named operations over the state: addresses (R21, Table 1-2), memory with its poison
(R260 to R265), unit and register access, the operation table, and free values. -/

namespace Sys2Proof.Machine

/-! ### Status codes (Table 13-5) -/

def stOK : Nat := 0
def stABORTED : Nat := 1
def stALREADY : Nat := 2
def stPREEMPTED : Nat := 3
def stFAULT : Nat := 4
def stBADDESC : Nat := 0x10
def stBOUNDS : Nat := 0x12
def stOVERLAP : Nat := 0x13
def stPOISON : Nat := 0x20
def stLINKDOWN : Nat := 0x21
def stTIMEOUT : Nat := 0x22
def stFROZEN : Nat := 0x30
def stTIED : Nat := 0x31
def stCORRELATED : Nat := 0x40
def stMISMATCH : Nat := 0x41
def stPARTNERLOST : Nat := 0x42
def stABANDONED : Nat := 0x43
def stSINGULAR : Nat := 0x50
def stSTRAGDEF : Nat := 0x60
def stSTRAGDROP : Nat := 0x61
def stFENCED : Nat := 0xF0
def stINTERNAL : Nat := 0xFF

/-- Table 13-18, highest first. -/
def statusOrder : List Nat :=
  [stINTERNAL, stABORTED, stALREADY, stFAULT, stFENCED, stBADDESC, stTIED, stBOUNDS, stPREEMPTED,
   stPARTNERLOST, stTIMEOUT, stLINKDOWN, stABANDONED, stPOISON, stMISMATCH, stSINGULAR, stFROZEN,
   stSTRAGDROP, stSTRAGDEF, stCORRELATED, stOVERLAP]

/-- The status that a record carries when all of `l` applied (R445). -/
def bestStatus (l : List Nat) : Nat := (statusOrder.find? fun x => l.contains x).getD stOK

/-! ### The device-local address map (Table 1-2) -/

def hbmTop : Nat := 0x012000000000
def regionSpan : Nat := 0x004800000000
def blkBase : Nat := 0x200000000000
def blkSpan : Nat := 0x2000000
def blkSize : Nat := 0x1800000
def cellBase : Nat := 0x200040000000
def cellSpan : Nat := 0x200000
def cellSize : Nat := 0x180000

def blkAddr (b : Nat) : Nat := blkBase + b * blkSpan
def cellAddr (n : Nat) : Nat := cellBase + n * cellSpan

/-- A memory of the device: HBM as a whole, one block store, one cell store (R215). -/
inductive Mem where
  | hbm
  | blk (b : Nat)
  | cell (n : Nat)
  deriving DecidableEq, Repr

/-- The memory that holds a byte; none in windows, unpopulated and unmapped ranges (R22). -/
def memOf (a : Nat) : Option Mem :=
  if a < hbmTop then some .hbm
  else if blkBase ≤ a ∧ a < blkAddr 20 ∧ (a - blkBase) % blkSpan < blkSize then
    some (.blk ((a - blkBase) / blkSpan))
  else if cellBase ≤ a ∧ a < cellAddr 160 ∧ (a - cellBase) % cellSpan < cellSize then
    some (.cell ((a - cellBase) / cellSpan))
  else none

/-- Does `[a, a + n)` lie wholly within one memory `m`? An empty range lies anywhere. -/
def inMem (m : Mem) (a n : Nat) : Bool :=
  match n with
  | 0 => true
  | k + 1 => memOf a == some m && memOf (a + k) == some m

/-- The memory that holds all of `[a, a + n)`, n > 0. -/
def rangeMem (a n : Nat) : Option Mem :=
  match memOf a with
  | some m => if inMem m a n then some m else none
  | none => none

/-- The region that owns an address of a memory (R21). -/
def Mem.region (a : Nat) : Mem → Nat
  | .hbm => a / regionSpan
  | .blk b => b / 5
  | .cell n => n / 40

def regionOf (a : Nat) : Option Nat := (memOf a).map (Mem.region a)

/-- The stack that holds an HBM address (R253). -/
def stackOf (a : Nat) : Nat := 3 * (a / regionSpan) + a % regionSpan / 4096 % 3

/-- The address within its stack (R253). -/
def stackAddr (a : Nat) : Nat := a % regionSpan / 12288 * 4096 + a % regionSpan % 4096

/-- The pseudo-channel that serves an HBM address (R253). -/
def pseudoChannel (a : Nat) : Nat := natBits (stackAddr a) 11 7 ^^^ natBits (stackAddr a) 16 12

/-! ### Units -/

def State.cell (s : State) (n : Nat) : Cell := fget {} s.cells n
def State.setCell (s : State) (n : Nat) (c : Cell) : State := { s with cells := fset {} s.cells n c }
def State.updCell (s : State) (n : Nat) (f : Cell → Cell) : State := s.setCell n (f (s.cell n))
def State.block (s : State) (n : Nat) : Block := fget {} s.blocks n
def State.setBlock (s : State) (n : Nat) (b : Block) : State := { s with blocks := fset {} s.blocks n b }
def State.updBlock (s : State) (n : Nat) (f : Block → Block) : State := s.setBlock n (f (s.block n))
def State.region (s : State) (n : Nat) : Region := fget {} s.regions n
def State.setRegion (s : State) (n : Nat) (r : Region) : State :=
  { s with regions := fset {} s.regions n r }
def State.updRegion (s : State) (n : Nat) (f : Region → Region) : State := s.setRegion n (f (s.region n))
def State.hbm (s : State) (n : Nat) : Hbm := fget {} s.hbms n
def State.updHbm (s : State) (n : Nat) (f : Hbm → Hbm) : State :=
  { s with hbms := fset {} s.hbms n (f (s.hbm n)) }
def State.updHub (s : State) (f : Hub → Hub) : State := { s with hub := f s.hub }
def State.updMbx (s : State) (f : Mbx → Mbx) : State := { s with mbx := f s.mbx }
def State.updGth (s : State) (f : Girth → Girth) : State := { s with gth := f s.gth }
def State.emit (s : State) (o : Out) : State := { s with out := o :: s.out }

/-- Add `n` to the counter at a register offset; counters wrap at 2^64. -/
def ctrAdd (m : FMap DWord) (off n : Nat) : FMap DWord := fset 0 m off (fget 0 m off + BitVec.ofNat 64 n)

def Cell.bump (off n : Nat) (c : Cell) : Cell := { c with ctr := ctrAdd c.ctr off n }
def Block.bump (off n : Nat) (b : Block) : Block := { b with ctr := ctrAdd b.ctr off n }
def Hbm.bump (off n : Nat) (h : Hbm) : Hbm := { h with ctr := ctrAdd h.ctr off n }
def Mbx.bump (off n : Nat) (m : Mbx) : Mbx := { m with ctr := ctrAdd m.ctr off n }

def State.ctx (s : State) (cx : Cx) : Ctx := fget {} (s.cell cx.cell).ctxs cx.ctx
def Cell.updCtx (c : Cell) (k : Nat) (f : Ctx → Ctx) : Cell := { c with ctxs := fupd {} c.ctxs k f }
def State.updCtx (s : State) (cx : Cx) (f : Ctx → Ctx) : State :=
  s.updCell cx.cell fun c => c.updCtx cx.ctx f

def Cell.updArr (c : Cell) (f : Arr → Arr) : Cell := { c with arr := f c.arr }
def State.updArr (s : State) (n : Nat) (f : Arr → Arr) : State := s.updCell n fun c => c.updArr f

/-! ### Fences (Table 1-8) -/

def fencedRegion (s : State) (r : Nat) : Bool := (s.region r).fence.getLsbD 63
def fencedCell (s : State) (n : Nat) : Bool :=
  (s.region (n / 40)).fence.getLsbD (n % 40) || fencedRegion s (n / 40)
def fencedBlock (s : State) (b : Nat) : Bool :=
  (s.region (b / 5)).fence.getLsbD (40 + b % 5) || fencedRegion s (b / 5)
def fencedLink (s : State) (l : Nat) : Bool :=
  (s.region (l / 6)).fence.getLsbD (48 + l % 6) || fencedRegion s (l / 6)

/-- Is the memory at `a` out of service (R34)? DESIGN CHOICE: the store of a fenced block or cell of a region in service
stays reachable (log entry 83). -/
def fencedAddr (s : State) (a : Nat) : Bool :=
  match regionOf a with
  | some r => fencedRegion s r
  | none => false

/-- Does `[a, a + n)` touch memory of a fenced region (R34)? -/
def fencedSpan (s : State) (a n : Nat) : Bool :=
  decide (0 < n) && (fencedAddr s a || fencedAddr s (a + n - 1)
    || (decide (a < hbmTop) && (List.range 4).any fun r =>
      fencedRegion s r && decide (a < (r + 1) * regionSpan) && decide (r * regionSpan < a + n)))

/-! ### Free values (log entry 5) -/

/-- Draw a fresh free value. -/
def State.draw (s : State) : Nat × State := (Config.free s.fresh, { s with fresh := s.fresh + 1 })

/-! ### Memory and poison -/

/-- Bytes that one check value or one set of check bits covers: a 64-byte HBM block (R260), a 64-bit
SRAM word (R265). -/
def unitSize (a : Nat) : Nat := if a < hbmTop then 64 else 8
def unitBase (a : Nat) : Nat := a / unitSize a * unitSize a

def rdByte (s : State) (a : Nat) : Byte := fget 0 s.mem a
def rdBytes (s : State) (a n : Nat) : List Byte := fgets 0 s.mem a n
def rdNat (s : State) (a n : Nat) : Nat := leNat (rdBytes s a n)

/-- Does the byte at `a` lie in a poisoned block or word? -/
def bad (s : State) (a : Nat) : Bool := fget false s.poison (unitBase a)

/-- Does any byte of `[a, a + n)` lie in a poisoned block or word? -/
def badRange (s : State) (a n : Nat) : Bool := (List.range n).any fun i => bad s (a + i)

def setBad (s : State) (a : Nat) (b : Bool) : State :=
  { s with poison := fset false s.poison (unitBase a) b }

/-- Write bytes that lie within one block or word: a whole write clears the poison; a partial write into
poison zeroes the other bytes and leaves the poison (R262, R265). The HBM controller counts (Table 9-8). -/
def writeUnit (s : State) (a : Nat) (bs : List Byte) : State :=
  let whole := decide (bs.length = unitSize a)
  let b := bad s a
  let m0 := if b && !whole then fsets 0 s.mem (unitBase a) (List.replicate (unitSize a) 0) else s.mem
  let s1 : State := { s with mem := fsets 0 m0 a bs }
  let s2 := if b && whole then setBad s1 a false else s1
  if a < hbmTop then
    s2.updHbm (stackOf a) fun h => (h.bump 0x10 bs.length).bump 0x18 (b2n (!whole))
  else s2

/-- Cut a byte list at block and word boundaries; `fuel` is at least its length. -/
def pieces : Nat → Nat → List Byte → List (Nat × List Byte)
  | 0, _, _ => []
  | _ + 1, _, [] => []
  | k + 1, a, b :: bs =>
    let n := unitSize a - (a - unitBase a)
    (a, (b :: bs).take n) :: pieces k (a + n) ((b :: bs).drop n)

/-- Write a list of bytes at consecutive addresses. -/
def memWrite (s : State) (a : Nat) (bs : List Byte) : State :=
  (pieces bs.length a bs).foldl (fun s p => writeUnit s p.1 p.2) s

/-- HBM blocks that a read of `[a, a + n)` takes. -/
def blocksOf (a n : Nat) : List Nat :=
  if n = 0 ∨ hbmTop ≤ a then [] else (List.range ((a + n + 63) / 64 - a / 64)).map (a / 64 + ·)

/-- The controllers count blocks that are read, whole, and those of them that are poisoned (Table 9-8, log entry 78). -/
def countBlocks (s : State) (l : List Nat) : State :=
  l.foldl (fun s b => s.updHbm (stackOf (64 * b)) fun h => (h.bump 0x08 64).bump 0x30 (b2n (bad s (64 * b)))) s

def countReads (s : State) (a n : Nat) : State := countBlocks s (blocksOf a n)

/-- Does the write meet R262's partial write into poison? -/
def hitsPoison (s : State) (a : Nat) (bs : List Byte) : Bool :=
  (pieces bs.length a bs).any fun p => bad s p.1 && decide (p.2.length ≠ unitSize p.1)

/-- The CRC-16 of R260 over a list of bytes, most significant bit of each byte first. -/
def crc16Byte (crc : Nat) (b : Byte) : Nat :=
  (List.range 8).foldl
    (fun c i =>
      let top := natBit c 15 != natBit b.toNat (7 - i)
      let c' := c * 2 % 65536
      if top then c' ^^^ 0x1021 else c')
    crc

def crc16 (bs : List Byte) : Nat := bs.foldl crc16Byte 0xFFFF

/-- The check value that the stack stores beside a block (R260, R261). -/
def storedCrc (s : State) (a : Nat) : Nat :=
  let c := crc16 (rdBytes s (unitBase a) 64)
  if bad s a then c ^^^ 0x5A5A else c

/-! ### Registers of a context -/

def sget (c : Ctx) (i : Nat) : DWord := if i = 0 then 0 else fget 0 c.sreg i
/-- R130: a write to s0 is discarded. -/
def sset (c : Ctx) (i : Nat) (v : DWord) : Ctx := if i = 0 then c else { c with sreg := fset 0 c.sreg i v }
def vget (c : Ctx) (r i : Nat) : Word := fget 0 c.vreg (512 * r + i)
def vset (c : Ctx) (r i : Nat) (v : Word) : Ctx := { c with vreg := fset 0 c.vreg (512 * r + i) v }
def mget (c : Ctx) (i : Nat) : BitVec 512 := fget 0 c.mask i
def mset (c : Ctx) (i : Nat) (v : BitVec 512) : Ctx := { c with mask := fset 0 c.mask i v }

/-- The 512 lanes of a vector register. -/
def vlanes (c : Ctx) (r : Nat) : List Word := fgets 0 c.vreg (512 * r) 512
def vwrite (c : Ctx) (r : Nat) (l : List Word) : Ctx := { c with vreg := fsets 0 c.vreg (512 * r) l }

/-- A mask from its bits, bit 0 first. -/
def maskOf (l : List Bool) : BitVec 512 := BitVec.ofNat 512 (l.foldr (fun b n => b2n b + 2 * n) 0)

/-! ### The operation table -/

def State.op? (s : State) (id : OpId) : Option OpEntry := s.ops.find? fun e => e.id == id

def State.updOp (s : State) (id : OpId) (f : OpEntry → OpEntry) : State :=
  { s with ops := s.ops.map fun e => if e.id == id then f e else e }

def State.dropOp (s : State) (id : OpId) : State := { s with ops := s.ops.filter fun e => e.id != id }

/-- One status more that applied to the operation (R389). -/
def OpEntry.addStat (st : Nat) (e : OpEntry) : OpEntry :=
  if st = stOK || e.stats.contains st then e else { e with stats := e.stats ++ [st] }

def State.addStat (s : State) (id : OpId) (st : Nat) : State := s.updOp id (OpEntry.addStat st)

/-- Field of a copied descriptor: `n` bytes at `off`, little-endian. -/
def fld (d : List Byte) (off n : Nat) : Nat := leNat ((d.drop off).take n)
/-- Bits [hi:lo] of the field. -/
def fldBits (d : List Byte) (off n hi lo : Nat) : Nat := natBits (fld d off n) hi lo
/-- Are the bytes `[lo, hi)` all zero? -/
def zeros (d : List Byte) (lo hi : Nat) : Bool := ((d.drop lo).take (hi - lo)).all fun b => b == 0

/-- The outcome of an operation is decided: its record waits for commit. A marked operation keeps the
outcome of its mark (R393). -/
def OpEntry.finish (st : Nat) (e : OpEntry) : OpEntry :=
  match e.phase with
  | .aborting => e
  | _ => { e.addStat st with phase := .finished }

def State.finishOp (s : State) (id : OpId) (st : Nat) : State := s.updOp id (OpEntry.finish st)

/-- A correlated device (R365): its keeper or its ward shares, or may share, its power domain. -/
def Hrw.correlated (h : Hrw) : Bool := h.keeperShares || h.wardShares

/-! ### Outcomes -/

/-- A command whose condition does not hold leaves the state as it is (log entry 2). -/
abbrev Res := Host.Outcome State Fault Refusal

end Sys2Proof.Machine
end

