-- ==== Sys2Proof/Machine/Flags.lean ====
section
/-! DEFINITION. Counting of events and values (R66, R171, R302, R303). -/

namespace Sys2Proof.Machine

/-- No format: events of items that are not tensor elements (R66). -/
def noFmt : Nat := 99

/-- Word of a tag's telemetry entry that counts VALUES of format `f` (Table 10-9). -/
def tlmValues (f : Nat) : Nat := 5 * f
/-- Word that counts events of class `c` over all formats. -/
def tlmClass (c : Nat) : Nat := 60 + c

/-- A 32-bit saturating count (R303). -/
def tlmAdd (key n : Nat) (t : Tlm) : Tlm :=
  if n = 0 then t
  else
    let v := (fget 0 t.live key).toNat + n
    if v < 2 ^ 32 then { t with live := fset 0 t.live key (BitVec.ofNat 32 v) }
    else { t with live := fset 0 t.live key (BitVec.ofNat 32 (2 ^ 32 - 1)), flags := t.flags ||| 4 }

/-- Charge `n` events of class `c` to a format and a tag (R66, R302). Classes 0 to 3 have words of their
own in a format's entry. -/
def tlmEvent (fmt tag c n : Nat) (t : Tlm) : Tlm :=
  let t1 := tlmAdd (80 * tag + tlmClass c) n t
  if fmt < 12 ∧ c < 4 then tlmAdd (80 * tag + 5 * fmt + 1 + c) n t1 else t1

/-- Charge a list of event classes, in class order. -/
def tlmEvents (fmt tag : Nat) (evs : List Nat) (t : Tlm) : Tlm :=
  (List.range 10).foldl (fun t c => tlmEvent fmt tag c (evs.count c) t) t

def State.updTlm (s : State) (r : Nat) (f : Tlm → Tlm) : State :=
  s.updRegion r fun g => { g with tlm := f g.tlm }

/-- Charge events in region `r`. -/
def chargeEvents (s : State) (r fmt tag : Nat) (evs : List Nat) : State :=
  if evs.isEmpty then s else s.updTlm r (tlmEvents fmt tag evs)

/-- An operation is refused at its body; a poisoned image, argument block, record or array counts one event
(R264), charged to the home region. -/
def refuseLoad (s : State) (e : OpEntry) (st : Nat) : State :=
  (if st = stPOISON then chargeEvents s e.region noFmt 0 [evPoison] else s).finishOp e.id st

/-- Charge (format, class) pairs in region `r`. -/
def chargePairs (s : State) (r tag : Nat) (evs : List (Nat × Nat)) : State :=
  (List.range 14).foldl
    (fun s f => chargeEvents s r f tag ((evs.filter fun p => p.1 == f).map Prod.snd)) s

/-- Count `n` values of a destination format and tag in region `r` (R302). -/
def countValues (s : State) (r fmt tag n : Nat) : State :=
  if fmt < 12 then s.updTlm r (tlmAdd (80 * tag + tlmValues fmt) n) else s

/-- Cell-window offset of CELL_VEC_EVT n (Table 5-14). -/
def offVecEvt (c : Nat) : Nat := 0x1240 + 8 * c

def bumpVecEvt (evs : List Nat) (c : Cell) (k : Nat) : Cell :=
  if evs.count k = 0 then c else c.bump (offVecEvt k) (evs.count k)

/-- Events of one instruction of a context (R171): the cell's counters, the context's EVT bits, and the
charge to format and tag. -/
def vecEvents (s : State) (cx : Cx) (fmt tag : Nat) (evs : List Nat) : State :=
  if evs.isEmpty then s
  else
    let s1 := s.updCell cx.cell fun c => (List.range 10).foldl (bumpVecEvt evs) c
    let s2 := s1.updCtx cx fun c =>
      { c with evt := evs.foldl (fun e k => e ||| BitVec.ofNat 64 (2 ^ k)) c.evt }
    chargeEvents s2 (cx.cell / 40) fmt tag evs

end Sys2Proof.Machine
end

