-- ==== Sys2Proof/Machine/Operands.lean ====
section
/-! DEFINITION. Operand forms: format descriptors and codebooks of a cell (R53, R58), elements packed in
memory (R46), scale groups (R48 to R52), and the encoding of element runs into memory. -/

namespace Sys2Proof.Machine

/-! ### Format descriptors and codebooks -/

/-- The format that entry `i` of a cell's format-descriptor table names (Table 2-4). -/
def fmtOf (c : Cell) (i : Nat) : Nat := (fget 0 c.fmt i).toNat % 16
def slotOf (c : Cell) (i : Nat) : Nat := natBits (fget 0 c.fmt i).toNat 6 4
def roundOf (c : Cell) (i : Nat) : Nat := natBits (fget 0 c.fmt i).toNat 11 10

def cb16Of (c : Cell) (slot : Nat) : Codebook :=
  (List.range 16).map fun i => decodeFp fE4M3 (fget 0 c.cb16 (16 * slot + i)).toNat
def cb256Of (c : Cell) (slot : Nat) : Codebook :=
  (List.range 256).map fun i => decodeFp fBF16 (fget 0 c.cb256 (256 * slot + i)).toNat

/-- A format in use: its code and, for a codebook format, the codebook. -/
structure Fmt where
  code : Nat := 0
  cb : Codebook := []
  deriving DecidableEq, Repr

/-- The format of a descriptor index, with the cell's codebook. -/
def Fmt.ofDesc (c : Cell) (i : Nat) : Fmt :=
  let f := fmtOf c i
  ⟨f, if f = fCB16 then cb16Of c (slotOf c i) else if f = fCB256 then cb256Of c (slotOf c i) else []⟩

/-- A format without a codebook, for units that name format codes (R216). -/
def Fmt.plain (f : Nat) : Fmt := ⟨f, []⟩

def Fmt.bits (f : Fmt) : Nat := fmtBits f.code
def Fmt.scaled (f : Fmt) : Bool := fmtScaled f.code
def Fmt.isInt (f : Fmt) : Bool := fmtInt f.code

/-- Decode one code (R44, R47, R53). -/
def Fmt.decode (f : Fmt) (c : Nat) : Val :=
  if f.code = fINT8 then decodeInt 8 c
  else if f.code = fINT4 then decodeInt 4 c
  else if f.code = fINT32 then decodeInt 32 c
  else if fmtCodebook f.code then f.cb.getD c .nan
  else decodeFp f.code c

/-- What a poisoned element reads as (R66 class 7). -/
def Fmt.poisonVal (f : Fmt) : Val := if f.isInt then Val.zero else .nan

/-- A value under scale code `sc` (R49). -/
def withScale (sc : Nat) (v : Val) : Val := if sc = 255 then .nan else v.scale ((sc : Int) - 127)

/-! ### Elements in memory -/

/-- Bytes that `n` elements from element 0 occupy (R46, R138). -/
def elemBytes (w n : Nat) : Nat := (w * n + 7) / 8

/-- The code of element `i` of a packed run of `w`-bit elements at `a` (R46). -/
def elemCode (s : State) (a w i : Nat) : Nat :=
  let p := i * w
  let n := (p % 8 + w + 7) / 8
  rdNat s (a + p / 8) n / 2 ^ (p % 8) % 2 ^ w

/-- Does element `i` lie in a poisoned block or word? -/
def elemBad (s : State) (a w i : Nat) : Bool :=
  let p := i * w
  badRange s (a + p / 8) ((p % 8 + w + 7) / 8)

/-- A tensor operand in memory: base, format, and the base of its scale array. -/
structure Opnd where
  base : Nat := 0
  fmt : Fmt := {}
  scale : Nat := 0
  deriving DecidableEq, Repr

/-- The scale code of group `g`, 255 when its byte is poisoned (R127), 127 for an unscaled operand; and
whether the byte is poisoned. -/
def Opnd.scaleAt (s : State) (o : Opnd) (g : Nat) : Nat × Bool :=
  if o.fmt.scaled then
    if bad s (o.scale + g) then (255, true) else ((rdByte s (o.scale + g)).toNat, false)
  else (127, false)

/-- Element `i`, in scale group `g`: its exact value, and whether it was read from poison. -/
def Opnd.elem (s : State) (o : Opnd) (i g : Nat) : Val × Bool :=
  if elemBad s o.base o.fmt.bits i then (o.fmt.poisonVal, true)
  else
    let (sc, pb) := o.scaleAt s g
    if o.fmt.scaled then (withScale sc (o.fmt.decode (elemCode s o.base o.fmt.bits i)), pb)
    else (o.fmt.decode (elemCode s o.base o.fmt.bits i), false)

/-- Element `i` of a linear stream: groups of 128 (R141). -/
def Opnd.lin (s : State) (o : Opnd) (i : Nat) : Val × Bool := o.elem s i (i / 128)

/-! ### Encoding -/

/-- A codebook entry for a value rounded toward zero (R166): the entry of the value's sign and of the greatest
magnitude that does not exceed it; where the codebook has none, the entry of R57 (log entry 73). -/
def encodeCbDown (cb : Codebook) (cb16 : Bool) (v : Val) : Nat × List Nat × Bool :=
  let below := idxWhere cb fun x => x.isFinite && x.abs.le v.abs && (x.isZero || x.neg? == v.neg?)
  match bestIdx cb (fun a b => b.abs.lt a.abs) below with
  | some i => if v.isFinite then (i, if !v.isZero && (cb.getD i .nan).isZero then [evVan] else [], false) else encodeCb cb cb16 v
  | none => encodeCb cb cb16 v

/-- Encode one value into an unscaled format; for CB16 and scaled formats the value is already divided by
its scale. The `Bool` asks for scale code 0xFF (R51, R57). -/
def Fmt.encode (f : Fmt) (r : Rnd) (v : Val) : Nat × List Nat × Bool :=
  if f.code = fINT8 then let (c, e) := encodeInt 8 r v; (c, e, false)
  else if f.code = fINT4 then let (c, e) := encodeInt 4 r v; (c, e, false)
  else if f.code = fINT32 then let (c, e) := encodeInt 32 r v; (c, e, false)
  else if fmtCodebook f.code then
    (if r = .tz then encodeCbDown f.cb (f.code == fCB16) v else encodeCb f.cb (f.code == fCB16) v)
  else
    let (c, e) := encodeFp f.code r v
    (c, e, v.isNan && !hasNan f.code)

/-- Has the format, with its codebook, a code for NaN? -/
def Fmt.hasNan (f : Fmt) : Bool :=
  if fmtCodebook f.code then f.cb.any Val.isNan else f.isInt || Machine.hasNan f.code

/-- The largest finite magnitude of the destination (R51 step 1), none when it is 0. -/
def Fmt.maxMag (f : Fmt) : Option (Nat × Int) :=
  let v := if fmtCodebook f.code then
      f.cb.foldl (fun acc x => if x.isFinite then Val.maxv acc x.abs else acc) Val.zero
    else let (m, e) := maxFin (fpLayout f.code); .fin false m e
  match v with
  | .fin _ m e => if m = 0 then none else some (m, e)
  | _ => none

/-- The scale code that R51 computes for a group's values. -/
def computeScale (f : Fmt) (vals : List Val) : Nat :=
  let a := vals.foldl (fun acc x => if x.isFinite then Val.maxv acc x.abs else acc) Val.zero
  match a, f.maxMag with
  | .fin _ m e, some (mm, me) => if m = 0 then 127 else scaleCode m e mm me
  | _, _ => 127

/-- Is the group set to NaN as a whole (R51, R52)? -/
def nanGroup (f : Fmt) (vals : List Val) : Bool := !f.hasNan && vals.any Val.isNan

/-- An encoded scale group: the scale byte, and code and events of each element. -/
structure EncGroup where
  scale : Nat
  elems : List (Nat × List Nat)
  deriving DecidableEq, Repr

/-- Encode a group under scale code `sc`, rounding element `i` by `rnd i` (R51 step 4, R52). A NaN group
takes scale byte 0xFF and counts its NaN elements only. -/
def encodeGroup (f : Fmt) (rnd : Nat → Rnd) (sc : Nat) (vals : List Val) : EncGroup :=
  let ng := nanGroup f vals
  let one (p : Val × Nat) : Nat × List Nat :=
    let (c, e, _) := f.encode (rnd p.2) (p.1.scale (127 - (sc : Int)))
    (c, if ng then (if p.1.isNan then [evInv] else []) else e)
  { scale := if ng then 255 else sc, elems := (vals.zip (List.range vals.length)).map one }

/-! ### Writing runs of elements -/

/-- Maximal runs of present entries, each with its first index. -/
def runs : Nat → List (Option Nat) → List (Nat × List Nat)
  | _, [] => []
  | i, none :: t => runs (i + 1) t
  | i, some c :: t =>
    match runs (i + 1) t with
    | (j, cs) :: rest => if j = i + 1 then (i, c :: cs) :: rest else (i, [c]) :: (j, cs) :: rest
    | [] => [(i, [c])]

/-- The number that packs a list of `w`-bit codes, the first lowest. -/
def packNat (w : Nat) (cs : List Nat) : Nat := cs.foldr (fun c n => c % 2 ^ w + 2 ^ w * n) 0

/-- The bytes, and their first address, that a run of `w`-bit codes from element `i` leaves; bits of the
first and last byte outside the run keep their values (R138). -/
def runBytes (s : State) (a w i : Nat) (cs : List Nat) : Nat × List Byte :=
  let p := i * w
  let q := p + w * cs.length
  let first := a + p / 8
  let n := (q + 7) / 8 - p / 8
  let lo := p % 8
  let old := rdNat s first n
  let hi := lo + w * cs.length
  (first, leBytes n (old % 2 ^ lo + packNat w cs * 2 ^ lo + old / 2 ^ hi * 2 ^ hi))

/-- Write the present codes of a list that starts at element `i` (inactive elements: none). -/
def writeElems (s : State) (a w i : Nat) (cs : List (Option Nat)) : State :=
  (runs i cs).foldl
    (fun s r => let b := runBytes s a w r.1 r.2; memWrite s b.1 b.2) s

/-- Does a write of these elements meet a partial write into poison (R262)? -/
def elemsHitPoison (s : State) (a w i : Nat) (cs : List (Option Nat)) : Bool :=
  (runs i cs).any fun r => let b := runBytes s a w r.1 r.2; hitsPoison s b.1 b.2

/-! ### Byte ranges of operands -/

/-- Do `[a, a + n)` and `[b, b + m)` share a byte? -/
def overlap (a n b m : Nat) : Bool := decide (a < b + m) && decide (b < a + n) && decide (0 < n) && decide (0 < m)

/-- Address and length of some bytes. -/
abbrev Extent := Nat × Nat

def Extent.meets (x y : Extent) : Bool := overlap x.1 x.2 y.1 y.2

/-- Pitch of a whole blocked tensor of `cols` columns (R206), and its group count G (R208). -/
def pitchOf (f cols : Nat) : Nat := if fmtScaled f then 4 * ceilDiv cols 128 else ceilDiv cols 32
/-- Block bytes (Table 7-1). -/
def blockBytes (f : Nat) : Nat := 128 * fmtBits f

/-- The data of `rows` rows of `n` elements: whole blocks, or elements in memory order (R156). -/
def Opnd.data (o : Opnd) (blk : Bool) (rows n : Nat) : Extent :=
  (o.base, if blk then ceilDiv rows 32 * pitchOf o.fmt.code n * blockBytes o.fmt.code else elemBytes o.fmt.bits (rows * n))

/-- Their scale array; no bytes for an unscaled format. -/
def Opnd.scales (o : Opnd) (blk : Bool) (rows n : Nat) : Extent :=
  (o.scale, if o.fmt.scaled then (if blk then rows * (pitchOf o.fmt.code n / 4) else ceilDiv (rows * n) 128) else 0)

/-- Does a destination overlap a source other than in place: from the same address in the same format (R150)? -/
def Opnd.clash (d o : Opnd) (blk : Bool) (rows n : Nat) : Bool :=
  let same := d.base == o.base && d.fmt == o.fmt
  (!same && (d.data blk rows n).meets (o.data blk rows n))
    || (d.data blk rows n).meets (o.scales blk rows n) || (d.scales blk rows n).meets (o.data blk rows n)
    || (!(same && d.scale == o.scale) && (d.scales blk rows n).meets (o.scales blk rows n))

/-! ### Bit streams (R140) -/

/-- Bit `i` of a bit stream at `a`; the bits of a poisoned word read as 0, as those of MLD do (Table 5-11). -/
def bitAt (s : State) (a i : Nat) : Bool :=
  !bad s (a + i / 8) && (rdByte s (a + i / 8)).getLsbD (i % 8)

/-- Poisoned words among bits `i` to `i + n - 1` of a bit stream: one poison read each, charged to INT32 (Table 5-11,
log entry 74). -/
def bitPoison (s : State) (a i n : Nat) : List (Nat × Nat) :=
  if n = 0 then []
  else
    let bytes := (List.range ((i + n + 7) / 8 - i / 8)).map fun k => a + i / 8 + k
    ((bytes.map unitBase).dedup.filter fun u => fget false s.poison u).map fun _ => (fINT32, evPoison)

/-! ### Reach of a context's accesses (R141, R271) -/

/-- May the context's accesses use the residency pool? -/
def residentOp (s : State) (op : Option OpId) : Bool :=
  match op with
  | some id => match s.op? id with
    | some e => e.resident
    | none => false
  | none => false

/-- Does `[a, a + n)` touch the residency pool of block store `b` (R270)? -/
def inPool (s : State) (b a n : Nat) : Bool :=
  decide (blkAddr b + (s.block b).resBase < a + n) && decide (0 < n)

/-- May a context of `cell` reach `[a, a + n)` (R141, R271)? -/
def reach (s : State) (cx : Cx) (a n : Nat) : Bool :=
  inMem (.cell cx.cell) a n ||
    (inMem (.blk (cx.cell / 8)) a n &&
      (residentOp s (s.ctx cx).op || !inPool s (cx.cell / 8) a n))

/-- May it reach the data and the scales of an operand's rows? -/
def opReach (s : State) (cx : Cx) (o : Opnd) (blk : Bool) (rows n : Nat) : Bool :=
  reach s cx (o.data blk rows n).1 (o.data blk rows n).2 && reach s cx (o.scales blk rows n).1 (o.scales blk rows n).2

end Sys2Proof.Machine
end

