-- ==== Sys2Proof/Machine/Issue.lean ====
section
/-! DEFINITION. Issue of an instruction by a context: the checks common to all, the end of a kernel at a
fault (R132, R143, R146), and helpers shared by the instruction families. -/

namespace Sys2Proof.Machine

/-- Free every context of cell `n` that belongs to operation `id`. -/
def freeCtxs (id : OpId) (c : Cell) : Cell :=
  (List.range 16).foldl
    (fun c k => c.updCtx k fun x =>
      if x.op = some id then { x with st := .free, op := none, stream := none, waited := .ready } else x) c

/-- Every context of the operation stops, on every cell it runs on (R146). -/
def stopKernel (s : State) (id : OpId) : State :=
  match s.op? id with
  | some e => e.cells.foldl (fun s n => s.updCell n (freeCtxs id)) s
  | none => s

/-- DETAIL0 of a kernel that ended at an instruction (Table 13-3). -/
def kernelDetail (cx : Cx) (pc : Nat) : DWord :=
  BitVec.ofNat 64 (cx.cell % 256 * 2 ^ 40 + cx.ctx % 256 * 2 ^ 32 + pc % 2 ^ 32)

/-- The kernel of an operation ends with a status and DETAIL0 (R143, R146). -/
def endKernel (s : State) (id : OpId) (st : Nat) (d0 : DWord) : State :=
  (stopKernel s id).updOp id fun e => { e.finish st with d0 := d0 }

/-- The kernel of a context ends at its instruction. -/
def kernelFault (s : State) (cx : Cx) (st : Nat) : State :=
  let c := s.ctx cx
  match c.op with
  | some id => endKernel s id st (kernelDetail cx c.pc)
  | none => s

/-- Items of an operation that a cell's contexts issued after item number `seq`, and that no unit has started,
perform nothing (R22). -/
def dropAfter (s : State) (n : Nat) (id : OpId) (seq : Nat) : State :=
  let keepP (p : Product) : Bool := p.op != id || decide (p.pid ≤ seq)
  let keepD (i : DmaItem) : Bool := i.op != id || decide (i.seq ≤ seq) || i.issuer.map Cx.cell != some n
  (s.updCell n fun c =>
    { c with dma := { c.dma with queue := c.dma.queue.filter keepD },
             arr := { c.arr with queue := c.arr.queue.filter keepP, dqueue := c.arr.dqueue.filter keepP } }).updBlock
    (n / 8) fun k => { k with gs := { k.gs with queue := k.gs.queue.filter keepD } }

/-- The kernel ends because a product or descriptor that it issued is refused: the record names the AISSUE or
DISSUE, and the items after it perform nothing (R22, R71). -/
def endAtItem (s : State) (n : Nat) (id : OpId) (seq : Nat) (issuer : Option Cx) (pc st : Nat) : State :=
  endKernel (dropAfter s n id seq) id st ((issuer.map fun cx => kernelDetail cx pc).getD 0)

/-- What an instruction comes to: a fault under R143 with its status, a wait for a full queue, or its
effect. -/
inductive Issue where
  | fault (st : Nat)
  | wait
  | go (s : State)
  deriving DecidableEq, Repr

/-- The word at a context's program counter (R132). -/
def fetchWord (s : State) (cx : Cx) : Nat := rdNat s (cellAddr cx.cell + (s.ctx cx).pc) 8

/-- The port that a context needs for its next instruction, or for the next chunk of its stream instruction (R133). -/
def nextPort (s : State) (cx : Cx) : Port :=
  match (s.ctx cx).stream with
  | some t => portOf t.opc
  | none => portOf (opcodeOf (fetchWord s cx))

/-- Does the operation issue into the deferred queue and take grants at low priority: a DEFERRED kernel before its
promotion, an EVAL kernel (Table 10-1, R277, R280, R281)? -/
def issuesDeferred (s : State) (id : OpId) : Bool :=
  match s.op? id with
  | some e => (e.cls == 1 && !e.promoted) || e.cls == 3
  | none => false

/-- Is the context ready, at normal priority, for port `p`? -/
def normalReady (s : State) (p : Port) (cx : Cx) : Bool :=
  (s.ctx cx).st == .ready && ((s.ctx cx).op.map fun id => !issuesDeferred s id).getD false && nextPort s cx == p

/-- Does the arbiter grant the port to the context: a low-priority context takes it only in a cycle in which no
normal-priority context of the cell is ready for it (R280)? -/
def granted (s : State) (cx : Cx) : Bool :=
  !((s.ctx cx).op.map (issuesDeferred s)).getD false
    || !((List.range 16).any fun k => normalReady s (nextPort s cx) ⟨cx.cell, k⟩)
    || Config.portFree cx.cell cx.ctx s.hub.cycle.toNat

/-- May the context issue: it is ready, not inside a stream instruction, its cell runs (R134), and the arbiter grants
it the port? -/
def ready (s : State) (cx : Cx) : Bool :=
  (s.ctx cx).st == .ready && (s.ctx cx).stream.isNone && decide (cx.ctx < 16) && decide (cx.cell < 160)
    && !(s.region (cx.cell / 40)).clkSwitching && granted s cx

/-- Cell-window offset of CELL_VEC_ISSUED. -/
def offIssued : Nat := 0x1208

/-- Past the instruction. -/
def Ctx.advance (c : Ctx) : Ctx := { c with pc := c.pc + 8 }

/-- Charge (format, class) pairs of one instruction. -/
def vecPairs (s : State) (cx : Cx) (tag : Nat) (evs : List (Nat × Nat)) : State :=
  if evs.isEmpty then s
  else (List.range 12).foldl
    (fun s f => vecEvents s cx f tag ((evs.filter fun p => p.1 == f).map Prod.snd)) s

/-- Issue an instruction: the program counter must lie in the cell store (R132), and the word that it
names must not be poisoned (Table 9-4) and must hold no reserved opcode (R142, R143). -/
def issueAt (s : State) (cx : Cx) (w : State → Issue) : State :=
  if ready s cx then
    let pc := (s.ctx cx).pc
    if cellSize < pc + 8 then kernelFault s cx stBOUNDS
    else if badRange s (cellAddr cx.cell + pc) 8 then
      kernelFault (chargeEvents s (cx.cell / 40) noFmt 0 [evPoison]) cx stPOISON
    else if reservedWord (fetchWord s cx) then kernelFault s cx stBADDESC
    else match w s with
      | .fault st =>
        -- a poisoned parameter block counts one poison read (R176, R204)
        kernelFault (if st = stPOISON then vecEvents s cx noFmt 0 [evPoison] else s) cx st
      | .wait => s
      | .go s' => s'.updCell cx.cell (Cell.bump offIssued 1)
  else s

/-- The kernel of the context has met a status that lets it run on (R154). -/
def kStat (s : State) (cx : Cx) (st : Nat) : State :=
  match (s.ctx cx).op with
  | some id => s.addStat id st
  | none => s

/-- MEM_POISON when any of the pairs is a poison read (R154). -/
def kPoison (s : State) (cx : Cx) (evs : List (Nat × Nat)) : State :=
  if evs.any fun p => p.2 == evPoison then kStat s cx stPOISON else s

/-- A kernel's store (R262). -/
def kWrite (s : State) (cx : Cx) (a : Nat) (bs : List Byte) : State :=
  let s' := memWrite s a bs
  if hitsPoison s a bs then kStat s' cx stPOISON else s'

/-- A kernel's store of elements. -/
def kWriteElems (s : State) (cx : Cx) (a w i : Nat) (cs : List (Option Nat)) : State :=
  let s' := writeElems s a w i cs
  if elemsHitPoison s a w i cs then kStat s' cx stPOISON else s'

/-- Each (format, class) once per result (R66), but a poison read for each element read (R264). -/
def once (l : List (Nat × Nat)) : List (Nat × Nat) :=
  (l.filter fun p => p.2 != evPoison).dedup ++ l.filter fun p => p.2 == evPoison

/-- The classes of `evs` that are charged to format `fm`, bit c for class c; a poison read is counted for each element
read and is no such class. -/
def classMask (fm : Nat) (evs : List (Nat × Nat)) : Nat :=
  (List.range 10).foldl (fun n c => if c != evPoison && evs.contains (fm, c) then n ||| 2 ^ c else n) 0

/-- Codes that the spec leaves open, for the elements that are written. -/
def freeCodes (w : Nat) : List Bool → State → List (Option Nat) × State
  | [], s => ([], s)
  | false :: t, s => let r := freeCodes w t s; (none :: r.1, r.2)
  | true :: t, s => let r := freeCodes w t s.draw.2; (some (s.draw.1 % 2 ^ w) :: r.1, r.2)

/-! ### Lane arithmetic (Table 5-5, Table 5-11) -/

/-- Arithmetic of the FP types in format `f`: 0 add, 1 subtract, 2 multiply, 3 FMA, 4 FNMA, 5 divide,
6 minimum, 7 maximum, 8 absolute value, 9 negate, 10 square root. -/
def fpOp (f k : Nat) (a b c : Val) : Val × List Nat :=
  match k with
  | 0 => rounded f (a.add b)
  | 1 => rounded f (a.sub b)
  | 2 => rounded f (a.mul b)
  | 3 => rounded f (a.fma b c)
  | 4 => rounded f (a.negate.fma b c)
  | 5 => divTo f a b
  | 6 => (a.minv b, [])
  | 7 => (a.maxv b, [])
  | 8 => (a.abs, [])
  | 9 => (a.negate, [])
  | _ => sqrtTo f a

/-- Arithmetic of INT32, saturating. -/
def intOp (k : Nat) (a b c : Int) : Int × List Nat :=
  match k with
  | 0 => satI32 (a + b)
  | 1 => satI32 (a - b)
  | 2 => satI32 (a * b)
  | 3 => satI32 (a * b + c)
  | 4 => satI32 (c - a * b)
  | 6 => (min a b, [])
  | 7 => (max a b, [])
  | 8 => satI32 (a.natAbs : Int)
  | _ => satI32 (-a)

/-- Arithmetic modulo 2^32 and bitwise operations on 32 bits: 12 and, 13 or, 14 xor, 15 not, 16 shift
left, 17 shift right. -/
def uintOp (k : Nat) (a b : Word) : Word :=
  match k with
  | 0 => a + b
  | 1 => a - b
  | 2 => a * b
  | 6 => if a.toNat ≤ b.toNat then a else b
  | 7 => if a.toNat ≤ b.toNat then b else a
  | 12 => a &&& b
  | 13 => a ||| b
  | 14 => a ^^^ b
  | 15 => ~~~a
  | 16 => if b.toNat < 32 then a <<< b.toNat else 0
  | _ => if b.toNat < 32 then a >>> b.toNat else 0

/-- VSRA: the count is read unsigned; 32 or more gives 0 or −1. -/
def sraOp (a b : Word) : Word := if b.toNat < 32 then a.sshiftRight b.toNat else a.sshiftRight 31

/-- TY values. -/
def tyF : Nat := 0
def tyI : Nat := 1
def tyU : Nat := 2

/-- The format to which a register result of type `ty` is charged (R153). -/
def tyFmt (ty : Nat) : Nat := if ty = tyF then fFP32 else fINT32

/-- One lane of a register-form arithmetic instruction with operation number `k`. -/
def laneOp (ty k : Nat) (a b c : Word) : Word × List Nat :=
  if ty = tyF then
    let (v, e) := fpOp fFP32 k (f32 a) (f32 b) (f32 c)
    (toF32 v, e)
  else if ty = tyI then
    let (v, e) := intOp k a.toInt b.toInt c.toInt
    (ofI32 v, e)
  else (uintOp k a b, [])

/-- Comparison under predicate `p`: of two values (R153). -/
def cmpVal (p : Nat) (a b : Val) : Bool :=
  match p with
  | 0 => a.eqv b
  | 1 => !(a.eqv b)
  | 2 => a.lt b
  | 3 => a.le b
  | 4 => b.lt a
  | 5 => b.le a
  | 6 => a.isNan || b.isNan
  | _ => !(a.isNan || b.isNan)

/-- The exact value of a lane under its type. -/
def laneVal (ty : Nat) (w : Word) : Val :=
  if ty = tyF then f32 w else if ty = tyI then i32 w else .fin false w.toNat 0

/-! ### The random generator (R163) -/

def philoxRound (k0 k1 : Nat) (x : Nat × Nat × Nat × Nat) : Nat × Nat × Nat × Nat :=
  let p0 := 0xD2511F53 * x.1
  let p1 := 0xCD9E8D57 * x.2.2.1
  ((p1 / 2 ^ 32) ^^^ x.2.1 ^^^ k0, p1 % 2 ^ 32, (p0 / 2 ^ 32) ^^^ x.2.2.2 ^^^ k1, p0 % 2 ^ 32)

def philox : Nat → Nat → Nat → Nat × Nat × Nat × Nat → Nat × Nat × Nat × Nat
  | 0, _, _, x => x
  | n + 1, k0, k1, x =>
    philox n ((k0 + 0x9E3779B9) % 2 ^ 32) ((k1 + 0xBB67AE85) % 2 ^ 32) (philoxRound k0 k1 x)

/-- One 32-bit draw. -/
def rngDraw (seed step : DWord) (stream d : Nat) : Word :=
  let x := philox 10 (seed.toNat % 2 ^ 32) (seed.toNat / 2 ^ 32)
    (d / 4 % 2 ^ 32, stream + 2 ^ 16 * (d / 2 ^ 34), step.toNat % 2 ^ 32, step.toNat / 2 ^ 32)
  BitVec.ofNat 32 (match d % 4 with
    | 0 => x.1
    | 1 => x.2.1
    | 2 => x.2.2.1
    | _ => x.2.2.2)

/-- R166: a uniform value. -/
def uniformVal (w : Word) : Val := .fin false (w.toNat / 256) (-24)

end Sys2Proof.Machine
end

