-- ==== Sys2Proof/Machine/OpWrite.lean ====
section
/-! DEFINITION. Writes of an operation's drain and DMA engines: the slot rules of R286 and R306, the freeze
mask of R295, and poison (R262). -/

namespace Sys2Proof.Machine

/-- Does `[a, a + n)` touch slot `slot` (0 A, 1 B) of the slot table? -/
def hitsSlot (s : State) (slot a n : Nat) : Bool :=
  s.hrw.slots.any fun e => overlap a n (if slot = 0 then e.baseA else e.baseB) e.length

/-- Class of an operation (Table 10-1). -/
def classOp (s : State) (id : OpId) : Nat := ((s.op? id).map OpEntry.cls).getD 0

/-- Classes of Table 10-1. -/
def clsORD : Nat := 0
def clsDEF : Nat := 1
def clsUPD : Nat := 2
def clsEVAL : Nat := 3

/-- May a write of class `cls` to `[a, a + n)` of HBM be performed (R286, R306)? -/
def slotOk (s : State) (cls a n : Nat) : Bool :=
  if hbmTop ≤ a then true
  else if cls = clsUPD then !hitsSlot s s.hrw.current a n
  else if cls = clsEVAL then !(hitsSlot s 0 a n || hitsSlot s 1 a n)
  else true

/-- Is the page of an HBM address frozen (R293)? -/
def frozenAt (s : State) (a : Nat) : Bool := fget false s.frozen (a / 65536)

/-- Does the freeze mask drop a write of class `cls` to the address (R295, R296)? -/
def masked (s : State) (cls : Nat) (priv : Bool) (a : Nat) : Bool :=
  cls == clsUPD && !priv && decide (a < hbmTop) && frozenAt s a

/-- One piece of a write, checked against the freeze mask: a block of a frozen page is dropped and counted
(R295). -/
def maskedPiece (s : State) (id : OpId) (a : Nat) (bs : List Byte) : State :=
  if a < hbmTop && frozenAt s a then
    ((s.updRegion (a / regionSpan) fun g => { g with frzDropped := g.frzDropped + 1 }).addStat id stFROZEN).updOp id
      fun e => { e with dropped := e.dropped + 1 }
  else
    let s' := writeUnit s a bs
    if bad s a && decide (bs.length ≠ unitSize a) then s'.addStat id stPOISON else s'

/-- A write without the mask; a partial write into poison gives the operation MEM_POISON. -/
def plainPiece (s : State) (id : OpId) (a : Nat) (bs : List Byte) : State :=
  let s' := writeUnit s a bs
  if bad s a && decide (bs.length ≠ unitSize a) then s'.addStat id stPOISON else s'

/-- A write of an operation of class `cls`; `priv` bypasses the mask (R296). -/
def opWrite (s : State) (id : OpId) (cls : Nat) (priv : Bool) (a : Nat) (bs : List Byte) : State :=
  (pieces bs.length a bs).foldl
    (fun s p => if cls = clsUPD && !priv then maskedPiece s id p.1 p.2 else plainPiece s id p.1 p.2) s

/-- A kernel's drain write: a write that R286 or R306 forbids is not performed, and the kernel ends with
BOUNDS. -/
def kernelDrainWrite (s : State) (id : OpId) (a : Nat) (bs : List Byte) : State :=
  let cls := classOp s id
  if slotOk s cls a bs.length then opWrite s id cls false a bs else endKernel s id stBOUNDS 0

end Sys2Proof.Machine
end

