-- ==== Sys2Proof/Machine/VectorReg.lean ====
section
/-! DEFINITION. Register-form instructions of the vector engine (Table 5-5, R136 to R163), one meaning per
instruction over shared lane, reduction, mask and memory operations. -/

namespace Sys2Proof

/-! ### The fields of layout VR as numbers -/

def Vr.d (f : Vr) : Nat := f.vd.toNat
def Vr.a (f : Vr) : Nat := f.va.toNat
def Vr.b (f : Vr) : Nat := f.vb.toNat
def Vr.c (f : Vr) : Nat := f.vc.toNat
def Vr.t (f : Vr) : Nat := f.ty.toNat
def Vr.i (f : Vr) : Nat := f.imm.toNat
def Vr.g (f : Vr) : Nat := f.tag.toNat

end Sys2Proof

namespace Sys2Proof.Machine

/-! ### Checks and operands shared by the layout VR -/


/-- The checks at issue that every VR instruction meets (R142, R143, R144): bit 55, the type, the IMM bits
outside `mask`, and the scalar number of a broadcast. -/
def vrOk (f : Vr) (types : List Nat) (mask : Nat) : Bool :=
  !f.b55 && types.contains f.t && decide (f.i % (mask + 1) = f.i) && (!f.bs || decide (f.b < 16))

/-- Is lane (or mask bit) `i` active (R137)? -/
def vrActive (c : Ctx) (f : Vr) (i : Nat) : Bool := !f.men || (mget c f.msk.toNat).getLsbD i

/-- Operand B of lane `i` (R142). -/
def vrB (c : Ctx) (f : Vr) (i : Nat) : Word :=
  if f.bs then (sget c f.b).setWidth 32 else vget c f.b i

/-- The lanes a VR instruction leaves in VD: `g` on active lanes, else the old lane or zero (R137). -/
def vrResult (c : Ctx) (f : Vr) (g : Nat → Word) : List Word :=
  (List.range 512).map fun i =>
    if vrActive c f i then g i else if f.mz then 0 else vget c f.d i

def vrActives (c : Ctx) (f : Vr) : List Nat := (List.range 512).filter (vrActive c f)

/-- Write VD lane by lane, with events as (format, class) pairs, and count a value per active lane. -/
def vrLanes (s : State) (cx : Cx) (f : Vr) (g : Ctx → Nat → Word × List (Nat × Nat)) : State :=
  let c := s.ctx cx
  let s1 := s.updCtx cx fun c => (vwrite c f.d (vrResult c f fun i => (g c i).1)).advance
  let evs := (vrActives c f).flatMap fun i => once (g c i).2
  let s2 := vecPairs s1 cx f.g evs
  let s3 := countValues s2 (cx.cell / 40) (tyFmt f.t) f.g (vrActives c f).length
  kPoison s3 cx evs

/-- Events of a register result under its type. -/
def tagEv (fmt : Nat) (l : List Nat) : List (Nat × Nat) := l.map fun c => (fmt, c)

/-- Arithmetic with operation number `k` on the types allowed. -/
def vrArith (types : List Nat) (k : Nat) (s : State) (cx : Cx) (f : Vr) : Issue :=
  if vrOk f types 0 then
    .go (vrLanes s cx f fun c i =>
      let r := laneOp f.t k (vget c f.a i) (vrB c f i) (vget c f.c i)
      (r.1, tagEv (tyFmt f.t) r.2))
  else .fault stBADDESC

/-- A lane function without events. -/
def vrPure (types : List Nat) (mask : Nat) (extra : Bool) (g : Ctx → Nat → Word) (s : State) (cx : Cx)
    (f : Vr) : Issue :=
  if vrOk f types mask && extra then .go (vrLanes s cx f fun c i => (g c i, [])) else .fault stBADDESC

/-- VCMP: the bits of m[VD]; inactive bits keep their value or become zero. -/
def vrCmp (s : State) (cx : Cx) (f : Vr) : Issue :=
  if vrOk f [tyF, tyI, tyU] 7 && decide (f.d < 8) then
    .go (s.updCtx cx fun c =>
      (mset c f.d (maskOf ((List.range 512).map fun i =>
        if vrActive c f i then cmpVal f.i (laneVal f.t (vget c f.a i)) (laneVal f.t (vrB c f i))
        else !f.mz && (mget c f.d).getLsbD i))).advance)
  else .fault stBADDESC

/-- VCVT between FP32 and INT32 (R63). -/
def cvtLane (ty to_ : Nat) (w : Word) : Word × List (Nat × Nat) :=
  let v := laneVal ty w
  if to_ = 0 then let (c, e) := encodeFp fFP32 .ne v; (BitVec.ofNat 32 c, tagEv fFP32 e)
  else let (c, e) := encodeInt 32 .ne v; (BitVec.ofNat 32 c, tagEv fINT32 e)

/-! ### Reductions (R155, R158, R159) -/

/-- One level of the tree: lane 2i with lane 2i + 1; an inactive lane leaves its partner unchanged. -/
def treePairs {α : Type} (op : α → α → α) : List (Option α) → List (Option α)
  | some x :: some y :: t => some (op x y) :: treePairs op t
  | some x :: none :: t => some x :: treePairs op t
  | none :: y :: t => y :: treePairs op t
  | [x] => [x]
  | [] => []

/-- `n` levels of the tree. -/
def treeFold {α : Type} (op : α → α → α) : Nat → List (Option α) → Option α
  | 0, l => l.head?.join
  | n + 1, l => treeFold op n (treePairs op l)

/-- A partial result of a floating-point tree with the classes its nodes met. -/
abbrev FNode := Val × List Nat

def fSum (f : Nat) (x y : FNode) : FNode :=
  let r := rounded f (x.1.add y.1)
  (r.1, x.2 ++ y.2 ++ r.2)
def fProd (f : Nat) (x y : FNode) : FNode :=
  let r := rounded f (x.1.mul y.1)
  (r.1, x.2 ++ y.2 ++ r.2)
def fMax (x y : FNode) : FNode := (x.1.maxv y.1, [])
def fMin (x y : FNode) : FNode := (x.1.minv y.1, [])

/-- Reductions by number: 0 sum, 1 product, 2 maximum, 3 minimum, 4 mean, 5 argmax, 6 argmin. -/
def fNode (f k : Nat) : FNode → FNode → FNode :=
  match k with
  | 0 => fSum f
  | 1 => fProd f
  | 2 => fMax
  | 3 => fMin
  | _ => fSum f

def iNode (k : Nat) : Int → Int → Int :=
  match k with
  | 0 => fun x y => x + y
  | 1 => fun x y => x * y
  | 2 => fun x y => max x y
  | _ => fun x y => min x y

/-- Does `y` outrank `x` as a maximum? NaN ranks below everything, +0 above −0 (R158). -/
def outranks (x y : Val) : Bool :=
  if y.isNan then false
  else if x.isNan then true
  else x.lt y || (x.eqv y && x.neg? && !y.neg?)

/-- Is `y` a better argmax (argmin) candidate than `x`? -/
def betterArg (isMin : Bool) (x y : Val) : Bool :=
  if isMin then (if y.isNan then false else if x.isNan then true else outranks y x) else outranks x y

/-- Index of the best of (index, value) pairs in index order; ties to the lowest index (R158). -/
def argBest (isMin : Bool) : List (Nat × Val) → Option (Nat × Val)
  | [] => none
  | p :: t => some (t.foldl (fun b q => if betterArg isMin b.2 q.2 then q else b) p)

/-- The identity of a reduction in a register of type `ty` (R159), as the bits of s[VD]. -/
def redIdentity (ty k : Nat) : DWord :=
  match k with
  | 1 => if ty = tyF then 0x3F800000 else 1
  | 2 => if ty = tyF then 0xFF800000 else if ty = tyI then 0xFFFFFFFF80000000 else 0
  | 3 => if ty = tyF then 0x7F800000 else if ty = tyI then 0x7FFFFFFF else 0xFFFFFFFF
  | 5 => 0xFFFFFFFFFFFFFFFF
  | 6 => 0xFFFFFFFFFFFFFFFF
  | _ => 0

/-- A register-form reduction of the lanes (none: inactive): the bits of s[VD] and the events. -/
def reduceLanes (ty k : Nat) (lanes : List (Option Word)) : DWord × List Nat :=
  let n := (lanes.filter Option.isSome).length
  if n = 0 then (redIdentity ty k, [evEmpty])
  else if k = 5 ∨ k = 6 then
    let ps := ((List.range 512).zip lanes).filterMap fun p => p.2.map fun w => (p.1, laneVal ty w)
    match argBest (k == 6) ps with
    | some (i, _) => (BitVec.ofNat 64 i, [])
    | none => (redIdentity ty k, [evEmpty])
  else if ty = tyF then
    match treeFold (fNode fFP32 k) 9 (lanes.map fun o => o.map fun w => (f32 w, [])) with
    | some (v, e) =>
      if k = 4 then
        let (q, e2) := divTo fFP32 v (.fin false n 0)
        ((toF32 q).setWidth 64, dedupEv (e ++ e2))
      else ((toF32 v).setWidth 64, dedupEv e)
    | none => (redIdentity ty k, [evEmpty])
  else
    match treeFold (iNode k) 9 (lanes.map fun o => o.map fun w =>
        if ty = tyI then w.toInt else (w.toNat : Int)) with
    | some v =>
      if ty = tyI then let (x, e) := satI32 v; (BitVec.ofInt 64 x, e)
      else (BitVec.ofInt 64 v, [])
    | none => (redIdentity ty k, [evEmpty])

def vrLaneOpts (c : Ctx) (f : Vr) (r : Nat) : List (Option Word) :=
  (List.range 512).map fun i => if vrActive c f i then some (vget c r i) else none

/-- A reduction into s[VD]; COUNT takes the number of active lanes. -/
def vrReduce (types : List Nat) (k : Nat) (s : State) (cx : Cx) (f : Vr) : Issue :=
  if vrOk f types 0 && decide (f.d < 16) then
    let c := s.ctx cx
    let r := reduceLanes f.t k (vrLaneOpts c f f.a)
    let fm := if k = 5 ∨ k = 6 then fINT32 else tyFmt f.t
    let s1 := s.updCtx cx fun c =>
      { sset c f.d r.1 with count := BitVec.ofNat 64 (vrActives c f).length }.advance
    .go (countValues (vecPairs s1 cx f.g (tagEv fm r.2)) (cx.cell / 40) fm f.g 1)
  else .fault stBADDESC

/-! ### Mask instructions -/

/-- MAND, MOR, MXOR, MNOT on active bits. -/
def vrMask (two : Bool) (op : Bool → Bool → Bool) (s : State) (cx : Cx) (f : Vr) : Issue :=
  if vrOk f [tyF] 0 && decide (f.d < 8) && decide (f.a < 8) && (!two || decide (f.b < 8)) then
    .go (s.updCtx cx fun c =>
      (mset c f.d (maskOf ((List.range 512).map fun i =>
        if vrActive c f i then op ((mget c f.a).getLsbD i) ((mget c (f.b % 8)).getLsbD i)
        else !f.mz && (mget c f.d).getLsbD i))).advance)
  else .fault stBADDESC

def popBits (m : BitVec 512) : Nat := ((List.range 512).filter fun i => m.getLsbD i).length
def firstBit (m : BitVec 512) : Option Nat := (List.range 512).find? fun i => m.getLsbD i

/-! ### Loads and stores (R152) -/

/-- First byte, from a base, and number of the bytes that the first to the last of the elements `l` occupy at `w` bits
each. -/
def elemSpan (w : Nat) (l : List Nat) : Nat × Nat :=
  match l.head?, l.getLast? with
  | some i, some j => (i * w / 8, elemBytes w (j + 1) - i * w / 8)
  | _, _ => (0, 0)

/-- May the context reach the elements of active lanes at `a` (R137: an inactive lane reads and writes no memory)? -/
def vrReach (s : State) (cx : Cx) (f : Vr) (a w : Nat) : Bool :=
  let sp := elemSpan w (vrActives (s.ctx cx) f)
  reach s cx (a + sp.1) sp.2

/-- Checks common to VLD and VST: alignment and formats; the scale word when the format is scaled. -/
def vrMemOk (s : State) (cx : Cx) (f : Vr) (store : Bool) : Option Nat :=
  let c := s.ctx cx
  let a := (sget c f.a).toNat
  let raw := natBit f.i 4
  let fm := Fmt.ofDesc (s.cell cx.cell) (f.i % 16)
  let si := (sget c (f.a + 1)).toNat
  if !(vrOk f [tyF, tyI, tyU] 0x1F && decide (f.b = 0) && decide (f.a < 16) && decide (a % 64 = 0)) then
    some stBADDESC
  else if raw then
    if f.i % 16 ≠ 0 then some stBADDESC else if vrReach s cx f a 32 then none else some stBOUNDS
  else if f.t = tyU then some stBADDESC
  else if store && f.men && (fm.scaled || decide (fm.bits < 8)) then some stBADDESC
  else if fm.scaled && (decide (f.a = 0) || decide (14 < f.a) || decide (natBits si 62 56 ≠ 0)) then
    some stBADDESC
  else if !(vrReach s cx f a fm.bits) then some stBOUNDS
  else if fm.scaled && !(let sp := elemSpan 8 ((vrActives c f).map fun i => i / 128)
      reach s cx (si % 2 ^ 48 + sp.1) sp.2) then some stBOUNDS
  else none

/-- A decoded element in a register of type `ty` (Table 5-10), with the events of the register's format. -/
def toLane (ty : Nat) (v : Val) : Word × List (Nat × Nat) :=
  if ty = tyF then let (c, e) := encodeFp fFP32 .ne v; (BitVec.ofNat 32 c, tagEv fFP32 e)
  else let (c, e) := encodeInt 32 .ne v; (BitVec.ofNat 32 c, tagEv fINT32 e)

/-- Element `i` of a VLD. -/
def vldLane (s : State) (cx : Cx) (f : Vr) (i : Nat) : Word × List (Nat × Nat) :=
  let c := s.ctx cx
  let a := (sget c f.a).toNat
  if natBit f.i 4 then
    if badRange s (a + 4 * i) 4 then (0, [(tyFmt f.t, evPoison)])
    else (BitVec.ofNat 32 (rdNat s (a + 4 * i) 4), [])
  else
    let fm := Fmt.ofDesc (s.cell cx.cell) (f.i % 16)
    let (v, p) := Opnd.lin s ⟨a, fm, (sget c (f.a + 1)).toNat % 2 ^ 48⟩ i
    let r := toLane f.t v
    -- a poisoned element reads as NaN or 0 (Table 5-11), and NaN into INT32 counts invalid
    (r.1, (if p then [(fm.code, evPoison)] else []) ++ r.2)

def vrLoad (s : State) (cx : Cx) (f : Vr) : Issue :=
  match vrMemOk s cx f false with
  | some st => .fault st
  | none => .go (vrLanes s cx f fun _ i => vldLane s cx f i)

/-- The elements of a VST, in groups of 128 when the format is scaled: scale bytes and coded lanes. -/
def vstGroups (fm : Fmt) (si : Nat) (vals : List Val) : List EncGroup :=
  (List.range 4).map fun g =>
    let vs := (vals.drop (128 * g)).take 128
    let sc := if natBit si 63 then natBits si 55 48 else computeScale fm vs
    encodeGroup fm (fun _ => .ne) sc vs

def vrStore (s : State) (cx : Cx) (f : Vr) : Issue :=
  match vrMemOk s cx f true with
  | some st => .fault st
  | none =>
    let c := s.ctx cx
    let a := (sget c f.a).toNat
    let act := fun i => vrActive c f i
    let s0 := s.updCtx cx Ctx.advance
    let n := (vrActives c f).length
    if natBit f.i 4 then
      let cs := (List.range 512).map fun i => if act i then some (vget c f.d i).toNat else none
      .go (countValues (kWriteElems s0 cx a 32 0 cs) (cx.cell / 40) (tyFmt f.t) f.g n)
    else
      let fm := Fmt.ofDesc (s.cell cx.cell) (f.i % 16)
      let vals := (vlanes c f.d).map (laneVal f.t)
      if fm.scaled then
        let si := (sget c (f.a + 1)).toNat
        let gs := vstGroups fm si vals
        let el := gs.flatMap EncGroup.elems
        let s1 := kWriteElems s0 cx a fm.bits 0 (el.map fun p => some p.1)
        let s2 := kWrite s1 cx (si % 2 ^ 48) (gs.map fun g => BitVec.ofNat 8 g.scale)
        .go (countValues (vecPairs s2 cx f.g (el.flatMap fun p => tagEv fm.code (dedupEv p.2)))
          (cx.cell / 40) fm.code f.g 512)
      else
        let el := vals.map fun v => fm.encode .ne v
        let cs := ((List.range 512).zip el).map fun p => if act p.1 then some p.2.1 else none
        let evs := ((List.range 512).zip el).flatMap fun p =>
          if act p.1 then tagEv fm.code (dedupEv p.2.2.1) else []
        .go (countValues (vecPairs (kWriteElems s0 cx a fm.bits 0 cs) cx f.g evs)
          (cx.cell / 40) fm.code f.g n)

/-- MLD: poisoned words read as zero bits, one event for each (Table 5-11). -/
def vrMaskLoad (s : State) (cx : Cx) (f : Vr) : Issue :=
  let a := (sget (s.ctx cx) f.a).toNat
  if !(vrOk f [tyF] 0 && decide (f.d < 8) && decide (f.a < 16)) then .fault stBADDESC
  else if !(reach s cx a 64) then .fault stBOUNDS
  else
    let bytes := (List.range 64).map fun i => if bad s (a + i) then (0 : Byte) else rdByte s (a + i)
    let words := (((List.range 64).map fun i => unitBase (a + i)).dedup).filter fun u => fget false s.poison u
    let evs := words.map fun _ => (fINT32, evPoison)
    let s1 := s.updCtx cx fun c => (mset c f.d (BitVec.ofNat 512 (leNat bytes))).advance
    .go (kPoison (vecPairs s1 cx f.g evs) cx evs)

def vrMaskStore (s : State) (cx : Cx) (f : Vr) : Issue :=
  let c := s.ctx cx
  let a := (sget c f.a).toNat
  if !(vrOk f [tyF] 0 && decide (f.a < 16)) then .fault stBADDESC
  else if !(reach s cx a 64) then .fault stBOUNDS
  else .go (kWrite (s.updCtx cx Ctx.advance) cx a (leBytes 64 (mget c (f.d % 8)).toNat))

/-! ### Gather and scatter (R160, R162) -/

/-- Checks of the shared fields: none when they hold. -/
def vrGsOk (s : State) (cx : Cx) (f : Vr) (types : List Nat) (add : Bool) : Option Nat :=
  let raw := natBit f.i 12
  let fm := fmtOf (s.cell cx.cell) (natBits f.i 11 8)
  let base := (sget (s.ctx cx) f.b).toNat
  if !(vrOk { f with bs := false } types 0x1FFF && decide (f.b < 16) && decide (f.c < 16)
      && decide (base % 4 = 0)) then some stBADDESC
  else if raw && decide (natBits f.i 11 8 ≠ 0) then some stBADDESC
  else if !raw && !([fFP32, fBF16, fFP16, fINT8, fCB256].contains fm && f.t != tyU) then some stBADDESC
  else if add && !(if raw then f.t == tyI else f.t == tyF && fm == fFP32) then some stBADDESC
  else none

/-- Element bytes of a gather or scatter. -/
def vrGsBytes (s : State) (cx : Cx) (f : Vr) : Nat :=
  if natBit f.i 12 then 4 else fmtBits (fmtOf (s.cell cx.cell) (natBits f.i 11 8)) / 8

/-- Index of lane `i` when it is in range. -/
def vrIndex (c : Ctx) (f : Vr) (i : Nat) : Option Nat :=
  let a := (vget c f.a i).toInt
  if 0 ≤ a ∧ a < ((sget c f.c).toNat : Int) then some a.toNat else none

/-- Do all elements that active lanes name lie where R141 allows? -/
def vrGsReach (s : State) (cx : Cx) (f : Vr) : Bool :=
  let c := s.ctx cx
  let w := vrGsBytes s cx f
  (vrActives c f).all fun i =>
    match vrIndex c f i with
    | some a => reach s cx ((sget c f.b).toNat + w * a) w
    | none => true

/-- The result mask: set for active lanes in range. -/
def vrGsMask (c : Ctx) (f : Vr) : BitVec 512 :=
  maskOf ((List.range 512).map fun i => vrActive c f i && (vrIndex c f i).isSome)

def gathLane (s : State) (cx : Cx) (f : Vr) (i : Nat) : Word × List (Nat × Nat) :=
  let c := s.ctx cx
  let base := (sget c f.b).toNat
  match vrIndex c f i with
  | none =>
    (if natBit f.i 3 then (sget c (natBits f.i 7 4)).setWidth 32 else 0, [(tyFmt f.t, evOob)])
  | some a =>
    if natBit f.i 12 then
      if badRange s (base + 4 * a) 4 then (0, [(tyFmt f.t, evPoison)])
      else (BitVec.ofNat 32 (rdNat s (base + 4 * a) 4), [])
    else
      let fm := Fmt.ofDesc (s.cell cx.cell) (natBits f.i 11 8)
      if elemBad s base fm.bits a then
        let r := toLane f.t fm.poisonVal
        (r.1, (fm.code, evPoison) :: r.2)
      else toLane f.t (fm.decode (elemCode s base fm.bits a))

def vrGather (s : State) (cx : Cx) (f : Vr) : Issue :=
  match vrGsOk s cx f [tyF, tyI, tyU] false with
  | some st => .fault st
  | none =>
    if !(vrGsReach s cx f) then .fault stBOUNDS
    else
      let m := vrGsMask (s.ctx cx) f
      .go ((vrLanes s cx f fun _ i => gathLane s cx f i).updCtx cx fun c => mset c (f.i % 8) m)

/-- Lanes of a scatter grouped by the element they name, in order of first lane. -/
def groupLanes : List (Nat × Nat) → List (Nat × List Nat)
  | [] => []
  | (a, i) :: t =>
    let rest := groupLanes t
    match rest.find? fun p => p.1 == a with
    | some p => (a, i :: p.2) :: rest.filter fun q => q.1 != a
    | none => (a, [i]) :: rest

def vrTargets (c : Ctx) (f : Vr) : List (Nat × List Nat) :=
  groupLanes ((vrActives c f).filterMap fun i => (vrIndex c f i).map fun a => (a, i))

/-- Code and events that lane `i` of a scatter writes. -/
def scatLane (s : State) (cx : Cx) (f : Vr) (i : Nat) : Nat × List (Nat × Nat) :=
  let w := vget (s.ctx cx) f.d i
  if natBit f.i 12 then (w.toNat, [])
  else
    let fm := Fmt.ofDesc (s.cell cx.cell) (natBits f.i 11 8)
    let (c, e, _) := fm.encode .ne (laneVal f.t w)
    (c, tagEv fm.code (dedupEv e))

/-- Out-of-range active lanes of a scatter, one event each. -/
def scatOob (s : State) (cx : Cx) (f : Vr) : List (Nat × Nat) :=
  let c := s.ctx cx
  ((vrActives c f).filter fun i => (vrIndex c f i).isNone).map fun _ => (tyFmt f.t, evOob)

/-- VSCAT: one of the lanes that name an element lands; a free value says which (R162). -/
def scatOne (s : State) (cx : Cx) (f : Vr) (st : State) (t : Nat × List Nat) : State :=
  let w := vrGsBytes s cx f
  let base := (sget (s.ctx cx) f.b).toNat
  let (r, st1) := if t.2.length ≤ 1 then (0, st) else st.draw
  let i := t.2.getD (r % t.2.length) 0
  kWrite st1 cx (base + w * t.1) (leBytes w (scatLane s cx f i).1)

def vrScatter (s : State) (cx : Cx) (f : Vr) : Issue :=
  match vrGsOk s cx f [tyF, tyI, tyU] false with
  | some st => .fault st
  | none =>
    if !(vrGsReach s cx f) then .fault stBOUNDS
    else
      let c := s.ctx cx
      let s1 := (vrTargets c f).foldl (scatOne s cx f) s
      let inr := (vrActives c f).filter fun i => (vrIndex c f i).isSome
      let evs := inr.flatMap (fun i => (scatLane s cx f i).2) ++ scatOob s cx f
      let fm := if natBit f.i 12 then tyFmt f.t else fmtOf (s.cell cx.cell) (natBits f.i 11 8)
      let s2 := s1.updCtx cx fun c => (mset c (f.i % 8) (vrGsMask (s.ctx cx) f)).advance
      .go (countValues (vecPairs s2 cx f.g evs) (cx.cell / 40) fm f.g inr.length)

/-- A list in an order that free values choose; `fuel` is its length. -/
def freeOrder : Nat → State → List Nat → List Nat × State
  | 0, s, _ => ([], s)
  | _ + 1, s, [] => ([], s)
  | _ + 1, s, [x] => ([x], s)
  | k + 1, s, l =>
    let (r, s1) := s.draw
    let i := r % l.length
    let (rest, s2) := freeOrder k s1 (l.eraseIdx i)
    (l.getD i 0 :: rest, s2)

/-- One addition of a scatter-add: FP32 rounded once, or INT32 saturating. -/
def addWord (isInt : Bool) (old new : Word) : Word × List Nat :=
  if isInt then let (v, e) := satI32 (old.toInt + new.toInt); (ofI32 v, e)
  else let (v, e) := fpOp fFP32 0 (f32 old) (f32 new) .nan; (toF32 v, e)

/-- VSCADD on one element: every lane's value is added, in an order that free values choose. A poisoned
word takes no addition (Table 9-4). -/
def scaddOne (s : State) (cx : Cx) (f : Vr) (acc : State × List (Nat × Nat)) (t : Nat × List Nat) :
    State × List (Nat × Nat) :=
  let c := s.ctx cx
  let a := (sget c f.b).toNat + 4 * t.1
  if badRange acc.1 a 4 then
    (kStat acc.1 cx stPOISON, acc.2 ++ t.2.map fun _ => (tyFmt f.t, evPoison))
  else
    let (order, s1) := freeOrder t.2.length acc.1 t.2
    let r := order.foldl
      (fun (p : Word × List Nat) i =>
        let (w, e) := addWord (f.t == tyI) p.1 (vget c f.d i)
        (w, p.2 ++ e))
      (BitVec.ofNat 32 (rdNat s1 a 4), [])
    (kWrite s1 cx a (leBytes 4 r.1.toNat), acc.2 ++ tagEv (tyFmt f.t) r.2)

def vrScatterAdd (s : State) (cx : Cx) (f : Vr) : Issue :=
  match vrGsOk s cx f [tyF, tyI] true with
  | some st => .fault st
  | none =>
    if !(vrGsReach s cx f) then .fault stBOUNDS
    else
      let c := s.ctx cx
      let (s1, evs) := (vrTargets c f).foldl (scaddOne s cx f) (s, [])
      let inr := (vrActives c f).filter fun i => (vrIndex c f i).isSome
      let s2 := s1.updCtx cx fun c => (mset c (f.i % 8) (vrGsMask (s.ctx cx) f)).advance
      .go (countValues (vecPairs s2 cx f.g (evs ++ scatOob s cx f)) (cx.cell / 40) (tyFmt f.t) f.g
        inr.length)

/-! ### The instructions -/

/-- VADD (Table 5-5). -/
def execVadd (cx : Cx) (f : Vr) (s : State) : Res :=
  .next (issueAt s cx fun s =>
    vrArith [tyF, tyI, tyU] 0 s cx f)

/-- VSUB (Table 5-5). -/
def execVsub (cx : Cx) (f : Vr) (s : State) : Res :=
  .next (issueAt s cx fun s =>
    vrArith [tyF, tyI, tyU] 1 s cx f)

/-- VMUL (Table 5-5). -/
def execVmul (cx : Cx) (f : Vr) (s : State) : Res :=
  .next (issueAt s cx fun s =>
    vrArith [tyF, tyI, tyU] 2 s cx f)

/-- VFMA (Table 5-5). -/
def execVfma (cx : Cx) (f : Vr) (s : State) : Res :=
  .next (issueAt s cx fun s =>
    vrArith [tyF, tyI] 3 s cx f)

/-- VFNMA (Table 5-5). -/
def execVfnma (cx : Cx) (f : Vr) (s : State) : Res :=
  .next (issueAt s cx fun s =>
    vrArith [tyF, tyI] 4 s cx f)

/-- VDIV (Table 5-5). -/
def execVdiv (cx : Cx) (f : Vr) (s : State) : Res :=
  .next (issueAt s cx fun s =>
    vrArith [tyF] 5 s cx f)

/-- VMIN (Table 5-5). -/
def execVmin (cx : Cx) (f : Vr) (s : State) : Res :=
  .next (issueAt s cx fun s =>
    vrArith [tyF, tyI, tyU] 6 s cx f)

/-- VMAX (Table 5-5). -/
def execVmax (cx : Cx) (f : Vr) (s : State) : Res :=
  .next (issueAt s cx fun s =>
    vrArith [tyF, tyI, tyU] 7 s cx f)

/-- VABS (Table 5-5). -/
def execVabs (cx : Cx) (f : Vr) (s : State) : Res :=
  .next (issueAt s cx fun s =>
    vrArith [tyF, tyI] 8 s cx f)

/-- VNEG (Table 5-5). -/
def execVneg (cx : Cx) (f : Vr) (s : State) : Res :=
  .next (issueAt s cx fun s =>
    vrArith [tyF, tyI] 9 s cx f)

/-- VSQRT (Table 5-5). -/
def execVsqrt (cx : Cx) (f : Vr) (s : State) : Res :=
  .next (issueAt s cx fun s =>
    vrArith [tyF] 10 s cx f)

/-- VAND (Table 5-5). -/
def execVand (cx : Cx) (f : Vr) (s : State) : Res :=
  .next (issueAt s cx fun s =>
    vrArith [tyU] 12 s cx f)

/-- VOR (Table 5-5). -/
def execVor (cx : Cx) (f : Vr) (s : State) : Res :=
  .next (issueAt s cx fun s =>
    vrArith [tyU] 13 s cx f)

/-- VXOR (Table 5-5). -/
def execVxor (cx : Cx) (f : Vr) (s : State) : Res :=
  .next (issueAt s cx fun s =>
    vrArith [tyU] 14 s cx f)

/-- VNOT (Table 5-5). -/
def execVnot (cx : Cx) (f : Vr) (s : State) : Res :=
  .next (issueAt s cx fun s =>
    vrArith [tyU] 15 s cx f)

/-- VSHL (Table 5-5). -/
def execVshl (cx : Cx) (f : Vr) (s : State) : Res :=
  .next (issueAt s cx fun s =>
    vrArith [tyU] 16 s cx f)

/-- VSHR (Table 5-5). -/
def execVshr (cx : Cx) (f : Vr) (s : State) : Res :=
  .next (issueAt s cx fun s =>
    vrArith [tyU] 17 s cx f)

/-- VSRA (Table 5-5). -/
def execVsra (cx : Cx) (f : Vr) (s : State) : Res :=
  .next (issueAt s cx fun s =>
    vrPure [tyI] 0 true (fun c i => sraOp (vget c f.a i) (vrB c f i)) s cx f)

/-- VCMP: predicate IMM[2:0] into m[VD]. -/
def execVcmp (cx : Cx) (f : Vr) (s : State) : Res :=
  .next (issueAt s cx fun s =>
    vrCmp s cx f)

/-- VSEL: a where m[IMM[2:0]] is 1, else b. -/
def execVsel (cx : Cx) (f : Vr) (s : State) : Res :=
  .next (issueAt s cx fun s =>
    vrPure [tyF, tyI, tyU] 7 true (fun c i => if (mget c f.i).getLsbD i then vget c f.a i else vrB c f i) s cx f)

/-- VCVT: from TY to IMM[1:0], 2 and 3 reserved. -/
def execVcvt (cx : Cx) (f : Vr) (s : State) : Res :=
  .next (issueAt s cx fun s =>
    if vrOk f [tyF, tyI] 1 then .go (vrLanes s cx f fun c i => cvtLane f.t f.i (vget c f.a i))
    else .fault stBADDESC)

/-- VMOV. -/
def execVmov (cx : Cx) (f : Vr) (s : State) : Res :=
  .next (issueAt s cx fun s =>
    vrPure [tyF, tyI, tyU] 0 true (fun c i => vget c f.a i) s cx f)

/-- VBCAST. -/
def execVbcast (cx : Cx) (f : Vr) (s : State) : Res :=
  .next (issueAt s cx fun s =>
    vrPure [tyF, tyI, tyU] 0 (decide (f.a < 16)) (fun c _ => (sget c f.a).setWidth 32) s cx f)

/-- VIOTA: lane number plus the low 32 bits of s[VA], saturating. -/
def execViota (cx : Cx) (f : Vr) (s : State) : Res :=
  .next (issueAt s cx fun s =>
    if vrOk f [tyI] 0 && decide (f.a < 16) then
      .go (vrLanes s cx f fun c i =>
        let r := satI32 ((i : Int) + ((sget c f.a).setWidth 32 : Word).toInt)
        (ofI32 r.1, tagEv fINT32 r.2))
    else .fault stBADDESC)

/-- VPERM: lane b mod 512 of a. -/
def execVperm (cx : Cx) (f : Vr) (s : State) : Res :=
  .next (issueAt s cx fun s =>
    vrPure [tyF, tyI, tyU] 0 true (fun c i => vget c f.a ((vrB c f i).toNat % 512)) s cx f)

/-- VROT: lane (i + IMM[8:0]) mod 512 of a. -/
def execVrot (cx : Cx) (f : Vr) (s : State) : Res :=
  .next (issueAt s cx fun s =>
    vrPure [tyF, tyI, tyU] 0x1FF true (fun c i => vget c f.a ((i + f.i) % 512)) s cx f)

/-- VEXT: one lane into s[VD]. -/
def execVext (cx : Cx) (f : Vr) (s : State) : Res :=
  .next (issueAt s cx fun s =>
    if vrOk f [tyF, tyI, tyU] 0x1FF && decide (f.d < 16) then
      let c := s.ctx cx
      let w := vget c f.a f.i
      let act := vrActive c f f.i
      let s1 := s.updCtx cx fun c =>
        (if act then sset c f.d (if f.t = tyI then w.signExtend 64 else w.setWidth 64)
         else if f.mz then sset c f.d 0 else c).advance
      .go (countValues s1 (cx.cell / 40) (tyFmt f.t) f.g (b2n act))
    else .fault stBADDESC)

/-- VINS: the low 32 bits of s[VA] into one lane; other lanes unchanged. -/
def execVins (cx : Cx) (f : Vr) (s : State) : Res :=
  .next (issueAt s cx fun s =>
    if vrOk f [tyF, tyI, tyU] 0x1FF && decide (f.a < 16) then
      let act := vrActive (s.ctx cx) f f.i
      let s1 := s.updCtx cx fun c =>
        (if act then vset c f.d f.i ((sget c f.a).setWidth 32)
         else if f.mz then vset c f.d f.i 0 else c).advance
      .go (countValues s1 (cx.cell / 40) (tyFmt f.t) f.g (b2n act))
    else .fault stBADDESC)

/-- VRSUM (R155, R158). -/
def execVrsum (cx : Cx) (f : Vr) (s : State) : Res :=
  .next (issueAt s cx fun s =>
    vrReduce [tyF, tyI] 0 s cx f)

/-- VRPROD (R155, R158). -/
def execVrprod (cx : Cx) (f : Vr) (s : State) : Res :=
  .next (issueAt s cx fun s =>
    vrReduce [tyF, tyI] 1 s cx f)

/-- VRMAX (R155, R158). -/
def execVrmax (cx : Cx) (f : Vr) (s : State) : Res :=
  .next (issueAt s cx fun s =>
    vrReduce [tyF, tyI, tyU] 2 s cx f)

/-- VRMIN (R155, R158). -/
def execVrmin (cx : Cx) (f : Vr) (s : State) : Res :=
  .next (issueAt s cx fun s =>
    vrReduce [tyF, tyI, tyU] 3 s cx f)

/-- VRMEAN (R155, R158). -/
def execVrmean (cx : Cx) (f : Vr) (s : State) : Res :=
  .next (issueAt s cx fun s =>
    vrReduce [tyF] 4 s cx f)

/-- VRARGMAX (R155, R158). -/
def execVrargmax (cx : Cx) (f : Vr) (s : State) : Res :=
  .next (issueAt s cx fun s =>
    vrReduce [tyF, tyI, tyU] 5 s cx f)

/-- VRARGMIN (R155, R158). -/
def execVrargmin (cx : Cx) (f : Vr) (s : State) : Res :=
  .next (issueAt s cx fun s =>
    vrReduce [tyF, tyI, tyU] 6 s cx f)

/-- MAND. -/
def execMand (cx : Cx) (f : Vr) (s : State) : Res :=
  .next (issueAt s cx fun s =>
    vrMask true (fun a b => a && b) s cx f)

/-- MOR. -/
def execMor (cx : Cx) (f : Vr) (s : State) : Res :=
  .next (issueAt s cx fun s =>
    vrMask true (fun a b => a || b) s cx f)

/-- MXOR. -/
def execMxor (cx : Cx) (f : Vr) (s : State) : Res :=
  .next (issueAt s cx fun s =>
    vrMask true (fun a b => a != b) s cx f)

/-- MNOT. -/
def execMnot (cx : Cx) (f : Vr) (s : State) : Res :=
  .next (issueAt s cx fun s =>
    vrMask false (fun a _ => !a) s cx f)

/-- MPOP: number of set bits; MSK, MEN and MZ are ignored. -/
def execMpop (cx : Cx) (f : Vr) (s : State) : Res :=
  .next (issueAt s cx fun s =>
    if vrOk f [tyF] 0 && decide (f.d < 16) then
      .go (s.updCtx cx fun c => (sset c f.d (BitVec.ofNat 64 (popBits (mget c (f.a % 8))))).advance)
    else .fault stBADDESC)

/-- MFIRST: lowest set bit, or −1. -/
def execMfirst (cx : Cx) (f : Vr) (s : State) : Res :=
  .next (issueAt s cx fun s =>
    if vrOk f [tyF] 0 && decide (f.d < 16) then
      .go (s.updCtx cx fun c =>
        (sset c f.d (match firstBit (mget c (f.a % 8)) with
          | some i => BitVec.ofNat 64 i
          | none => 0xFFFFFFFFFFFFFFFF)).advance)
    else .fault stBADDESC)

/-- MLD. -/
def execMld (cx : Cx) (f : Vr) (s : State) : Res :=
  .next (issueAt s cx fun s =>
    vrMaskLoad s cx f)

/-- MST. -/
def execMst (cx : Cx) (f : Vr) (s : State) : Res :=
  .next (issueAt s cx fun s =>
    vrMaskStore s cx f)

/-- VLD (Table 5-10). -/
def execVld (cx : Cx) (f : Vr) (s : State) : Res :=
  .next (issueAt s cx fun s =>
    vrLoad s cx f)

/-- VST (Table 5-10). -/
def execVst (cx : Cx) (f : Vr) (s : State) : Res :=
  .next (issueAt s cx fun s =>
    vrStore s cx f)

/-- VRAND: draw (s[VA] + i) mod 2^32 of stream IMM[15:0]; IMM[16] = 1 uniform FP32 (R165, R166). -/
def execVrand (cx : Cx) (f : Vr) (s : State) : Res :=
  .next (issueAt s cx fun s =>
    if vrOk f [tyU, tyF] 0x1FFFF && decide (f.a < 16) && (!natBit f.i 16 || f.t == tyF) then
      .go (vrLanes s cx f fun c i =>
        let w := rngDraw c.seed c.step (f.i % 65536) (((sget c f.a).toNat + i) % 2 ^ 32)
        (if natBit f.i 16 then toF32 (uniformVal w) else w, []))
    else .fault stBADDESC)

/-- VGATH (R160). -/
def execVgath (cx : Cx) (f : Vr) (s : State) : Res :=
  .next (issueAt s cx fun s =>
    vrGather s cx f)

/-- VSCAT (R162). -/
def execVscat (cx : Cx) (f : Vr) (s : State) : Res :=
  .next (issueAt s cx fun s =>
    vrScatter s cx f)

/-- VSCADD (R162). -/
def execVscadd (cx : Cx) (f : Vr) (s : State) : Res :=
  .next (issueAt s cx fun s =>
    vrScatterAdd s cx f)

end Sys2Proof.Machine
end

