-- ==== Sys2Proof/Machine/StreamForm.lean ====
section
/-! DEFINITION. Stream-form instructions (Table 5-6, R138 to R141, R145, R156, R446): the checks at issue,
and the work of one chunk. -/

namespace Sys2Proof

/-! ### The fields of layout VS as numbers -/

def Vs.d (f : Vs) : Nat := f.sd.toNat
def Vs.a (f : Vs) : Nat := f.sa.toNat
def Vs.b (f : Vs) : Nat := f.sb.toNat
def Vs.c (f : Vs) : Nat := f.sc.toNat
def Vs.fd (f : Vs) : Nat := f.fmtD.toNat
def Vs.fa (f : Vs) : Nat := f.fmtA.toNat
def Vs.fb (f : Vs) : Nat := f.fmtB.toNat
def Vs.t (f : Vs) : Nat := f.ct.toNat
/-- COUNT. -/
def Vs.n (f : Vs) : Nat := f.cnt.toNat + 1
def Vs.g (f : Vs) : Nat := f.tag.toNat

end Sys2Proof

namespace Sys2Proof.Machine

/-- The format of a compute type: CT 0 FP32, 1 BF16, 2 FP16, 3 INT32. -/
def ctFmt (ct : Nat) : Nat := if ct = 3 then fINT32 else ct

/-- Elements per chunk (R138). -/
def chunkLen (ct : Nat) : Nat := if ct = 1 ∨ ct = 2 then 1024 else 512

/-- A value converted into CT (R139). -/
def toCt (ct : Nat) (v : Val) : Val × List Nat :=
  if ct = 3 then let (c, e) := encodeInt 32 .ne v; (decodeInt 32 c, e) else roundTo ct v

/-- The INT32 bits of a value that is already one. -/
def valWord (v : Val) : Word := BitVec.ofNat 32 (encodeInt 32 .ne v).1

/-- Operation `k` in CT: on INT32, 12 to 17 are bitwise and 18 is the arithmetic shift. -/
def ctOp (ct k : Nat) (a b c : Val) : Val × List Nat :=
  if ct < 3 then fpOp ct k a b c
  else
    let x := valWord a
    let y := valWord b
    if k = 18 then (i32 (sraOp x y), [])
    else if 12 ≤ k then (i32 (uintOp k x y), [])
    else
      let (v, e) := intOp k x.toInt y.toInt (valWord c).toInt
      (i32 (ofI32 v), e)

/-! ### Operands of a stream instruction -/

/-- The stream operand at address register `r` in descriptor index `fi` (R141, Table 5-2). -/
def stOpnd (s : State) (cx : Cx) (r fi : Nat) : Opnd :=
  let c := s.ctx cx
  ⟨(sget c r).toNat, Fmt.ofDesc (s.cell cx.cell) fi, (sget c (r + 1)).toNat % 2 ^ 48⟩

/-- The scale word s[r + 1]. -/
def stScaleWord (s : State) (cx : Cx) (r : Nat) : Nat := (sget (s.ctx cx) (r + 1)).toNat

/-- A bit stream or record stream at s[r] begins at a multiple of 64 (R141). -/
def stAligned (s : State) (cx : Cx) (r : Nat) : Bool := decide ((sget (s.ctx cx) r).toNat % 64 = 0)

/-- Form of an operand: alignment, and for a scaled format the register and the bits that must be 0. -/
def stForm (s : State) (cx : Cx) (r fi : Nat) : Bool :=
  let o := stOpnd s cx r fi
  decide (o.base % 64 = 0) &&
    (!o.fmt.scaled || (decide (0 < r) && decide (r < 15) && decide (natBits (stScaleWord s cx r) 62 56 = 0)))

/-- Reach of `n` linear elements with their scale bytes. -/
def stReach (s : State) (cx : Cx) (r fi n : Nat) : Bool := opReach s cx (stOpnd s cx r fi) false 1 n

/-- Is element `i` active (R140)? Row `r` of a reduction starts at its own byte (R156). -/
def stActive (s : State) (cx : Cx) (f : Vs) (r i : Nat) : Bool :=
  !f.ms || bitAt s (sget (s.ctx cx) f.c).toNat (r * (8 * ceilDiv f.n 8) + i)

/-- Poison reads of the mask bits of elements `is`, which are consecutive (R154). -/
def maskPoison (s : State) (cx : Cx) (f : Vs) (r : Nat) (is : List Nat) : List (Nat × Nat) :=
  if f.ms then bitPoison s (sget (s.ctx cx) f.c).toNat (r * (8 * ceilDiv f.n 8) + is.headD 0) is.length else []

/-- What an elementwise instruction reads and how it computes. -/
structure EwSpec where
  useA : Bool := true
  useB : Bool := false
  useC : Bool := false
  deriving DecidableEq, Repr

/-- Shared checks of the elementwise instructions: none when they hold; `ok` is the instruction's own
condition on its fields, `dest` says whether s[SD] is a stream in FMT_D. -/
def ewCheck (s : State) (cx : Cx) (f : Vs) (sp : EwSpec) (ok dest : Bool) : Option Nat :=
  let rB := sp.useB && !f.bb
  let usesSc := sp.useC
  if !(ok && !f.blk && (!f.bb || sp.useB) && !(f.ms && usesSc)) then some stBADDESC
  else if !((!sp.useA || stForm s cx f.a f.fa) && (!rB || stForm s cx f.b f.fb)
      && (!sp.useC || stForm s cx f.c f.fb) && (!dest || stForm s cx f.d f.fd)
      && (!f.ms || stAligned s cx f.c)) then some stBADDESC
  else if !((!sp.useA || stReach s cx f.a f.fa f.n) && (!rB || stReach s cx f.b f.fb f.n)
      && (!sp.useC || stReach s cx f.c f.fb f.n) && (!dest || stReach s cx f.d f.fd f.n)
      && (!f.ms || reach s cx (sget (s.ctx cx) f.c).toNat (ceilDiv f.n 8))) then some stBOUNDS
  else none

/-- Begin a stream instruction: it is recorded in the context, and its chunks issue one by one (R149). -/
def beginStream (opc : Nat) (s : State) (cx : Cx) (f : Vs) : State :=
  s.updCtx cx fun c => { c with stream := some { opc := opc, f := f } }

/-- Issue of a checked stream instruction. -/
def stIssue (opc : Nat) (chk : Option Nat) (s : State) (cx : Cx) (f : Vs) : Issue :=
  match chk with
  | some st => .fault st
  | none => .go (beginStream opc s cx f)

/-! ### Storing a chunk of results -/

/-- A result before it is encoded: its exact value, and whether it is an identity that counts no event
(R159). -/
structure Res1 where
  v : Val
  ident : Option Nat := none
  deriving DecidableEq, Repr

/-- Encode and store the results of elements `i0` onward (none: inactive), `i0` a multiple of 128 when the
format is scaled, rounding by `rnd`; answers the events of each element. -/
def storeElems (s : State) (cx : Cx) (o : Opnd) (si : Nat) (masked : Bool) (rnd : Rnd) (i0 : Nat)
    (vals : List (Option Res1)) : State × List (List Nat) :=
  if o.fmt.scaled then
    let n := ceilDiv vals.length 128
    (List.range n).foldl (fun (acc : State × List (List Nat)) g =>
      let vs := (vals.drop (128 * g)).take 128
      let act := vs.filterMap id
      if act.isEmpty then (acc.1, acc.2 ++ vs.map fun _ => [])
      else
        let sa := o.scale + i0 / 128 + g
        let own := act.filterMap fun r => if r.ident.isSome then none else some r.v
        let sc :=
          if natBit si 63 then natBits si 55 48
          else if masked then (if bad acc.1 sa then 255 else (rdByte acc.1 sa).toNat)
          else computeScale o.fmt own
        let eg := encodeGroup o.fmt (fun _ => rnd) sc (vs.map fun r => (r.getD ⟨Val.zero, none⟩).v)
        let ng := nanGroup o.fmt (act.map Res1.v)
        let cs := (vs.zip eg.elems).map fun p => p.1.map fun r => r.ident.getD p.2.1
        let es := (vs.zip eg.elems).map fun p =>
          match p.1 with
          | some r => if r.ident.isSome then [] else p.2.2
          | none => []
        let s1 := kWriteElems acc.1 cx o.base o.fmt.bits (i0 + 128 * g) cs
        let keep := masked && !natBit si 63 && !ng
        let s2 := if keep then s1 else kWrite s1 cx sa [BitVec.ofNat 8 (if ng then 255 else sc)]
        (s2, acc.2 ++ es))
      (s, [])
  else
    let enc := vals.map fun r => r.map fun r =>
      let (c, e, _) := o.fmt.encode rnd r.v
      (r.ident.getD c, if r.ident.isSome then [] else e)
    (kWriteElems s cx o.base o.fmt.bits i0 (enc.map fun p => p.map Prod.fst),
      enc.map fun p => (p.map Prod.snd).getD [])

/-! ### One chunk of an elementwise instruction -/

/-- A source element in CT: value and events, those of the conversion charged to the destination format `fm` (R153), a
poison read to its own (R66). -/
def srcElem (s : State) (o : Opnd) (ct fm i : Nat) : Val × List (Nat × Nat) :=
  let (v, p) := o.lin s i
  let (x, e) := toCt ct v
  (x, (if p then [(o.fmt.code, evPoison)] else []) ++ tagEv fm e)

/-- The BB broadcast in CT, with the events of its conversion (R142). -/
def bbVal (s : State) (cx : Cx) (f : Vs) (fm : Nat) : Val × List (Nat × Nat) :=
  let w : Word := (sget (s.ctx cx) f.b).setWidth 32
  let (x, e) := toCt f.t (if f.t = 3 then i32 w else f32 w)
  (x, tagEv fm e)

/-- Operand B of element `i`. -/
def ewB (s : State) (cx : Cx) (f : Vs) (fm i : Nat) : Val × List (Nat × Nat) :=
  if f.bb then bbVal s cx f fm else srcElem s (stOpnd s cx f.b f.fb) f.t fm i

/-- The result of element `i` in CT, with its events, by opcode. -/
def ewElem (s : State) (cx : Cx) (opc : Nat) (f : Vs) (fm i : Nat) : Val × List (Nat × Nat) :=
  let c := s.ctx cx
  let a := srcElem s (stOpnd s cx f.a f.fa) f.t fm i
  match opc with
  | 0x55 => if bitAt s (sget c f.c).toNat i then a else ewB s cx f fm i   -- TSEL
  | 0x56 => a                                                             -- TCVT
  | 0x59 => bbVal s cx f fm                                               -- TFILL
  | 0x5A =>                                                               -- TIOTA
    let r := satI32 ((i : Int) + ((sget c f.b).setWidth 32 : Word).toInt)
    (i32 (ofI32 r.1), tagEv fm r.2)
  | 0x74 =>                                                            -- TRAND
    let w := rngDraw c.seed c.step ((sget c f.c).toNat % 65536) (((sget c f.b).toNat + i) % 2 ^ 32)
    (if f.t = 3 then i32 w else uniformVal w, [])
  | _ =>
    let k := opc - 0x40
    if k = 8 ∨ k = 9 ∨ k = 10 ∨ k = 15 then
      let r := ctOp f.t k a.1 Val.zero Val.zero
      (r.1, a.2 ++ tagEv fm r.2)
    else
      let b := ewB s cx f fm i
      let cc := if k = 3 ∨ k = 4 then srcElem s (stOpnd s cx f.c f.fb) f.t fm i else (Val.zero, [])
      let r := ctOp f.t k a.1 b.1 cc.1
      (r.1, a.2 ++ b.2 ++ cc.2 ++ tagEv fm r.2)

/-- Element numbers of chunk `pos`. -/
def chunkElems (f : Vs) (len pos : Nat) : List Nat :=
  (List.range len).filterMap fun j => if pos * len + j < f.n then some (pos * len + j) else none

/-- After a chunk: the next one, or past the instruction. -/
def nextChunk (s : State) (cx : Cx) (more : Bool) : State :=
  s.updCtx cx fun c =>
    if more then { c with stream := c.stream.map fun t => { t with pos := t.pos + 1 } }
    else { c with stream := none }.advance

/-- Charge events of a list of elements, each class once per element and format, and count the values. -/
def stCharge (s : State) (cx : Cx) (f : Vs) (fmt n : Nat) (evs : List (List (Nat × Nat))) : State :=
  let l := evs.flatMap once
  kPoison (countValues (vecPairs s cx f.g l) (cx.cell / 40) fmt f.g n) cx l

/-- TCMP: one bit for each element; inactive elements write 0. Its bits have no format, and the events of its
conversions are charged to CT's (log entry 74). -/
def cmpChunk (s : State) (cx : Cx) (f : Vs) (is : List Nat) : State :=
  let r := is.map fun i =>
    if stActive s cx f 0 i then
      let a := srcElem s (stOpnd s cx f.a f.fa) f.t (ctFmt f.t) i
      let b := ewB s cx f (ctFmt f.t) i
      (cmpVal (f.fd % 8) a.1 b.1, a.2 ++ b.2)
    else (false, [])
  let s1 := kWriteElems s cx (sget (s.ctx cx) f.d).toNat 1 (is.headD 0) (r.map fun p => some (b2n p.1))
  stCharge s1 cx f noFmt 0 (maskPoison s cx f 0 is :: r.map Prod.snd)

/-- TCOPY of element `i`: its code unchanged; a poisoned element reads as NaN or 0 (Table 5-11). -/
def copyElem (s : State) (o : Opnd) (i : Nat) : Nat × List (Nat × Nat) :=
  let p := if (o.lin s i).2 then [(o.fmt.code, evPoison)] else []
  if elemBad s o.base o.fmt.bits i then
    let (c, e, _) := o.fmt.encode .ne o.fmt.poisonVal
    (c, p ++ tagEv o.fmt.code e)
  else (elemCode s o.base o.fmt.bits i, p)

/-- The scale byte that TCOPY leaves group `g` with active elements `act`; none where it stays (Table 5-2, R446). -/
def copyScale (s : State) (o : Opnd) (si : Nat) (masked : Bool) (g : Nat) (act : List Nat) : Option Nat :=
  if nanGroup o.fmt (act.map fun i => (o.lin s i).1) then some 255
  else if natBit si 63 then some (natBits si 55 48)
  else if masked then none
  else some (o.scaleAt s g).1

/-- TCOPY. -/
def copyChunk (s : State) (cx : Cx) (f : Vs) (is : List Nat) : State :=
  let o := stOpnd s cx f.a f.fa
  let d := stOpnd s cx f.d f.fd
  let act := is.filter (stActive s cx f 0)
  let r := is.map fun i => if stActive s cx f 0 i then some (copyElem s o i) else none
  let s1 := kWriteElems s cx d.base d.fmt.bits (is.headD 0) (r.map fun p => p.map Prod.fst)
  let groups := if o.fmt.scaled then (act.map fun i => i / 128).dedup else []
  let s2 := groups.foldl (fun t g =>
      match copyScale s o (stScaleWord s cx f.d) f.ms g (act.filter fun i => i / 128 == g) with
      | some b => kWrite t cx (d.scale + g) [BitVec.ofNat 8 b]
      | none => t) s1
  stCharge s2 cx f d.fmt.code act.length (maskPoison s cx f 0 is :: r.map fun p => (p.map Prod.snd).getD [])

/-- Destination elements that an instruction leaves with unspecified values (R150): a free code each, and a free scale
byte for each of their groups. -/
def scramble (cx : Cx) (o : Opnd) (i0 : Nat) (act : List Bool) (s : State) : State :=
  let r := freeCodes o.fmt.bits act s
  let s1 := kWriteElems r.2 cx o.base o.fmt.bits i0 r.1
  if o.fmt.scaled then
    (List.range (ceilDiv act.length 128)).foldl (fun s g =>
      if ((act.drop (128 * g)).take 128).any id then kWrite s.draw.2 cx (o.scale + i0 / 128 + g) [BitVec.ofNat 8 s.draw.1]
      else s) s1
  else s1

/-- The streams that an elementwise instruction or an evaluation reads as operands. -/
def ewSources (s : State) (cx : Cx) (t : Stream) : List Opnd :=
  let f := t.f
  let a := [stOpnd s cx f.a f.fa]
  let b := if f.bb then [] else [stOpnd s cx f.b f.fb]
  if t.opc = 0x59 ∨ t.opc = 0x5A ∨ t.opc = 0x74 then []
  else if t.opc = 0x43 ∨ t.opc = 0x44 then a ++ b ++ [stOpnd s cx f.c f.fb]
  else if [0x48, 0x49, 0x4A, 0x4F, 0x56, 0x58, 0xE0, 0xE1, 0xE2].contains t.opc then a
  else a ++ b

/-- Does the destination `d` of such an instruction overlap a source other than in place (R150)? -/
def ewClash (s : State) (cx : Cx) (t : Stream) (d : Opnd) : Bool :=
  let f := t.f
  (ewSources s cx t).any (fun o => d.clash o false 1 f.n)
    || ((f.ms || t.opc == 0x55) && (d.data false 1 f.n).meets ((sget (s.ctx cx) f.c).toNat, ceilDiv f.n 8))

/-- Does the bit stream that TCMP writes overlap a source (R150)? -/
def cmpClash (s : State) (cx : Cx) (t : Stream) : Bool :=
  let f := t.f
  let d : Extent := ((sget (s.ctx cx) f.d).toNat, ceilDiv f.n 8)
  (ewSources s cx t).any (fun o => d.meets (o.data false 1 f.n) || d.meets (o.scales false 1 f.n))
    || (f.ms && d.meets ((sget (s.ctx cx) f.c).toNat, ceilDiv f.n 8))

/-- Every other elementwise chunk: compute in CT, encode into FMT_D. -/
def arithChunk (s : State) (cx : Cx) (opc : Nat) (f : Vs) (is : List Nat) : State :=
  let raw := opc == 0x74 && f.t == 3
  let d0 := stOpnd s cx f.d f.fd
  let d : Opnd := if raw then { d0 with fmt := Fmt.plain fINT32 } else d0
  let r := is.map fun i => if stActive s cx f 0 i then some (ewElem s cx opc f d.fmt.code i) else none
  let bits := if opc = 0x55 then bitPoison s (sget (s.ctx cx) f.c).toNat (is.headD 0) is.length else []
  let rnd := if opc = 0x74 then Rnd.tz else Rnd.ne
  let (s1, es) := storeElems s cx d (stScaleWord s cx f.d) f.ms rnd (is.headD 0)
    (r.map fun p => p.map fun q => ⟨q.1, none⟩)
  let evs := (r.zip es).map fun p => ((p.1.map Prod.snd).getD []) ++ tagEv d.fmt.code p.2
  stCharge s1 cx f d.fmt.code (r.filter Option.isSome).length (maskPoison s cx f 0 is :: bits :: evs)

/-- One chunk of an elementwise instruction. -/
def ewChunk (s : State) (cx : Cx) (t : Stream) : State :=
  let f := t.f
  let len := if t.opc = 0x58 then 512 else chunkLen f.t
  let is := chunkElems f len t.pos
  let s1 :=
    if t.opc = 0x54 then cmpChunk s cx f is
    else if t.opc = 0x58 then copyChunk s cx f is
    else arithChunk s cx t.opc f is
  let s2 :=
    if t.opc = 0x54 then
      if cmpClash s cx t then
        let r := freeCodes 1 (is.map fun _ => true) s1
        writeElems r.2 (sget (s.ctx cx) f.d).toNat 1 (is.headD 0) r.1
      else s1
    else if ewClash s cx t (stOpnd s cx f.d f.fd) then
      scramble cx (stOpnd s cx f.d f.fd) (is.headD 0) (is.map (stActive s cx f 0)) s1
    else s1
  nextChunk s2 cx (decide ((t.pos + 1) * len < f.n))

/-! ### Stream reductions (R156) -/

/-- Element (r, c) of a blocked tensor of pitch `p` (R205, R208). -/
def Opnd.blk (s : State) (o : Opnd) (p r c : Nat) : Val × Bool :=
  let bb := blockBytes o.fmt.code
  let a := o.base + (r / 32 * p + c / 32) * bb + r % 32 * (bb / 32)
  Opnd.elem s { o with base := a, scale := o.scale + r * (p / 4) + c / 128 } (c % 32) 0

/-- Element `j` of row `r` of a row-wise operand of `n` columns. -/
def Opnd.rowElem (s : State) (o : Opnd) (blk : Bool) (n r j : Nat) : Val × Bool :=
  if blk then o.blk s (pitchOf o.fmt.code n) r j else o.lin s (r * n + j)

/-- Reach of `rows` rows of a row-wise operand. -/
def rowReach (s : State) (cx : Cx) (r fi : Nat) (blk : Bool) (rows n : Nat) : Bool :=
  opReach s cx (stOpnd s cx r fi) blk rows n

/-- Checks of TRSUM to TRARGMIN; `arg` for the index forms. -/
def redCheck (s : State) (cx : Cx) (f : Vs) (arg mean : Bool) : Option Nat :=
  let rows := (sget (s.ctx cx) f.b).toNat
  let destOk := (if arg then decide (f.fd = 0) && stAligned s cx f.d else stForm s cx f.d f.fd)
    && (!f.ms || stAligned s cx f.c)
  if f.bb || decide (rows = 0) || decide (65536 < rows) || (mean && decide (f.t = 3)) then some stBADDESC
  else if !(stForm s cx f.a f.fa && destOk) then some stBADDESC
  else if !(rowReach s cx f.a f.fa f.blk rows f.n
      && (if arg then reach s cx (sget (s.ctx cx) f.d).toNat (4 * rows) else stReach s cx f.d f.fd rows)
      && (!f.ms || reach s cx (sget (s.ctx cx) f.c).toNat (rows * ceilDiv f.n 8))) then some stBOUNDS
  else none

/-- The identity of a reduction in memory (R159): its value, and its code where it is not encoded by
value. -/
def memIdentity (fm : Fmt) (k : Nat) : Res1 :=
  let L := fpLayout fm.code
  let big (neg : Bool) : Res1 :=
    if fm.isInt then
      let w := fm.bits
      ⟨.fin neg (if neg then 2 ^ (w - 1) else 2 ^ (w - 1) - 1) 0,
        some (if neg then 2 ^ (w - 1) else 2 ^ (w - 1) - 1)⟩
    else if fmtCodebook fm.code then
      let ix := idxWhere fm.cb fun v => !v.isNan
      let i := (bestIdx fm.cb (fun a b => if neg then a.lt b else b.lt a) ix).getD 0
      ⟨Val.zero, some i⟩
    else if L.ieee then ⟨.inf neg, some (withSign L neg (L.maxCode + 1))⟩
    else ⟨magVal L neg L.maxCode, none⟩
  match k with
  | 1 => ⟨Val.one, none⟩
  | 2 => big true
  | 3 => big false
  | _ => ⟨Val.zero, none⟩

/-- The format to which a stream reduction's events are charged: its destination's (R153). -/
def redDest (s : State) (cx : Cx) (k : Nat) (f : Vs) : Opnd :=
  let d := stOpnd s cx f.d f.fd
  if k = 5 ∨ k = 6 then { d with fmt := Fmt.plain fINT32 } else d

/-- Combine a chunk's result with the row's partial result in chunk order; `fm` is the format of the events. -/
def redJoin (ct fm k : Nat) (t : Stream) (x : Int) (ix : Nat) (e : List Nat) : Stream :=
  if !t.held then { t with acc := x, idx := ix, held := true }
  else if k = 5 ∨ k = 6 then
    let old := if ct = 3 then Val.fin (decide (t.acc < 0)) t.acc.natAbs 0 else decodeFp 0 t.acc.toNat
    let new := if ct = 3 then Val.fin (decide (x < 0)) x.natAbs 0 else decodeFp 0 x.toNat
    if betterArg (k == 6) old new then { t with acc := x, idx := ix } else t
  else if ct = 3 then { t with acc := iNode k t.acc x }
  else
    let r := fNode fFP32 k (decodeFp 0 t.acc.toNat, []) (decodeFp 0 x.toNat, e)
    { t with acc := ((encodeFp 0 .ne r.1).1 : Int), evs := t.evs ++ tagEv fm r.2 }

/-- One chunk of a row: `k` as in `fNode`. -/
def redChunk (s : State) (cx : Cx) (k : Nat) (t : Stream) : Stream :=
  let f := t.f
  let fm := (redDest s cx k f).fmt.code
  let o := stOpnd s cx f.a f.fa
  let len := chunkLen f.t
  let is := chunkElems f len t.pos
  let els := is.map fun j =>
    if stActive s cx f t.row j then
      let (v, p) := o.rowElem s f.blk f.n t.row j
      let (x, e) := toCt f.t v
      some (x, (if p then [(o.fmt.code, evPoison)] else []) ++ tagEv fm e)
    else none
  let evs := maskPoison s cx f t.row is ++ els.flatMap fun o => (o.map Prod.snd).getD []
  let act := (els.filter Option.isSome).length
  let vals := els.map fun o => o.map Prod.fst
  let t1 := { t with act := t.act + act, evs := t.evs ++ evs }
  if act = 0 then t1
  else if k = 5 ∨ k = 6 then
    match argBest (k == 6) ((is.zip vals).filterMap fun p => p.2.map fun v => (p.1, v)) with
    | some (i, v) =>
      redJoin f.t fm k t1 (if f.t = 3 then (valWord v).toInt else ((encodeFp 0 .ne v).1 : Int)) i []
    | none => t1
  else if f.t = 3 then
    match treeFold (iNode k) 10 (vals.map fun o => o.map fun v => (valWord v).toInt) with
    | some x => redJoin f.t fm k t1 x 0 []
    | none => t1
  else
    match treeFold (fNode fFP32 k) 10 (vals.map fun o => o.map fun v => (v, [])) with
    | some (v, e) => redJoin f.t fm k { t1 with evs := t1.evs ++ tagEv fm e } ((encodeFp 0 .ne v).1 : Int) 0 []
    | none => t1

/-- The finished row's result in CT, with its events; an empty row has an identity (R159). -/
def redResult (fm k : Nat) (t : Stream) : PendEl × List (Nat × Nat) :=
  let ct := t.f.t
  let arg := k == 5 || k == 6
  if t.act = 0 then (if arg then ⟨1, -1, 0⟩ else ⟨2, 0, 0⟩, t.evs ++ [(fm, evEmpty)])
  else if arg then (⟨1, (t.idx : Int), 0⟩, t.evs)
  else if ct = 3 then let (v, e) := satI32 t.acc; (⟨1, v, 0⟩, t.evs ++ tagEv fm e)
  else
    let v := decodeFp 0 t.acc.toNat
    let (q, e1) := if k = 4 then divTo fFP32 v (.fin false t.act 0) else (v, [])
    let (x, e2) := roundTo ct q
    (⟨0, ((encodeFp 0 .ne x).1 : Int), 0⟩, t.evs ++ tagEv fm (e1 ++ e2))

/-- A held result as an element to store. -/
def pendRes (fm : Fmt) (k : Nat) (p : PendEl) : Res1 :=
  match p.kind with
  | 0 => ⟨decodeFp 0 p.bits.toNat, none⟩
  | 1 => ⟨.fin (decide (p.bits < 0)) p.bits.natAbs 0, none⟩
  | _ => memIdentity fm k

/-- Events of the encoding of a held result: none of a class that its row has counted, and none of the identity of a
maximum or minimum (R159). -/
def redEvents (fm k : Nat) (p : PendEl) (es : List Nat) : List (Nat × Nat) :=
  if p.kind = 2 ∧ (k = 2 ∨ k = 3) then [] else once (tagEv fm (es.filter fun c => !natBit p.seen c))

/-- Does a stream reduction's destination overlap its source or its mask stream (R150)? -/
def redClash (s : State) (cx : Cx) (f : Vs) (d : Opnd) : Bool :=
  let rows := (sget (s.ctx cx) f.b).toNat
  let o := stOpnd s cx f.a f.fa
  [d.data false 1 rows, d.scales false 1 rows].any fun x =>
    x.meets (o.data f.blk rows f.n) || x.meets (o.scales f.blk rows f.n)
      || (f.ms && x.meets ((sget (s.ctx cx) f.c).toNat, rows * ceilDiv f.n 8))

/-- Finish a row: its result joins the pending ones; a full scale group, an unscaled format or the last row
stores them. -/
def redFinish (s : State) (cx : Cx) (k : Nat) (t : Stream) (last : Bool) : State × Stream :=
  let f := t.f
  let d := redDest s cx k f
  let (r, evs) := redResult d.fmt.code k t
  let pend := t.pend ++ [{ r with seen := classMask d.fmt.code evs }]
  let flush := !d.fmt.scaled || decide (pend.length = 128) || last
  let s0 := kPoison (vecPairs s cx f.g (once evs)) cx evs
  let t1 := { t with row := t.row + 1, pos := 0, acc := 0, idx := 0, held := false, act := 0, evs := [],
                     total := t.total + t.act }
  if flush then
    let i0 := t.row + 1 - pend.length
    let (s1, es) := storeElems s0 cx d (stScaleWord s cx f.d) false .ne i0
      (pend.map fun p => some (pendRes d.fmt k p))
    let dev := (pend.zip es).flatMap fun p => redEvents d.fmt.code k p.1 p.2
    let s2 := countValues (vecPairs s1 cx f.g dev) (cx.cell / 40) d.fmt.code f.g pend.length
    (if redClash s cx f d then scramble cx d i0 (pend.map fun _ => true) s2 else s2, { t1 with pend := [] })
  else (s0, { t1 with pend := pend })

/-- One chunk of a stream reduction, opcode 0x60 + k. -/
def reduceChunk (s : State) (cx : Cx) (t : Stream) : State :=
  let k := t.opc - 0x60
  let f := t.f
  let rows := (sget (s.ctx cx) f.b).toNat
  let t1 := redChunk s cx k t
  if (t.pos + 1) * chunkLen f.t < f.n then
    s.updCtx cx fun c => { c with stream := some { t1 with pos := t.pos + 1 } }
  else
    let lastRow := decide (rows ≤ t.row + 1)
    let (s1, t2) := redFinish s cx k t1 lastRow
    if lastRow then
      s1.updCtx cx fun c => { c with stream := none, count := BitVec.ofNat 64 t2.total }.advance
    else s1.updCtx cx fun c => { c with stream := some t2 }

/-! ### The instructions -/

/-- TADD (Table 5-6). -/
def execTadd (cx : Cx) (f : Vs) (s : State) : Res :=
  .next (issueAt s cx fun s =>
    stIssue 0x40 (ewCheck s cx f { useB := true } true true) s cx f)

/-- TSUB (Table 5-6). -/
def execTsub (cx : Cx) (f : Vs) (s : State) : Res :=
  .next (issueAt s cx fun s =>
    stIssue 0x41 (ewCheck s cx f { useB := true } true true) s cx f)

/-- TMUL (Table 5-6). -/
def execTmul (cx : Cx) (f : Vs) (s : State) : Res :=
  .next (issueAt s cx fun s =>
    stIssue 0x42 (ewCheck s cx f { useB := true } true true) s cx f)

/-- TMIN (Table 5-6). -/
def execTmin (cx : Cx) (f : Vs) (s : State) : Res :=
  .next (issueAt s cx fun s =>
    stIssue 0x46 (ewCheck s cx f { useB := true } true true) s cx f)

/-- TMAX (Table 5-6). -/
def execTmax (cx : Cx) (f : Vs) (s : State) : Res :=
  .next (issueAt s cx fun s =>
    stIssue 0x47 (ewCheck s cx f { useB := true } true true) s cx f)

/-- TFMA: C from s[SC]; MS must be 0. -/
def execTfma (cx : Cx) (f : Vs) (s : State) : Res :=
  .next (issueAt s cx fun s =>
    stIssue 0x43 (ewCheck s cx f { useB := true, useC := true } true true) s cx f)

/-- TFNMA: C from s[SC]; MS must be 0. -/
def execTfnma (cx : Cx) (f : Vs) (s : State) : Res :=
  .next (issueAt s cx fun s =>
    stIssue 0x44 (ewCheck s cx f { useB := true, useC := true } true true) s cx f)

/-- TDIV: a floating-point CT, as VDIV. -/
def execTdiv (cx : Cx) (f : Vs) (s : State) : Res :=
  .next (issueAt s cx fun s =>
    stIssue 0x45 (ewCheck s cx f { useB := true } (decide (f.t < 3)) true) s cx f)

/-- TABS. -/
def execTabs (cx : Cx) (f : Vs) (s : State) : Res :=
  .next (issueAt s cx fun s =>
    stIssue 0x48 (ewCheck s cx f {} true true) s cx f)

/-- TNEG. -/
def execTneg (cx : Cx) (f : Vs) (s : State) : Res :=
  .next (issueAt s cx fun s =>
    stIssue 0x49 (ewCheck s cx f {} true true) s cx f)

/-- TSQRT: a floating-point CT, as VSQRT. -/
def execTsqrt (cx : Cx) (f : Vs) (s : State) : Res :=
  .next (issueAt s cx fun s =>
    stIssue 0x4a (ewCheck s cx f {} (decide (f.t < 3)) true) s cx f)

/-- TAND: CT INT32. -/
def execTand (cx : Cx) (f : Vs) (s : State) : Res :=
  .next (issueAt s cx fun s =>
    stIssue 0x4c (ewCheck s cx f { useB := true } (decide (f.t = 3)) true) s cx f)

/-- TOR: CT INT32. -/
def execTor (cx : Cx) (f : Vs) (s : State) : Res :=
  .next (issueAt s cx fun s =>
    stIssue 0x4d (ewCheck s cx f { useB := true } (decide (f.t = 3)) true) s cx f)

/-- TXOR: CT INT32. -/
def execTxor (cx : Cx) (f : Vs) (s : State) : Res :=
  .next (issueAt s cx fun s =>
    stIssue 0x4e (ewCheck s cx f { useB := true } (decide (f.t = 3)) true) s cx f)

/-- TSHL: CT INT32. -/
def execTshl (cx : Cx) (f : Vs) (s : State) : Res :=
  .next (issueAt s cx fun s =>
    stIssue 0x50 (ewCheck s cx f { useB := true } (decide (f.t = 3)) true) s cx f)

/-- TSHR: CT INT32. -/
def execTshr (cx : Cx) (f : Vs) (s : State) : Res :=
  .next (issueAt s cx fun s =>
    stIssue 0x51 (ewCheck s cx f { useB := true } (decide (f.t = 3)) true) s cx f)

/-- TSRA: CT INT32. -/
def execTsra (cx : Cx) (f : Vs) (s : State) : Res :=
  .next (issueAt s cx fun s =>
    stIssue 0x52 (ewCheck s cx f { useB := true } (decide (f.t = 3)) true) s cx f)

/-- TNOT: CT INT32. -/
def execTnot (cx : Cx) (f : Vs) (s : State) : Res :=
  .next (issueAt s cx fun s =>
    stIssue 0x4f (ewCheck s cx f {} (decide (f.t = 3)) true) s cx f)

/-- TCMP: a bit stream at s[SD]; FMT_D[3] must be 0. -/
def execTcmp (cx : Cx) (f : Vs) (s : State) : Res :=
  .next (issueAt s cx fun s =>
    stIssue 0x54 ((let c := ewCheck s cx f { useB := true } (decide (f.fd < 8) && decide ((sget (s.ctx cx) f.d).toNat % 64 = 0)) false
      if c.isSome then c
      else if reach s cx (sget (s.ctx cx) f.d).toNat (ceilDiv f.n 8) then none else some stBOUNDS)) s cx f)

/-- TSEL: the bit stream at s[SC] selects; MS must be 0. -/
def execTsel (cx : Cx) (f : Vs) (s : State) : Res :=
  .next (issueAt s cx fun s =>
    stIssue 0x55 ((let c := ewCheck s cx f { useB := true } (!f.ms && stAligned s cx f.c) true
      if c.isSome then c
      else if reach s cx (sget (s.ctx cx) f.c).toNat (ceilDiv f.n 8) then none else some stBOUNDS)) s cx f)

/-- TCVT: CT FP32 or INT32. -/
def execTcvt (cx : Cx) (f : Vs) (s : State) : Res :=
  .next (issueAt s cx fun s =>
    stIssue 0x56 (ewCheck s cx f {} (decide (f.t = 0) || decide (f.t = 3)) true) s cx f)

/-- TCOPY: FMT_A equal to FMT_D, CT 0. -/
def execTcopy (cx : Cx) (f : Vs) (s : State) : Res :=
  .next (issueAt s cx fun s =>
    stIssue 0x58 (ewCheck s cx f {} (decide (f.fa = f.fd) && decide (f.t = 0)) true) s cx f)

/-- TFILL: BB must be 1. -/
def execTfill (cx : Cx) (f : Vs) (s : State) : Res :=
  .next (issueAt s cx fun s =>
    stIssue 0x59 (ewCheck s cx f { useA := false, useB := true } f.bb true) s cx f)

/-- TIOTA: CT INT32. -/
def execTiota (cx : Cx) (f : Vs) (s : State) : Res :=
  .next (issueAt s cx fun s =>
    stIssue 0x5a (ewCheck s cx f { useA := false } (decide (f.t = 3)) true) s cx f)

/-- TRSUM (R156). -/
def execTrsum (cx : Cx) (f : Vs) (s : State) : Res :=
  .next (issueAt s cx fun s =>
    stIssue 0x60 (redCheck s cx f false false) s cx f)

/-- TRPROD (R156). -/
def execTrprod (cx : Cx) (f : Vs) (s : State) : Res :=
  .next (issueAt s cx fun s =>
    stIssue 0x61 (redCheck s cx f false false) s cx f)

/-- TRMAX (R156). -/
def execTrmax (cx : Cx) (f : Vs) (s : State) : Res :=
  .next (issueAt s cx fun s =>
    stIssue 0x62 (redCheck s cx f false false) s cx f)

/-- TRMIN (R156). -/
def execTrmin (cx : Cx) (f : Vs) (s : State) : Res :=
  .next (issueAt s cx fun s =>
    stIssue 0x63 (redCheck s cx f false false) s cx f)

/-- TRMEAN (R156). -/
def execTrmean (cx : Cx) (f : Vs) (s : State) : Res :=
  .next (issueAt s cx fun s =>
    stIssue 0x64 (redCheck s cx f false true) s cx f)

/-- TRARGMAX (R156). -/
def execTrargmax (cx : Cx) (f : Vs) (s : State) : Res :=
  .next (issueAt s cx fun s =>
    stIssue 0x65 (redCheck s cx f true false) s cx f)

/-- TRARGMIN (R156). -/
def execTrargmin (cx : Cx) (f : Vs) (s : State) : Res :=
  .next (issueAt s cx fun s =>
    stIssue 0x66 (redCheck s cx f true false) s cx f)

/-- TRAND: CT INT32 stores raw bits, CT FP32 uniform values; s[SC] is an operand, so MS must be 0. -/
def execTrand (cx : Cx) (f : Vs) (s : State) : Res :=
  .next (issueAt s cx fun s =>
    stIssue 0x74 ((let ok := !f.ms && ((f.t == 3 && f.fd == 0) || f.t == 0)
      if f.t = 3 then
        let a := (sget (s.ctx cx) f.d).toNat
        let c := ewCheck s cx f { useA := false } (ok && decide (a % 64 = 0)) false
        if c.isSome then c else if reach s cx a (4 * f.n) then none else some stBOUNDS
      else ewCheck s cx f { useA := false } ok true)) s cx f)

end Sys2Proof.Machine
end

