-- ==== Sys2Proof/Machine/ArrayDesc.lean ====
section
/-! DEFINITION. Product and drain descriptors (Table 3-2, Table 4-2) and their checks (R42, R71, R105, R210,
R212, R239). -/

namespace Sys2Proof.Machine

/-- The fields of a product descriptor (Table 3-2). -/
structure PD where
  fmtS : Nat
  fmtA : Nat
  transS : Bool
  transA : Bool
  srcS : Nat
  srcA : Nat
  chain : Bool
  accInit : Bool
  drain : Bool
  sparse : Bool
  statLink : Bool
  m : Nat
  n : Nat
  k : Nat
  aBase : Nat
  sBase : Nat
  aScale : Nat
  sScale : Nat
  drainDesc : Nat
  ctxSave : Nat
  links : Nat
  deriving DecidableEq, Repr

def PD.of (d : List Byte) : PD :=
  let w := fld d 0 4
  { fmtS := natBits w 3 0, fmtA := natBits w 7 4, transS := natBit w 8, transA := natBit w 9,
    srcS := natBits w 11 10, srcA := natBits w 13 12, chain := natBit w 14, accInit := natBit w 15,
    drain := natBit w 16, sparse := natBit w 17, statLink := natBit w 18,
    m := fld d 4 4, n := fld d 8 4, k := fld d 0xC 4, aBase := fld d 0x10 8, sBase := fld d 0x18 8,
    aScale := fld d 0x20 8, sScale := fld d 0x28 8, drainDesc := fld d 0x30 4, ctxSave := fld d 0x34 4,
    links := fld d 0x38 2 }

/-- The fields of a drain descriptor (Table 4-2). -/
structure DD where
  fmtOut : Nat
  outDest : Nat
  trans : Bool
  sparse : Bool
  rescale : Bool
  auxMode : Nat
  act : Nat
  dfn : Nat
  curve : Nat
  dcurve : Nat
  fixed : Bool
  bitmap : Bool
  holdNext : Bool
  code : Nat
  auxFmt : Nat
  auxSrc : Nat
  rsSrc : Nat
  tag : Nat
  alpha : Word
  lo : Word
  hi : Word
  stream : Nat
  outBase : Nat
  outScale : Nat
  auxBase : Nat
  auxScale : Nat
  rsBase : Nat
  bmBase : Nat
  deriving DecidableEq, Repr

def DD.of (d : List Byte) : DD :=
  let w := fld d 0 4
  let v := fld d 4 4
  { fmtOut := natBits w 3 0, outDest := natBits w 5 4, trans := natBit w 6, sparse := natBit w 7,
    rescale := natBit w 8, auxMode := natBits w 11 9, act := natBits w 15 12, dfn := natBits w 19 16,
    curve := natBits w 23 20, dcurve := natBits w 27 24, fixed := natBit w 28, bitmap := natBit w 29,
    holdNext := natBit w 30, code := natBits v 7 0, auxFmt := natBits v 11 8, auxSrc := natBits v 13 12,
    rsSrc := natBits v 15 14, tag := natBits v 25 16, alpha := BitVec.ofNat 32 (fld d 8 4),
    lo := BitVec.ofNat 32 (fld d 0xC 4), hi := BitVec.ofNat 32 (fld d 0x10 4), stream := fld d 0x14 2,
    outBase := fld d 0x20 8, outScale := fld d 0x28 8, auxBase := fld d 0x30 8, auxScale := fld d 0x38 8,
    rsBase := fld d 0x40 8, bmBase := fld d 0x48 8 }

def Product.pd (p : Product) : PD := PD.of p.desc
def Product.dd (p : Product) : DD := DD.of p.drn
/-- Does the product's last pass go to the drain? Chained mode stores every link's output (R88). -/
def PD.drained (d : PD) : Bool := d.drain || d.chain
/-- The tag that the product's events are charged to (R81): that of its output. DESIGN CHOICE: tag 0 for a product that is
not drained, which has no output tensor (log entry 86). -/
def Product.tag (p : Product) : Nat := if p.pd.drained then p.dd.tag else 0

/-- Size of a tile-context image (Table 3-5). -/
def tileCtxBytes : Nat := 65664

/-- Rows entering per cycle (Table 3-3); 0 for FP32. -/
def fmtRate (f : Nat) : Nat :=
  if f = fFP32 then 0 else if f = fBF16 ∨ f = fFP16 ∨ f = fCB256 then 1
  else if f = fE2M1 ∨ f = fINT4 then 4 else 2

/-- How the array computes a pair of formats (R80). -/
inductive ArrMode where
  | int | fp32 | wide | exact
  deriving DecidableEq, Repr

def fmtWide (f : Nat) : Bool := f == fBF16 || f == fFP16 || f == fCB256

def arrMode (fa fs : Nat) : ArrMode :=
  if fmtInt fa && fmtInt fs then .int
  else if fa = fFP32 ∨ fs = fFP32 then .fp32
  else if fmtWide fa || fmtWide fs then .wide
  else .exact

/-- Bytes of a blocked tensor of `rows` × `cols` (R206). -/
def blockedBytes (f rows cols : Nat) : Nat := ceilDiv rows 32 * pitchOf f cols * blockBytes f
/-- Bytes of its scale array (R208). -/
def scaleBytes (f rows cols : Nat) : Nat := rows * (pitchOf f cols / 4)
/-- Bytes of a slot of the sparse form (R233). -/
def slotBytes (f : Nat) : Nat := 256 + 16 * blockBytes f

/-- Where the descriptor's operands lie: the cell that runs the product, or a block job's block store
(R244). -/
structure Home where
  cell : Nat
  /-- start and size of the store that the offsets count from -/
  base : Nat
  size : Nat
  deriving DecidableEq, Repr

def homeCell (n : Nat) : Home := ⟨n, cellAddr n, cellSize⟩

/-- The memory that a source or destination code names. -/
def srcMem (n src : Nat) : Mem :=
  match src with
  | 0 => .cell n
  | 1 => .blk (n / 8)
  | _ => .hbm

/-- Field checks of the product descriptor (R42, R70, R71, R210, R212, R239). -/
def pdOk (c : Cell) (h : Home) (raw : List Byte) : Bool :=
  let d := PD.of raw
  let fa := fmtOf c d.fmtA
  let fs := fmtOf c d.fmtS
  let dim (x : Nat) := decide (1 ≤ x) && decide (x ≤ 16777216)
  decide (natBits (fld raw 0 4) 31 19 = 0) && decide (fld raw 0x3A 6 = 0)
    && decide (d.srcS < 3) && decide (d.srcA < 3) && dim d.m && dim d.n && dim d.k
    && decide (1 ≤ d.links) && decide (d.links ≤ 4096) && (d.chain || d.links == 1)
    && (fmtScaled fa == decide (d.aScale ≠ 0)) && (fmtScaled fs == decide (d.sScale ≠ 0))
    && decide (d.ctxSave % 256 = 0) && decide (d.ctxSave + tileCtxBytes ≤ h.size)
    && decide (d.drainDesc % 64 = 0) && (d.drained || d.drainDesc == 0)
    && (!d.chain || (decide (d.m ≤ 128) && decide (d.k ≤ 128) && d.n == d.k))
    && decide (d.aBase % 64 = 0) && decide (d.sBase % 64 = 0)
    && (!fmtScaled fa || !d.transA) && (!fmtScaled fs || d.transS)
    && (fmtInt fa == fmtInt fs)
    && (!d.sparse || (decide (d.aBase % 256 = 0) && !d.transA && !d.chain && decide (fa ≠ fFP32)
        && decide (fs ≠ fFP32)))

/-- Field checks of the drain descriptor (R105, R111). -/
def ddOk (c : Cell) (p : PD) (raw : List Byte) : Bool :=
  let d := DD.of raw
  let fo := fmtOf c d.fmtOut
  let fx := fmtOf c d.auxFmt
  decide (natBit (fld raw 0 4) 31 = false) && decide (natBits (fld raw 4 4) 31 26 = 0)
    && decide (fld raw 0x16 2 = 0) && zeros raw 0x18 0x20 && zeros raw 0x50 0x80
    && decide (d.outDest < 3) && decide (d.auxSrc < 3) && decide (d.rsSrc < 3)
    && decide (d.auxMode < 4) && decide (d.act < 6)
    && (if d.auxMode = 2 then decide (1 ≤ d.dfn) && decide (d.dfn ≤ 4) else d.dfn == 0)
    && (d.fixed || d.code == 0) && decide (d.code < 255)
    && decide (d.outBase % 4096 = 0) && decide (d.rsBase % 8 = 0) && decide (d.bmBase % 8 = 0)
    && (fmtScaled fo == decide (d.outScale ≠ 0))
    && (decide (d.auxMode ≠ 0) || d.auxBase == 0) && (fmtScaled fx || d.auxScale == 0)
    && (d.auxMode == 0 || !fmtScaled fx || decide (d.auxScale ≠ 0))
    && (d.rescale || d.rsBase == 0) && (d.bitmap || d.bmBase == 0)
    && decide (fo ≠ fCB256) && (!d.fixed || fmtScaled fo)
    && (!(d.act == 3 || d.dfn == 3) || (f32 d.lo).le (f32 d.hi))
    && (!p.chain || (d.auxMode == 0 && decide (fmtOf c p.fmtA ≠ fCB256)))

/-- An address range that a product names: where it must lie (none: any mapped memory). -/
structure Span where
  addr : Nat
  len : Nat
  mem : Option Mem
  deriving DecidableEq, Repr

/-- Stored shape of the output: rows, columns. -/
def outShape (p : PD) (d : DD) : Nat × Nat := if d.trans then (p.n, p.m) else (p.m, p.n)

/-- Bytes of an occupancy bitmap (R118). -/
def bitmapBytes (rows cols : Nat) : Nat := ceilDiv rows 32 * (ceilDiv (ceilDiv cols 32) 64 * 8)

/-- The ranges of the operands. -/
def pdSpans (c : Cell) (h : Home) (d : PD) : List Span :=
  let fa := fmtOf c d.fmtA
  let fs := fmtOf c d.fmtS
  let ar := if d.transA then (d.k, d.m) else (d.m, d.k)
  let sr := if d.transS then (d.n, d.k) else (d.k, d.n)
  let nl := if d.chain && d.statLink then d.links else 1
  let aLen := if d.sparse then ceilDiv d.m 128 * ceilDiv d.k 128 * slotBytes fa else blockedBytes fa ar.1 ar.2
  [⟨d.aBase, aLen, some (srcMem h.cell d.srcA)⟩,
   ⟨d.sBase, nl * blockedBytes fs sr.1 sr.2, some (srcMem h.cell d.srcS)⟩]
   ++ (if fmtScaled fa then [⟨d.aScale, scaleBytes fa ar.1 ar.2, none⟩] else [])
   ++ (if fmtScaled fs then [⟨d.sScale, (nl - 1) * 128 + scaleBytes fs sr.1 sr.2, none⟩] else [])

/-- The ranges that a drain descriptor names. -/
def ddSpans (c : Cell) (h : Home) (p : PD) (d : DD) : List Span :=
  let fo := fmtOf c d.fmtOut
  let fx := fmtOf c d.auxFmt
  let (r, k) := outShape p d
  let oLen := if d.sparse then ceilDiv r 128 * ceilDiv k 128 * slotBytes fo else blockedBytes fo r k
  [⟨d.outBase, oLen, some (srcMem h.cell d.outDest)⟩]
   ++ (if fmtScaled fo then [⟨d.outScale, scaleBytes fo (32 * ceilDiv r 32) k, none⟩] else [])
   ++ (if d.auxMode ≠ 0 then
        [⟨d.auxBase, blockedBytes fx p.m p.n, some (srcMem h.cell d.auxSrc)⟩]
          ++ (if fmtScaled fx then [⟨d.auxScale, scaleBytes fx p.m p.n, none⟩] else [])
       else [])
   ++ (if d.rescale then [⟨d.rsBase, 8 * p.n, some (srcMem h.cell d.rsSrc)⟩] else [])
   ++ (if d.bitmap then [⟨d.bmBase, bitmapBytes r k, none⟩] else [])

/-- Does the range lie in the memory that it must, and outside a residency pool that the operation may not
use (R71, R105, R271)? -/
def Span.ok (s : State) (resident : Bool) (x : Span) : Bool :=
  match rangeMem x.addr x.len with
  | none => false
  | some m =>
    (match x.mem with
      | none => true
      | some m' => m == m')
    && (match m with
      | .blk b => resident || !inPool s b x.addr x.len
      | _ => true)

/-- Status of a list of ranges: UNIT_FENCED when one touches a fenced region (R34), else BOUNDS (R445). -/
def spansStatus (s : State) (resident : Bool) (l : List Span) : Nat :=
  if l.any fun x => fencedSpan s x.addr x.len then stFENCED
  else if !(l.all (Span.ok s resident)) then stBOUNDS
  else stOK

/-- The descriptors at an address: product, and drain where it has one. -/
def readPd (s : State) (a : Nat) : List Byte := rdBytes s a 64
def readDd (s : State) (h : Home) (d : PD) : List Byte :=
  if d.drained then rdBytes s (h.base + d.drainDesc) 128 else []

/-- Checks of a product at address `a` (R71, R105): 0, or the status that refuses it. -/
def productStatus (s : State) (h : Home) (op : OpId) (a : Nat) : Nat :=
  let c := s.cell h.cell
  let raw := readPd s a
  let d := PD.of raw
  if a % 64 ≠ 0 then stBADDESC
  else if h.base + h.size < a + 64 ∨ a < h.base then stBOUNDS
  else if badRange s a 64 then stPOISON
  else if !pdOk c h raw then stBADDESC
  else
    let res := residentOp s (some op)
    if d.drained then
      if h.size < d.drainDesc + 128 then stBOUNDS
      else if badRange s (h.base + d.drainDesc) 128 then stPOISON
      else
        let dr := readDd s h d
        if !ddOk c d dr then stBADDESC
        else spansStatus s res (pdSpans c h d ++ ddSpans c h d (DD.of dr))
    else spansStatus s res (pdSpans c h d)

end Sys2Proof.Machine
end

