-- ==== Sys2Proof/Machine/Real.lean ====
section
/-! DEFINITION. The real functions behind the shipped curves and the refine evaluator (R186, R189), in
fixed point with 700 fraction bits and an error below 2^-500, so that a rounding to FP32 is decided; a case
that the error leaves undecided falls to an opaque value (log entry 20). -/

namespace Sys2Proof.Machine

/-- Fixed point: an integer counts units of 2^-700. -/
def fxW : Nat := 700
def fxOne : Int := 2 ^ 700
/-- The error bound in units: 2^-500. -/
def fxErr : Int := 2 ^ 200

def fxMul (a b : Int) : Int := a * b / 2 ^ 700
def fxDiv (a b : Int) : Int := a * 2 ^ 700 / b

/-- `n` nested terms of the exponential series from term `k`. -/
def expNest : Nat → Nat → Int → Int
  | 0, _, _ => fxOne
  | n + 1, k, r => fxOne + fxMul r (expNest n (k + 1) r) / (k : Int)

def fxSquare : Nat → Int → Int
  | 0, x => x
  | n + 1, x => fxSquare n (fxMul x x)

/-- e^x for |x| < 256. -/
def fxExp (x : Int) : Int := fxSquare 16 (expNest 64 1 (x / 2 ^ 16))

/-- Σ z^(2k+1) ÷ (2k+1) from exponent `j`, `p` the running power; `alt` alternates the signs. -/
def atanSeries (alt : Bool) : Nat → Nat → Int → Int → Int
  | 0, _, _, _ => 0
  | n + 1, j, p, z2 =>
    p / (j : Int) + (if alt then - atanSeries alt n (j + 2) (fxMul p z2) z2
      else atanSeries alt n (j + 2) (fxMul p z2) z2)

/-- ln m for m in [1, 2]. -/
def fxLn (m : Int) : Int :=
  let z := fxDiv (m - fxOne) (m + fxOne)
  2 * atanSeries false 230 1 z (fxMul z z)

def fxLn2 : Int := fxLn (2 * fxOne)

def fxAtanInv (q : Nat) : Int :=
  let z := fxOne / (q : Int)
  atanSeries true 160 1 z (fxMul z z)

def fxPi : Int := 16 * fxAtanInv 5 - 4 * fxAtanInv 239

/-- Square root of a non-negative fixed-point number. -/
def fxSqrt (a : Int) : Int := ((Nat.sqrt (a.toNat * 2 ^ 700) : Nat) : Int)

/-- 2 ÷ √π. -/
def fxTwoOverSqrtPi : Int := fxDiv (2 * fxOne) (fxSqrt fxPi)

/-- Σ 2^n x^(2n+1) ÷ (2n+1)!! from the term `t` with odd number `j`; `y` is 2 x². -/
def erfSeries : Nat → Nat → Int → Int → Int
  | 0, _, _, _ => 0
  | n + 1, j, t, y => t + erfSeries n (j + 2) (fxMul t y / ((j + 2 : Nat) : Int)) y

/-- erf x for 0 ≤ x < 12. -/
def fxErfPos (x : Int) : Int :=
  let x2 := fxMul x x
  fxMul (fxMul fxTwoOverSqrtPi (fxExp (-x2))) (erfSeries 1100 1 x (2 * x2))

/-- erf x; beyond 12 it is 1 to within the error bound. -/
def fxErf (x : Int) : Int :=
  let a := if x < 0 then -x else x
  let r := if 18 * fxOne < a then fxOne else fxErfPos a
  if x < 0 then -r else r

/-- ln of a positive fixed-point number below 2^32, by its binary exponent. -/
def fxLog (x : Int) : Int :=
  let l : Int := (Nat.log2 x.toNat : Int) - 700
  let m := if 0 ≤ l then x / 2 ^ l.toNat else x * 2 ^ (-l).toNat
  l * fxLn2 + fxLn m

/-- e^x with the far tails cut to within the error bound: 0 below −400. -/
def fxExpTail (x : Int) : Int := if x < -400 * fxOne then 0 else if x < -255 * fxOne then
    fxMul (fxExp (x / 2)) (fxExp (x - x / 2)) else fxExp x

/-- σ(x) from e^-|x|. -/
def fxSigmoid (x : Int) : Int :=
  let t := fxExpTail (if x < 0 then x else -x)
  if x < 0 then fxDiv t (fxOne + t) else fxDiv fxOne (fxOne + t)

def fxTanh (x : Int) : Int :=
  let a := if x < 0 then -x else x
  let t := fxExpTail (-2 * a)
  let r := fxDiv (fxOne - t) (fxOne + t)
  if x < 0 then -r else r

/-- The normal density φ. -/
def fxDensity (x : Int) : Int :=
  fxMul (fxTwoOverSqrtPi / 2) (fxMul (fxExpTail (-(fxMul x x) / 2)) (fxDiv fxOne (fxSqrt (2 * fxOne))))

/-- Φ(x). -/
def fxPhi (x : Int) : Int := (fxOne + fxErf (fxMul x (fxDiv fxOne (fxSqrt (2 * fxOne))))) / 2

/-- ln (1 + e^x). -/
def fxSoftplus (x : Int) : Int :=
  let t := fxExpTail (if x < 0 then x else -x)
  (if x < 0 then 0 else x) + fxLn (fxOne + t)

/-- The functions of Table 6-6 that are evaluated in fixed point, for arguments below 256 in magnitude. -/
def fxFunc (func : Nat) (x : Int) : Int :=
  match func with
  | 0x01 => fxExp x
  | 0x02 => fxExp (fxMul x fxLn2)
  | 0x08 => fxSigmoid x
  | 0x09 => fxTanh x
  | 0x0A => fxPhi x
  | 0x0B => fxErf x
  | 0x0C => fxSoftplus x
  | 0x11 => let s := fxSigmoid x; fxMul s (fxOne - s)
  | 0x12 => let t := fxTanh x; fxOne - fxMul t t
  | 0x13 => fxPhi x + fxMul x (fxDensity x)
  | 0x14 => let s := fxSigmoid x; s + fxMul x (fxMul s (fxOne - s))
  | 0x15 => fxDensity x
  | 0x1B => fxMul fxTwoOverSqrtPi (fxExpTail (-(fxMul x x)))     -- derivative of erf
  | _ => fxMul fxLn2 (fxExp (fxMul x fxLn2))                     -- derivative of exp2

/-- A finite value as a fixed-point number, truncated. -/
def fxOf (neg : Bool) (m : Nat) (e : Int) : Int :=
  let q := e + 700
  let a : Int := if 0 ≤ q then (m : Int) * 2 ^ q.toNat else (m : Int) / 2 ^ (-q).toNat
  if neg then -a else a

/-- Direction of a rounding: to nearest even, towards +∞, towards −∞. -/
inductive Dir where
  | near
  | up
  | down
  deriving DecidableEq, Repr

/-- The magnitude rounding for a value of sign `neg`. -/
def Dir.rnd (d : Dir) (neg : Bool) : Rnd :=
  match d, neg with
  | .near, _ => .ne
  | .up, false => .up
  | .up, true => .tz
  | .down, false => .tz
  | .down, true => .up

/-- Round the fixed-point integer `a`, exactly, to FP32. -/
def fxRound (d : Dir) (a : Int) : Word :=
  BitVec.ofNat 32 (encodeMag 0 (d.rnd (decide (a < 0))) (decide (a < 0)) a.natAbs 1 (-700)).1

/-- Functions that are above 0 everywhere: a far tail of theirs is a small positive number. -/
def fxPositive (func : Nat) : Bool :=
  [0x01, 0x02, 0x08, 0x0A, 0x0C, 0x11, 0x12, 0x15, 0x1B, 0x1C].contains func

/-- An approximation rounded to FP32: decided when both ends of its error interval round alike. -/
def fxRounded (d : Dir) (func : Nat) (x : Int) (a : Int) : Word :=
  let lo := fxRound d (if fxPositive func then max 1 (a - fxErr) else a - fxErr)
  let hi := fxRound d (a + fxErr)
  if lo = hi then lo else BitVec.ofNat 32 (Config.tableTie func x.natAbs)

/-- 1 ÷ √(m × 2^e), m > 0, as a dyadic number with a sticky bit. -/
def rsqrtSticky (m : Nat) (e : Int) : Nat × Int :=
  let m' := if e % 2 = 0 then m else 2 * m
  let e' := if e % 2 = 0 then e else e - 1
  let n := 2 ^ 1600 / m'
  let s := Nat.sqrt n
  (2 * s + (if s * s * m' = 2 ^ 1600 then 0 else 1), -(e' / 2) - 801)

/-- ln or log2 of m × 2^e, m > 0; exact on powers of two. -/
def logRounded (d : Dir) (two : Bool) (m : Nat) (e : Int) : Word :=
  let l : Int := (Nat.log2 m : Int)
  let k := l + e
  if m = 2 ^ Nat.log2 m ∧ (two ∨ k = 0) then fxRound d (k * fxOne)
  else
    let f := (m : Int) * 2 ^ 700 / 2 ^ Nat.log2 m
    let v := k * fxLn2 + fxLn f
    fxRounded d (if two then 4 else 3) v (if two then fxDiv v fxLn2 else v)

/-- f(x) for a finite non-zero x in the domain of FUNC, rounded once to FP32 in direction `d`. -/
def funcRounded (d : Dir) (func : Nat) (neg : Bool) (m : Nat) (e : Int) : Word :=
  match func with
  | 0x03 => logRounded d false m e
  | 0x04 => logRounded d true m e
  | 0x05 => BitVec.ofNat 32 (encodeMag 0 (d.rnd neg) neg 1 m (-e)).1
  | 0x06 => let (k, q) := rsqrtSticky m e; BitVec.ofNat 32 (encodeMag 0 (d.rnd false) false k 1 q).1
  | 0x07 => let (k, q) := sqrtSticky m e; BitVec.ofNat 32 (encodeMag 0 (d.rnd false) false k 1 q).1
  | _ =>
    let x := fxOf neg m e
    let big := magLt 255 1 0 m e
    if func = 1 ∨ func = 2 then
      if big then (if neg then (if d = .up then 1 else 0) else 0x7F800000)
      else if func = 2 ∧ x % fxOne = 0 ∧ fxOf neg m e = x then
        BitVec.ofNat 32 (encodeMag 0 (d.rnd false) false 1 1 (x / fxOne)).1
      else fxRounded d func x (fxFunc func x)
    else if big then
      -- far tails: the limit, which is the FP32 value nearest
      match func with
      | 0x0C => if neg then 0 else toF32 (.fin false m e)
      | 0x09 => if neg then 0xBF800000 else 0x3F800000
      | 0x0B => if neg then 0xBF800000 else 0x3F800000
      | 0x08 => if neg then 0 else 0x3F800000
      | 0x0A => if neg then 0 else 0x3F800000
      | _ => 0
    else fxRounded d func x (fxFunc func x)

/-- f′(x), correctly rounded to FP32, for the shipped curves with a refine mode (R189). -/
def slopeRounded (func : Nat) (neg : Bool) (m : Nat) (e : Int) : Word :=
  match func with
  | 0x01 => funcRounded .near 1 neg m e
  | 0x02 =>
    if magLt 255 1 0 m e then (if neg then 0 else 0x7F800000)
    else let x := fxOf neg m e; fxRounded .near 0x1C x (fxFunc 0x1C x)
  | 0x03 => BitVec.ofNat 32 (encodeMag 0 .ne false 1 m (-e)).1
  | 0x04 =>
    let inv := fxDiv fxOne fxLn2
    -- 1 ÷ (x ln 2): scaled so that the error stays relative
    let l := (Nat.log2 m : Int) + e
    let f := (m : Int) * 2 ^ 700 / 2 ^ Nat.log2 m
    let a := fxDiv inv f
    let r := fun y : Int => BitVec.ofNat 32 (encodeMag 0 .ne false y.natAbs 1 (-700 - l)).1
    if r (a - fxErr) = r (a + fxErr) then r a else BitVec.ofNat 32 (Config.tableTie 0x1D m)
  | 0x05 => BitVec.ofNat 32 (encodeMag 0 .ne true 1 (m * m) (-2 * e)).1
  | 0x06 =>
    let (k, q) := rsqrtSticky (m * m * m) (3 * e)
    BitVec.ofNat 32 (encodeMag 0 .ne true k 1 (q - 1)).1
  | 0x07 =>
    let (k, q) := rsqrtSticky m e
    BitVec.ofNat 32 (encodeMag 0 .ne false k 1 (q - 1)).1
  | 0x08 => funcRounded .near 0x11 neg m e
  | 0x09 => funcRounded .near 0x12 neg m e
  | 0x0A => funcRounded .near 0x15 neg m e
  | 0x0B => funcRounded .near 0x1B neg m e
  | _ => funcRounded .near 0x08 neg m e

end Sys2Proof.Machine
end

