-- ==== Sys2Proof/Machine/Curves.lean ====
section
/-! DEFINITION. Curve tables (R178 to R191, R447): images and their checks, the shipped curves, evaluation
with its event, the monotonicity check of the loader, and the refine evaluator. -/

namespace Sys2Proof.Machine

/-! ### Curves as the evaluator reads them -/

/-- A side descriptor (Table 6-5). -/
structure Side where
  mode : Nat := 0
  lo : Int := 0
  hi : Int := 0
  aevt : Nat := 0
  av : Word := 0
  as_ : Word := 0
  pc : Word := 0
  deriving DecidableEq, Repr

/-- The header of a curve (Table 6-4), and its segments: `seg pos i` is the value and the slope of segment
`i` of the positive or the negative side. -/
structure CurveView where
  func : Nat := 0
  kind : Nat := 0
  mono : Nat := 0
  zevt : Nat := 0xFF
  neg : Side := {}
  pos : Side := {}
  zv : Word := 0
  zs : Word := 0
  z0n : Word := 0
  z0p : Word := 0
  prescale : Word := 0
  seg : Bool → Nat → Word × Word

def CurveView.side (c : CurveView) (neg : Bool) : Side := if neg then c.neg else c.pos

/-- B of a side. -/
def Side.binades (s : Side) : Nat := (s.hi - s.lo + 1).toNat

/-- Binades that the image stores: sides in modes 0 to 2, the negative side of an exponential curve none
(R180). -/
def CurveView.stored (c : CurveView) (neg : Bool) : Nat :=
  if (neg && c.kind == 1) || (c.side neg).mode == 3 then 0 else (c.side neg).binades

/-! ### Images -/

def parseSide (img : List Byte) (o : Nat) : Side :=
  { mode := fld img o 1
    lo := sext 8 (fld img (o + 1) 1)
    hi := sext 8 (fld img (o + 2) 1)
    aevt := fld img (o + 3) 1
    av := BitVec.ofNat 32 (fld img (o + 4) 4)
    as_ := BitVec.ofNat 32 (fld img (o + 8) 4)
    pc := BitVec.ofNat 32 (fld img (o + 12) 4) }

/-- A curve image (R179): the negative side's binades come first. -/
def viewImage (img : List Byte) : CurveView :=
  let kind := fld img 4 1
  let neg := parseSide img 8
  let pos := parseSide img 0x18
  let nneg := if kind = 1 ∨ neg.mode = 3 then 0 else neg.binades
  { func := fld img 2 2, kind := kind, mono := fld img 5 1, zevt := fld img 6 1, neg := neg, pos := pos
    zv := BitVec.ofNat 32 (fld img 0x28 4), zs := BitVec.ofNat 32 (fld img 0x2C 4)
    z0n := BitVec.ofNat 32 (fld img 0x30 4), z0p := BitVec.ofNat 32 (fld img 0x34 4)
    prescale := BitVec.ofNat 32 (fld img 0x38 4)
    seg := fun p i =>
      let o := 0x40 + 8 * (i + if p then 32 * nneg else 0)
      (BitVec.ofNat 32 (fld img o 4), BitVec.ofNat 32 (fld img (o + 4) 4)) }

def sideOk (s : Side) (raw : List Byte) : Bool :=
  decide (s.mode ≤ 3) &&
    (if s.mode = 3 then zeros raw 1 16
     else
      decide (-126 ≤ s.lo) && decide (s.lo ≤ s.hi) && [0, 1, 3, 0xFF].contains s.aevt &&
      (if s.mode = 0 then s.pc == 0
       else decide (s.binades ≤ 2) &&
        (s.mode == 1 || ([-4, -3, -2, -1, 1, 2, 3, 4] : List Int).contains s.pc.toInt)))

/-- Identifiers of the shipped curves (Table 6-6). -/
def shippedFuncs : List Nat := [1, 2, 3, 4, 5, 6, 7, 8, 9, 10, 11, 12, 0x11, 0x12, 0x13, 0x14, 0x15]

def zevtOk (n : Nat) : Bool := n == 0 || n == 4 || n == 0xF

/-- The loader takes the image (R180). -/
def imageOk (img : List Byte) : Bool :=
  let c := viewImage img
  let rawN := (img.drop 8).take 16
  let rawP := (img.drop 0x18).take 16
  let b := c.stored true + c.stored false
  decide (64 ≤ img.length) && decide (fld img 0 2 = 1) && (c.func == 0 || shippedFuncs.contains c.func)
    && decide (c.kind ≤ 1) && decide (c.mono < 16) && decide (c.mono % 4 ≠ 3) && decide (c.mono / 4 ≠ 3)
    && zevtOk (c.zevt % 16) && zevtOk (c.zevt / 16) && zeros img 7 8 && zeros img 0x3C 0x40
    && sideOk c.neg rawN && sideOk c.pos rawP
    && (if c.kind = 1 then
          zeros rawN 0 16 && c.pos.mode == 0 && decide (c.pos.hi = -1) && zeros rawP 3 16
            && (f32 c.prescale).isFinite && !(f32 c.prescale).isZero && !(f32 c.prescale).neg?
        else c.prescale == 0)
    && decide (b ≤ 40) && decide (img.length = 64 + 256 * b)

/-! ### Shipped curves (Table 6-6, Table 6-12, R186) -/

/-- The direction in which endpoints of a side round. -/
def endDir (mono : Nat) (neg : Bool) : Dir :=
  match (if neg then mono % 4 else mono / 4), neg with
  | 1, false => .up
  | 1, true => .down
  | 2, false => .down
  | 2, true => .up
  | _, _ => .near

/-- An endpoint at the magnitude `(32 + j) × 2^(e − 5)`; the table of exp holds T(r) = 2^r. -/
def endpoint (func mono : Nat) (neg : Bool) (e : Int) (j : Nat) : Word :=
  funcRounded (endDir mono neg) (if func = 1 then 2 else func) neg (32 + j) (e - 5)

/-- Segment `i` of a shipped side: the secant of its stored endpoints, the slope rounded toward zero. -/
def shippedSeg (func mono : Nat) (lo : Int) (neg : Bool) (i : Nat) : Word × Word :=
  let e := lo + ((i / 32 : Nat) : Int)
  let v0 := endpoint func mono neg e (i % 32)
  let v1 := endpoint func mono neg e (i % 32 + 1)
  let d := ((f32 v1).sub (f32 v0)).1.scale (5 - e)
  (v0, BitVec.ofNat 32 (encodeFp 0 .tz d).1)

def tableSide (lo hi : Int) (aevt : Nat) (av as_ : Word) : Side :=
  { mode := 0, lo := lo, hi := hi, aevt := aevt, av := av, as_ := as_ }

/-- The header of a shipped curve. -/
def shippedHead (func : Nat) : CurveView :=
  let none_ : Nat := 0xFF
  let z : Bool → Nat → Word × Word := fun _ _ => (0, 0)
  let inv : Side := { mode := 3 }
  let one : Word := 0x3F800000
  let mone : Word := 0xBF800000
  match func with
  | 0x01 => { func := 1, kind := 1, mono := 5, zevt := none_, pos := tableSide (-16) (-1) 0 0 0,
              zv := one, zs := 0x3F317218, prescale := 0x3FB8AA3B, seg := z }
  | 0x02 => { func := 2, kind := 1, mono := 5, zevt := none_, pos := tableSide (-16) (-1) 0 0 0,
              zv := one, zs := 0x3F317218, prescale := one, seg := z }
  | 0x03 => { func := 3, mono := 4, zevt := 0, neg := inv,
              pos := { mode := 1, lo := -1, hi := 0, aevt := none_, pc := 0x3FB17218 },
              z0n := 0xFF800000, z0p := 0xFF800000, seg := z }
  | 0x04 => { func := 4, mono := 4, zevt := 0, neg := inv,
              pos := { mode := 1, lo := -1, hi := 0, aevt := none_, pc := 0x40000000 },
              z0n := 0xFF800000, z0p := 0xFF800000, seg := z }
  | 0x05 => { func := 5, mono := 10, zevt := 0,
              neg := { mode := 2, aevt := none_, pc := 0xFFFFFFFF },
              pos := { mode := 2, aevt := none_, pc := 0xFFFFFFFF },
              z0n := 0xFF800000, z0p := 0x7F800000, seg := z }
  | 0x06 => { func := 6, mono := 8, zevt := 0, neg := inv,
              pos := { mode := 2, lo := 0, hi := 1, aevt := none_, pc := 0xFFFFFFFF },
              z0n := 0xFF800000, z0p := 0x7F800000, seg := z }
  | 0x07 => { func := 7, mono := 4, zevt := none_, neg := inv,
              pos := { mode := 2, lo := 0, hi := 1, aevt := none_, pc := 1 },
              z0n := 0x80000000, z0p := 0, seg := z }
  | 0x08 => { func := 8, mono := 5, neg := tableSide (-12) 4 evVan 0 0, pos := tableSide (-12) 4 none_ one 0,
              zv := 0x3F000000, zs := 0x3E800000, seg := z }
  | 0x09 => { func := 9, mono := 5, neg := tableSide (-12) 3 none_ mone 0,
              pos := tableSide (-12) 3 none_ one 0, zv := 0, zs := one, seg := z }
  | 0x0A => { func := 10, mono := 5, neg := tableSide (-12) 3 evVan 0 0,
              pos := tableSide (-12) 3 none_ one 0, zv := 0x3F000000, zs := 0x3ECC422A, seg := z }
  | 0x0B => { func := 11, mono := 5, neg := tableSide (-12) 2 none_ mone 0,
              pos := tableSide (-12) 2 none_ one 0, zv := 0, zs := 0x3F906EBB, seg := z }
  | 0x0C => { func := 12, mono := 5, neg := tableSide (-12) 4 evVan 0 0,
              pos := tableSide (-12) 4 none_ 0 one, zv := 0x3F317218, zs := 0x3F000000, seg := z }
  | 0x11 => { func := 0x11, mono := 9, neg := tableSide (-12) 4 evVan 0 0,
              pos := tableSide (-12) 4 evVan 0 0, zv := 0x3E800000, zs := 0, seg := z }
  | 0x12 => { func := 0x12, mono := 9, neg := tableSide (-12) 3 evVan 0 0,
              pos := tableSide (-12) 3 evVan 0 0, zv := one, zs := 0, seg := z }
  | 0x13 => { func := 0x13, neg := tableSide (-12) 3 evVan 0x80000000 0,
              pos := tableSide (-12) 3 none_ one 0, zv := 0x3F000000, zs := 0x3F4C422A, seg := z }
  | 0x14 => { func := 0x14, neg := tableSide (-12) 4 evVan 0x80000000 0,
              pos := tableSide (-12) 4 none_ one 0, zv := 0x3F000000, zs := 0x3F000000, seg := z }
  | _ => { func := 0x15, mono := 9, neg := tableSide (-12) 3 evVan 0 0,
           pos := tableSide (-12) 3 evVan 0 0, zv := 0x3ECC422A, zs := 0, seg := z }

/-- A shipped curve. -/
def shippedView (func : Nat) : CurveView :=
  let h := shippedHead func
  { h with seg := fun p i => shippedSeg func h.mono (h.side (!p)).lo (!p) i }

/-- The curve in a slot; none when it is empty. -/
def Curve.view (c : Curve) : Option CurveView :=
  if !c.loaded then none
  else if c.shipped = 0 then some (viewImage c.image)
  else some (shippedView c.shipped)

/-! ### Evaluation (R181 to R184) -/

/-- The outcome of an evaluation: its FP32 result, the exact value before the last rounding, the events
that R184 decides before the encoding (none: the events of the encoding), and the slope of the piece. -/
structure Ev where
  res : Val
  exact : Val
  fixed : Option (List Nat) := none
  slope : Val := Val.zero
  deriving DecidableEq, Repr

/-- Round the last step. -/
def Ev.last (x : Val) (slope : Val := Val.zero) : Ev := { res := (roundTo fFP32 x).1, exact := x, slope := slope }

/-- `⌊log₂ |x|⌋` of a non-zero magnitude. -/
def expo (m : Nat) (e : Int) : Int := (Nat.log2 m : Int) + e

/-- Segment evaluation at the magnitude `m × 2^e`: the exact FMA, and the slope. -/
def evalSeg (c : CurveView) (neg : Bool) (m : Nat) (e : Int) : Val × Val :=
  let x := expo m e
  let j := m * 32 / 2 ^ Nat.log2 m - 32
  let (v, sl) := c.seg (!neg) ((x - (c.side neg).lo).toNat * 32 + j)
  let dx := ((Val.fin false m e).sub (.fin false (32 + j) (x - 5))).1
  (((f32 sl).fma dx (f32 v)).1, f32 sl)

/-- The zero region. -/
def zeroRegion (c : CurveView) (x : Val) : Val :=
  if (f32 c.zv).isZero then ((f32 c.zs).mul x).1 else ((f32 c.zs).fma x (f32 c.zv)).1

/-- A class, or no event for 0xF and 0xFF. -/
def classOf (n : Nat) : List Nat := if n < 10 then [n] else []

/-- A sided curve at a finite non-zero input (R181). -/
def evalSided (c : CurveView) (neg : Bool) (m : Nat) (e : Int) : Ev :=
  let s := c.side neg
  let x := expo m e
  let sgn (v : Val) : Val := if neg then v.negate else v
  if s.mode = 3 then { res := .nan, exact := .nan, fixed := some [evInv], slope := .nan }
  else if s.mode = 0 then
    if x < s.lo then Ev.last (zeroRegion c (.fin neg m e)) (f32 c.zs)
    else if s.hi < x then
      { Ev.last (((f32 s.as_).fma (.fin neg m e) (f32 s.av)).1) (f32 s.as_) with fixed := some (classOf s.aevt) }
    else let (y, sl) := evalSeg c neg m e; Ev.last y (sgn sl)
  else
    let b : Int := s.binades
    let k := (x - s.lo) / b
    let (y, sl) := evalSeg c neg m (e - k * b)
    let t := (roundTo fFP32 y).1
    if s.mode = 1 then
      Ev.last (((Val.fin (decide (k < 0)) k.natAbs 0).fma (f32 s.pc) t).1) (sgn (sl.scale (-(k * b))))
    else
      let q := s.pc.toInt
      let r := t.scale (k * q)
      -- a segment result that has already rounded to zero keeps the exact value of its FMA
      { Ev.last r (sgn (sl.scale (k * (q - b)))) with exact := if t.isZero then y else r }

/-- T(r) of an exponential curve, exact before its rounding, and the slope of the piece. -/
def evalT (c : CurveView) (r : Val) : Val × Val :=
  match r with
  | .fin _ m e =>
    if m = 0 then (f32 c.zv, f32 c.zs)
    else if expo m e < c.pos.lo then (zeroRegion c r, f32 c.zs)
    else evalSeg c false m e
  | _ => (.nan, .nan)

/-- An exponential curve at a prescaled input x′ (R182). -/
def evalExpCore (c : CurveView) (x : Val) : Ev :=
  match x with
  | .fin n m e =>
    let a := sMant n m e (min e 0)
    let k := a / 2 ^ (-(min e 0)).toNat
    let r := ((Val.fin n m e).sub (.fin (decide (k < 0)) k.natAbs 0)).1
    let (y, sl) := evalT c r
    -- beyond 1000 the slope is already infinite or zero
    let slope := (sl.mul (f32 c.prescale)).1.scale (max (-1000) (min 1000 k))
    if Val.le (.fin false 128 0) x then { res := .inf false, exact := .inf false, slope := slope }
    else if Val.lt x (.fin true 150 0) then { res := Val.zero, exact := Val.one, slope := slope }
    else
      let t := (roundTo fFP32 y).1
      let z := t.scale k
      { Ev.last z slope with exact := if t.isZero then y else z }
  -- a finite input whose x′ leaves the range of FP32 has no r, and its slope is the limit (log entry 75)
  | .inf n =>
    if n then { res := Val.zero, exact := Val.one }
    else { res := .inf false, exact := .inf false, slope := .inf false }
  | .nan => { res := .nan, exact := .nan }

/-- An infinite input on a sided curve (R183). -/
def evalInf (c : CurveView) (neg : Bool) : Val :=
  let s := c.side neg
  match s.mode with
  | 0 =>
    if (f32 s.as_).isZero then f32 s.av
    else if (f32 s.as_).isNan then .nan
    else .inf ((f32 s.as_).neg? != neg)
  | 1 => if (f32 s.pc).isNan then .nan else .inf (f32 s.pc).neg?
  | 2 =>
    let sg := (c.seg (!neg) 0).1.getLsbD 31
    if s.pc.toInt < 0 then .fin sg 0 0 else .inf sg
  | _ => .nan

/-- The curve at an FP32 input, with the decided events of R184. -/
def evaluate (c : CurveView) (x : Val) : Ev :=
  match x with
  | .nan => { res := .nan, exact := .nan, fixed := some [] }
  | .inf n =>
    { (if c.kind = 1 then evalExpCore c x else { res := evalInf c n, exact := Val.zero : Ev }) with
      fixed := some [] }
  | .fin n m e =>
    let r : Ev :=
      if m = 0 then
        if c.kind = 1 then { res := f32 c.zv, exact := f32 c.zv }
        else
          let s := c.side n
          if s.mode = 0 then Ev.last (zeroRegion c x)
          else
            let ev := if n then c.zevt % 16 else c.zevt / 16
            { res := f32 (if n then c.z0n else c.z0p), exact := Val.zero, fixed := some (classOf ev) }
      else if c.kind = 1 then evalExpCore c (roundTo fFP32 ((f32 c.prescale).mul x).1).1
      else evalSided c n m e
    if r.fixed.isSome then r
    else if r.res.isInf then { r with fixed := some [evOver] }
    else if r.res.isZero && !r.exact.isZero then { r with fixed := some [evVan] }
    else r

/-- The curve of a slot: an empty slot gives +0 and no event, a poisoned one NaN and a poison read. -/
def evalSlot (c : Curve) (x : Val) : Ev :=
  if c.poisoned then { res := .nan, exact := .nan, fixed := some [evPoison] }
  else match c.view with
    | none => { res := Val.zero, exact := Val.zero, fixed := some [] }
    | some v => evaluate v x

/-- x × c(x), rounded once (Table 6-1); its single event is the curve's decided one, or that of the
product's FP32 rounding. -/
def evalTimes (c : Curve) (x : Val) : Ev :=
  let r := evalSlot c x
  let p := (x.mul r.res).1
  let y := (roundTo fFP32 p).1
  let fixed : Option (List Nat) :=
    if r.fixed.isSome then r.fixed
    else if !x.isFinite then some []
    else if y.isInf then some [evOver]
    else if y.isZero && !p.isZero then some [evVan]
    else none
  { res := y, exact := p, fixed := fixed }

/-! ### The monotonicity check (R187) -/

/-- Does the curve go the declared way from the result `a` to the result `b`, `a` at the smaller x? -/
def ordered (dir : Nat) (a b : Val) : Bool := if dir = 1 then a.le b else b.le a

/-- A slope has the declared sign or is zero; `flip` for a slope along |x| on the negative side. -/
def slopeOk (dir : Nat) (flip : Bool) (w : Word) : Bool :=
  let v := f32 w
  !v.isNan && (v.isZero || (v.neg? == (dir == 2)) != flip)

/-- FP32 code of the least value at or above the magnitude `m × 2^e`, m > 0; none at or above 2^128. -/
def codeAtOrAbove (m : Nat) (e : Int) : Option Nat :=
  let c := roundMag (fpLayout 0) .up m 1 e
  if c < 0x7F800000 then some c else none

/-- The seam at the magnitude `m × 2^e` under evaluation `f` of FP32 values. -/
def seamOk (dir : Nat) (neg : Bool) (f : Val → Val) (m : Nat) (e : Int) : Bool :=
  match codeAtOrAbove m e with
  | none => true
  | some c =>
    let at_ := f (decodeFp 0 (c + if neg then 2 ^ 31 else 0))
    let near := f (decodeFp 0 (c - 1 + if neg then 2 ^ 31 else 0))
    if c ≤ 1 then true else if neg then ordered dir at_ near else ordered dir near at_

/-- Periods of a side that finite inputs reach. -/
def periods (s : Side) : List Int :=
  let b : Int := s.binades
  let lo := (-149 - s.lo) / b
  let hi := (127 - s.lo) / b
  (List.range (hi - lo + 1).toNat).map fun i : Nat => lo + (i : Int)

/-- First failure of a side with declared direction `dir`: 0x7FE, a segment, or 0x7FF. -/
def sideCheck (c : CurveView) (neg : Bool) (dir : Nat) : Option Nat :=
  let s := c.side neg
  let n := 32 * s.binades
  let f : Val → Val :=
    if c.kind = 1 then fun x => (roundTo fFP32 (evalT c x).1).1 else fun x => (evaluate c x).res
  if s.mode = 3 then (if slopeOk dir false c.zs then none else some 0x7FE)
  else if !(slopeOk dir false c.zs && (s.mode != 0 || seamOk dir neg f 1 s.lo)) then some 0x7FE
  else
    let ks : List Int := if s.mode = 0 then [0] else periods s
    let seams (i : Nat) : Bool :=
      ks.all fun k =>
        seamOk dir neg f (32 + (i + 1) % 32) (s.lo + ((i + 1) / 32 : Nat) - 5 + k * s.binades)
    match (List.range n).find? fun i =>
        !(slopeOk dir neg (c.seg (!neg) i).2 && (i + 1 == n || seams i)) with
    | some i => some i
    | none =>
      if c.kind = 1 then
        let g : Val → Val := fun x => (evalExpCore c x).res
        let wrap (k : Int) : Bool :=
          -- the largest FP32 value below the integer k
          let at_ := Val.fin (decide (k < 0)) k.natAbs 0
          let near :=
            if k = 0 then decodeFp 0 0x80000001
            else
              let code := (encodeFp 0 .ne at_).1
              decodeFp 0 (if k < 0 then code + 1 else code - 1)
          ordered dir (g near) (g at_)
        if ((List.range 278).map fun i : Nat => (i : Int) - 150).all wrap then none else some 0x7FF
      else if slopeOk dir false s.as_ && (if s.mode = 0 then seamOk dir neg f 1 (s.hi + 1) else seams (n - 1))
        then none
      else some 0x7FF

/-- The loader's check: NONMONO, FAIL_SIDE, FAIL_SEG. -/
def monoCheck (c : CurveView) : Bool × Bool × Nat :=
  let dn := if c.kind = 1 then 0 else c.mono % 4
  let dp := c.mono / 4
  match (if dn = 0 then none else sideCheck c true dn), (if dp = 0 then none else sideCheck c false dp) with
  | some i, _ => (true, false, i)
  | none, some i => (true, true, i)
  | none, none => (false, false, 0)

/-- A loaded image. -/
def Curve.ofImage (img : List Byte) : Curve :=
  let r := monoCheck (viewImage img)
  { loaded := true, image := img, nonmono := r.1, failSide := r.2.1, failSeg := r.2.2 }

/-- A loaded shipped curve; every declared side passes the check (R186). -/
def Curve.ofShipped (f : Nat) : Curve := { loaded := true, shipped := f }

/-- CELL_CRV_SLOT (Table 6-9). -/
def Curve.word (c : Curve) : Nat :=
  match c.view with
  | none => b2n c.poisoned * 8
  | some v =>
    b2n c.failSide * 2 ^ 48 + c.failSeg * 2 ^ 37 + v.func * 2 ^ 16
      + (v.stored true + v.stored false) * 2 ^ 10 + b2n c.poisoned * 8 + v.kind * 4
      + b2n c.nonmono * 2 + 1

/-! ### The refine evaluator (R189, R191) -/

/-- x with fraction bits [3:0] cleared. -/
def clearLow (w : Word) : Word := w &&& 0xFFFFFFF0

/-- SEED, with its decided events, and SLOPE of FREFINE at the FP32 input `w`. -/
def refine (c : Curve) (w : Word) : Ev :=
  let x := f32 w
  let x0 := f32 (clearLow w)
  if c.poisoned then { res := .nan, exact := .nan, fixed := some [evPoison], slope := .nan }
  else match c.view with
    | none => { res := Val.zero, exact := Val.zero, fixed := some [] }
    | some v =>
      let own := decide (v.func = 0 ∨ 12 < v.func)
      let t := if own then v else shippedView v.func
      if x.isNan || x.isInf then { evaluate t x with slope := Val.zero }
      else if x0.isZero then { evaluate t x0 with slope := Val.zero }
      else if own then
        let r := evaluate t x0
        { r with slope := (roundTo fFP32 r.slope).1 }
      else match x0 with
        | .fin n m e =>
          let s := t.side n
          if t.kind = 0 ∧ s.mode = 3 then
            { res := .nan, exact := .nan, fixed := some [evInv], slope := .nan }
          else
            let y := f32 (funcRounded .near t.func n m e)
            let exactZero := decide ((t.func = 3 ∨ t.func = 4) ∧ !n ∧ m = 2 ^ Nat.log2 m ∧ expo m e = 0)
            let fixed : Option (List Nat) :=
              if t.kind = 0 ∧ s.mode = 0 ∧ s.hi < expo m e then some (classOf s.aevt)
              else if y.isInf then some [evOver]
              else if y.isZero && !exactZero then some [evVan]
              else none
            { res := y, exact := y, fixed := fixed, slope := f32 (slopeRounded t.func n m e) }
        | _ => { res := .nan, exact := .nan }

end Sys2Proof.Machine
end

