-- ==== Sys2Proof/Machine/Drain.lean ====
section
/-! DEFINITION. The drain: stages S1 to S6, write units, occupancy bitmap and sparse form (R100 to R128,
R233 to R238). -/

namespace Sys2Proof.Machine

/-- Round to FP32 with subnormal results flushed (R65); a result below the subnormals counts flushed too. -/
def flushRound (v : Val) : Val × List Nat :=
  match v with
  | .fin n m _ =>
    if m = 0 then (.fin n 0 0, [])
    else
      let (c, ev) := encodeFp fFP32 .ne v
      if c % 2 ^ 31 < 0x00800000 then (.fin n 0 0, [evFlush]) else (decodeFp fFP32 c, ev)
  | _ => (v, [])

/-! ### Tiles -/

/-- Column tiles, row tiles and K-tiles of a product (R72). -/
def PD.nt (d : PD) : Nat := ceilDiv d.n 128
def PD.mt (d : PD) : Nat := ceilDiv d.m 128
def PD.kt (d : PD) : Nat := ceilDiv d.k 128
/-- Output tiles. -/
def PD.tiles (d : PD) : Nat := d.mt * d.nt

/-- Position of output tile `t`: row tile, column tile. -/
def tilePos (d : PD) (t : Nat) : Nat × Nat := (t / d.nt, t % d.nt)
def rowsIn (d : PD) (t : Nat) : Nat := min 128 (d.m - 128 * (tilePos d t).1)
def colsIn (d : PD) (t : Nat) : Nat := min 128 (d.n - 128 * (tilePos d t).2)
def ksIn (d : PD) (kt : Nat) : Nat := min 128 (d.k - 128 * kt)

/-! ### Elements of blocked tensors -/

/-- First byte of the 32-element row that holds element (r, k) of a blocked tensor of pitch `p` (R205). -/
def rowInBlock (base f p r k : Nat) : Nat :=
  base + (r / 32 * p + k / 32) * blockBytes f + r % 32 * (blockBytes f / 32)

/-- The value that a code gives by itself, without its scale, and whether it was read from poison. -/
def codeVal (s : State) (fm : Fmt) (a i : Nat) : Val × Bool :=
  if elemBad s a fm.bits i then (fm.poisonVal, true) else (fm.decode (elemCode s a fm.bits i), false)

/-! ### The rescale slice and the auxiliary rows -/

/-- Fetch the rescale entries of output tile `t` (R107); a poisoned entry is NaN in both halves (R127). -/
def fetchSlice (s : State) (p : Product) : List (DWord × Bool) :=
  let d := p.dd
  if d.rescale then
    (List.range (colsIn p.pd p.tile)).map fun j =>
      let a := d.rsBase + 8 * (128 * (tilePos p.pd p.tile).2 + j)
      (BitVec.ofNat 64 (rdNat s a 8), badRange s a 8)
  else []

/-- Scale and bias of an entry. -/
def sliceVal (e : DWord × Bool) : Val × Val :=
  if e.2 then (.nan, .nan) else (f32 (e.1.setWidth 32), f32 ((e.1 >>> 32).setWidth 32))

/-- The auxiliary elements of row `r` of the tile, with their poison reads (R109, R127). -/
def auxRow (s : State) (c : Cell) (p : Product) (r : Nat) : List (Val × Bool) :=
  let d := p.dd
  let o : Opnd := ⟨d.auxBase, Fmt.ofDesc c d.auxFmt, d.auxScale⟩
  let (mt, nt) := tilePos p.pd p.tile
  (List.range (colsIn p.pd p.tile)).map fun j =>
    o.blk s (pitchOf o.fmt.code p.pd.n) (128 * mt + r) (128 * nt + j)

/-! ### Stages S1 to S4 (R106 to R113) -/

/-- Derivative factor (Table 4-4), with curve events. -/
def deriv (c : Cell) (d : DD) (a : Val) : Val × List Nat :=
  match d.dfn with
  | 4 =>
    let e := evalSlot (fget {} c.curves d.dcurve) a
    (e.res, e.fixed.getD [])
  | k =>
    if a.isNan then (.nan, [])
    else
      let on : Bool := if k = 3 then (f32 d.lo).lt a && a.lt (f32 d.hi) else Val.zero.lt a
      (if on then Val.one else if k = 2 then f32 d.alpha else Val.zero, [])

/-- Activation (Table 4-3); the built-in functions give the canonical NaN for NaN (R112). -/
def activate (c : Cell) (d : DD) (y : Val) : Val × List Nat :=
  match d.act with
  | 0 => (y, [])
  | 4 =>
    let e := evalSlot (fget {} c.curves d.curve) y
    (e.res, e.fixed.getD [])
  | 5 =>
    let e := evalTimes (fget {} c.curves d.curve) y
    (e.res, e.fixed.getD [])
  | k =>
    if y.isNan then (.nan, [])
    else if k = 3 then
      (if y.lt (f32 d.lo) then f32 d.lo else if (f32 d.hi).lt y then f32 d.hi else y, [])
    else if Val.zero.lt y then (y, [])
    else if k = 1 then (Val.zero, [])
    else rounded fFP32 ((f32 d.alpha).mul y)

/-- S1: an integer sum to FP32; an FP32 sum passes (R106). -/
def stageConv (int : Bool) (w : Word) : Val × List Nat :=
  if int then roundTo fFP32 (i32 w) else (f32 w, [])

/-- S2 (R108). -/
def stageRescale (on : Bool) (e : Option (DWord × Bool)) (y : Val) : Val × List Nat :=
  if on then
    let (sc, b) := sliceVal (e.getD (0, false))
    let (v, e1) := y.fma sc b
    let (x, e2) := flushRound v
    (x, e1 ++ e2)
  else (y, [])

/-- S3 (R109). -/
def stageAux (c : Cell) (d : DD) (a : Option (Val × Bool)) (y : Val) : Val × List Nat :=
  let x := ((a.map Prod.fst).getD Val.zero)
  match d.auxMode with
  | 0 => (y, [])
  | 1 => rounded fFP32 (y.add x)
  | 2 =>
    let (g, e) := deriv c d x
    let (v, e2) := rounded fFP32 (y.mul g)
    (v, e ++ e2)
  | _ => rounded fFP32 (y.mul x)

/-- S1 to S4 of one element: the FP32 result and its event classes. -/
def stages (c : Cell) (d : DD) (int : Bool) (e : Option (DWord × Bool)) (a : Option (Val × Bool)) (w : Word) :
    Val × List Nat :=
  let r1 := stageConv int w
  let r2 := stageRescale d.rescale e r1.1
  let r3 := stageAux c d a r2.1
  let r4 := activate c d r3.1
  (r4.1, dedupEv (r1.2 ++ r2.2 ++ r3.2 ++ r4.2))

/-- Row `r` of the tile after S4, from its final sums, with its events: FP32's, and the poison reads of the
auxiliary tensor charged to AUX_FMT (R120). -/
def drainRow (s : State) (c : Cell) (p : Product) (int : Bool) (r : Nat) (sums : List Word) : DrnRow :=
  let d := p.dd
  let aux := if d.auxMode = 0 then [] else auxRow s c p r
  let els := (List.range sums.length).map fun j => stages c d int p.slice[j]? aux[j]? (sums.getD j 0)
  let xf := fmtOf c d.auxFmt
  { vals := els.map fun e => toF32 e.1,
    evs := (els.flatMap fun e => tagEv fFP32 e.2)
      ++ (aux.filterMap fun a => if a.2 then some (xf, evPoison) else none) }

/-! ### Write units (R114 to R117) -/

/-- Does the tile wait for the transposed encode sweep? -/
def wholeTile (c : Cell) (d : DD) : Bool := d.trans && fmtScaled (fmtOf c d.fmtOut) && !d.fixed

/-- Stored columns of the tile's footprint (R206). -/
def storedCols (c : Cell) (p : Product) : Nat :=
  let d := p.dd
  let (mt, nt) := tilePos p.pd p.tile
  let w := (outShape p.pd d).2
  min 128 (32 * pitchOf (fmtOf c d.fmtOut) w - 128 * (if d.trans then mt else nt))

/-- Stored rows of the tile's footprint, whole blocks. -/
def storedRows (p : Product) : Nat :=
  let d := p.dd
  let n := if d.trans then colsIn p.pd p.tile else rowsIn p.pd p.tile
  32 * ceilDiv n 32

/-- Write units of the tile. In sparse form with TRANS_OUT the tile is one unit, since body positions
depend on every earlier bit. -/
def unitCount (c : Cell) (p : Product) : Nat :=
  let d := p.dd
  if wholeTile c d || (d.trans && d.sparse) then 1
  else if d.trans then storedCols c p / 32
  else ceilDiv (rowsIn p.pd p.tile) 32

/-- Rows of C that unit `q` holds. -/
def unitRows (c : Cell) (p : Product) (q : Nat) : List Nat :=
  let n := rowsIn p.pd p.tile
  if unitCount c p = 1 then List.range n
  else (List.range 32).filterMap fun i => if 32 * q + i < n then some (32 * q + i) else none

/-- Are all rows of unit `q` in the buffer? A unit beyond the tile's rows waits for its last row. -/
def unitReady (c : Cell) (b : TileBuf) (q : Nat) : Bool :=
  let n := rowsIn b.prod.pd b.prod.tile
  let has (r : Nat) := b.rows.any fun x => x.1 == r
  let need := unitRows c b.prod q
  (if need.isEmpty then has (n - 1) else need.all has) && (!wholeTile c b.prod.dd || b.swept)

/-- The rounding of stored element (row, col) of the output (R60, R61, R115). -/
def drainRnd (c : Cell) (p : Product) (row col : Nat) : Rnd :=
  let d := p.dd
  if roundOf c d.fmtOut = 1 then
    let e := row * (128 * ceilDiv (outShape p.pd d).2 128) + col
    let w := (rngDraw p.seed p.step d.stream (e / 2)).toNat
    .st (if e % 2 = 0 then w % 65536 else w / 65536)
  else .ne

/-- The value of C's element (r, j) after S4, none when the row is not in the buffer. -/
def bufVal (b : TileBuf) (r j : Nat) : Option Val :=
  (b.rows.find? fun x => x.1 == r).map fun x => f32 (x.2.vals.getD j 0)

/-- A stored row of a unit: its scale byte, and code, event classes and whether it lies in the tensor, for
each stored column. -/
structure EncRow where
  scale : Nat := 127
  cells : List (Nat × List Nat × Bool) := []
  deriving DecidableEq, Repr

/-- Encode the stored elements (row, col₀ + i) of one scale group or a part of it; `vals` are the elements
inside the tensor and `width` the stored columns; padding is +0 (R48, R116). `group` is the whole scale group:
where it is set to NaN, only NaN elements count events (R51, R52). -/
def encRow (c : Cell) (p : Product) (row col0 : Nat) (group vals : List Val) (width : Nat) : EncRow :=
  let d := p.dd
  let fm := Fmt.ofDesc c d.fmtOut
  let rnd (i : Nat) := drainRnd c p row (col0 + i)
  let pad := (List.replicate (width - vals.length) ((fm.encode .ne Val.zero).1, ([] : List Nat), false))
  if fm.scaled then
    let g := encodeGroup fm rnd (if d.fixed then d.code else computeScale fm vals) vals
    let quiet := nanGroup fm group && !nanGroup fm vals
    { scale := g.scale, cells := (g.elems.map fun e => (e.1, if quiet then [] else e.2, true)) ++ pad }
  else
    { cells := ((vals.zip (List.range vals.length)).map fun x =>
        let (k, e, _) := fm.encode (rnd x.2) x.1
        (k, e, true)) ++ pad }

/-- The elements of column `j` of the tile whose rows are in the buffer. -/
def bufColumn (b : TileBuf) (j : Nat) : List Val :=
  if j < colsIn b.prod.pd b.prod.tile then
    (List.range (rowsIn b.prod.pd b.prod.tile)).filterMap fun r => bufVal b r j
  else []

/-- Encode unit `q`: its stored rows from `row0` and columns from `col0` (tile coordinates). -/
def encUnit (c : Cell) (b : TileBuf) (q : Nat) : Nat × Nat × List EncRow :=
  let p := b.prod
  let d := p.dd
  let (mt, nt) := tilePos p.pd p.tile
  let n := rowsIn p.pd p.tile
  let k := colsIn p.pd p.tile
  let wt := storedCols c p
  let one := unitCount c p == 1
  if d.trans then
    let c0 := if one then 0 else 32 * q
    let w := if one then wt else 32
    let rows := (List.range (storedRows p)).map fun j =>
      let vals := if j < k then (List.range (min w (n - c0))).filterMap fun i => bufVal b (c0 + i) j else []
      encRow c p (128 * nt + j) (128 * mt + c0) (if one then vals else bufColumn b j) vals w
    (0, c0, rows)
  else
    let rows := (List.range (if one then storedRows p else 32)).map fun i =>
      let r := 32 * q + i
      let vals := if r < n then (List.range k).filterMap fun j => bufVal b r j else []
      encRow c p (128 * mt + r) (128 * nt) vals vals wt
    (32 * q, 0, rows)

/-- The scale byte of stored row `j` of a transposed tile with a fixed scale: 0xFF when its column holds a
NaN that FMT_OUT cannot hold (R52, R117). -/
def fixedTransScale (c : Cell) (b : TileBuf) (j : Nat) : Nat :=
  if nanGroup (Fmt.ofDesc c b.prod.dd.fmtOut) (bufColumn b j) then 255 else b.prod.dd.code

/-- Does an encoded element decode to something other than zero (R118)? -/
def nonzeroCell (fm : Fmt) (scale : Nat) (x : Nat × List Nat × Bool) : Bool :=
  x.2.2 && ((fm.scaled && scale == 255) || !(fm.decode x.1).isZero)

/-- Occupancy bits of the blocks of an encoded unit: ((i, j) in the tile, bit). -/
def unitBits (c : Cell) (b : TileBuf) (u : Nat × Nat × List EncRow) : List ((Nat × Nat) × Bool) :=
  let fm := Fmt.ofDesc c b.prod.dd.fmtOut
  let d := b.prod.dd
  let (r0, c0, rows) := u
  let w := ((rows.map fun r => r.cells.length).headD 0) / 32
  (List.range (rows.length / 32)).flatMap fun i => (List.range w).map fun j =>
    let blk := (rows.drop (32 * i)).take 32
    let nz := (blk.zip (List.range 32)).any fun r =>
      let sc := if d.trans && d.fixed then fixedTransScale c b (r0 + 32 * i + r.2) else r.1.scale
      ((r.1.cells.drop (32 * j)).take 32).any (nonzeroCell fm sc)
    ((r0 / 32 + i, c0 / 32 + j), nz)

/-- The bytes of block (i, j) of an encoded unit, counted within the unit. -/
def unitBlock (w : Nat) (rows : List EncRow) (i j : Nat) : List Byte :=
  ((rows.drop (32 * i)).take 32).flatMap fun r =>
    leBytes (4 * w) (packNat w (((r.cells.drop (32 * j)).take 32).map Prod.fst))

/-- The tile's BITMAP (R234). -/
def bitsNat (l : List ((Nat × Nat) × Bool)) : Nat :=
  l.foldl (fun n x => if x.2 then n ||| 2 ^ (4 * x.1.1 + x.1.2) else n) 0

/-- Occupancy bits of the whole tile, from the units up to `q`. A unit that a block row makes and that has been
written keeps the bits it was written with (R125). -/
def tileBits (c : Cell) (b : TileBuf) (q : Nat) : List ((Nat × Nat) × Bool) :=
  (List.range (q + 1)).flatMap fun k =>
    if k < b.units && !b.prod.dd.trans then
      (List.range (storedCols c b.prod / 32)).map fun j => ((k, j), natBit b.bits (4 * k + j))
    else unitBits c b (encUnit c b k)

def popcount (n : Nat) : Nat := ((List.range 64).filter fun i => natBit n i).length

/-- Blocks and addresses that a unit writes: dense into the blocked layout, or the non-zero blocks of a slot
of the sparse form (R116, R235, R238). -/
def unitWrites (c : Cell) (b : TileBuf) (q : Nat) (u : Nat × Nat × List EncRow) : List (Nat × List Byte) :=
  let p := b.prod
  let d := p.dd
  let fo := fmtOf c d.fmtOut
  let bits := unitBits c b u
  let (mt, nt) := tilePos p.pd p.tile
  let (ti, tj) := if d.trans then (nt, mt) else (mt, nt)
  let data (x : Nat × Nat) := unitBlock (fmtBits fo) u.2.2 (x.1 - u.1 / 32) (x.2 - u.2.1 / 32)
  if d.sparse then
    let occ := bitsNat (tileBits c b q)
    let slot := d.outBase + (ti * ceilDiv (outShape p.pd d).2 128 + tj) * slotBytes fo
    bits.filterMap fun x =>
      if x.2 then
        some (slot + 256 + popcount (occ % 2 ^ (4 * x.1.1 + x.1.2)) * blockBytes fo, data x.1)
      else none
  else
    let pt := pitchOf fo (outShape p.pd d).2
    bits.map fun x => (d.outBase + ((4 * ti + x.1.1) * pt + 4 * tj + x.1.2) * blockBytes fo, data x.1)

/-- The scale bytes that go with a unit: with each unit, or with the last one of a transposed tile with a
fixed scale (R117). -/
def unitScales (c : Cell) (b : TileBuf) (q : Nat) (u : Nat × Nat × List EncRow) : List (Nat × List Byte) :=
  let p := b.prod
  let d := p.dd
  let fo := fmtOf c d.fmtOut
  let (mt, nt) := tilePos p.pd p.tile
  let g := pitchOf fo (outShape p.pd d).2 / 4
  let (ti, tj) := if d.trans then (nt, mt) else (mt, nt)
  let at_ (i : Nat) (v : Nat) : Nat × List Byte := (d.outScale + (128 * ti + i) * g + tj, [BitVec.ofNat 8 v])
  if !fmtScaled fo then []
  else if d.trans && d.fixed then
    if q + 1 = unitCount c p then (List.range (storedRows p)).map fun j => at_ j (fixedTransScale c b j) else []
  else (u.2.2.zip (List.range u.2.2.length)).map fun r => at_ (u.1 + r.2) r.1.scale

/-- The tile's rows of the occupancy bitmap as byte writes (R118); bits beyond the last column are 0. -/
def bitmapWrites (s : State) (c : Cell) (b : TileBuf) : List (Nat × List Byte) :=
  let p := b.prod
  let d := p.dd
  let (rows, cols) := outShape p.pd d
  let bcp := ceilDiv (ceilDiv cols 32) 64 * 64
  let (mt, nt) := tilePos p.pd p.tile
  let (ti, tj) := if d.trans then (nt, mt) else (mt, nt)
  let bits := bitsNat (tileBits c b (unitCount c p - 1))
  let lastCol : Bool := decide (cols ≤ 128 * (tj + 1))
  (List.range 4).filterMap fun i =>
    if 128 * ti + 32 * i < rows then
      let pos := (4 * ti + i) * bcp + 4 * tj
      let a := d.bmBase + pos / 8
      let sh := pos % 8
      let nib := bits / 2 ^ (4 * i) % 16
      let old := (rdByte s a).toNat
      let keepHi := if lastCol then 0 else old / 2 ^ (sh + 4) * 2 ^ (sh + 4)
      let first := old % 2 ^ sh + nib * 2 ^ sh + keepHi
      let tail := if lastCol then List.replicate (bcp / 8 - 4 * tj / 8 - 1) (0 : Byte) else []
      some (a, BitVec.ofNat 8 first :: tail)
    else none

/-- The head of a finished tile in sparse form (Table 8-2). -/
def headWrites (c : Cell) (b : TileBuf) : List (Nat × List Byte) :=
  let p := b.prod
  let d := p.dd
  let fo := fmtOf c d.fmtOut
  let (mt, nt) := tilePos p.pd p.tile
  let (ti, tj) := if d.trans then (nt, mt) else (mt, nt)
  let bits := bitsNat (tileBits c b (unitCount c p - 1))
  let slot := d.outBase + (ti * ceilDiv (outShape p.pd d).2 128 + tj) * slotBytes fo
  [(slot, leBytes 1 (b2n (bits == 65535)) ++ leBytes 1 (popcount bits) ++ leBytes 2 bits ++ leBytes 1 fo
    ++ leBytes 3 0 ++ leBytes 4 ti ++ leBytes 4 tj ++ leBytes 240 0)]

/-! ### Counters of Table 4-7 (cell-window offsets) -/

def offDrnRows : Nat := 0x1108
def offDrnBlocks : Nat := 0x1118
def offDrnZblocks : Nat := 0x1120
def offDrnReplays : Nat := 0x1128

/-- S5 events and values of an encoded unit. -/
def unitEvents (u : Nat × Nat × List EncRow) : List Nat :=
  u.2.2.flatMap fun r => r.cells.flatMap fun x => dedupEv x.2.1
def unitValues (u : Nat × Nat × List EncRow) : Nat :=
  (u.2.2.map fun r => (r.cells.filter fun x => x.2.2).length).sum

/-- Do the tile's S5 events wait for its last unit? They do where the units of a transposed tile share scale
groups that a NaN sets to NaN as a whole (R51, R52; log entry 66). -/
def lateEvents (c : Cell) (p : Product) : Bool :=
  let fm := Fmt.ofDesc c p.dd.fmtOut
  p.dd.trans && p.dd.fixed && fm.scaled && !fm.hasNan

/-- The S5 events that are counted when unit `q`, encoded as `u`, is written. -/
def unitS5 (c : Cell) (b : TileBuf) (q : Nat) (u : Nat × Nat × List EncRow) : List Nat :=
  if lateEvents c b.prod then
    (if q + 1 = unitCount c b.prod then (List.range (q + 1)).flatMap fun k => unitEvents (encUnit c b k) else [])
  else unitEvents u

/-- A buffer after its next unit has been written. -/
def TileBuf.wrote (c : Cell) (b : TileBuf) : TileBuf :=
  let d := b.prod.dd
  { b with units := b.units + 1, replay := false,
           bits := if !d.trans && (d.sparse || d.bitmap) then b.bits ||| bitsNat (unitBits c b (encUnit c b b.units))
             else b.bits }

/-- Write unit `q` of a tile buffer: blocks, scale bytes, and after the last unit the head and the bitmap;
events are charged as the unit is written (R117 to R120). The operation that owns the product meets the
slot and freeze rules. -/
def writeUnitOf (s : State) (n : Nat) (b : TileBuf) (q : Nat) : State :=
  let c := s.cell n
  let p := b.prod
  let d := p.dd
  let fo := fmtOf c d.fmtOut
  let u := encUnit c b q
  let last := q + 1 == unitCount c p
  let ws := unitWrites c b q u ++ unitScales c b q u
    ++ (if last && d.sparse then headWrites c b else [])
    ++ (if last && d.bitmap then bitmapWrites s c b else [])
  let s1 := ws.foldl (fun s w => kernelDrainWrite s p.op w.1 w.2) s
  let rowEv := (unitRows c p q).flatMap fun r =>
    (((b.rows.find? fun x => x.1 == r).map fun x => x.2.evs).getD [])
  let s2 := chargePairs s1 (n / 40) d.tag rowEv
  let s3 := countValues (chargeEvents s2 (n / 40) fo d.tag (unitS5 c b q u)) (n / 40) fo d.tag (unitValues u)
  let s4 := if rowEv.any fun e => e.2 == evPoison then s3.addStat p.op stPOISON else s3
  let nb := (unitWrites c b q u).length
  let z := if d.sparse then 0
    else if d.trans && d.fixed then
      (if last then ((tileBits c b q).filter fun x => !x.2).length else 0)
    else ((unitBits c b u).filter fun x => !x.2).length
  s4.updCell n fun c => (c.bump offDrnBlocks nb).bump offDrnZblocks z

/-- The lower of the two buffers that holds no tile. -/
def freeSlot (bufs : List TileBuf) : Nat := if bufs.any fun b => b.slot == 0 then 1 else 0

/-- Put a row into the tile buffer of its product's tile, opening one when none holds the tile (R101). -/
def bufPut (a : Arr) (p : Product) (r : Nat) (row : DrnRow) : Arr :=
  let same (b : TileBuf) : Bool :=
    b.prod.pid == p.pid && b.prod.tile == p.tile && b.prod.link == p.link
  if a.bufs.any same then
    { a with bufs := a.bufs.map fun b => if same b then { b with rows := fset {} b.rows r row, replay := false } else b }
  else { a with bufs := a.bufs ++ [{ prod := p, rows := fset {} [] r row, slot := freeSlot a.bufs }] }

/-- Is there room for a row of the product's tile (R102)? -/
def bufRoom (a : Arr) (p : Product) : Bool :=
  (a.bufs.any fun b => b.prod.pid == p.pid && b.prod.tile == p.tile && b.prod.link == p.link)
    || decide (a.bufs.length < 2)

/-! ### The two meanings of the drain -/

/-- The first buffer whose next unit is complete; units are written in the order of tiles (R123). -/
def nextUnit (c : Cell) : Option TileBuf :=
  match c.arr.bufs with
  | b :: _ => if unitReady c b b.units then some b else none
  | [] => none

/-- Note that all units of a tile have been written: LAST_TILE (Table 3-5). -/
def markLast (pid t : Nat) (a : Arr) : Arr :=
  let f (p : Product) : Product := if p.pid = pid then { p with last := some t } else p
  { a with cur := a.cur.map f, draining := a.draining.map f, yielded := a.yielded.map f,
           kept := a.kept.map f }

/-- BLOCK_ROW_WRITE: the next complete write unit of the oldest tile is written; after its last unit the
tile buffer is free. -/
def writeNextUnit (s : State) (n : Nat) : State :=
  let c := s.cell n
  match nextUnit c with
  | none => s
  | some b =>
    let s1 := writeUnitOf s n b b.units
    let done := b.units + 1 == unitCount c b.prod
    s1.updArr n fun a =>
      let a1 := { a with bufs := match a.bufs with
        | x :: t => if done then t else x.wrote c :: t
        | [] => [] }
      if done then markLast b.prod.pid b.prod.tile a1 else a1

/-- DRAIN_ENCODE_SWEEP: the oldest tile that waits for the sweep, with all its rows in the buffer (R114). -/
def sweepTile (s : State) (n : Nat) : State :=
  let c := s.cell n
  match c.arr.bufs with
  | b :: t =>
    if wholeTile c b.prod.dd && !b.swept && unitReady c { b with swept := true } 0 then
      s.updArr n fun a => { a with bufs := { b with swept := true } :: t }
    else s
  | [] => s

def execBlockRowWrite (cell : Nat) (s : State) : Res :=
  .next (if cell < 160 ∧ !fencedCell s cell ∧ !(s.region (cell / 40)).clkSwitching then writeNextUnit s cell else s)

def execDrainEncodeSweep (cell : Nat) (s : State) : Res :=
  .next (if cell < 160 ∧ !fencedCell s cell ∧ !(s.region (cell / 40)).clkSwitching then sweepTile s cell else s)

end Sys2Proof.Machine
end

