-- ==== Sys2Proof/Machine/Array.lean ====
section
/-! DEFINITION. The matrix array: product start, passes, rows, chained mode, preemption, yield and abort
(R67 to R98, R239 to R243, R277 to R279). -/

namespace Sys2Proof.Machine

/-! ### Counters (cell-window offsets, Table 3-8, Table 8-7) -/

def offRowCyc : Nat := 0x1008
def offSwaps : Nat := 0x1020
def offSpsSteps : Nat := 0x1700
def offSpsFloor : Nat := 0x1708
def offSpsQidle : Nat := 0x1710
def offSpsBlocks : Nat := 0x1718
def offDefYields : Nat := 0x1910
def offDefRowCyc : Nat := 0x1918
/-- Count row cycles of a product. -/
def Cell.rowCyc (p : Product) (k : Nat) (c : Cell) : Cell :=
  if p.deferred then (c.bump offRowCyc k).bump offDefRowCyc k else c.bump offRowCyc k

/-! ### Reading operands -/

def Product.fa (c : Cell) (p : Product) : Fmt := Fmt.ofDesc c p.pd.fmtA
def Product.fs (c : Cell) (p : Product) : Fmt := Fmt.ofDesc c p.pd.fmtS
def Product.mode (c : Cell) (p : Product) : ArrMode := arrMode (p.fa c).code (p.fs c).code
def isFp32 : ArrMode → Bool
  | .fp32 => true
  | _ => false
def isInt : ArrMode → Bool
  | .int => true
  | _ => false
/-- The format to which array events are charged (R81). -/
def ArrMode.fmt (m : ArrMode) : Nat := if isInt m then fINT32 else fFP32

/-- The two BF16 parts of an FP32 operand (R85). -/
def splitHi (v : Val) : Val :=
  let h := (roundTo fBF16 v).1
  match v, h with
  | .fin n _ _, .inf _ => magVal (fpLayout fBF16) n (fpLayout fBF16).maxCode
  | _, _ => h
def splitLo (v : Val) : Val :=
  if v.isFinite && !v.isZero then (roundTo fBF16 (v.sub (splitHi v)).1).1 else Val.zero

/-- The part of a value that the half-pass uses: all of it outside the FP32 method. DEDUCED: the operand of a mixed product
that is not FP32 is split as the other is (log entry 87). -/
def halfVal (m : ArrMode) (lo : Bool) (v : Val) : Val :=
  if isFp32 m then (if lo then splitLo v else splitHi v) else v

/-- The 32-bit image of an operand element. -/
def image (m : ArrMode) (v : Val) : Word := if isInt m then valWord v else toF32 v
def unimage (m : ArrMode) (w : Word) : Val := if isInt m then i32 w else f32 w

/-- Base of the stationary operand and of its scales for the product's link (R70, R88). DEDUCED: the tile size is that of
the product's stored stationary operand (log entry 88). -/
def statBase (c : Cell) (p : Product) : Nat × Nat :=
  let d := p.pd
  let j := if d.chain && d.statLink then p.link else 0
  let sr := if d.transS then (d.n, d.k) else (d.k, d.n)
  (d.sBase + j * blockedBytes (p.fs c).code sr.1 sr.2, d.sScale + j * 128)

/-- Element (k, j) of the stationary tile. -/
def statElem (s : State) (c : Cell) (p : Product) (k j : Nat) : Val × Bool :=
  let d := p.pd
  let f := p.fs c
  let (nt, kt) := ((tilePos d p.tile).2, p.ktile)
  let (r, cc, w) := if d.transS then (128 * nt + j, 128 * kt + k, d.k) else (128 * kt + k, 128 * nt + j, d.n)
  codeVal s f (rowInBlock (statBase c p).1 f.code (pitchOf f.code w) r cc) (cc % 32)

/-- The stationary tile that the pass needs (R73, R88). -/
def Product.statKey (p : Product) : StatKey :=
  { pid := p.pid, desc := p.desc, tile := p.tile, ktile := p.ktile,
    link := if p.pd.chain && p.pd.statLink then p.link else 0, half := p.half }

/-- Load the stationary tile of the pass (R74, R76), with the number of poisoned elements. A poisoned scale
byte counts once for each element of its group (R264). -/
def loadStat (s : State) (c : Cell) (p : Product) : Stat :=
  let d := p.pd
  let f := p.fs c
  let m := p.mode c
  let ks := ksIn d p.ktile
  let g := ceilDiv d.k 128
  let cols := (List.range (colsIn d p.tile)).map fun j => (List.range ks).map fun k => statElem s c p k j
  let scs := (List.range (colsIn d p.tile)).map fun j =>
    Opnd.scaleAt s ⟨0, f, (statBase c p).2⟩ ((128 * (tilePos d p.tile).2 + j) * g + p.ktile)
  let pn := ((cols.zip scs).map fun x => (x.1.filter fun e => e.2 || x.2.2).length).sum
  { cols := cols.map fun l => l.map fun e => image m (halfVal m p.half e.1),
    scales := scs.map fun x => BitVec.ofNat 8 x.1, key := some p.statKey, poison := pn }

/-- Slot of the tile head that covers the K-tile (R233). -/
def headSlot (c : Cell) (p : Product) : Nat :=
  p.pd.aBase + ((tilePos p.pd p.tile).1 * p.pd.kt + p.ktile) * slotBytes (p.fa c).code

/-- The check of a head (R240) at slot (ti, tj) of a tensor of `rows` × `cols`. -/
def headOk (h : List Byte) (fa ti tj rows cols : Nat) : Bool :=
  let bm := fld h 2 2
  let out (b : Nat) : Bool := decide (rows ≤ 128 * ti + 32 * (b / 4)) || decide (cols ≤ 128 * tj + 32 * (b % 4))
  decide (fld h 0 1 < 2) && decide (fld h 1 1 = popcount bm) && decide (fld h 4 1 = fa)
    && decide (fld h 8 4 = ti) && decide (fld h 0xC 4 = tj)
    && ((List.range 16).all fun b => !(natBit bm b && out b)) && (decide (fld h 0 1 = 0) || decide (fld h 1 1 = 16))

/-- Occupancy bits of the K-tile: a poisoned head counts the whole tile as occupied. -/
def headBits (a : Arr) : Nat := if a.headBad then 65535 else fld a.head 2 2
/-- Is slice `i` occupied in row group `q`? -/
def occupied (bits q i : Nat) : Bool := natBit bits (4 * q + i)
def sliceUsed (bits i : Nat) : Bool := (List.range 4).any fun q => occupied bits q i
def slicesUsed (bits : Nat) : Nat := ((List.range 4).filter (sliceUsed bits)).length

/-- Element (r, k) of A's tile in sparse form (R235). -/
def sparseElem (s : State) (c : Cell) (a : Arr) (p : Product) (r k : Nat) : Val × Bool :=
  let f := p.fa c
  if a.headBad then (f.poisonVal, true)
  else
    let b := 4 * (r / 32) + k / 32
    let pos := if fld a.head 0 1 = 1 then b else popcount (fld a.head 2 2 % 2 ^ b)
    codeVal s f (headSlot c p + 256 + pos * blockBytes f.code + r % 32 * (blockBytes f.code / 32)) (k % 32)

/-- Element (r, k) of the streaming tile. -/
def streamElem (s : State) (c : Cell) (p : Product) (r k : Nat) : Val × Bool :=
  let d := p.pd
  let f := p.fa c
  let (mt, kt) := ((tilePos d p.tile).1, p.ktile)
  let (i, j, w) := if d.transA then (128 * kt + k, 128 * mt + r, d.m) else (128 * mt + r, 128 * kt + k, d.k)
  codeVal s f (rowInBlock d.aBase f.code (pitchOf f.code w) i j) (j % 32)

/-- A streaming row: its values, which of them the feeders present, its scale code, and its poisoned
elements. -/
structure InRow where
  vals : List Val
  keep : List Bool
  scale : Nat
  poison : Nat
  deriving DecidableEq, Repr

/-- Row `r` of the pass (R77, R241); in chained mode a returned row (R88). -/
def feedRow (s : State) (c : Cell) (p : Product) (r : Nat) : InRow :=
  let d := p.pd
  let m := p.mode c
  let ks := ksIn d p.ktile
  if 0 < p.link then
    let x := fget {} c.arr.fed r
    { vals := (List.range ks).map fun k => unimage m (x.vals.getD k 0), keep := List.replicate ks true,
      scale := x.scale.toNat, poison := 0 }
  else
    let sc := Opnd.scaleAt s ⟨0, p.fa c, d.aScale⟩ ((128 * (tilePos d p.tile).1 + r) * ceilDiv d.k 128 + p.ktile)
    let bits := headBits c.arr
    let keep := (List.range ks).map fun k => !d.sparse || occupied bits (r / 32) (k / 32)
    let els := (keep.zip (List.range ks)).map fun x =>
      if !x.1 then (Val.zero, false)
      else if d.sparse then sparseElem s c c.arr p r x.2
      else streamElem s c p r x.2
    { vals := els.map Prod.fst, keep := keep, scale := sc.1,
      poison := ((els.zip keep).filter fun e => e.2 && (e.1.2 || sc.2)).length }

/-- A row as the feeder queues hold it, and as the array takes it from them. -/
def InRow.queued (m : ArrMode) (x : InRow) : FeedRow :=
  { vals := x.vals.map (image m), keep := x.keep, scale := x.scale, poison := x.poison }
def FeedRow.taken (m : ArrMode) (x : FeedRow) : InRow :=
  { vals := x.vals.map (unimage m), keep := x.keep, scale := x.scale, poison := x.poison }

/-- The lower of the two rates (R42). -/
def prodRate (fa fs : Nat) : Nat := min (fmtRate fa) (fmtRate fs)
/-- Rows of one feeder entry: one 16-bit, two 8-bit or 6-bit, or four 4-bit values for each array row (R77). -/
def entryRows (c : Cell) (p : Product) : Nat := max 1 (prodRate (p.fa c).code (p.fs c).code)

/-- Up to `k` entries from row `r` on. -/
def feedEntries (s : State) (c : Cell) (p : Product) (r : Nat) : Nat → List (List FeedRow)
  | 0 => []
  | k + 1 =>
    let n := min (entryRows c p) (rowsIn p.pd p.tile - r)
    if n = 0 then []
    else ((List.range n).map fun i => (feedRow s c p (r + i)).queued (p.mode c)) :: feedEntries s c p (r + n) k

/-- The feeders read ahead until their queues hold 32 entries or the pass's rows (R68, R77). Rows that return in
chained mode come from the drain (R88). -/
def fillFeed (s : State) (n : Nat) (p : Product) : State :=
  if 0 < p.link then s
  else
    let a := (s.cell n).arr
    let ahead := (a.feed.map List.length).sum
    s.updArr n fun a => { a with feed := a.feed ++ feedEntries s (s.cell n) p (p.row + ahead) (32 - a.feed.length) }

/-- The row at the head of the queues; one that they do not hold comes from its source. -/
def headRow (s : State) (c : Cell) (p : Product) : InRow :=
  match c.arr.feed with
  | (x :: _) :: _ => x.taken (p.mode c)
  | _ => feedRow s c p p.row
/-- The queues without that row. -/
def popRow : List (List FeedRow) → List (List FeedRow)
  | (_ :: y :: l) :: t => (y :: l) :: t
  | _ :: t => t
  | [] => []

/-- Event classes as a bit set. -/
def evBits (l : List Nat) : Nat := l.foldl (fun n k => n ||| 2 ^ k) 0

/-! ### Column arithmetic (R80, R81, R85, R243) -/

/-- Exact sum of products from array row 0 down; `pad` adds the +0 of rows beyond K. -/
def colExact (pad : Bool) (ps : List (Val × List Nat)) : Val × List Nat :=
  let l := ps ++ (if pad then [(Val.zero, [])] else [])
  match l with
  | [] => (Val.zero, [])
  | p :: rest => rest.foldl (fun a q => let (v, e) := a.1.add q.1; (v, a.2 ++ q.2 ++ e)) p

/-- FP32 additions down the column, each rounded and flushed. -/
def colWide (pad : Bool) (ps : List (Val × List Nat)) : Val × List Nat :=
  let l := ps ++ (if pad then [(Val.zero, [])] else [])
  match l with
  | [] => (Val.zero, [])
  | p :: rest =>
    let p0 := flushRound p.1
    rest.foldl (fun a q =>
      let (v, e) := a.1.add q.1
      let (x, e2) := flushRound v
      (x, a.2 ++ q.2 ++ e ++ e2)) (p0.1, p.2 ++ p0.2)

/-- The steps in which a row meets a column: for each, which of the K rows take part and whether rows beyond
K add +0. -/
def rowSteps (m : ArrMode) (d : PD) (ks : Nat) (keep : List Bool) : List (List Bool × Bool) :=
  if !d.sparse then [(keep, decide (ks < 128))]
  else
    let slice (i : Nat) : List Bool := (keep.zip (List.range ks)).map fun x => x.1 && decide (x.2 / 32 = i)
    let part (i : Nat) : Bool := decide (ks < 32 * (i + 1))
    let used := (List.range 4).filter fun i => (slice i).any id
    match m with
    | .wide => used.map fun i => (slice i, part i)
    | _ => if used.isEmpty then [] else [(keep, used.any part)]

/-- Products of a step. -/
def stepProducts (mask : List Bool) (a b : List Val) : List (Val × List Nat) :=
  (mask.zip (a.zip b)).filterMap fun x => if x.1 then some (x.2.1.mul x.2.2) else none

/-- A partial sum under its scale pair (R50), added to an accumulator with one rounding (R80). -/
def accAdd (ea eb : Nat) (part : Val × List Nat) (acc : Val) : Val × List Nat :=
  if ea = 255 ∨ eb = 255 then (.nan, [])
  else
    let (v, e) := acc.add (part.1.scale ((ea : Int) + (eb : Int) - 254))
    let (x, e2) := flushRound v
    (x, part.2 ++ e ++ e2)

/-- One accumulator entry after a row: `rows` are the streams that the half-pass presents in turn. -/
def accEntry (m : ArrMode) (steps : List (List Bool × Bool)) (rows : List (List Val)) (col : List Val)
    (ea eb : Nat) (w : Word) : Word × List Nat :=
  if isInt m then
    let sum := ((rows.headD []).zip col).foldl (fun a x => a + ((valWord x.1).toInt * (valWord x.2).toInt)) 0
    let (v, e) := satI32 (w.toInt + sum)
    (ofI32 v, e)
  else
    let sumOf := match m with
      | .exact => colExact
      | _ => colWide
    let ops := rows.flatMap fun r => steps.map fun st => sumOf st.2 (stepProducts st.1 r col)
    -- R242: a K-tile without an occupied slice still applies its scale pair
    let r : Val × List Nat :=
      if ops.isEmpty ∧ (ea = 255 ∨ eb = 255) then (.nan, [])
      else ops.foldl (fun a p => let x := accAdd ea eb p a.1; (x.1, a.2 ++ x.2)) (f32 w, [])
    if ops.isEmpty ∧ ¬(ea = 255 ∨ eb = 255) then (w, []) else (toF32 r.1, r.2)

/-! ### Product start -/

/-- May the cell work: it exists, is not fenced, and its clock runs? -/
def cellRuns (s : State) (n : Nat) : Bool :=
  decide (n < 160) && !fencedCell s n && !(s.region (n / 40)).clkSwitching

/-- Seed and step that the generator of the issuing context holds (R164). -/
def issuerRng (s : State) (p : Product) : DWord × DWord :=
  match p.issuer with
  | some cx => ((s.ctx cx).seed, (s.ctx cx).step)
  | none => (0, 0)

/-- A product with the copies of its descriptors. -/
def readProduct (s : State) (h : Home) (p : Product) : Product :=
  { p with desc := readPd s p.addr, drn := readDd s h (PD.of (readPd s p.addr)) }

/-- A checked product enters the array. -/
def startProduct (s : State) (n : Nat) (h : Home) (p : Product) : State :=
  let g := issuerRng s p
  let q := { readProduct s h p with seed := g.1, step := g.2 }
  s.updArr n fun a => { a with cur := some q, st := .firstLoad, feed := [], preReq := false }

/-- A refused product ends its kernel (R71). A poisoned descriptor counts one poison read (R66); none of the
product is performed, and the kernel goes on (Table 9-4). -/
def refuseProduct (s : State) (n : Nat) (p : Product) (st : Nat) : State :=
  if st = stPOISON then (chargeEvents s (n / 40) noFmt 0 [evPoison]).addStat p.op stPOISON
  else endAtItem s n p.op p.pid p.issuer p.pc st

/-- Does the product hold back the next one of its queue until it completes (HOLD_NEXT, R122)? -/
def Product.holds (p : Product) : Bool := p.pd.drained && p.dd.holdNext

/-- Is the next product of a queue held back: by one that still drains, or by an aborted one whose record is not
committed (R122, Table 4-6)? -/
def heldNext (a : Arr) (deferred : Bool) : Bool :=
  (a.draining.any fun p => p.deferred == deferred && p.holds) || a.holds.any fun h => h.2 == deferred

/-- The head of a queue is checked and enters the array. -/
def startHead (s : State) (n : Nat) (p : Product) (pop : Arr → Arr) : State :=
  let s1 := s.updArr n pop
  -- a saved product returns under R92
  if p.saved.isSome then s1.updArr n fun a => { a with cur := some p, st := .restoring, preReq := false } else
  match productStatus s (homeCell n) p.op p.addr with
  | 0 => startProduct s1 n (homeCell n) p
  | st => refuseProduct s1 n p st

/-- PRODUCT_START: the ordinary queue. -/
def productStart (s : State) (n : Nat) : State :=
  let a := (s.cell n).arr
  match a.cur, a.queue with
  | none, p :: _ =>
    if cellRuns s n && a.st == .idle && !heldNext a false then
      startHead s n p fun a => { a with queue := a.queue.drop 1 }
    else s
  | _, _ => s

/-- DEFERRED_PRODUCT_START: only when the ordinary queue and the array are empty, and no yielded product
waits (R278). -/
def deferredStart (s : State) (n : Nat) : State :=
  let a := (s.cell n).arr
  match a.cur, a.queue, a.yielded, a.dqueue with
  | none, [], none, p :: _ =>
    if cellRuns s n && a.st == .idle && !heldNext a true then
      startHead s n p fun a => { a with dqueue := a.dqueue.drop 1 }
    else s
  | _, _, _, _ => s

/-! ### Stops -/

/-- Products of aborted operations leave the cell (R96, R126): rows in the feeder queues, in flight and in the
drain are lost, and the drain stops. The hold of a HOLD_NEXT product stays (Table 4-6). -/
def dropProducts (gone : OpId → Bool) (a : Arr) : Arr :=
  let keep (l : List Product) : List Product := l.filter fun p => !gone p.op
  let inArray : Bool := match a.cur with
    | some p => gone p.op
    | none => false
  let held := (a.draining ++ a.cur.toList).filter fun p => gone p.op && p.holds
  let b := { a with queue := keep a.queue, dqueue := keep a.dqueue, draining := keep a.draining, kept := keep a.kept,
                    cur := a.cur.filter fun p => !gone p.op, yielded := a.yielded.filter fun p => !gone p.op,
                    bufs := a.bufs.filter fun b => !gone b.prod.op,
                    holds := a.holds ++ held.map fun p => (p.op, p.deferred) }
  if inArray then { b with st := .idle, fed := [], feed := [], preReq := false } else b

/-- The accumulators take unspecified values (R96): one free value for each entry. -/
def freeAcc (s : State) (n : Nat) : State :=
  let base := s.fresh
  { s.updArr n (fun a =>
      { a with acc := flisted 0 0 ((List.range 16384).map fun i => BitVec.ofNat 32 (Config.free (base + i))), accEv := [] })
    with fresh := base + 16384 }

/-- The aborted operations lose what they hold in a cell's array; where the accumulators hold the sums of one of
them, those sums are lost too (R96). -/
def stopArray (gone : OpId → Bool) (s : State) (n : Nat) : State :=
  let mine := ((s.cell n).arr.accOwner.map gone).getD false
  let s1 := s.updArr n fun a =>
    let b := dropProducts gone a
    { b with accOwner := b.accOwner.filter fun id => !gone id }
  if mine then freeAcc s1 n else s1

/-- Every product of an operation leaves a cell; the array stops when it holds one. -/
def clearCell (id : OpId) (s : State) (n : Nat) : State := stopArray (fun x => x == id) s n

/-- The array stops a product of the cell, and it ends its operation with a status; a block job stops on
every cell (Table 8-6). -/
def stopProduct (s : State) (n : Nat) (p : Product) (st : Nat) : State :=
  match p.unit with
  | none => endAtItem (clearCell p.op s n) n p.op p.pid p.issuer p.pc st
  | some _ =>
    let s1 := (List.range 8).foldl (fun s i => clearCell p.op s (n / 8 * 8 + i)) s
    endKernel (s1.updBlock (n / 8) fun b => { b with job := none }) p.op st 0

/-- Has a block job anything in the arrays of its block's cells? -/
def jobBusy (s : State) (b : Nat) (id : OpId) : Bool :=
  (List.range 8).any fun i =>
    let a := (s.cell (8 * b + i)).arr
    (a.cur.toList ++ a.draining).any fun p => p.op == id

/-- The scheduler is idle again once every cell has stopped for an aborted job (Table 8-6). -/
def settleStop (s : State) (b : Nat) : State :=
  match (s.block b).job with
  | some j => if j.aborting && !jobBusy s b j.op then s.updBlock b fun k => { k with job := none } else s
  | none => s

/-- The block job is complete when every unit is done and its output is visible (R122, R246). -/
def settleJob (s : State) (b : Nat) : State :=
  match (s.block b).job with
  | none => s
  | some j =>
    if j.planned && !j.aborting && !j.stopping && (j.units.all fun u => u.done) && !jobBusy s b j.op then
      (s.updBlock b fun k => { k with job := none }).finishOp j.op stOK
    else s

/-! ### Passes -/

/-- Sparse counters of a K-tile (Table 8-7). -/
def sparseCount (p : Product) (bits rate : Nat) (c : Cell) : Cell :=
  let u := slicesUsed bits
  let idle := ((List.range 4).map fun i =>
    if sliceUsed bits i then ((List.range 4).filter fun q => !occupied bits q i).length else 0).sum
  let c1 := ((c.bump offSpsSteps (max 1 u)).bump offSpsQidle (if u = 0 then 4 else idle)).bump offSpsBlocks (popcount bits)
  (c1.bump offSpsFloor (b2n (u == 0))).rowCyc p (u * (32 / max 1 rate))

/-- First pass of an output tile: rescale slice, a fresh event record, and zero accumulators where ACC_INIT, a
later link, or a unit of a block job asks for them (R70, R88, R107, R247). All 16,384 entries are cleared, those outside
a partial tile too (DESIGN CHOICE, log entry 36). The accumulators are the product's operation's from here on. -/
def openTile (s : State) (n : Nat) (p : Product) : State × Product :=
  let from_ := (p.unit.map UnitRef.a).getD 0
  let first := p.row == 0 && p.ktile == from_ && !p.half
  let split := (p.unit.map UnitRef.split).getD false
  if first then
    let sl := if p.pd.drained && p.link == 0 && !split then fetchSlice s p else []
    let pz := (sl.filter fun e => e.2).length
    let s1 := chargeEvents s (n / 40) fFP32 p.tag (List.replicate (2 * pz) evPoison)
    let s2 := if 0 < pz then s1.addStat p.op stPOISON else s1
    (s2.updArr n fun a =>
      { a with accEv := [], accOwner := some p.op,
               acc := if p.pd.accInit || decide (0 < p.link) || p.unit.isSome then [] else a.acc },
      if p.link = 0 then { p with slice := sl } else p)
  else (s.updArr n fun a => { a with accOwner := some p.op }, p)

/-- Predicted bits of the tile (row tile, K-tile) of A in a bitmap of R118's layout; a poisoned bit reads as
1 (R248). -/
def predBits (s : State) (base : Nat) (d : PD) (t kt : Nat) : Nat :=
  let pitch := ceilDiv (ceilDiv d.k 32) 64 * 8
  evBits ((List.range 16).filter fun b =>
    let (i, j) := (4 * t + b / 4, 4 * kt + b % 4)
    let a := base + i * pitch + j / 8
    decide (i < ceilDiv d.m 32) && decide (j < ceilDiv d.k 32) && (bad s a || natBit (rdByte s a).toNat (j % 8)))

/-- BLK_SPS_MISPRED (R248): each block is compared once, with its row tile's first column tile. -/
def countMispred (s : State) (n : Nat) (p : Product) : State :=
  match p.unit, (s.block (n / 8)).job with
  | some _, some j =>
    if j.pred = 0 ∨ (tilePos p.pd p.tile).2 ≠ 0 then s
    else
      let w := headBits (s.cell n).arr ^^^ j.preds.getD ((tilePos p.pd p.tile).1 * p.pd.kt + p.ktile) 0
      s.updBlock (n / 8) (Block.bump 0x518 (popcount w))
  | _, _ => s

/-- Is the head of the K-tile's slot readable and in order? A poisoned head counts as occupied (R240). -/
def takeHead (s : State) (n : Nat) (p : Product) : State × Bool :=
  let c := s.cell n
  let a := headSlot c p
  let h := rdBytes s a 16
  let pb := badRange s a 16
  let ok := pb || headOk h (p.fa c).code (tilePos p.pd p.tile).1 p.ktile p.pd.m p.pd.k
  let s1 := countMispred (s.updArr n fun r => { r with head := h, headBad := pb }) n p
  (if pb then s1.addStat p.op stPOISON else s1, ok)

/-- The next pass, tile or link after the last row of a pass; none when the product has no more. -/
def nextPass (c : Cell) (p : Product) : Option Product :=
  let q := { p with row := 0, open_ := false }
  if isFp32 (p.mode c) && !p.half then some { q with half := true }
  else
    let q := { q with half := false }
    if p.unit.map UnitRef.b == some p.ktile then none
    else if p.ktile + 1 < p.pd.kt then some { q with ktile := p.ktile + 1 }
    else if p.pd.chain && decide (p.link + 1 < p.pd.links) then some { q with ktile := 0, link := p.link + 1 }
    else if p.tile + 1 < p.pd.tiles then some { q with ktile := 0, tile := p.tile + 1 }
    else none

/-- Does either stationary buffer hold the tile of the pass? -/
def tileLoaded (a : Arr) (p : Product) : Bool := a.active.key == some p.statKey || a.back.key == some p.statKey

/-- The loader brings a pass's tile into the background buffer, unless a buffer holds it. -/
def loadBack (s : State) (n : Nat) (p : Product) : State :=
  let c := s.cell n
  if tileLoaded c.arr p then s else s.updArr n fun a => { a with back := loadStat s c p }

/-- The product that follows the one in the array: the head of the ordinary queue, else that of the deferred
one, unless it returns from a save, a hold keeps its stationary load back (R122), or it is refused (R71). -/
def waitingProduct (s : State) (n : Nat) (cur : Option Product) : Option Product :=
  let a := (s.cell n).arr
  let w := match a.queue, a.yielded with
    | p :: _, _ => some p
    | [], none => a.dqueue.head?
    | [], some _ => none
  w.bind fun p =>
    let held := heldNext a p.deferred || cur.any fun q => q.holds && q.deferred == p.deferred
    let q := readProduct s (homeCell n) p
    if p.saved.isSome || held then none
    else if tileLoaded a q || productStatus s (homeCell n) p.op p.addr == 0 then some q else none

/-- During a pass the loader fetches the tile of the next one: of the same product, or the first tile of the
product that waits, for which a yielding product gives way (R73, R74, R278). -/
def prefetch (s : State) (n : Nat) (p : Product) : State :=
  let c := s.cell n
  let yields := c.arr.st == .emptying
  match if yields then none else nextPass c p with
  | some q => loadBack s n q
  | none => match waitingProduct s n (if yields then none else some p) with
    | some q => loadBack s n q
    | none => s

/-- The swap: the loaded tile becomes active (R75), unless it is active already (R88); the loader then goes on.
Poisoned elements are counted when their tile first becomes active, and not again for the second half-pass or
after a resume. -/
def swapIn (s0 : State) (n : Nat) (p : Product) : State :=
  let s := loadBack s0 n p
  let c := s.cell n
  let stay := c.arr.active.key == some p.statKey
  let t := if stay then c.arr.active else c.arr.back
  let cnt := if p.row = 0 ∧ ¬p.half then t.poison else 0
  let s1 := chargeEvents s (n / 40) (p.fs c).code p.tag (List.replicate cnt evPoison)
  let s2 := if 0 < t.poison then s1.addStat p.op stPOISON else s1
  let s3 := s2.updCell n fun c =>
    (c.updArr fun a =>
      { a with active := { t with poison := 0 }, back := if stay then a.back else a.active,
               cur := some { p with open_ := true }, feed := [], st := if a.st = .firstLoad then .streaming else a.st }).bump
      offSwaps (b2n (!stay))
  prefetch (fillFeed s3 n p) n p

/-- Streaming cycles that `row` rows of a pass have taken, and whether they end at a multiple of 128
(R90, R213). -/
def rowBoundary (c : Cell) (p : Product) : Bool :=
  let mis := if p.pd.aBase % 256 = 0 then 1 else 2
  let per := if isFp32 (p.mode c) then 2 * mis else mis
  let rate := if isFp32 (p.mode c) then 1 else max 1 (prodRate (p.fa c).code (p.fs c).code)
  decide (0 < p.row) && decide (p.row % rate = 0) && decide (p.row / rate * per % 128 = 0)

/-- Is the product at a tile boundary: between passes, or after 128 streaming cycles of a dense pass; in
chained mode at the end of a link. -/
def atBoundary (c : Cell) (p : Product) : Bool :=
  if p.pd.chain then !p.open_ && decide (p.ktile = 0) && !p.half
  else !p.open_ || (!p.pd.sparse && rowBoundary c p)

/-- May rows enter: the array streams, and no preemption, yield or clock step waits at the boundary where it
stands (R90, R94, R278)? -/
def rowsFree (s : State) (n : Nat) (p : Product) : Bool :=
  let c := s.cell n
  let a := c.arr
  let asked := a.preReq || a.st == .emptying || (s.region (n / 40)).clkTarget.isSome
  cellRuns s n && (a.st == .firstLoad || a.st == .streaming || a.st == .emptying) && !(asked && atBoundary c p)

/-- PASS_START. -/
def passStart (s : State) (n : Nat) : State :=
  match (s.cell n).arr.cur with
  | none => s
  | some p =>
    if p.open_ || p.ended || !rowsFree s n p then s
    else
      let (s1, p1) := openTile s n p
      if p1.pd.sparse then
        let (s2, ok) := takeHead s1 n p1
        if ok then
          let c := s2.cell n
          (swapIn s2 n p1).updCell n fun c' =>
            if p1.row = 0 then sparseCount p1 (headBits c.arr) (prodRate (p1.fa c).code (p1.fs c).code) c' else c'
        else stopProduct s2 n p1 stBADDESC
      else swapIn s1 n p1

/-! ### Rows -/

/-- Is the pass the last of its output tile? The units of a split tile have none (R247). -/
def lastPass (c : Cell) (p : Product) : Bool :=
  decide (p.ktile + 1 = p.pd.kt) && (!isFp32 (p.mode c) || p.half) && !(p.unit.map UnitRef.split).getD false

/-- The row that chained mode returns: S2 and S4, encoded into FMT_A with nearest even (R88, R124), and the
events of that encoding. -/
def returnRow (c : Cell) (p : Product) (sums : List Word) : FedRow × List Nat :=
  let d := { p.dd with auxMode := 0 }
  let fm := p.fa c
  let int := isInt (p.mode c)
  let ys := (List.range sums.length).map fun j => (stages c d int p.slice[j]? none (sums.getD j 0)).1
  let im (k : Nat) : Word := if fm.isInt then valWord (fm.decode k) else toF32 (fm.decode k)
  if fm.scaled then
    let g := encodeGroup fm (fun _ => .ne) (computeScale fm ys) ys
    ({ vals := g.elems.map fun e => im e.1, scale := BitVec.ofNat 8 g.scale }, g.elems.flatMap fun e => dedupEv e.2)
  else
    let es := ys.map fun y => fm.encode .ne y
    ({ vals := es.map fun e => im e.1 }, es.flatMap fun e => dedupEv e.2.1)

/-- Values that a product without a drain leaves in the accumulators (R302, log entry 67). -/
def leftValues (p : Product) : Nat :=
  if p.pd.drained then 0
  else if p.pd.accInit || p.unit.isSome then rowsIn p.pd p.tile * colsIn p.pd p.tile
  else rowsIn p.pd 0 * colsIn p.pd 0

/-- The last row of a product is in: it goes on in the drain. A preemption that it has outrun no longer concerns
the array (Table 3-7). -/
def endStream (s : State) (n : Nat) (p : Product) : State :=
  let asked := (s.cell n).arr.preReq
  let s1 := s.updArr n fun a =>
    { a with cur := none, st := .idle, fed := [], feed := [], preReq := false,
             draining := a.draining ++ [{ p with row := 0, open_ := false }] }
  countValues (if asked then s1.updOp p.op fun e => { e with outran := true } else s1) (n / 40)
    (p.mode (s.cell n)).fmt p.tag (leftValues p)

/-- After row `r`: the next row, the next pass, or the end of streaming. -/
def advanceRow (s : State) (n : Nat) (p : Product) : State :=
  let c := s.cell n
  if p.row + 1 < rowsIn p.pd p.tile then s.updArr n fun a => { a with cur := some { p with row := p.row + 1 } }
  else match nextPass c p with
    | some q => s.updArr n fun a => { a with cur := some q }
    | none =>
      if p.unit.isSome then s.updArr n fun a => { a with cur := some { p with row := 0, open_ := false, ended := true } }
      else endStream s n p

/-- The accumulators of a row after the row's products, and the new event classes of each entry. -/
def rowSums (c : Cell) (p : Product) (x : InRow) (old : List Word) : List (Word × List Nat) :=
  let m := p.mode c
  let steps := rowSteps m p.pd (ksIn p.pd p.ktile) x.keep
  let rows := if isFp32 m then
      (if p.half then [x.vals.map splitHi] else [x.vals.map splitHi, x.vals.map splitLo])
    else [x.vals]
  (List.range (colsIn p.pd p.tile)).map fun j =>
    let col := (c.arr.active.cols.getD j []).map (unimage m)
    accEntry m steps rows col x.scale (c.arr.active.scales.getD j 127).toNat (old.getD j 0)

/-- The event classes of each entry that it has not met before in its output tile (R66, R81). -/
def newEvents (old : List Nat) (evs : List (List Nat)) : List (List Nat) :=
  (evs.zip (List.range evs.length)).map fun x => (dedupEv x.1).filter fun k => !natBit (old.getD x.2 0) k

/-- Is the product a unit of a split tile, whose events its tile's units share (R247)? -/
def Product.splits (p : Product) : Bool := (p.unit.map UnitRef.split).getD false

/-- Event classes that row `r`'s entries have met. -/
def metRow (s : State) (n : Nat) (p : Product) (r k : Nat) : List Nat :=
  if p.splits then fgetRow 0 (((s.block (n / 8)).job.map SpsJob.met).getD []) (16384 * p.tile + 128 * r) k
  else fgetRow 0 (s.cell n).arr.accEv (128 * r) k

/-- They have met these too. -/
def meetRow (s : State) (n : Nat) (p : Product) (r : Nat) (old : List Nat) (ev : List (List Nat)) : State :=
  let l := (old.zip ev).map fun e => e.1 ||| evBits e.2
  if p.splits then
    s.updBlock (n / 8) fun k => { k with job := k.job.map fun j => { j with met := fputRow 0 j.met (16384 * p.tile + 128 * r) l } }
  else s.updArr n fun a => { a with accEv := fputRow 0 a.accEv (128 * r) l }

/-- Row cycles of a dense row (CELL_ARR_ROWCYC). -/
def rowCycles (c : Cell) (p : Product) : Nat :=
  if p.pd.sparse then 0
  else if isFp32 (p.mode c) then (if p.half then 1 else 2)
  else b2n (p.row % max 1 (prodRate (p.fa c).code (p.fs c).code) == 0)

/-- One row's result reaches the accumulators, and on a drained pass the drain (R84, R103). -/
def acceptRow (s : State) (n : Nat) (p : Product) : State :=
  let c := s.cell n
  let m := p.mode c
  let x := headRow s c p
  let k := colsIn p.pd p.tile
  let rs := rowSums c p x (fgetRow 0 c.arr.acc (128 * p.row) k)
  let oldEv := metRow s n p p.row k
  let ev := newEvents oldEv (rs.map Prod.snd)
  let sums := rs.map Prod.fst
  let s1 := chargeEvents s (n / 40) m.fmt p.tag ev.flatten
  let pz := if p.half then 0 else x.poison
  let s2 := chargeEvents s1 (n / 40) (p.fa c).code p.tag (List.replicate pz evPoison)
  let s3 := if 0 < x.poison then s2.addStat p.op stPOISON else s2
  let s4 := (meetRow s3 n p p.row oldEv ev).updCell n fun c => (c.updArr fun a =>
    { a with acc := fputRow 0 a.acc (128 * p.row) sums, feed := popRow a.feed }).rowCyc p (rowCycles c p)
  let s5 :=
    if lastPass c p && p.pd.drained then
      let row := drainRow s4 c p (isInt m) p.row sums
      let s5 := s4.updCell n fun c => (c.updArr fun a => bufPut a p p.row row).bump offDrnRows 1
      if p.pd.chain && decide (p.link + 1 < p.pd.links) then
        let f := returnRow c p sums
        chargeEvents (s5.updArr n fun a => { a with fed := fset {} a.fed p.row f.1 }) (n / 40) (p.fa c).code p.tag f.2
      else s5
    else s4
  advanceRow s5 n p

/-- ROW_RESULT_ACCEPT: the array holds while the drain has no buffer for the row (R102). -/
def rowResult (s : State) (n : Nat) : State :=
  let c := s.cell n
  match c.arr.cur with
  | none => s
  | some p =>
    if !(p.open_ && rowsFree s n p) then s
    else if lastPass c p && p.pd.drained && !bufRoom c.arr p then s
    else
      let s1 := acceptRow s n p
      match (s1.cell n).arr.cur with
      | some q => if q.open_ then prefetch (fillFeed s1 n q) n q else s1
      | none => s1

/-! ### Completion (R122) -/

/-- PRODUCT_COMPLETE: the oldest product whose rows are all in and whose output has been written. -/
def productComplete (s : State) (n : Nat) : State :=
  let a := (s.cell n).arr
  match a.draining with
  | p :: t =>
    if cellRuns s n && !(a.bufs.any fun b => b.prod.pid == p.pid) then
      let s1 := s.updArr n fun a => { a with draining := t }
      if p.unit.isSome then settleJob s1 (n / 8) else s1
    else s
  | [] => s

/-! ### Preemption, yield and resume (R90 to R92, R125, R277 to R279) -/

/-- Write the units of a buffer that are complete, in order. -/
def flushUnits (n : Nat) (b : TileBuf) : Nat → State → State × TileBuf
  | 0, s => (s, b)
  | k + 1, s =>
    let r := flushUnits n b k s
    let c := r.1.cell n
    if r.2.units < unitCount c r.2.prod && unitReady c r.2 r.2.units then
      (writeUnitOf r.1 n r.2 r.2.units, r.2.wrote c)
    else r

/-- Finish the drain's work at a preemption (R125): every complete unit is written, the rest discarded. -/
def flushDrain (s : State) (n : Nat) : State :=
  let bufs := (s.cell n).arr.bufs
  let s1 := bufs.foldl (fun s b =>
    let whole := wholeTile (s.cell n) b.prod.dd
    let b1 := if whole && unitReady (s.cell n) { b with swept := true } 0 then { b with swept := true } else b
    let r := flushUnits n b1 4 s
    if r.2.units = unitCount (r.1.cell n) b.prod then r.1.updArr n (markLast b.prod.pid b.prod.tile)
    else r.1.updArr n fun a =>
      { a with cur := a.cur.map fun p => if p.pid = b.prod.pid then { p with doneBits := r.2.bits } else p }) s
  s1.updArr n fun a => { a with bufs := [] }

/-- ARRAY_PREEMPT_EFFECT: a requested preemption or a yield takes effect at a tile boundary, and the context
save begins. A clock step that is ordered switches first (Table 3-7, Table 10-10). -/
def preemptEffect (s : State) (n : Nat) : State :=
  let c := s.cell n
  match c.arr.cur with
  | none => s
  | some p =>
    let asked := c.arr.preReq || c.arr.st == .emptying
    if cellRuns s n && asked && (s.region (n / 40)).clkTarget.isNone && atBoundary c p && (c.arr.st == .streaming || c.arr.st == .firstLoad || c.arr.st == .emptying) then
      (flushDrain s n).updArr n fun a => { a with st := .saving }
    else s

/-- ACC_LIVE of Table 3-5: the accumulator rows of the output tile that hold a sum: all of them after its first
pass and at the end of a link, whose sums are in the accumulators (R92); the rows accepted so far in its first
pass, whatever ACC_INIT is (log entry 68). -/
def accLive (p : Product) : Nat :=
  let link := p.pd.chain && decide (0 < p.link) && decide (p.row = 0)
  if p.ktile = 0 ∧ ¬p.half ∧ ¬link then 2 ^ p.row - 1 else 2 ^ rowsIn p.pd p.tile - 1

/-- The tile-context image (Table 3-5). -/
def tileImage (c : Cell) (p : Product) : List Byte :=
  let flags := b2n (isInt (p.mode c)) + 2 * b2n p.pd.chain + 4 * b2n p.half
  leBytes 2 1 ++ leBytes 2 flags ++ leBytes 4 p.tile ++ leBytes 4 p.ktile ++ leBytes 2 p.row ++ leBytes 2 0
    ++ leBytes 4 p.link ++ leBytes 4 (p.last.getD 0xFFFFFFFF) ++ leBytes 16 (accLive p) ++ leBytes 24 0
    ++ p.desc.take 64 ++ ((fgetRow 0 c.arr.acc 0 16384).flatMap fun w => leBytes 4 w.toNat)

/-- CELL_ARR_PREEMPTS counts. -/
def Arr.countSave (a : Arr) : Arr := { a with saves := a.saves + 1 }
def Arr.countResume (a : Arr) : Arr := { a with resumes := a.resumes + 1 }

/-- TILE_CONTEXT_SAVE_DONE: the image is written; a preempted product waits for its kernel's resume, a
yielded one for the array (R91, R278). -/
def saveDone (s : State) (n : Nat) : State :=
  let c := s.cell n
  match c.arr.cur with
  | some p =>
    if cellRuns s n && c.arr.st == .saving then
      let s1 := memWrite s (cellAddr n + p.pd.ctxSave) (tileImage c p)
      let q := { p with open_ := false, saved := some (cellAddr n + p.pd.ctxSave), savedEv := c.arr.accEv }
      (if c.arr.preReq then
        s1.updArr n fun a =>
          { a.countSave with cur := none, st := .idle, kept := a.kept ++ [q], preReq := false, fed := [], feed := [] }
      else
        s1.updCell n fun c => (c.updArr fun a =>
          -- a product promoted meanwhile is the next ordinary one (Table 10-10)
          if q.deferred then { a.countSave with cur := none, st := .idle, yielded := some q, fed := [], feed := [] }
          else { a.countSave with cur := none, st := .idle, queue := q :: a.queue, fed := [], feed := [] }).bump offDefYields 1)
    else s
  | none => s

/-- DEFERRED_YIELD: rows stop at the next tile boundary once an ordinary product waits, whose first tile takes the
place of a deferred one in the background buffer (R278). -/
def deferredYield (s : State) (n : Nat) : State :=
  let a := (s.cell n).arr
  match a.cur with
  | some p =>
    if cellRuns s n && p.deferred && !a.queue.isEmpty && (a.st == .streaming || a.st == .firstLoad) then
      let s1 := s.updArr n fun a => { a with st := .emptying }
      match waitingProduct s1 n none with
      | some q => loadBack s1 n q
      | none => s1
    else s
  | none => s

/-- DEFERRED_RESUME: the yielded product returns to the array when the ordinary queue is empty and the last
ordinary row is in (R279). -/
def deferredResume (s : State) (n : Nat) : State :=
  let a := (s.cell n).arr
  match a.cur, a.queue, a.yielded with
  | none, [], some p =>
    if cellRuns s n && a.st == .idle then
      s.updArr n fun a => { a with cur := some p, yielded := none, st := .restoring, preReq := false }
    else s
  | _, _, _ => s

/-- Rows of the tile in progress that the drain rebuilds from the restored accumulators (R125): on a drained pass
the rows below ROW whose write unit had not been written. A transposed tile keeps its earlier rows as well, for
the scale groups that they share; a written block row keeps its occupancy bits. -/
def rebuildTile (s : State) (n : Nat) (p : Product) : State :=
  let c := s.cell n
  if lastPass c p && p.pd.drained && decide (0 < p.row) && !p.pd.chain then
    let units := if unitCount c p = 1 then 0 else p.row / 32
    let again (r : Nat) : Bool := p.dd.trans || decide (32 * units ≤ r)
    let rows := ((List.range p.row).filter again).map fun r =>
      (r, drainRow s c p (isInt (p.mode c)) r (fgetRow 0 c.arr.acc (128 * r) (colsIn p.pd p.tile)))
    let b : TileBuf :=
      { prod := p, rows := rows.foldl (fun m x => fset {} m x.1 x.2) [], units := units, bits := p.doneBits,
        slot := freeSlot c.arr.bufs, replay := true }
    let rep := p.row - 32 * units
    s.updCell n fun c =>
      ((c.updArr fun a => { a with bufs := a.bufs ++ [b] }).bump offDrnReplays rep).bump offDrnRows rep
  else s

/-- In chained mode, the rows of the next link are returned again from the restored accumulators (R92). -/
def rebuildChain (s : State) (n : Nat) (p : Product) : State :=
  let c := s.cell n
  if p.pd.chain && decide (0 < p.link) then
    let f := (List.range (rowsIn p.pd p.tile)).foldl
      (fun m r => fset {} m r (returnRow c p (fgetRow 0 c.arr.acc (128 * r) (colsIn p.pd p.tile))).1) []
    s.updArr n fun a => { a with fed := f }
  else s

/-- TILE_CONTEXT_RESTORE_DONE: accumulators from the saved image, then the drain's replay; the stationary
tile is loaded again as the pass begins (R92). -/
def restoreDone (s : State) (n : Nat) : State :=
  let c := s.cell n
  match c.arr.cur with
  | some p =>
    if cellRuns s n && c.arr.st == .restoring && decide (c.arr.bufs.length < 2) then
      let a0 := p.saved.getD 0 + 0x80
      let acc := flisted 0 0 ((List.range 16384).map fun i => BitVec.ofNat 32 (rdNat s (a0 + 4 * i) 4))
      let p1 := { p with saved := none, savedEv := [], open_ := false }
      -- the stationary buffers and feeder queues are not saved (R91)
      let s1 := s.updArr n fun a =>
        { a.countResume with acc := acc, accEv := p.savedEv, accOwner := some p.op, cur := some p1, st := .streaming,
                             active := {}, back := {}, feed := [] }
      rebuildChain (rebuildTile s1 n p1) n p1
    else s
  | none => s

/-- ARRAY_ABORT_STOP: products of aborted operations leave the cell (R96). -/
def abortStop (s : State) (n : Nat) : State :=
  let l := (s.cell n).arr.abortReq
  if l.isEmpty then s
  else
    let s1 := stopArray (fun id => l.contains id) s n
    settleStop (s1.updArr n fun a => { a with abortReq := [] }) (n / 8)

/-! ### The meanings -/

def execProductStart (cell : Nat) (s : State) : Res := .next (productStart s cell)
def execDeferredProductStart (cell : Nat) (s : State) : Res := .next (deferredStart s cell)
def execPassStart (cell : Nat) (s : State) : Res := .next (passStart s cell)
def execRowResultAccept (cell : Nat) (s : State) : Res := .next (rowResult s cell)
def execProductComplete (cell : Nat) (s : State) : Res := .next (productComplete s cell)
def execArrayPreemptEffect (cell : Nat) (s : State) : Res := .next (preemptEffect s cell)
def execTileContextSaveDone (cell : Nat) (s : State) : Res := .next (saveDone s cell)
def execTileContextRestoreDone (cell : Nat) (s : State) : Res := .next (restoreDone s cell)
def execDeferredYield (cell : Nat) (s : State) : Res := .next (deferredYield s cell)
def execDeferredResume (cell : Nat) (s : State) : Res := .next (deferredResume s cell)
def execArrayAbortStop (cell : Nat) (s : State) : Res := .next (if cell < 160 then abortStop s cell else s)

end Sys2Proof.Machine
end

