-- ==== Sys2Proof/Machine/Crypto.lean ====
section
/-! DEFINITION. SHA-256, HMAC-SHA-256 (RFC 2104) and the LMS signature check of RFC 8554, which R407, R413, R417 and
R422 name. -/

namespace Sys2Proof.Machine

/-! ### SHA-256 -/

/-- The primes below 312, which are the first 64. -/
def shaPrimes : List Nat :=
  (List.range 312).filter fun n => decide (2 ≤ n) && (List.range 18).all fun d => decide (d < 2) || decide (n ≤ d) || n % d != 0

/-- The integer cube root, below 2^n, of a number: bits from the top down, each kept where the cube stays within. -/
def cubeRoot (x : Nat) : Nat → Nat → Nat
  | 0, r => r
  | n + 1, r => cubeRoot x n (if (r + 2 ^ n) ^ 3 ≤ x then r + 2 ^ n else r)

/-- 32 bits after the binary point of the cube roots of the first 64 primes: one constant for each round. -/
def shaK : List Word := shaPrimes.map fun q => BitVec.ofNat 32 (cubeRoot (q * 2 ^ 96) 35 0)

/-- The same of the square roots of the first 8 primes: the hash of no block. -/
def shaInit : List Word := (shaPrimes.take 8).map fun q => BitVec.ofNat 32 (Nat.sqrt (q * 2 ^ 64))

def wordBe (b : List Byte) : Word := BitVec.ofNat 32 (b.foldl (fun n x => 256 * n + x.toNat) 0)

/-- `n` bytes of a number, most significant first. -/
def beBytes (n v : Nat) : List Byte := (leBytes n v).reverse

/-- A xor of rotations to the right. -/
def rotXor (l : List Nat) (x : Word) : Word := l.foldl (fun y n => y ^^^ x.rotateRight n) 0

/-- Where the bits of `c` are set those of `x`, elsewhere those of `y`. -/
def pickBits (c x y : Word) : Word := y ^^^ (c &&& (x ^^^ y))

/-- The message schedule, newest word first, from the 16 words of a block. -/
def shaSchedule : Nat → List Word → List Word
  | 0, w => w
  | n + 1, w =>
    let (near, far) := (w.getD 1 0, w.getD 14 0)
    let mixed := (rotXor [17, 19] near ^^^ (near >>> 10)) + (rotXor [7, 18] far ^^^ (far >>> 3))
    shaSchedule n ((mixed + w.getD 6 0 + w.getD 15 0) :: w)

/-- One round on the eight working variables, with the sum of the round's constant and schedule word. -/
def shaRound (v : List Word) (kw : Word) : List Word :=
  match v with
  | [a, b, c, d, e, f, g, h] =>
    let t := h + kw + rotXor [6, 11, 25] e + pickBits e f g
    [t + rotXor [2, 13, 22] a + pickBits (a ^^^ b) c a, a, b, c, d + t, e, f, g]
  | l => l

def shaBlock (h : List Word) (block : List Byte) : List Word :=
  let w := (List.range 16).map fun i => wordBe ((block.drop (4 * i)).take 4)
  let kws := List.zipWith (· + ·) shaK (shaSchedule 48 w.reverse).reverse
  List.zipWith (· + ·) h (kws.foldl shaRound h)

def shaPad (m : List Byte) : List Byte :=
  m ++ [0x80] ++ List.replicate ((119 - m.length % 64) % 64) 0 ++ beBytes 8 (8 * m.length)

/-- Blocks of 64 bytes; `fuel` is at least their number. -/
def shaBlocks : Nat → List Byte → List (List Byte)
  | 0, _ => []
  | n + 1, m => if m.isEmpty then [] else m.take 64 :: shaBlocks n (m.drop 64)

def sha256 (m : List Byte) : List Byte :=
  let p := shaPad m
  ((shaBlocks (p.length / 64) p).foldl shaBlock shaInit).flatMap fun w => beBytes 4 w.toNat

/-! ### HMAC -/

def hmac256 (key msg : List Byte) : List Byte :=
  let k := (if 64 < key.length then sha256 key else key) ++ List.replicate 64 0
  let pad (x : Byte) : List Byte := (k.take 64).map fun b => b ^^^ x
  sha256 (pad 0x5c ++ sha256 (pad 0x36 ++ msg))

/-! ### Management datagrams (R422) -/

/-- The 32 header bytes of Table 14-5. -/
def mgtHeader (d : Datagram) : List Byte :=
  leBytes 1 d.version ++ leBytes 1 d.typ ++ leBytes 1 d.frag ++ leBytes 1 d.flags ++ leBytes 2 d.pstatus
    ++ leBytes 2 d.length ++ leBytes 8 d.seq ++ leBytes 8 d.target ++ leBytes 8 d.reserved

/-- The 32 bytes that authenticate a datagram. -/
def mgtMac (key : List Byte) (d : Datagram) : List Byte := hmac256 key (mgtHeader d ++ d.body)

/-! ### LMS with LMOTS_SHA256_N32_W8 -/

/-- One chain of a one-time signature, from step `a` on; `n` steps are left. -/
def otsChain (id : List Byte) (q i : Nat) : Nat → Nat → List Byte → List Byte
  | 0, _, x => x
  | n + 1, a, x => otsChain id q i n (a + 1) (sha256 (id ++ beBytes 4 q ++ beBytes 2 i ++ beBytes 1 a ++ x))

/-- The one-time public key that a signature gives: `c` its randomiser and `y` its 34 chain values. -/
def otsKey (id : List Byte) (q : Nat) (c : List Byte) (y : List (List Byte)) (msg : List Byte) : List Byte :=
  let d := sha256 (id ++ beBytes 4 q ++ beBytes 2 0x8181 ++ c ++ msg)
  let sum := (d.map fun b => 255 - b.toNat).sum
  let digits := d.map BitVec.toNat ++ (beBytes 2 sum).map BitVec.toNat
  let z := ((digits.zip y).zip (List.range 34)).flatMap fun x => otsChain id q x.2 (255 - x.1.1) x.1.1 x.1.2
  sha256 (id ++ beBytes 4 q ++ beBytes 2 0x8080 ++ z)

/-- The root above node `node`, through the path given from the leaf up. -/
def lmsRoot (id : List Byte) : Nat → List Byte → List (List Byte) → List Byte
  | _, x, [] => x
  | node, x, p :: ps =>
    let pair := if node % 2 = 1 then p ++ x else x ++ p
    lmsRoot id (node / 2) (sha256 (id ++ beBytes 4 (node / 2) ++ beBytes 2 0x8383 ++ pair)) ps

/-- Cut into pieces of 32 bytes. -/
def pieces32 (n : Nat) (b : List Byte) : List (List Byte) := (List.range n).map fun i => (b.drop (32 * i)).take 32

/-- Does `sig` sign `msg` under a public key of LMS_SHA256_M32_H20 with LMOTS_SHA256_N32_W8 (R407)? -/
def lmsVerify (pub msg sig : List Byte) : Bool :=
  let be (l : List Byte) (o : Nat) : Nat := (wordBe ((l.drop o).take 4)).toNat
  let id := (pub.drop 8).take 16
  let q := be sig 0
  let key := otsKey id q ((sig.drop 8).take 32) (pieces32 34 (sig.drop 40)) msg
  let leaf := sha256 (id ++ beBytes 4 (2 ^ 20 + q) ++ beBytes 2 0x8282 ++ key)
  decide (pub.length = 56) && decide (sig.length = 1772) && be pub 0 == 8 && be pub 4 == 4 && be sig 4 == 4
    && be sig 1128 == 8 && decide (q < 2 ^ 20)
    && decide (lmsRoot id (2 ^ 20 + q) leaf (pieces32 20 (sig.drop 1132)) = pub.drop 24)

end Sys2Proof.Machine
end

