-- ==== Sys2Proof/Machine/Clock.lean ====
section
/-! DEFINITION. Steps of a region's cell clock (R94, R95) as the arbiter's rules require them (R427, R428). -/

namespace Sys2Proof.Machine

/-- The step that the rules require of a region: the lowest clock that any rule requires. -/
def requiredStep (s : State) (r : Nat) : Nat :=
  let w := s.pwr
  min 2 (max (if w.brake || w.trip then 2 else 0) (max (fget 0 w.pwrHold r) (fget 0 w.heatHold r)))

/-- CLOCK_STEP_ORDER: a live region whose clock differs from what is required is ordered to it; a switch that
runs ends first. -/
def orderStep (s : State) (r : Nat) : State :=
  let g := s.region r
  if fencedRegion s r || g.clkSwitching || !g.released then s
  else
    let t := requiredStep s r
    s.updRegion r fun g => { g with clkTarget := if t = g.clkStep then none else some t }

def orderSteps (s : State) : State := (List.range 4).foldl orderStep s

/-- Has the cell's array reached a tile boundary, with no row to enter? -/
def clockReady (s : State) (n : Nat) : Bool :=
  fencedCell s n
    || (let c := s.cell n
        match c.arr.cur with
        | none => true
        | some p => atBoundary c p || p.ended || c.arr.st == .saving || c.arr.st == .restoring)

/-- CELL_READY: every live cell has signalled ready, and the cell clock stops for the switch. -/
def cellReady (s : State) (r : Nat) : State :=
  let g := s.region r
  if decide (r < 4) && !fencedRegion s r && g.clkTarget.isSome && !g.clkSwitching
      && (List.range 40).all fun i => clockReady s (40 * r + i) then
    s.updRegion r fun g => { g with clkSwitching := true }
  else s

/-- CLOCK_SWITCH_DONE: the new clock is in force. -/
def clockSwitchDone (s : State) (r : Nat) : State :=
  let g := s.region r
  match g.clkTarget with
  | some t =>
    if g.clkSwitching then
      orderStep (s.updRegion r fun g =>
        { g with clkSwitching := false, clkStep := t, clkTarget := none, clkSteps := g.clkSteps + 1 }) r
    else s
  | none => s

def execCellReady (region : Nat) (s : State) : Res := .next (cellReady s region)
def execClockSwitchDone (region : Nat) (s : State) : Res := .next (if region < 4 then clockSwitchDone s region else s)

end Sys2Proof.Machine
end

