-- ==== Sys2Proof/Machine/Route.lean ====
section
/-! DEFINITION. Messages and routes: flits of a message (R314, R316), the route tables (R332 to R335), the
ring (R19), tunnels (R338) and delivery to a region of the device itself (R26). -/

namespace Sys2Proof.Machine

/-! ### Fabric addresses (R25) -/

def devOf (fa : Nat) : Nat := fa / 2 ^ 48 % 65536
def localOf (fa : Nat) : Nat := fa % 2 ^ 48
def fabAddr (dev a : Nat) : Nat := dev * 2 ^ 48 + a
/-- An address by which a message names a region of a device: the start of its HBM (log entry 30). -/
def regionAddr (dev r : Nat) : Nat := fabAddr dev (r * regionSpan)

/-- The region of this device that takes a request for an address: its memory's owner, the region of a unit
window (Table 1-3), or `r` for a hub window. -/
def homeOf (r a : Nat) : Nat :=
  match regionOf a with
  | some k => k
  | none =>
    let w := (a - 0x300000000000) / 0x100000
    if a < 0x300000000000 ∨ 0x300100000000 ≤ a then r
    else if w < 0xA0 then w / 40
    else if 0x100 ≤ w ∧ w < 0x114 then (w - 0x100) / 5
    else if 0x200 ≤ w ∧ w < 0x204 then w - 0x200
    else if 0x210 ≤ w ∧ w < 0x21C then (w - 0x210) / 3
    else if 0x220 ≤ w ∧ w < 0x238 then (w - 0x220) / 6
    else if 0x240 ≤ w ∧ w < 0x264 then w % 16 % 4
    else r

/-! ### The ring (R19, R34) -/

/-- Is ring connection k, from region k to region k + 1, up? A fenced region passes the traffic of the others. -/
def ringUp (s : State) (k : Nat) : Bool := !fget false s.ringDown (k % 4)

/-- Regions that traffic from `r` reaches one after the other in `n` hops, in the increasing or the decreasing
direction; none when a connection on the way is down. -/
def ringHops (s : State) (up : Bool) (r n : Nat) : Option (List Nat) :=
  if (List.range n).all fun i => ringUp s (if up then r + i else r + 7 - i) then
    some ((List.range n).map fun i => if up then (r + i + 1) % 4 else (r + 7 - i) % 4)
  else none

/-- The way of traffic from region `r` to region `t`: one hop to a neighbour, two increasing hops to the opposite
region, and the other way round where a connection on that way is down (R19, Table 11-5). -/
def ringPath (s : State) (r t : Nat) : Option (List Nat) :=
  let n := (t + 4 - r) % 4
  if n = 0 then some []
  else if n ≤ 2 then (ringHops s true r n).orElse fun _ => ringHops s false r (4 - n)
  else (ringHops s false r 1).orElse fun _ => ringHops s true r 3

/-- Does the ring carry traffic from one region to another now? -/
def ringJoins (s : State) (r t : Nat) : Bool := (ringPath s r t).isSome

/-! ### Flits -/

def State.link (s : State) (l : Nat) : Link := fget {} s.links l
def State.updLink (s : State) (l : Nat) (f : Link → Link) : State :=
  { s with links := fset {} s.links l (f (s.link l)) }
def Link.bump (off n : Nat) (l : Link) : Link := { l with ctr := ctrAdd l.ctr off n }

/-- The message header (Table 11-3). -/
def msgHeader (m : Msg) : List Byte :=
  leBytes 16 (m.mtag % 4096 * 2 ^ 16 + (m.length - 1) % 4096 * 2 ^ 28 + m.op % 64 * 2 ^ 40
    + m.srcRegion % 4 * 2 ^ 46 + m.srcId % 65536 * 2 ^ 48 + m.dest % 2 ^ 64 * 2 ^ 64)

/-- The message that a header and its data spell. -/
def msgOf (b : List Byte) : Msg :=
  let h := leNat (b.take 16)
  { dest := natBits h 127 64, srcId := natBits h 63 48, srcRegion := natBits h 47 46, op := natBits h 45 40,
    length := natBits h 39 28 + 1, mtag := natBits h 27 16, data := b.drop 16 }

/-- Virtual channel of a message (Table 11-4). -/
def vcOf (op : Nat) : Nat := if op = 6 then 0 else if op = 4 ∨ op = 5 then 1 else if op = 7 then 3 else 2

/-- Cut a byte list into payloads of 240 bytes; `fuel` is at least the number of payloads. -/
def payloads : Nat → List Byte → List (List Byte)
  | 0, _ => []
  | k + 1, l => if l.length ≤ 240 then [l] else l.take 240 :: payloads k (l.drop 240)

/-- The flits of a message (R316). -/
def flitsOf (m : Msg) (cls : Nat) (op : Option OpId) : List TxFlit :=
  let ps := payloads 32 (msgHeader m ++ m.data)
  (ps.zip (List.range ps.length)).map fun x =>
    { payload := x.1, vc := vcOf m.op, cls := cls, som := decide (x.2 = 0),
      eom := decide (x.2 + 1 = ps.length), op := op }

/-- LNK_BRIDLE_MAX follows the Bridle queue. -/
def noteBridle (l : Link) : Link :=
  { l with bridleMax := max l.bridleMax (min 255 (l.txq.filter fun f => f.vc == 0 && f.typ == 0).length) }

/-- 10 µs of a region counter, and the flits that a region may offer a link in it: one for every 256 slots of
1.28 ns (R327). -/
def offerCycles : Nat := 16000
def offerLimit : Nat := 30

/-- May a region's Bridle flit join the Bridle queue of the link now: fewer than 4 of the region's flits are in it, and
its offers of the last 10 µs leave room (R327)? -/
def mayOffer (now : DWord) (l : Link) (f : TxFlit) : Bool :=
  decide ((l.txq.filter fun g => g.vc == 0 && g.region == f.region).length < 4)
    && decide ((l.offers.filter fun o => f.region == some o.1 && decide ((now - o.2).toNat < offerCycles)).length < offerLimit)

/-- The first waiting Bridle flit that may go joins the queue. -/
def offerOne (now : DWord) (l : Link) : Link :=
  match l.bridleWait.find? (mayOffer now l) with
  | some f =>
    noteBridle { l with txq := l.txq ++ [f], bridleWait := l.bridleWait.erase f,
                        offers := (l.offers.filter fun o => decide ((now - o.2).toNat < offerCycles))
                          ++ (f.region.map fun r => (r, now)).toList }
  | none => l

def offerBridle (now : DWord) (l : Link) : Link := (List.range l.bridleWait.length).foldl (fun l _ => offerOne now l) l

/-- Flits join the output queue of a link; the Bridle flits of a region of the device wait in Rolac for their
place (R327). -/
def enqueue (now : DWord) (fs : List TxFlit) (l : Link) : Link :=
  if fs.any fun f => f.vc == 0 && f.region.isSome then offerBridle now { l with bridleWait := l.bridleWait ++ fs }
  else noteBridle { l with txq := l.txq ++ fs }

/-- Credits come to be owed as flits leave the input buffer of a link (R321). -/
def owe (key n : Nat) (l : Link) : Link :=
  if l.st = 4 then l
  else { l with owed := fset 0 l.owed key (fget 0 l.owed key + n), inbuf := fset 0 l.inbuf key (fget 0 l.inbuf key - n) }

/-- A flit leaves the device: the place that it had in an input buffer is free. -/
def leaves (s : State) (f : TxFlit) : State := match f.src with
  | some (l, key) => s.updLink l (owe key 1)
  | none => s

/-- What a message completes has left with its last flit. -/
def shipped (s : State) (f : TxFlit) : State := match f.note with
  | some (.contribution dev r c) => s.emit (.contribution dev r c)
  | some (.result dev r c) => s.emit (.result dev r c)
  | some (.poison l) => s.emit (.poison l)
  | none => s

/-- Are flits of an operation still in a link's or a tunnel's queues, or not acknowledged yet? -/
def opInFlight (s : State) (id : OpId) : Bool :=
  s.links.any fun k =>
    k.2.txq.any (fun f => f.op == some id) || k.2.retry.any (fun x => x.2.op == some id)
      || k.2.tunnels.any fun t => t.2.window.any (fun w => w.2.any fun f => f.op == some id)
          || t.2.queue.any fun q => q.any fun f => f.op == some id

/-- The next MTAG of a region, 1 to 4,095. -/
def takeTag (s : State) (r : Nat) : Nat × State :=
  ((s.region r).mtag % 4095 + 1, s.updRegion r fun g => { g with mtag := (g.mtag + 1) % 4095 })

/-! ### Tunnels -/

def Tunnel.valid (t : Tunnel) : Bool := fld t.entry 28 1 == 1 && !t.fenced
def Link.tunnel (l : Link) (t : Nat) : Tunnel := fget {} l.tunnels t
def Link.updTunnel (l : Link) (t : Nat) (f : Tunnel → Tunnel) : Link :=
  { l with tunnels := fset {} l.tunnels t (f (l.tunnel t)) }

/-- CRC-32 of R315. -/
def crc32 (bs : List Byte) : Nat :=
  let step (c : Nat) (b : Byte) : Nat :=
    (List.range 8).foldl (fun x _ => if x % 2 = 1 then x / 2 ^^^ 0xEDB88320 else x / 2) (c ^^^ b.toNat)
  bs.foldl step 0xFFFFFFFF ^^^ 0xFFFFFFFF

/-- Link header of Table 11-2. -/
structure LinkHead where
  seq : Nat := 0
  ack : Nat := 0
  vc : Nat := 0
  cls : Nat := 0
  typ : Nat := 0
  som : Bool := false
  eom : Bool := false
  valid : Nat := 0
  crVc : Nat := 0
  crClass : Nat := 0
  crCount : Nat := 0
  reserved : Nat := 0
  deriving DecidableEq, Repr

def LinkHead.bytes (h : LinkHead) : List Byte :=
  leBytes 12 (h.seq % 4096 * 2 ^ 84 + h.ack % 4096 * 2 ^ 72 + h.vc % 4 * 2 ^ 70 + h.cls % 2 * 2 ^ 69
    + h.typ % 8 * 2 ^ 66 + b2n h.som * 2 ^ 65 + b2n h.eom * 2 ^ 64 + h.valid % 256 * 2 ^ 56
    + h.crVc % 4 * 2 ^ 54 + h.crClass % 2 * 2 ^ 53 + h.crCount % 32 * 2 ^ 48)

def LinkHead.of (b : List Byte) : LinkHead :=
  let n := leNat (b.take 12)
  { seq := natBits n 95 84, ack := natBits n 83 72, vc := natBits n 71 70, cls := natBits n 69 69,
    typ := natBits n 68 66, som := natBit n 65, eom := natBit n 64, valid := natBits n 63 56,
    crVc := natBits n 55 54, crClass := natBits n 53 53, crCount := natBits n 52 48,
    reserved := natBits n 47 0 }

/-- The 256 bytes of a flit (R314, R315). -/
def flitBytes (h : LinkHead) (payload : List Byte) : List Byte :=
  let b := h.bytes ++ (payload ++ List.replicate 240 0).take 240
  b ++ leBytes 4 (crc32 b)

/-- Flits in a tunnel datagram: as on a native link, with SEQ and ACK 0 (log entry 31). -/
def tunnelFlit (f : TxFlit) : List Byte :=
  flitBytes { vc := f.vc, cls := f.cls, som := f.som, eom := f.eom, valid := f.payload.length } f.payload

/-- Ones' complement sum of 16-bit words, as the UDP checksum takes it. -/
def inetSum (b : List Byte) : Nat :=
  let n := ((List.range ((b.length + 1) / 2)).map fun i => (b.getD (2 * i) 0).toNat * 256 + (b.getD (2 * i + 1) 0).toNat).sum
  if n = 0 then 0 else (n - 1) % 65535 + 1

/-- TAG of a tunnel's entry: priority [15:13], tagged [12], VLAN ID [11:0] (R338). -/
def Tunnel.tag (u : Tunnel) : Nat := fld u.entry 22 2
def Tunnel.priority (u : Tunnel) : Nat := if natBit u.tag 12 then natBits u.tag 15 13 else 0

/-- The tunnel header: number, cumulative ACK, flit count and 7 zero bytes. -/
def tunnelHeader (seq ack n : Nat) : List Byte := leBytes 4 seq ++ leBytes 4 ack ++ leBytes 1 n ++ List.replicate 7 0

/-- The Ethernet frame of a tunnel datagram. The IPv6 traffic class and flow label, the hop limit and the UDP source port
are free values `x`, `y`, `z` (log entry 31). -/
def tunnelFrame (k : Link) (u : Tunnel) (x y z : Nat) (pay : List Byte) : List Byte :=
  let n := 8 + pay.length
  let peer := u.entry.take 16
  let tag := if natBit u.tag 12 then beBytes 2 0x8100 ++ beBytes 2 (u.tag / 2 ^ 13 * 2 ^ 13 + u.tag % 2 ^ 12) else []
  let ports := beBytes 2 z ++ beBytes 2 k.port ++ beBytes 2 n
  let sum := 65535 - inetSum (k.ipv6 ++ peer ++ beBytes 4 n ++ beBytes 4 17 ++ ports ++ pay)
  (u.entry.drop 16).take 6 ++ k.mac ++ tag ++ beBytes 2 0x86DD
    ++ beBytes 4 (6 * 2 ^ 28 + x % 2 ^ 28) ++ beBytes 2 n ++ beBytes 1 17 ++ beBytes 1 y ++ k.ipv6 ++ peer
    ++ ports ++ beBytes 2 (if sum = 0 then 65535 else sum) ++ pay

/-- A datagram leaves a tunnel, with the number of the last one received in order. -/
def tunnelOut (s : State) (l t seq : Nat) (fs : List (List Byte)) : State :=
  let k := s.link l
  let u := k.tunnel t
  let (x, s1) := s.draw
  let (y, s2) := s1.draw
  let (z, s3) := s2.draw
  s3.emit (.tunnel l t (tunnelFrame k u x y z (tunnelHeader seq ((u.rxNext + 2 ^ 32 - 1) % 2 ^ 32) fs.length ++ fs.flatten)))

/-- Flits that a tunnel keeps until they are acknowledged. -/
def Tunnel.inFlight (u : Tunnel) : Nat := (u.window.map fun w => w.2.length).sum

/-- Has the peer paused the tunnel's priority (R336)? -/
def tunnelPaused (now : DWord) (k : Link) (u : Tunnel) : Bool :=
  decide (now.toNat < (fget 0 k.paused u.priority).toNat)

/-- The retry window of a tunnel in HBM: flit n of tunnel t at 1 MiB × t + 256 × (n mod 4,096) in the link's retry
area (R338, log entry 31). -/
def retrySlot (k : Link) (t n : Nat) : Nat := k.retryArea + 2 ^ 20 * t + 256 * (n % 4096)

/-- Flits of a datagram go into the retry area. -/
def keepFlits (s : State) (l t n : Nat) (fs : List (List Byte)) : State :=
  (fs.zip (List.range fs.length)).foldl
    (fun s x =>
      let a := retrySlot (s.link l) t (n + x.2)
      if fencedSpan s a 256 then s else memWrite s a x.1) s

/-- Flits of a message go in one datagram (a message has at most 18). -/
def tunnelPut (s : State) (l t : Nat) (fs : List TxFlit) : State :=
  let u := (s.link l).tunnel t
  let now := (s.region (l / 6)).cycle
  let bs := fs.map tunnelFlit
  let s1 := s.updLink l fun k => k.updTunnel t fun u =>
    { u with txSeq := (u.txSeq + 1) % 2 ^ 32, flitNo := u.flitNo + fs.length, window := u.window ++ [(u.txSeq, fs)],
             since := if u.window.isEmpty then now else u.since,
             tried := if u.window.isEmpty then now else u.tried }
  fs.foldl (fun s f => shipped (leaves s f) f) (tunnelOut (keepFlits s1 l t u.flitNo bs) l t u.txSeq bs)

/-- Send the flits of a message through a tunnel; at most 4,096 flits are in its window at once. -/
def tunnelSend (s : State) (l t : Nat) (fs : List TxFlit) : State :=
  let u := (s.link l).tunnel t
  if u.queue.isEmpty && decide (u.inFlight + fs.length ≤ 4096) && !tunnelPaused (s.region (l / 6)).cycle (s.link l) u then
    tunnelPut s l t fs
  else s.updLink l fun k => k.updTunnel t fun u => { u with queue := u.queue ++ [fs] }

/-! ### Routing -/

/-- A route entry (Table 11-7). -/
structure RouteEntry where
  tunnel : Nat
  valid : Bool
  up : Bool
  altUp : Bool
  alt : Nat
  primary : Nat
  deriving DecidableEq, Repr

def RouteEntry.of (w : Nat) : RouteEntry :=
  { tunnel := natBits w 31 24, valid := natBit w 15, up := natBit w 14, altUp := natBit w 13,
    alt := natBits w 7 4, primary := natBits w 3 0 }

def routeWord (s : State) (r dev : Nat) : Nat := fget 0xFF (s.region r).routes dev

/-- Is a link up in the given mode, and not fenced? -/
def linkUp (s : State) (l mode : Nat) : Bool :=
  let k := s.link l
  (k.st == 2 || k.st == 3) && k.mode == mode && !fencedLink s l

/-- May a flit leave region `r` by a port code? -/
def portUsable (s : State) (r port tunnel : Nat) : Bool :=
  if port < 6 then linkUp s (6 * r + port) 0
  else if port = 6 then ringJoins s r ((r + 1) % 4)
  else if port = 7 then ringJoins s r ((r + 3) % 4)
  else if port = 9 ∨ port = 10 then
    let l := 6 * r + port - 5
    linkUp s l 1 && ((s.link l).tunnel tunnel).valid
  else false

/-- The port and route class that a message takes, none when it cannot be forwarded (R332, R333, R335). -/
def routeOf (s : State) (r dev cls : Nat) : Option (Nat × Nat × Nat) :=
  let e := RouteEntry.of (routeWord s r dev)
  if !e.valid then none
  else if portUsable s r e.primary e.tunnel then some (e.primary, if e.up then 1 else cls, e.tunnel)
  else if portUsable s r e.alt e.tunnel then some (e.alt, if e.altUp then 1 else cls, e.tunnel)
  else none

/-- A message reaches a region of this device. -/
def deliver (s : State) (r : Nat) (d : Deliver) : State :=
  s.updRegion r fun g => { g with inbox := g.inbox ++ [d] }

/-- Does an operation end when a message of it is lost: a collective that waits for every contribution, or a remote
control operation that has sent its request (R319, R347)? -/
def endsOnLoss (e : OpEntry) : Bool :=
  e.phase == .running
    && (e.opcode / 256 == 4 && fldBits e.desc 0x10 4 14 13 == 0 || e.opcode / 256 == 7 && e.sent.isSome)

/-- A message of an operation could not be delivered (R335, R319). -/
def opLinkDown (s : State) (op : Option OpId) : State :=
  match op with
  | some id => match s.op? id with
    | some e => if endsOnLoss e then s.finishOp id stLINKDOWN else s.addStat id stLINKDOWN
    | none => s
  | none => s

/-- The way of a message from region `r`: the region and port by which it leaves the device; the ring leads
to another region, whose own table routes it again. -/
def pathFrom : Nat → State → Nat → Nat → Nat → Option (Nat × Nat × Nat × Nat)
  | 0, _, _, _, _ => none
  | k + 1, s, r, dev, cls =>
    match routeOf s r dev cls with
    | some (6, c, _) => pathFrom k s ((r + 1) % 4) dev c
    | some (7, c, _) => pathFrom k s ((r + 3) % 4) dev c
    | some (p, c, t) => some (r, p, c, t)
    | none => none

/-- The region that can send a message no further: the one where `pathFrom` ends. -/
def deadEnd : Nat → State → Nat → Nat → Nat → Nat
  | 0, _, r, _, _ => r
  | k + 1, s, r, dev, cls =>
    match routeOf s r dev cls with
    | some (6, c, _) => deadEnd k s ((r + 1) % 4) dev c
    | some (7, c, _) => deadEnd k s ((r + 3) % 4) dev c
    | _ => r

/-- Flits of one message leave by port `p` of region `k`, through tunnel `t` where the port is one. -/
def sendFlits (s : State) (k p t : Nat) (fs : List TxFlit) : State :=
  if p < 6 then s.updLink (6 * k + p) (enqueue (s.region k).cycle fs) else tunnelSend s (6 * k + p - 5) t fs

/-- Flits of a message that region `r` sends; a region's own Bridle flits carry its number (R327). -/
def ownFlits (s : State) (r cls : Nat) (op : Option OpId) (m : Msg) : List TxFlit :=
  if m.op = 6 ∧ m.srcId = s.hub.deviceId then (flitsOf m cls op).map fun f => { f with region := some r } else flitsOf m cls op

/-- What the last flit of a message completes. -/
def noted (x : Option Shipment) (fs : List TxFlit) : List TxFlit :=
  match x with
  | some y => (fs.zip (List.range fs.length)).map fun f => if f.2 + 1 = fs.length then { f.1 with note := some y } else f.1
  | none => fs

/-- Send a message on its way, in route class `cls`; none when no route takes it. -/
def forwardNoted (s : State) (r cls : Nat) (op : Option OpId) (x : Option Shipment) (m : Msg) : Option State :=
  match pathFrom 8 s r (devOf m.dest) cls with
  | some (k, p, c, t) => some (sendFlits s k p t (noted x (ownFlits s r c op m)))
  | none => none

def forward (s : State) (r cls : Nat) (op : Option OpId) (m : Msg) : Option State := forwardNoted s r cls op none m

/-- Send a message of this device from region `r` (R26, R335), with the marks `x` that it carries. -/
def sendNoted (s : State) (r : Nat) (op : Option OpId) (x : Option Shipment) (m : Msg) : State :=
  let m := { m with srcId := s.hub.deviceId, srcRegion := r }
  if devOf m.dest = s.hub.deviceId then
    let k := homeOf r (localOf m.dest)
    if ringJoins s r k then deliver s k (.msg m) else opLinkDown s op
  else (forwardNoted s r 0 op x m).getD (opLinkDown s op)

def sendMsg (s : State) (r : Nat) (op : Option OpId) (m : Msg) : State := sendNoted s r op none m

/-- A Bridle message: TYPE and body in the 224 bytes after the header (R324). -/
def bridleMsg (dest typ : Nat) (body : List Byte) : Msg :=
  { dest := dest, op := 6, length := 224,
    data := leBytes 2 typ ++ (body ++ List.replicate 222 0).take 222 }

/-- Send a Bridle message; false when no route takes it. The region remembers it by its MTAG, so that it can take the
out-of-band path when it meets UNREACHABLE (R329). -/
def sendBridle (s : State) (r : Nat) (op : Option OpId) (dev region typ : Nat) (body : List Byte) : State × Bool :=
  let (tag, s1) := takeTag s r
  let m := { bridleMsg (regionAddr dev region) typ body with srcId := s.hub.deviceId, srcRegion := r, mtag := tag }
  if dev = s.hub.deviceId then (if ringJoins s r region then (deliver s region (.msg m), true) else (s, false))
  else match forward s1 r 0 op m with
    | some s2 => (s2.updRegion r fun g => { g with bridles := fset (0, 0, []) g.bridles tag (dev, typ, body) }, true)
    | none => (s, false)

/-- A Bridle message as the BRIDLE_FORWARD request of the management port (R329, R424); false when the peer-address table
does not hold the target. -/
def sendOob (s : State) (dev typ : Nat) (body : List Byte) : State × Bool :=
  match s.hub.peers.find? fun p => p.1 == dev with
  | some p =>
    let n := s.store.mgtSeq + 1
    let d : Datagram :=
      { source := s.mgt.addr.foldl (fun n b => 256 * n + b.toNat) 0, version := 1, typ := 0x20, frag := 0, flags := 2,
        pstatus := 0, length := 224, seq := n, target := 0, reserved := 0,
        body := leBytes 2 typ ++ (body ++ List.replicate 222 0).take 222, mac := [] }
    (({ s with store := { s.store with mgtSeq := n } } : State).emit (.oob p.2 { d with mac := mgtMac s.store.mgtKey d }), true)
  | none => (s, false)

/-- Send a Bridle message, through the management port where no route takes it; false when neither does. -/
def reachBridle (s : State) (r : Nat) (op : Option OpId) (dev region typ : Nat) (body : List Byte) : State × Bool :=
  match sendBridle s r op dev region typ body with
  | (s', true) => (s', true)
  | _ => sendOob s dev typ body

/-- The answer to a Bridle message, by the path that the message took (R424). -/
def answerBridle (s : State) (r : Nat) (byPort : Bool) (src : Src) (typ : Nat) (body : List Byte) : State :=
  if byPort then (sendOob s src.id typ body).1 else (reachBridle s r none src.id src.region typ body).1

/-- A Bridle message of region `r` met UNREACHABLE: it goes out again through the management port. -/
def bridleAgain (s : State) (r mtag : Nat) : State :=
  let x := fget (0, 0, []) (s.region r).bridles mtag
  if x.2.1 = 0 then s
  else (sendOob (s.updRegion r fun g => { g with bridles := fset (0, 0, []) g.bridles mtag (0, 0, []) }) x.1 x.2.1 x.2.2).1

/-- UNREACHABLE for a message that region `r` discards (Table 11-13). -/
def unreachableBody (s : State) (r : Nat) (m : Msg) : List Byte :=
  leBytes 8 m.dest ++ leBytes 2 m.srcId ++ leBytes 1 m.srcRegion ++ leBytes 1 m.op ++ leBytes 2 m.mtag
    ++ leBytes 1 (vcOf m.op) ++ leBytes 1 r ++ leBytes 2 s.hub.deviceId

/-- A message in transit goes on flit by flit, or is discarded and UNREACHABLE returns to its source from the region
that discards it (R335). -/
def transit (s : State) (r cls : Nat) (m : Msg) (fs : List TxFlit) : State :=
  match pathFrom 8 s r (devOf m.dest) cls with
  | some (k, p, c, t) => sendFlits s k p t (fs.map fun f => { f with cls := c })
  | none =>
    let k := deadEnd 8 s r (devOf m.dest) cls
    let s1 := fs.foldl leaves s
    if m.op = 6 ∧ fld m.data 0 2 = 8 then s1
    else (reachBridle s1 k none m.srcId m.srcRegion 8 (unreachableBody s1 k m)).1

end Sys2Proof.Machine
end

