-- ==== Sys2Proof/Machine/DmaDesc.lean ====
section
/-! DEFINITION. DMA descriptors (Tables 7-4, 7-5, 7-7, 7-8), the checks that an engine makes when one reaches
the head of its queue (R215 to R226), and the overlap test of R222. -/

namespace Sys2Proof.Machine

/-! ### Engines (Table 7-3) -/

def State.dma (s : State) : Engine → Dma
  | .cell n => (s.cell n).dma
  | .gs b => (s.block b).gs
  | .block b => (s.block b).dma
  | .region r => (s.region r).dma

def State.updDma (s : State) (e : Engine) (f : Dma → Dma) : State :=
  match e with
  | .cell n => s.updCell n fun c => { c with dma := f c.dma }
  | .gs b => s.updBlock b fun x => { x with gs := f x.gs }
  | .block b => s.updBlock b fun x => { x with dma := f x.dma }
  | .region r => s.updRegion r fun g => { g with dma := f g.dma }

end Sys2Proof.Machine

namespace Sys2Proof

/-- Region of an engine. -/
def Engine.home : Engine → Nat
  | .cell n => n / 40
  | .gs b => b / 5
  | .block b => b / 5
  | .region r => r

def Engine.isRegion : Engine → Bool
  | .region _ => true
  | _ => false

/-- Descriptors that run at once. -/
def Engine.width : Engine → Nat
  | .gs _ => 1
  | _ => 4

/-- Descriptor kinds that the engine takes. -/
def Engine.kindOk (e : Engine) (k : Nat) : Bool :=
  match e with
  | .gs _ => k == 2 || k == 3
  | .region _ => decide (k < 4)
  | _ => decide (k < 2)

end Sys2Proof

namespace Sys2Proof.Machine

/-- May the engine work: its unit exists, is not fenced, and its clock runs (R94, R231)? -/
def engineRuns (s : State) : Engine → Bool
  | .cell n => cellLive n
  | .gs b => blockLive b
  | .block b => blockLive b
  | .region r => decide (r < 4) && !fencedRegion s r
where
  cellLive (n : Nat) : Bool := decide (n < 160) && !fencedCell s n && !(s.region (n / 40)).clkSwitching
  blockLive (b : Nat) : Bool := decide (b < 20) && !fencedBlock s b && !(s.region (b / 5)).clkSwitching

/-! ### The descriptor -/

/-- Header of a DMA descriptor (Table 7-4). -/
structure TD where
  kind : Nat
  fs : Nat
  fd : Nat
  conv : Bool
  trans : Bool
  priv : Bool
  order : Bool
  fixed : Bool
  remS : Bool
  remD : Bool
  code : Nat
  tag : Nat
  src : Nat
  dst : Nat
  next : Nat
  deriving DecidableEq, Repr

def TD.of (raw : List Byte) : TD :=
  let w := fld raw 0 4
  let v := fld raw 4 4
  { kind := natBits w 3 0, fs := natBits w 7 4, fd := natBits w 11 8, conv := natBit w 12, trans := natBit w 13,
    priv := natBit w 14, order := natBit w 15, fixed := natBit w 16, remS := natBit w 17, remD := natBit w 18,
    code := natBits v 7 0, tag := natBits v 17 8, src := fld raw 8 8, dst := fld raw 16 8, next := fld raw 24 8 }

/-- A signed field. -/
def sfld (d : List Byte) (off n : Nat) : Int := sext (8 * n) (fld d off n)

/-- Body of KIND 0 (Table 7-5): counts and strides of dimensions 0 to 3. -/
def k0Counts (raw : List Byte) : List Nat := (List.range 4).map fun k => fld raw (0x20 + 2 * k) 2 + 1
def k0Src (raw : List Byte) : List Int := (List.range 4).map fun k => sfld raw (0x30 + 4 * k) 4
def k0Dst (raw : List Byte) : List Int := (List.range 4).map fun k => sfld raw (0x40 + 4 * k) 4

/-- Body of KIND 1 (Table 7-7). -/
structure TC where
  rows : Nat
  cols : Nat
  sPitch : Int
  dPitch : Int
  sRow : Nat
  sCol : Nat
  dRow : Nat
  dCol : Nat
  sScale : Nat
  dScale : Nat
  sRm : Bool
  dRm : Bool
  batch : Nat
  sStride : Int
  dStride : Int
  deriving DecidableEq, Repr

def TC.of (raw : List Byte) : TC :=
  let lay := fld raw 0x50 4
  let pitch (off bit : Nat) : Int := if natBit lay bit then sfld raw off 4 else (fld raw off 4 : Int)
  { rows := fld raw 0x20 4, cols := fld raw 0x24 4, sPitch := pitch 0x28 0, dPitch := pitch 0x2C 1,
    sRow := fld raw 0x30 4, sCol := fld raw 0x34 4, dRow := fld raw 0x38 4, dCol := fld raw 0x3C 4,
    sScale := fld raw 0x40 8, dScale := fld raw 0x48 8, sRm := natBit lay 0, dRm := natBit lay 1,
    batch := fld raw 0x54 4 + 1, sStride := sfld raw 0x58 8, dStride := sfld raw 0x60 8 }

/-- Height and width of the view in the destination. -/
def TC.high (c : TC) (d : TD) : Nat := if d.trans then c.cols else c.rows
def TC.wide (c : TC) (d : TD) : Nat := if d.trans then c.rows else c.cols

/-- Body of KIND 2 and 3 (Table 7-8). -/
structure TG where
  index : Nat
  count : Nat
  rows : Nat
  len : Nat
  add : Bool
  maskEn : Bool
  tPitch : Int
  rPitch : Int
  fill : Nat
  maskOut : Nat
  deriving DecidableEq, Repr

def TG.of (raw : List Byte) : TG :=
  let fl := fld raw 0x34 4
  { index := fld raw 0x20 8, count := fld raw 0x28 4, rows := fld raw 0x2C 4, len := fld raw 0x30 4,
    add := natBit fl 0, maskEn := natBit fl 1, tPitch := sfld raw 0x38 8, rPitch := sfld raw 0x40 8,
    fill := fld raw 0x48 4, maskOut := fld raw 0x50 8 }

/-- Element bytes of a byte-sized format. -/
def elBytes (f : Nat) : Nat := fmtBits f / 8

/-! ### Fields (R216, R217, R219, R224, R226) -/

def k0Ok (d : TD) (raw : List Byte) : Bool :=
  fmtByteSized d.fs && fmtByteSized d.fd && (!d.conv || (!fmtScaled d.fs && !fmtScaled d.fd))
    && zeros raw 0x28 0x30 && zeros raw 0x50 0x80
    && decide (localOf d.src % elBytes d.fs = 0) && decide (localOf d.dst % elBytes d.fd = 0)

def k1Ok (d : TD) (raw : List Byte) : Bool :=
  let c := TC.of raw
  let dim (x : Nat) := decide (1 ≤ x) && decide (x ≤ 16777216)
  dim c.rows && dim c.cols && decide (fld raw 0x50 4 < 4) && decide (c.batch ≤ 65536) && zeros raw 0x68 0x80
    && (c.sRm || decide ((ceilDiv (c.sCol + c.cols) 32 : Int) ≤ c.sPitch))
    && (c.dRm || decide ((ceilDiv (c.dCol + c.wide d) 32 : Int) ≤ c.dPitch))
    && (c.dRm || !fmtScaled d.fd || decide (c.dPitch % 4 = 0))
    && (!fmtScaled d.fs || decide (c.sCol % 128 = 0)) && (!fmtScaled d.fd || decide (c.dCol % 128 = 0))
    && (fmtScaled d.fs == decide (c.sScale ≠ 0)) && (fmtScaled d.fd == decide (c.dScale ≠ 0))
    && (d.conv || !fmtScaled d.fs || !d.trans)

def k2Ok (d : TD) (raw : List Byte) : Bool :=
  let g := TG.of raw
  fmtByteSized d.fs && fmtByteSized d.fd && (!d.conv || (!fmtScaled d.fs && !fmtScaled d.fd))
    && decide (g.index % 4 = 0) && decide (1 ≤ g.count) && decide (g.count ≤ 16777216)
    && decide (1 ≤ g.len) && decide (g.len ≤ 65536) && decide (fld raw 0x34 4 < 4)
    && (d.kind == 3 || !g.add) && (!g.add || (d.fs == fFP32 && d.fd == fFP32))
    && zeros raw 0x4C 0x50 && zeros raw 0x58 0x80 && decide (g.index < 2 ^ 48)

/-- Is the descriptor well formed for the engine? -/
def tdOk (e : Engine) (priv : Bool) (raw : List Byte) : Bool :=
  let d := TD.of raw
  let cb (f : Nat) : Bool := f == fCB16 || f == fCB256
  decide (natBits (fld raw 0 4) 31 19 = 0) && decide (natBits (fld raw 4 4) 31 18 = 0)
    && e.kindOk d.kind && decide (d.fs ≤ 10) && decide (d.fd ≤ 10)
    && (if d.conv then !cb d.fs && !cb d.fd else d.fs == d.fd)
    && (d.kind == 1 || !d.trans) && (!d.priv || priv)
    && (d.fixed || d.code == 0) && decide (d.code < 255)
    && (e.isRegion || (!d.remS && !d.remD))
    && (d.remS || decide (d.src < 2 ^ 48)) && (d.remD || decide (d.dst < 2 ^ 48)) && decide (d.next < 2 ^ 48)
    && decide (d.next % 64 = 0)
    && (match d.kind with
      | 0 => k0Ok d raw
      | 1 => k1Ok d raw
      | _ => k2Ok d raw)

/-! ### Extents -/

/-- Least and greatest offset of a nest of strided dimensions, in elements. -/
def nestSpan (counts : List Nat) (strides : List Int) : Int × Int :=
  (counts.zip strides).foldl
    (fun a x => let e := x.2 * ((x.1 : Int) - 1); (a.1 + min 0 e, a.2 + max 0 e)) (0, 0)

/-- The range of addresses from `base + lo` to `base + hi + n`; none below 0. -/
def spanOf (base : Nat) (lo hi : Int) (n : Nat) : Option (Nat × Nat) :=
  let a := (base : Int) + lo
  if a < 0 then none else some (a.toNat, (hi - lo).toNat + n)

/-- Byte offset, from a matrix's base, of the row of elements that holds (r, c), and the index in it. -/
def elemAt (rm : Bool) (f : Nat) (pitch : Int) (r c : Nat) : Int × Nat :=
  if rm then ((r : Int) * pitch, c)
  else (((r / 32 : Nat) : Int) * pitch * (blockBytes f : Int) + ((c / 32 * blockBytes f + r % 32 * (blockBytes f / 32) : Nat) : Int),
    c % 32)

/-- Byte range, its end exclusive, that the elements of a view of a batch of matrices take; `whole` for a blocked
destination, which is written in whole blocks (R225). -/
def viewSpan (whole rm : Bool) (f : Nat) (pitch : Int) (row col rows cols batch : Nat) (stride : Int) : Int × Int :=
  let one (r c : Nat) : Int × Int :=
    let x := elemAt rm f pitch r c
    (x.1 + ((x.2 * fmtBits f / 8 : Nat) : Int), x.1 + ((elemBytes (fmtBits f) (x.2 + 1) : Nat) : Int))
  let r1 := row + rows - 1
  let c1 := col + cols - 1
  let corners : List (Int × Int) :=
    if rm then [one row col, one row c1, one r1 col, one r1 c1]
    else if whole then [one (row / 32 * 32) (col / 32 * 32), one (r1 / 32 * 32 + 31) (c1 / 32 * 32 + 31)]
    else [one row col, one r1 c1]
  let lo := (corners.map Prod.fst).foldl min (one row col).1
  let hi := (corners.map Prod.snd).foldl max (one row col).2
  let e := stride * ((batch : Int) - 1)
  (lo + min 0 e, hi + max 0 e)

/-- Groups per row of a matrix's scale array (R49, R208): of a blocked matrix from its pitch, of a row-major
one from the elements that a row's pitch holds. -/
def scaleGroups (rm : Bool) (f : Nat) (pitch : Int) : Nat :=
  if rm then ceilDiv (pitch.natAbs * 8 / fmtBits f) 128 else pitch.natAbs / 4

/-- Start of batch matrix k's scale array: the arrays stand one after another, each as many rows long as the
view reaches (log entry 32). -/
def batchScale (base k g rows : Nat) : Nat := base + k * g * rows

/-- Addresses that a descriptor reads as tensor elements: base and length, none outside 48 bits. -/
def srcSpan (d : TD) (raw : List Byte) : Option (Nat × Nat) :=
  match d.kind with
  | 0 =>
    let w := elBytes d.fs
    let s := nestSpan (k0Counts raw) (k0Src raw)
    spanOf d.src (s.1 * w) (s.2 * w) w
  | 1 =>
    let c := TC.of raw
    let s := viewSpan false c.sRm d.fs c.sPitch c.sRow c.sCol c.rows c.cols c.batch c.sStride
    spanOf d.src s.1 s.2 0
  | _ =>
    let g := TG.of raw
    let (n, p) := if d.kind = 2 then (g.rows, g.tPitch) else (g.count, g.rPitch)
    if n = 0 then some (d.src, 0)
    else let e := p * ((n : Int) - 1); spanOf d.src (min 0 e) (max 0 e) (g.len * elBytes d.fs)

/-- Addresses that a descriptor writes as tensor elements. -/
def dstSpan (d : TD) (raw : List Byte) : Option (Nat × Nat) :=
  match d.kind with
  | 0 =>
    let w := elBytes d.fd
    let s := nestSpan (k0Counts raw) (k0Dst raw)
    spanOf d.dst (s.1 * w) (s.2 * w) w
  | 1 =>
    let c := TC.of raw
    let s := viewSpan true c.dRm d.fd c.dPitch c.dRow c.dCol (c.high d) (c.wide d) c.batch c.dStride
    spanOf d.dst s.1 s.2 0
  | _ =>
    let g := TG.of raw
    let (n, p) := if d.kind = 2 then (g.count, g.rPitch) else (g.rows, g.tPitch)
    if n = 0 then some (d.dst, 0)
    else let e := p * ((n : Int) - 1); spanOf d.dst (min 0 e) (max 0 e) (g.len * elBytes d.fd)

/-- Scale arrays, index list and result mask of a descriptor: (address, length, written). -/
def sideSpans (d : TD) (raw : List Byte) : List (Nat × Nat × Bool) :=
  match d.kind with
  | 0 => []
  | 1 =>
    let c := TC.of raw
    let arr (f : Nat) (rm : Bool) (p : Int) (base row col rows cols : Nat) (w : Bool) : List (Nat × Nat × Bool) :=
      if fmtScaled f then
        let g := scaleGroups rm f p
        [(base + row * g + col / 128, (rows - 1) * g + ceilDiv cols 128 + (c.batch - 1) * g * (row + rows), w)]
      else []
    arr d.fs c.sRm c.sPitch c.sScale c.sRow c.sCol c.rows c.cols false
      ++ arr d.fd c.dRm c.dPitch c.dScale c.dRow c.dCol (c.high d) (c.wide d) true
  | _ =>
    let g := TG.of raw
    (g.index, 4 * g.count, false) :: (if g.maskEn then [(g.maskOut, (g.count + 7) / 8, true)] else [])

/-! ### Reach (R215, Table 7-3) -/

/-- The memory that holds a span of local addresses; an empty span needs none. -/
def spanMem (x : Nat × Nat) : Option (Option Mem) :=
  if x.2 = 0 then some none else (rangeMem (localOf x.1) x.2).map some

/-- May the engine move between these memories? -/
def engineReach (e : Engine) (kind : Nat) (ms md : Option Mem) : Bool :=
  match e with
  | .region _ => true
  | .block b => ms == some (.blk b) || md == some (.blk b)
  | .cell n =>
    ms == some (.cell n) || md == some (.cell n) || ms == some (.blk (n / 8)) || md == some (.blk (n / 8))
  | .gs b =>
    let table (m : Option Mem) : Bool := m == none || m == some (.blk b) || m == some .hbm
    let row (m : Option Mem) : Bool :=
      m == some (.blk b) || (match m with
        | some (.cell n) => n / 8 == b
        | _ => false)
    if kind = 2 then table ms && row md else table md && row ms

/-- The status of a span of local addresses: regions in service (R34), one memory, and the operation's reach of the
residency pool (R271), ranked by R445. -/
def localSpan (s : State) (res : Bool) (x : Nat × Nat) : Nat :=
  if x.2 = 0 then stOK
  else if fencedSpan s x.1 x.2 then stFENCED
  else match rangeMem x.1 x.2 with
    | none => stBOUNDS
    | some (.blk b) => if !res && inPool s b x.1 x.2 then stBOUNDS else stOK
    | some _ => stOK

/-- Does a fabric address name this device (R26)? -/
def ownAddr (s : State) (remote : Bool) (a : Nat) : Bool := !remote || devOf a == s.hub.deviceId

/-- The statuses that the addresses of a descriptor earn (R34, R215), with the slot rules for what is written (R286,
R306). -/
def spansCheck (s : State) (e : Engine) (op : OpId) (d : TD) (raw : List Byte) : List Nat :=
  let res := residentOp s (some op)
  let one (own : Bool) (x : Option (Nat × Nat)) : List (Nat × Nat) :=
    if own then (x.map fun a => (localOf a.1, a.2)).toList else []
  let a := srcSpan d raw
  let b := dstSpan d raw
  let lb := one (ownAddr s d.remD d.dst) b
  let sides := sideSpans d raw
  let sts := (one (ownAddr s d.remS d.src) a ++ lb ++ sides.map fun x => (x.1, x.2.1)).map (localSpan s res)
  let wr := lb ++ (sides.filter fun x => x.2.2).map fun x => (x.1, x.2.1)
  let reached := match a.bind spanMem, b.bind spanMem with
    | some ms, some md => engineReach e d.kind ms md
    | _, _ => false
  let slots := wr.all fun x => x.2 == 0 || slotOk s (classOp s op) x.1 x.2
  sts ++ if reached && slots then [] else [stBOUNDS]

/-- The status that an engine gives the descriptor of an item (R218), ranked by R230; 0 when it starts. -/
def dmaStatus (s : State) (e : Engine) (it : DmaItem) : Nat :=
  let raw := rdBytes s it.addr 128
  if it.addr % 64 ≠ 0 then stBADDESC
  else match rangeMem it.addr 128 with
    | none => stBOUNDS
    | some m =>
      let own := localSpan s (residentOp s (some it.op)) (it.addr, 128)
      if own ≠ stOK then own
      else if badRange s it.addr 128 then stPOISON
      else
        let d := TD.of raw
        -- NEXT lies in the same memory as this descriptor (R216)
        let form := tdOk e it.priv raw && (d.next == 0 || rangeMem d.next 128 == some m)
        bestStatus ((if form then [] else [stBADDESC]) ++ spansCheck s e it.op d raw)

/-! ### The overlap test (R222) -/

/-- Insert a (|stride|, count) pair in ascending order of |stride|. -/
def insertDim (x : Nat × Nat) : List (Nat × Nat) → List (Nat × Nat)
  | [] => [x]
  | y :: t => if x.1 ≤ y.1 then x :: y :: t else y :: insertDim x t

/-- Does the destination map pass? -/
def mapPasses (counts : List Nat) (strides : List Int) : Bool :=
  let dims := ((counts.zip strides).filter fun x => decide (1 < x.1)).map fun x => (x.2.natAbs, x.1)
  let sorted := dims.foldr insertDim []
  (sorted.foldl
    (fun (a : Bool × Nat) x => (a.1 && decide (max 1 (a.2 + 1) ≤ x.1), a.2 + x.1 * (x.2 - 1))) (true, 0)).1

end Sys2Proof.Machine
end

