-- ==== Sys2Proof/Machine/Scalar.lean ====
section
/-! DEFINITION. Scalar and control instructions (Table 5-7, R147, R151, R167), with the waits of a context
and the completion of a kernel. -/

namespace Sys2Proof

/-! ### The fields of layout SC as numbers -/

def Sc.d (f : Sc) : Nat := f.sd.toNat
def Sc.a (f : Sc) : Nat := f.sa.toNat
def Sc.b (f : Sc) : Nat := f.sb.toNat
/-- The immediate, sign-extended to 64 bits. -/
def Sc.i (f : Sc) : DWord := f.imm.signExtend 64

end Sys2Proof

namespace Sys2Proof.Machine

/-- Bits [43:40] are 0, and the fields that the instruction does not use are 0 (R147). -/
def scOk (f : Sc) (useD useA useB : Bool) (immBits : Nat) : Bool :=
  f.b43 == 0 && (useD || f.d == 0) && (useA || f.a == 0) && (useB || f.b == 0)
    && (immBits == 40 || decide (f.imm.toNat < 2 ^ immBits))

/-- An instruction that writes s[SD] and advances. -/
def scAlu (ok : Bool) (g : Ctx → DWord) (s : State) (cx : Cx) (f : Sc) : Issue :=
  if ok then .go (s.updCtx cx fun c => (sset c f.d (g c)).advance) else .fault stBADDESC

/-- PC + 8 × IMM; a target below 0 or beyond the store faults at the next issue (R132). -/
def branchTo (pc : Nat) (imm : DWord) : Nat := wrapInt 64 ((pc : Int) + 8 * imm.toInt)

/-- A branch with condition `p`. -/
def scBranch (ok : Bool) (p : Ctx → Bool) (s : State) (cx : Cx) (f : Sc) : Issue :=
  if ok then .go (s.updCtx cx fun c => if p c then { c with pc := branchTo c.pc f.i } else c.advance)
  else .fault stBADDESC

/-- LOOP: the decremented register decides. -/
def scLoop (ok : Bool) (s : State) (cx : Cx) (f : Sc) : Issue :=
  if ok then
    .go (s.updCtx cx fun c =>
      let v := sget c f.a - 1
      let c' := sset c f.a v
      if v ≠ 0 then { c' with pc := branchTo c.pc f.i } else c'.advance)
  else .fault stBADDESC

/-- A special register (Table 5-9). -/
def specialReg (s : State) (cx : Cx) (n : Nat) : Option DWord :=
  let c := s.ctx cx
  match n with
  | 0 => some (BitVec.ofNat 64 cx.ctx)
  | 1 => some (BitVec.ofNat 64 cx.cell)
  | 2 => some c.count
  | 3 => some c.evt
  | 4 => some (fget 0 (s.cell cx.cell).ctr 0x1900)
  | 5 => some c.seed
  | 6 => some c.step
  | 7 => some (match c.op with
    | some id => BitVec.ofNat 64 id.tag
    | none => 0)
  | _ => none

def scRead (s : State) (cx : Cx) (f : Sc) : Issue :=
  if scOk f true false false 8 then
    match specialReg s cx f.imm.toNat with
    | some v => .go (s.updCtx cx fun c => (sset c f.d v).advance)
    | none => .fault stBADDESC
  else .fault stBADDESC

/-- SWR: EVT alone is writable, and a written 1 clears its bit. -/
def scWrite (s : State) (cx : Cx) (f : Sc) : Issue :=
  if scOk f false true false 8 && decide (f.imm.toNat = 3) then
    .go (s.updCtx cx fun c => { c with evt := c.evt &&& ~~~(sget c f.a) }.advance)
  else .fault stBADDESC

/-- The address of a scalar access. -/
def scAddr (s : State) (cx : Cx) (f : Sc) : Nat := (sget (s.ctx cx) f.a + f.i).toNat

/-- SLD. DESIGN CHOICE: its poison event is charged to INT32 and tag 0 (log entry 74). -/
def scLoad (s : State) (cx : Cx) (f : Sc) : Issue :=
  let a := scAddr s cx f
  if !(scOk f true true false 40 && decide (a % 8 = 0)) then .fault stBADDESC
  else if !(reach s cx a 8) then .fault stBOUNDS
  else
    let p := badRange s a 8
    let evs := if p then [(fINT32, evPoison)] else []
    let s1 := s.updCtx cx fun c => (sset c f.d (if p then 0 else BitVec.ofNat 64 (rdNat s a 8))).advance
    .go (kPoison (vecPairs s1 cx 0 evs) cx evs)

def scStore (s : State) (cx : Cx) (f : Sc) : Issue :=
  let a := scAddr s cx f
  if !(scOk f false true true 40 && decide (a % 8 = 0)) then .fault stBADDESC
  else if !(reach s cx a 8) then .fault stBOUNDS
  else .go (kWrite (s.updCtx cx Ctx.advance) cx a (leBytes 8 (sget (s.ctx cx) f.b).toNat))

/-! ### Array and DMA issue -/

/-- Every product of a cell's queues and array. -/
def Arr.products (a : Arr) : List Product :=
  a.queue ++ a.dqueue ++ a.cur.toList ++ a.yielded.toList ++ a.draining ++ a.kept

/-- Products that a context has issued and that have not completed (R122). -/
def productsOf (s : State) (cx : Cx) : List Product :=
  ((s.cell cx.cell).arr.products).filter fun p => p.issuer == some cx

def Dma.items (d : Dma) : List DmaItem := d.queue ++ d.running

/-- DMA descriptors that a context has issued and that have not completed (R228). -/
def dmaOf (s : State) (cx : Cx) : List DmaItem :=
  ((s.cell cx.cell).dma.items ++ (s.block (cx.cell / 8)).gs.items).filter fun d => d.issuer == some cx

/-- AISSUE: to the tail of the ordinary or the deferred queue; a full queue makes it wait. -/
def scAissue (s : State) (cx : Cx) (f : Sc) : Issue :=
  if !(scOk f false true false 40) then .fault stBADDESC
  else
    match (s.ctx cx).op with
    | none => .wait
    | some id =>
      let a := (s.cell cx.cell).arr
      let d := issuesDeferred s id
      let p : Product :=
        { pid := a.nextPid, addr := cellAddr cx.cell + scAddr s cx f, issuer := some cx, pc := (s.ctx cx).pc, op := id,
          deferred := d }
      if 4 ≤ (if d then a.dqueue else a.queue).length then .wait
      else
        .go ((s.updArr cx.cell fun a =>
          if d then { a with dqueue := a.dqueue ++ [p], nextPid := a.nextPid + 1 }
          else { a with queue := a.queue ++ [p], nextPid := a.nextPid + 1 }).updCtx cx Ctx.advance)

/-- DISSUE: kinds 2 and 3 go to the block's gather/scatter unit, the others to the cell DMA (Table 7-3);
a full queue makes it wait. -/
def scDissue (s : State) (cx : Cx) (f : Sc) : Issue :=
  if !(scOk f false true false 40) then .fault stBADDESC
  else
    match (s.ctx cx).op with
    | none => .wait
    | some id =>
      let a := scAddr s cx f
      let it : DmaItem :=
        { addr := a, op := id, issuer := some cx, pc := (s.ctx cx).pc, seq := (s.cell cx.cell).arr.nextPid }
      let s := s.updArr cx.cell fun a => { a with nextPid := a.nextPid + 1 }
      let k := rdNat s a 1 % 16
      if (rangeMem a 128).isSome && (k == 2 || k == 3) then
        if 16 ≤ (s.block (cx.cell / 8)).gs.queue.length then .wait
        else .go ((s.updBlock (cx.cell / 8) fun b => { b with gs := { b.gs with queue := b.gs.queue ++ [it] } }).updCtx
          cx Ctx.advance)
      else if 32 ≤ (s.cell cx.cell).dma.queue.length then .wait
      else .go ((s.updCell cx.cell fun c => { c with dma := { c.dma with queue := c.dma.queue ++ [it] } }).updCtx
        cx Ctx.advance)

/-! ### Waits, barriers and the end of a kernel (R151) -/

/-- Does any context of the operation's cells still belong to it? -/
def kernelLive (s : State) (id : OpId) : Bool :=
  match s.op? id with
  | some e => e.cells.any fun n => (List.range 16).any fun k => (s.ctx ⟨n, k⟩).op == some id
  | none => false

/-- The kernel completes when its last context has ended (R151). -/
def settleKernel (s : State) (id : OpId) : State :=
  if kernelLive s id then s else s.finishOp id stOK

/-- The context becomes free. -/
def freeCtx (s : State) (cx : Cx) : State :=
  let id := (s.ctx cx).op
  let s1 := s.updCtx cx fun c => { c with st := .free, op := none, stream := none, waited := .ready }
  match id with
  | some id =>
    settleKernel (s1.updOp id fun e => { e with ended := e.ended ++ [cx] }) id
  | none => s1

def scWait (st : CtxState) (done : Bool) (s : State) (cx : Cx) (f : Sc) : Issue :=
  if !(scOk f false false false 0) then .fault stBADDESC
  else if done then .go (s.updCtx cx Ctx.advance)
  else .go (s.updCtx cx fun c => { c with st := st })

/-- END: free at once when nothing is outstanding, else ended and awaiting visibility. -/
def scEnd (s : State) (cx : Cx) (f : Sc) : Issue :=
  if !(scOk f false false false 0) then .fault stBADDESC
  else if (productsOf s cx).isEmpty && (dmaOf s cx).isEmpty then .go (freeCtx s cx)
  else .go (s.updCtx cx fun c => { c with st := .ended })

/-- Contexts of the operation on the cell. -/
def ctxsOn (s : State) (n : Nat) (id : OpId) : List Nat :=
  (List.range 16).filter fun k => (s.ctx ⟨n, k⟩).op == some id

/-- Has every context of the kernel on the cell reached a BAR? One that has ended takes no part. -/
def barReady (s : State) (n : Nat) (id : OpId) : Bool :=
  (ctxsOn s n id).all fun k => (s.ctx ⟨n, k⟩).st == .bar || (s.ctx ⟨n, k⟩).st == .ended

/-- A waiting context whose wait is over becomes ready (R134, R151); a barrier releases all together. -/
def waitEnd (s : State) (cx : Cx) : State :=
  let c := s.ctx cx
  match c.st with
  | .await => if (productsOf s cx).isEmpty then s.updCtx cx fun c => { c with st := .ready }.advance else s
  | .dwait => if (dmaOf s cx).isEmpty then s.updCtx cx fun c => { c with st := .ready }.advance else s
  | .bar =>
    match c.op with
    | some id =>
      if barReady s cx.cell id then
        (ctxsOn s cx.cell id).foldl
          (fun s k => s.updCtx ⟨cx.cell, k⟩ fun c => if c.st = .bar then { c with st := .ready }.advance else c) s
      else s
    | none => s
  | .ended => if (productsOf s cx).isEmpty && (dmaOf s cx).isEmpty then freeCtx s cx else s
  | _ => s

/-! ### The instructions -/

/-- SADD. -/
def execSadd (cx : Cx) (f : Sc) (s : State) : Res :=
  .next (issueAt s cx fun s =>
    scAlu (scOk f true true true 40) (fun c => sget c f.a + sget c f.b + f.i) s cx f)

/-- SSUB. -/
def execSsub (cx : Cx) (f : Sc) (s : State) : Res :=
  .next (issueAt s cx fun s =>
    scAlu (scOk f true true true 40) (fun c => sget c f.a - sget c f.b - f.i) s cx f)

/-- SMUL. -/
def execSmul (cx : Cx) (f : Sc) (s : State) : Res :=
  .next (issueAt s cx fun s =>
    scAlu (scOk f true true true 40) (fun c => sget c f.a * (sget c f.b + f.i)) s cx f)

/-- SAND. -/
def execSand (cx : Cx) (f : Sc) (s : State) : Res :=
  .next (issueAt s cx fun s =>
    scAlu (scOk f true true true 40) (fun c => sget c f.a &&& (sget c f.b ||| f.i)) s cx f)

/-- SOR. -/
def execSor (cx : Cx) (f : Sc) (s : State) : Res :=
  .next (issueAt s cx fun s =>
    scAlu (scOk f true true true 40) (fun c => sget c f.a ||| sget c f.b ||| f.i) s cx f)

/-- SXOR. -/
def execSxor (cx : Cx) (f : Sc) (s : State) : Res :=
  .next (issueAt s cx fun s =>
    scAlu (scOk f true true true 40) (fun c => sget c f.a ^^^ sget c f.b ^^^ f.i) s cx f)

/-- SSHL. -/
def execSshl (cx : Cx) (f : Sc) (s : State) : Res :=
  .next (issueAt s cx fun s =>
    scAlu (scOk f true true true 40) (fun c => sget c f.a <<< ((sget c f.b + f.i).toNat % 64)) s cx f)

/-- SSHR. -/
def execSshr (cx : Cx) (f : Sc) (s : State) : Res :=
  .next (issueAt s cx fun s =>
    scAlu (scOk f true true true 40) (fun c => sget c f.a >>> ((sget c f.b + f.i).toNat % 64)) s cx f)

/-- SLI; SA and SB are ignored. -/
def execSli (cx : Cx) (f : Sc) (s : State) : Res :=
  .next (issueAt s cx fun s =>
    scAlu (scOk f true true true 40) (fun _ => f.i) s cx f)

/-- SLHI. -/
def execSlhi (cx : Cx) (f : Sc) (s : State) : Res :=
  .next (issueAt s cx fun s =>
    scAlu (scOk f true true false 24)
      (fun c => BitVec.ofNat 64 (f.imm.toNat % 2 ^ 24 * 2 ^ 40 + (sget c f.a).toNat % 2 ^ 40)) s cx f)

/-- SRD (Table 5-9). -/
def execSrd (cx : Cx) (f : Sc) (s : State) : Res :=
  .next (issueAt s cx fun s =>
    scRead s cx f)

/-- SWR (Table 5-9). -/
def execSwr (cx : Cx) (f : Sc) (s : State) : Res :=
  .next (issueAt s cx fun s =>
    scWrite s cx f)

/-- SLD. -/
def execSld (cx : Cx) (f : Sc) (s : State) : Res :=
  .next (issueAt s cx fun s =>
    scLoad s cx f)

/-- SST. -/
def execSst (cx : Cx) (f : Sc) (s : State) : Res :=
  .next (issueAt s cx fun s =>
    scStore s cx f)

/-- BR. -/
def execBr (cx : Cx) (f : Sc) (s : State) : Res :=
  .next (issueAt s cx fun s =>
    scBranch (scOk f false false false 40) (fun _ => true) s cx f)

/-- BEQ. -/
def execBeq (cx : Cx) (f : Sc) (s : State) : Res :=
  .next (issueAt s cx fun s =>
    scBranch (scOk f false true true 40) (fun c => sget c f.a == sget c f.b) s cx f)

/-- BNE. -/
def execBne (cx : Cx) (f : Sc) (s : State) : Res :=
  .next (issueAt s cx fun s =>
    scBranch (scOk f false true true 40) (fun c => sget c f.a != sget c f.b) s cx f)

/-- BLT. -/
def execBlt (cx : Cx) (f : Sc) (s : State) : Res :=
  .next (issueAt s cx fun s =>
    scBranch (scOk f false true true 40) (fun c => decide ((sget c f.a).toInt < (sget c f.b).toInt)) s cx f)

/-- BGE. -/
def execBge (cx : Cx) (f : Sc) (s : State) : Res :=
  .next (issueAt s cx fun s =>
    scBranch (scOk f false true true 40) (fun c => decide ((sget c f.b).toInt ≤ (sget c f.a).toInt)) s cx f)

/-- LOOP. -/
def execLoopCtx (cx : Cx) (f : Sc) (s : State) : Res :=
  .next (issueAt s cx fun s =>
    scLoop (scOk f false true false 40) s cx f)

/-- AISSUE (R73, R277). -/
def execAissue (cx : Cx) (f : Sc) (s : State) : Res :=
  .next (issueAt s cx fun s =>
    scAissue s cx f)

/-- AWAIT. -/
def execAwait (cx : Cx) (f : Sc) (s : State) : Res :=
  .next (issueAt s cx fun s =>
    scWait .await (productsOf s cx).isEmpty s cx f)

/-- DISSUE (Table 7-3). -/
def execDissue (cx : Cx) (f : Sc) (s : State) : Res :=
  .next (issueAt s cx fun s =>
    scDissue s cx f)

/-- DWAIT. -/
def execDwait (cx : Cx) (f : Sc) (s : State) : Res :=
  .next (issueAt s cx fun s =>
    scWait .dwait (dmaOf s cx).isEmpty s cx f)

/-- FENCE: every earlier store of the context is visible (log entry 9). -/
def execFenceCtx (cx : Cx) (f : Sc) (s : State) : Res :=
  .next (issueAt s cx fun s =>
    scWait .ready true s cx f)

/-- BAR. -/
def execBar (cx : Cx) (f : Sc) (s : State) : Res :=
  .next (issueAt s cx fun s =>
    scWait .bar false s cx f)

/-- END. -/
def execEndCtx (cx : Cx) (f : Sc) (s : State) : Res :=
  .next (issueAt s cx fun s =>
    scEnd s cx f)

/-- CONTEXT_WAIT_END (R134). -/
def execContextWaitEnd (cx : Cx) (s : State) : Res := .next (waitEnd s cx)

end Sys2Proof.Machine
end

