-- ==== Sys2Proof/Machine/Dma.lean ====
section
/-! DEFINITION. The DMA engines: what a descriptor moves (R219 to R226), poison (R231), counters (Table 7-10),
remote endpoints, completion and stop (R227 to R231). -/

namespace Sys2Proof.Machine

/-! ### Runs of bytes -/

/-- Bytes to be written, in rising address order. -/
abbrev WMap := List (Nat × Byte)

/-- Put a run of bytes over what is there. -/
def putRun (m : WMap) (a : Nat) (bs : List Byte) : WMap :=
  (m.filter fun p => decide (p.1 < a)) ++ ((List.range bs.length).map (a + ·)).zip bs
    ++ m.filter fun p => decide (a + bs.length ≤ p.1)

/-- Maximal runs of consecutive addresses. -/
def runsOf : WMap → List (Nat × List Byte)
  | [] => []
  | (a, b) :: t =>
    match runsOf t with
    | (c, bs) :: rest => if c = a + 1 then (a, b :: bs) :: rest else (a, [b]) :: (c, bs) :: rest
    | [] => [(a, [b])]

/-- Cut a range into pieces of at most 4,096 bytes; `fuel` bounds their number. -/
def cut4k : Nat → Nat → Nat → List (Nat × Nat)
  | 0, _, _ => []
  | k + 1, a, n => if n = 0 then [] else if n ≤ 4096 then [(a, n)] else (a, 4096) :: cut4k k (a + 4096) (n - 4096)

/-! ### Elements -/

/-- What a descriptor does to memory. -/
structure Xfer where
  /-- destination elements, in descriptor order -/
  writes : List (Nat × List Byte) := []
  /-- scale bytes and result mask, which are always device-local -/
  side : List (Nat × List Byte) := []
  /-- destination bytes that become poisoned: address and length; and those of scale arrays -/
  poison : List (Nat × Nat) := []
  sidePoison : List (Nat × Nat) := []
  /-- event classes charged to FMT_DST, and poisoned elements read, charged to FMT_SRC (R66) -/
  evs : List Nat := []
  bad : Nat := 0
  /-- scatter-add targets in poison (Table 9-4) -/
  badTarget : Nat := 0
  values : Nat := 0
  /-- source bytes read: address and length -/
  reads : List (Nat × Nat) := []
  /-- gather/scatter: rows moved, row reads saved, indices out of range -/
  rows : Nat := 0
  saved : Nat := 0
  oob : Nat := 0
  /-- source and destination maps are the same, so an overlap leaves memory unchanged -/
  same : Bool := false
  deriving DecidableEq, Repr

/-- An address at a signed byte offset. -/
def addOff (a : Nat) (o : Int) : Nat := ((a : Int) + o).toNat

/-- Convert or move one code (R63, R217): the new code and its events. -/
def convCode (d : TD) (code : Nat) (bad : Bool) : Nat × List Nat :=
  if d.conv then
    let fs := Fmt.plain d.fs
    let v := if bad then fs.poisonVal else fs.decode code
    let r := (Fmt.plain d.fd).encode .ne v
    (r.1, dedupEv r.2.1)
  else (code, [])

/-- An element of a nest of dimensions: its source and destination offsets, and whether it is read, and not reused
under a zero source stride (Table 7-6). -/
structure NestEl where
  src : Int := 0
  dst : Int := 0
  read : Bool := true
  deriving DecidableEq, Repr

/-- Elements of a nest of (count, source stride, destination stride), outermost dimension first. -/
def nestOffs : List (Nat × Int × Int) → List NestEl
  | [] => [{}]
  | (n, a, b) :: rest =>
    (List.range n).flatMap fun i : Nat =>
      (nestOffs rest).map fun x => ⟨x.src + i * a, x.dst + i * b, x.read && (a != 0 || i == 0)⟩

/-- One byte-sized element moved from `a` to `b`; `fresh` when this move reads it. -/
def moveElem (sv : State) (d : TD) (fresh : Bool) (x : Xfer) (a b : Nat) : Xfer :=
  let bad := badRange sv a (elBytes d.fs)
  let r := convCode d (rdNat sv a (elBytes d.fs)) bad
  { x with writes := x.writes ++ [(b, leBytes (elBytes d.fd) r.1)], evs := x.evs ++ r.2, values := x.values + 1,
           bad := x.bad + b2n (bad && fresh), reads := x.reads ++ [(a, elBytes d.fs)],
           poison := if bad && !d.conv then x.poison ++ [(b, elBytes d.fd)] else x.poison }

/-- KIND 0 (R219 to R221). -/
def xfer0 (sv : State) (d : TD) (raw : List Byte) : Xfer :=
  let els := nestOffs ((k0Counts raw).zip ((k0Src raw).zip (k0Dst raw))).reverse
  let src (o : NestEl) : Nat := addOff d.src (o.src * elBytes d.fs)
  let dst (o : NestEl) : Nat := addOff d.dst (o.dst * elBytes d.fd)
  let x := els.foldl (fun x o => moveElem sv d o.read x (src o) (dst o)) {}
  { x with same := !d.conv && els.all fun o => src o == dst o }

/-! ### Tensor copies (R223 to R225) -/

/-- Position of element (r, c) of source or destination matrix k. -/
def srcAt (d : TD) (c : TC) (k r j : Nat) : Nat × Nat :=
  let e := elemAt c.sRm d.fs c.sPitch (c.sRow + r) (c.sCol + j)
  (addOff d.src (e.1 + c.sStride * k), e.2)
def dstAt (d : TD) (c : TC) (k r j : Nat) : Nat × Nat :=
  let e := elemAt c.dRm d.fd c.dPitch (c.dRow + r) (c.dCol + j)
  (addOff d.dst (e.1 + c.dStride * k), e.2)

/-- Address of the scale byte of source element (r, j) of matrix k. -/
def srcScaleAt (d : TD) (c : TC) (k r j : Nat) : Nat :=
  let g := scaleGroups c.sRm d.fs c.sPitch
  batchScale c.sScale k g (c.sRow + c.rows) + (c.sRow + r) * g + (c.sCol + j) / 128
def dstScaleAt (d : TD) (c : TC) (k r j : Nat) : Nat :=
  let g := scaleGroups c.dRm d.fd c.dPitch
  batchScale c.dScale k g (c.dRow + c.high d) + (c.dRow + r) * g + (c.dCol + j) / 128

/-- Source element for (i, j) of the destination view: code, poisoned element, scale code, poisoned scale. -/
def srcElemAt (sv s : State) (d : TD) (c : TC) (k i j : Nat) : Nat × Bool × Nat × Bool :=
  let (r, q) := if d.trans then (j, i) else (i, j)
  let p := srcAt d c k r q
  let w := fmtBits d.fs
  let sa := srcScaleAt d c k r q
  let sb := fmtScaled d.fs && bad s sa
  (elemCode sv p.1 w p.2, elemBad sv p.1 w p.2,
   if !fmtScaled d.fs then 127 else if sb then 255 else (rdByte s sa).toNat, sb)

/-- Codes of destination row i of the view, with its scale bytes (one for each group of 128), events, and
poisoned elements. -/
structure RowOut where
  codes : List Nat
  scales : List Nat
  evs : List Nat
  bads : List Bool
  nbad : Nat
  deriving DecidableEq, Repr

def copyRow (sv s : State) (d : TD) (c : TC) (k i : Nat) : RowOut :=
  let els := (List.range (c.wide d)).map fun j => srcElemAt sv s d c k i j
  let nbad := (els.filter fun e => e.2.1 || e.2.2.2).length
  if !d.conv then
    { codes := els.map Prod.fst, evs := [], bads := els.map fun e => e.2.1, nbad := nbad,
      scales := if fmtScaled d.fd then
          (List.range (ceilDiv (c.wide d) 128)).map fun g => (rdByte s (srcScaleAt d c k i (128 * g))).toNat
        else [] }
  else
    let fs := Fmt.plain d.fs
    let fd := Fmt.plain d.fd
    let vals := els.map fun e =>
      if e.2.1 then fs.poisonVal else if fmtScaled d.fs then withScale e.2.2.1 (fs.decode e.1) else fs.decode e.1
    if fmtScaled d.fd then
      let gs := (List.range (ceilDiv (c.wide d) 128)).map fun g =>
        let v := (vals.drop (128 * g)).take 128
        encodeGroup fd (fun _ => .ne) (if d.fixed then d.code else computeScale fd v) v
      { codes := gs.flatMap fun g => g.elems.map Prod.fst, scales := gs.map fun g => g.scale,
        evs := gs.flatMap fun g => g.elems.flatMap fun e => dedupEv e.2, bads := [], nbad := nbad }
    else
      let es := vals.map fun v => fd.encode .ne v
      { codes := es.map fun e => e.1, scales := [], evs := es.flatMap fun e => dedupEv e.2.1, bads := [],
        nbad := nbad }

/-- Write units of one destination row: at a row-major row one, at a blocked row one for each block column;
`lo` to `hi` are the columns of the matrix that the copy may touch, `code` says what it writes there. -/
def rowWrites (s : State) (d : TD) (c : TC) (k row lo hi : Nat) (code : Nat → Option Nat) : List (Nat × List Byte) :=
  let w := fmtBits d.fd
  let at_ (col : Nat) : Nat × Nat :=
    let e := elemAt c.dRm d.fd c.dPitch row col
    (addOff d.dst (e.1 + c.dStride * k), e.2)
  let cols : List (List Nat) :=
    if c.dRm then [(List.range (hi - lo)).map (lo + ·)]
    else (List.range (ceilDiv hi 32 - lo / 32)).map fun b => (List.range 32).map fun j => 32 * (lo / 32 + b) + j
  cols.flatMap fun l =>
    match l with
    | [] => []
    | j0 :: _ =>
      let p := at_ j0
      (runs p.2 (l.map code)).map fun r => runBytes s p.1 w r.1 r.2

/-- The shape of the destination matrix beyond the view, as far as the touched blocks reach, and the code of +0 in its
format. -/
structure Shape where
  rows : Nat
  cols : Nat
  zero : Nat
  deriving DecidableEq, Repr

/-- The descriptor gives neither the matrix's shape nor a codebook, so free values choose them (log entries 33 and
76). -/
def freeShape (s : State) (d : TD) (c : TC) : Shape × State :=
  let rows := c.dRow + c.high d
  let cols := c.dCol + c.wide d
  if c.dRm then (⟨rows, cols, 0⟩, s)
  else
    let (a, s1) := s.draw
    let (b, s2) := s1.draw
    let (z, s3) := s2.draw
    (⟨rows + a % (32 * ceilDiv rows 32 - rows + 1), cols + b % (32 * ceilDiv cols 32 - cols + 1),
      if fmtCodebook d.fd then z % 2 ^ fmtBits d.fd else 0⟩, s3)

/-- KIND 1. `sv` reads the source; `shape` is the destination's shape. Each touched row of the destination is written
once: the view's elements, +0 beyond the shape, and the other elements of its blocks as they are (R225). -/
def xfer1 (sv s : State) (d : TD) (raw : List Byte) (shape : Shape) : Xfer :=
  let c := TC.of raw
  let high := c.high d
  let wide := c.wide d
  let one (x : Xfer) (ki : Nat × Nat) : Xfer :=
    let (k, i) := ki
    let o := copyRow sv s d c k i
    let code (col : Nat) : Option Nat :=
      if col < c.dCol then none
      else if col < c.dCol + wide then o.codes[col - c.dCol]?
      else if shape.cols ≤ col then some shape.zero else none
    let ws := rowWrites s d c k (c.dRow + i) c.dCol (c.dCol + wide) code
    let ss := (o.scales.zip (List.range o.scales.length)).map fun g =>
      (dstScaleAt d c k i (128 * g.2), [BitVec.ofNat 8 g.1])
    let bads := ((o.bads.zip (List.range o.bads.length)).filter fun b => b.1).map fun b =>
      let p := dstAt d c k i b.2
      (p.1 + p.2 * fmtBits d.fd / 8, (p.2 * fmtBits d.fd % 8 + fmtBits d.fd + 7) / 8)
    let sbads := if d.conv || !fmtScaled d.fs then [] else
      ((List.range o.scales.length).filter fun g => bad s (srcScaleAt d c k i (128 * g))).map fun g =>
        (dstScaleAt d c k i (128 * g), 1)
    let reads := (List.range wide).map fun j =>
      let p := if d.trans then srcAt d c k j i else srcAt d c k i j
      (p.1 + p.2 * fmtBits d.fs / 8, (p.2 * fmtBits d.fs % 8 + fmtBits d.fs + 7) / 8)
    { x with writes := x.writes ++ ws, side := x.side ++ ss, poison := x.poison ++ bads,
             sidePoison := x.sidePoison ++ sbads, evs := x.evs ++ o.evs,
             bad := x.bad + o.nbad, values := x.values + wide, reads := x.reads ++ reads }
  let pad (ki : Nat × Nat) : List (Nat × List Byte) :=
    let (k, row) := ki
    rowWrites s d c k row c.dCol (c.dCol + wide) fun col =>
      if shape.rows ≤ row ∨ shape.cols ≤ col then some shape.zero else none
  let each (rows : List Nat) : List (Nat × Nat) := (List.range c.batch).flatMap fun k => rows.map fun i => (k, i)
  let x := (each (List.range high)).foldl one {}
  -- rows of the touched blocks above and below the view
  let first := c.dRow / 32 * 32
  let padRows := if c.dRm then [] else
    ((List.range (32 * ceilDiv (c.dRow + high) 32 - first)).map (first + ·)).filter fun r =>
      r < c.dRow || c.dRow + high ≤ r
  let inPlace (k i j : Nat) : Bool := (if d.trans then srcAt d c k j i else srcAt d c k i j) == dstAt d c k i j
  { x with writes := (each padRows).flatMap pad ++ x.writes,
           same := !d.conv && (each (List.range high)).all fun ki => (List.range wide).all (inPlace ki.1 ki.2) }

/-! ### Gather and scatter (R226) -/

/-- Index j, none when it is out of range; a poisoned index reads as 0 (R66). -/
def gsIndex (s : State) (g : TG) (j : Nat) : Option Nat :=
  let a := g.index + 4 * j
  let v : Int := if badRange s a 4 then 0 else sext 32 (rdNat s a 4)
  if 0 ≤ v ∧ v < g.rows then some v.toNat else none

def gsBad (s : State) (g : TG) : Nat := ((List.range g.count).filter fun j => badRange s (g.index + 4 * j) 4).length

/-- Row reads that coalescing saves in one window of 256 indices. -/
def gsSaved (l : List (Option Nat)) : Nat :=
  let v := l.filterMap id
  v.length - v.dedup.length

def windows256 : Nat → List (Option Nat) → List (List (Option Nat))
  | 0, _ => []
  | k + 1, l => if l.isEmpty then [] else l.take 256 :: windows256 k (l.drop 256)

/-- Is entry `j` of the list the first of its value in its window of 256? -/
def firstInWindow (l : List (Option Nat)) (j : Nat) : Bool :=
  !((l.take j).drop (j / 256 * 256)).contains (l.getD j none)

/-- The mask of indices in range. -/
def gsMaskWrite (g : TG) (l : List (Option Nat)) : List (Nat × List Byte) :=
  if g.maskEn then
    [(g.maskOut, leBytes ((g.count + 7) / 8) (l.foldr (fun x n => b2n x.isSome + 2 * n) 0))]
  else []

/-- KIND 2. -/
def xfer2 (sv s : State) (d : TD) (raw : List Byte) : Xfer :=
  let g := TG.of raw
  let ix := (List.range g.count).map (gsIndex s g)
  let row (x : Xfer) (p : Option Nat × Nat) : Xfer :=
    let out := addOff d.dst (g.rPitch * p.2)
    match p.1 with
    | some t =>
      let inn := addOff d.src (g.tPitch * t)
      -- a repeated index of a window is read once (R226)
      let y := (List.range g.len).foldl
        (fun x e => moveElem sv d (firstInWindow ix p.2) x (inn + e * elBytes d.fs) (out + e * elBytes d.fd)) x
      { y with rows := y.rows + 1 }
    | none =>
      { x with writes := x.writes ++ [(out, (List.replicate g.len (leBytes (elBytes d.fd) g.fill)).flatten)],
               values := x.values + g.len, oob := x.oob + 1 }
  let x := (ix.zip (List.range g.count)).foldl row {}
  { x with side := gsMaskWrite g ix, saved := ((windows256 g.count ix).map gsSaved).sum }

/-- KIND 3 without ADD: one input row lands on each table row that is named; a free value picks it. -/
def xfer3 (sv s : State) (d : TD) (raw : List Byte) : Xfer × State :=
  let g := TG.of raw
  let ix := (List.range g.count).map (gsIndex s g)
  let ts := (ix.filterMap id).dedup
  let place (a : Xfer × State) (t : Nat) : Xfer × State :=
    let js := (List.range g.count).filter fun j => ix.getD j none == some t
    let (pick, s1) := if js.length ≤ 1 then (0, a.2) else a.2.draw
    let inn := addOff d.src (g.rPitch * (js.getD (pick % max 1 js.length) 0))
    let out := addOff d.dst (g.tPitch * t)
    ((List.range g.len).foldl (fun x e => moveElem sv d true x (inn + e * elBytes d.fs) (out + e * elBytes d.fd)) a.1, s1)
  let (x, s1) := ts.foldl place ({}, s)
  let oob := (ix.filter Option.isNone).length
  ({ x with side := gsMaskWrite g ix, rows := g.count - oob, oob := oob }, s1)

/-- KIND 3 with ADD: every row is added, word by word in an order that free values choose. `acc` holds the
table as the additions leave it. -/
def xferAdd (sv s : State) (d : TD) (raw : List Byte) : Xfer × State :=
  let g := TG.of raw
  let ix := (List.range g.count).map (gsIndex s g)
  let ts := (ix.filterMap id).dedup
  let isInt := !d.conv
  let word (a : Xfer × State × State) (te : Nat × Nat) : Xfer × State × State :=
    let (x, s1, tab) := a
    let js := (List.range g.count).filter fun j => ix.getD j none == some te.1
    let out := addOff d.dst (g.tPitch * te.1) + 4 * te.2
    if badRange s out 4 then ({ x with badTarget := x.badTarget + js.length }, s1, tab)
    else
      let (order, s2) := freeOrder js.length s1 js
      let r := order.foldl
        (fun (p : Word × List Nat × Nat) (j : Nat) =>
          let inn := addOff d.src (g.rPitch * j) + 4 * te.2
          let bad := badRange sv inn 4
          let v : Word := if bad then (if isInt then 0 else toF32 .nan) else BitVec.ofNat 32 (rdNat sv inn 4)
          let (w, e) := addWord isInt p.1 v
          (w, p.2.1 ++ e, p.2.2 + b2n bad))
        (BitVec.ofNat 32 (rdNat tab out 4), [], 0)
      let bs := leBytes 4 r.1.toNat
      ({ x with writes := x.writes ++ [(out, bs)], evs := x.evs ++ r.2.1, bad := x.bad + r.2.2,
                values := x.values + 1,
                reads := x.reads ++ js.map fun j : Nat => (addOff d.src (g.rPitch * j) + 4 * te.2, 4) },
       s2, { tab with mem := fsets 0 tab.mem out bs })
  let (x, s1, _) := (ts.flatMap fun t => (List.range g.len).map fun e => (t, e)).foldl word ({}, s, s)
  let oob := (ix.filter Option.isNone).length
  ({ x with side := gsMaskWrite g ix, rows := g.count - oob, oob := oob }, s1)

/-- What a descriptor does, from the state `s` and a state `sv` that reads its source. -/
def xferOf (sv s : State) (d : TD) (raw : List Byte) : Xfer × State :=
  match d.kind with
  | 0 => (xfer0 sv d raw, s)
  | 1 =>
    let (sh, s1) := freeShape s d (TC.of raw)
    (xfer1 sv s d raw sh, s1)
  | 2 => (xfer2 sv s d raw, s)
  | _ => if (TG.of raw).add then xferAdd sv s d raw else xfer3 sv s d raw

/-! ### Performing a transfer -/

/-- A free value for every byte of a run. -/
def freeBytes : Nat → State → List Byte × State
  | 0, s => ([], s)
  | k + 1, s =>
    let (v, s1) := s.draw
    let (l, s2) := freeBytes k s1
    (BitVec.ofNat 8 v :: l, s2)

/-- Does a written byte lie among the bytes read? -/
def readsHit (reads : List (Nat × Nat)) (m : WMap) : Bool :=
  reads.any fun r => m.any fun p => decide (r.1 ≤ p.1) && decide (p.1 < r.1 + r.2)

/-- Cell and block window offsets of the DMA counters; `far` bytes went to another device. -/
def countXfer (e : Engine) (x : Xfer) (bytes far : Nat) (s : State) : State :=
  match e with
  | .cell n => s.updCell n (Cell.bump 0x1608 bytes)
  | .block b => s.updBlock b (Block.bump 0x400 bytes)
  | .gs b => s.updBlock b fun k => ((k.bump 0x420 x.rows).bump 0x428 x.saved).bump 0x430 x.oob
  | .region r => s.updRegion r fun g => { g with ctr := ctrAdd (ctrAdd g.ctr 0x60010 far) 0x60008 (bytes - far) }

/-- Format to which the additions of a scatter-add are charged. -/
def TD.evFmt (d : TD) (raw : List Byte) : Nat :=
  if d.kind = 3 ∧ (TG.of raw).add ∧ !d.conv then fINT32 else d.fd

/-- Marked ranges within `[a, a + n)`, as a note of the message that writes there (R231, log entry 42). -/
def markNote (marks : List (Nat × Nat)) (a n : Nat) : Option Shipment :=
  let l := marks.filter fun p => overlap p.1 p.2 a n
  if l.isEmpty then none else some (.poison l)

/-- A remote write of an operation, whose MTAG the region remembers (R29). -/
def sendWrite (s : State) (r : Nat) (op : OpId) (marks : List (Nat × Nat)) (a : Nat) (bs : List Byte) : State :=
  let (tag, s1) := takeTag s r
  sendNoted (s1.updRegion r fun g => { g with wrote := (g.wrote.filter fun p => p.1 != tag) ++ [(tag, op)] }) r (some op) (markNote marks a bs.length)
    { dest := a, op := 0, length := bs.length, mtag := tag, data := bs }

/-- Remote writes of a run of bytes, in messages of at most 4,096 bytes. -/
def sendRun (s : State) (r : Nat) (op : OpId) (marks : List (Nat × Nat)) (a : Nat) (bs : List Byte) : State :=
  (cut4k bs.length a bs.length).foldl (fun s p => sendWrite s r op marks p.1 ((bs.drop (p.1 - a)).take p.2)) s

/-- Total length of a list of runs. -/
def runBytesSum (l : List (Nat × List Byte)) : Nat := (l.map fun w => w.2.length).sum

/-- The transfer of a descriptor: its writes, poison marks, events and counters. -/
def performXfer (s : State) (e : Engine) (it : DmaItem) (raw : List Byte) : State :=
  let d := TD.of raw
  let remS := !ownAddr s d.remS d.src
  let remD := !ownAddr s d.remD d.dst
  let d1 := { d with src := if remS then d.src else localOf d.src, dst := if remD then d.dst else localOf d.dst }
  let sv := if remS then { s with mem := it.fetched, poison := [] } else s
  let (x, s1) := xferOf sv s d1 raw
  let main := x.writes.foldl (fun m w => putRun m w.1 w.2) []
  let clash := remS == remD && !x.same && readsHit x.reads main
  let cls := classOp s it.op
  let put (far : Bool) (s : State) (w : Nat × List Byte) : State :=
    let (bs, s') := if clash then freeBytes w.2.length s else (w.2, s)
    if far then sendRun s' e.home it.op x.poison w.1 bs else opWrite s' it.op cls d.priv w.1 bs
  let s2 := (runsOf (x.side.foldl (fun m w => putRun m w.1 w.2) [])).foldl (put false) ((runsOf main).foldl (put remD) s1)
  -- a byte that the freeze mask keeps is not marked (R229)
  let marks := ((if remD then [] else x.poison) ++ x.sidePoison).flatMap fun p => (List.range p.2).map (p.1 + ·)
  let s3 := (marks.filter fun a => !masked s cls d.priv a).foldl
    (fun s a => if bad s a then s else setBad s a true) s2
  let s4 := chargeEvents (chargeEvents s3 e.home (d.evFmt raw) d.tag x.evs) e.home d.fd d.tag (List.replicate x.oob evOob)
  let s5 := chargeEvents s4 e.home d.fs d.tag (List.replicate x.bad evPoison)
  let s6 := chargeEvents s5 e.home (d.evFmt raw) d.tag (List.replicate x.badTarget evPoison)
  let gb := if d.kind = 2 ∨ d.kind = 3 then gsBad s (TG.of raw) else 0
  let s7 := chargeEvents s6 e.home fINT32 d.tag (List.replicate gb evPoison)
  let s8 := countValues s7 e.home (d.evFmt raw) d.tag x.values
  let s9 := if 0 < x.bad + x.badTarget + gb then s8.addStat it.op stPOISON else s8
  let s10 := if remS then s9 else countBlocks s9 ((x.reads.flatMap fun r => blocksOf r.1 r.2).destutter (· ≠ ·))
  countXfer e x (runBytesSum x.writes + runBytesSum x.side) (if remD then runBytesSum x.writes else 0) s10

/-! ### Remote sources -/

/-- Byte runs of a remote source. -/
def remoteRuns (s : State) (d : TD) (raw : List Byte) : List (Nat × Nat) :=
  let sv : State := { s with mem := [], poison := [] }
  let x := (xferOf sv s d raw).1
  let m := x.reads.foldl (fun m r => putRun m r.1 (List.replicate r.2 0)) []
  (runsOf m).flatMap fun r => cut4k r.2.length r.1 r.2.length

/-- Send the read requests of a descriptor; each takes an MTAG of its region. -/
def sendReads (s : State) (r : Nat) (op : OpId) : List (Nat × Nat) → State × List (Nat × Nat × Nat)
  | [] => (s, [])
  | (a, n) :: t =>
    let (tag, s1) := takeTag s r
    let s2 := sendMsg s1 r (some op) { dest := a, op := 1, length := n, mtag := tag }
    let (s3, w) := sendReads s2 r op t
    (s3, (tag, a, n) :: w)

/-! ### The three steps -/

/-- Does the operation run a descriptor chain of its own (groups 0x01xx and PRIV_COPY)? -/
def isDmaOp (opc : Nat) : Bool := opc / 256 == 1 || opc == 0x507

/-- Items of an operation in any engine. -/
def itemsOf (s : State) (id : OpId) : List DmaItem :=
  let own (d : Dma) : List DmaItem := d.items.filter fun i => i.op == id
  (s.cells.flatMap fun c => own c.2.dma) ++ (s.blocks.flatMap fun b => own b.2.dma ++ own b.2.gs)
    ++ s.regions.flatMap fun g => own g.2.dma

/-- A DMA operation completes when the last descriptor of its chain has (R228). -/
def settleDma (s : State) (id : OpId) : State :=
  match s.op? id with
  | some e =>
    if isDmaOp e.opcode && e.phase == .running && (itemsOf s id).isEmpty then s.finishOp id stOK else s
  | none => s

/-- A refused descriptor: the rest of its chain does not run; a cell's kernel ends at its DISSUE (R22, R146, R218), except
that a poisoned descriptor lets it run on (Table 9-4). -/
def refuseDma (s : State) (e : Engine) (it : DmaItem) (st : Nat) : State :=
  let s1 := s.updDma e fun d => { d with queue := d.queue.drop 1 }
  let s2 := if st = stPOISON then chargeEvents s1 e.home noFmt 0 [evPoison] else s1
  match it.issuer with
  | some cx =>
    if st = stPOISON then s2.addStat it.op stPOISON else endAtItem s2 cx.cell it.op it.seq it.issuer it.pc st
  | none => settleDma ((s2.addStat it.op st).updOp it.op fun x => { x with d0 := BitVec.ofNat 64 it.pos }) it.op

/-- DMA_DESCRIPTOR_START. A transfer between memories of the device is made whole here, in descriptor order
(log entry 34); one with a remote source first asks for its bytes. -/
def dmaStart (s : State) (e : Engine) : State :=
  let q := s.dma e
  match q.queue with
  | [] => s
  | it :: rest =>
    let raw := rdBytes s it.addr 128
    let d := TD.of raw
    if !engineRuns s e || decide (e.width ≤ q.running.length) || q.stopping then s
    else match dmaStatus s e it with
      | 0 =>
        if d.order && !q.running.isEmpty then s
        else
          let more := if d.next = 0 then rest
            else { it with addr := d.next, pos := it.pos + 1, fetched := [], waits := [] } :: rest
          let lap := d.kind == 0 && !mapPasses (k0Counts raw) (k0Dst raw)
          let run := { it with overlap := lap }
          let sr := countReads s it.addr 128
          let s0 := if lap then sr.addStat it.op stOVERLAP else sr
          let s1 := s0.updDma e fun q => { q with queue := more, running := q.running ++ [run] }
          if !ownAddr s d.remS d.src then
            if (pathFrom 8 s e.home (devOf d.src) 0).isNone then s1.addStat it.op stLINKDOWN
            else
              let (s2, w) := sendReads s1 e.home it.op (remoteRuns s d raw)
              s2.updDma e fun q => { q with running := q.running.map fun i => if i == run then { i with waits := w } else i }
          else performXfer s1 e run raw
      | st => refuseDma (if st = stPOISON then countReads s it.addr 128 else s) e it st

/-- Is a running descriptor's transfer whole: its bytes have come, and those that it wrote to another device have left
this one's links, acknowledged (R228, log entry 77)? -/
def itemWhole (s : State) (i : DmaItem) : Bool :=
  let d := TD.of (rdBytes s i.addr 128)
  i.waits.isEmpty && (ownAddr s d.remD d.dst || !opInFlight s i.op)

/-- DMA_DESCRIPTOR_COMPLETE: the oldest running descriptor whose transfer is whole. -/
def dmaComplete (s : State) (e : Engine) : State :=
  match (s.dma e).running.find? (itemWhole s) with
  | none => s
  | some it =>
    if !engineRuns s e then s
    else settleDma (s.updDma e fun q =>
      { q with running := q.running.erase it, done := q.done + 1, overlap := q.overlap + BitVec.ofNat 32 (b2n it.overlap) }) it.op

/-- Is the operation marked for abort, or gone? -/
def isAborting (s : State) (id : OpId) : Bool :=
  match s.op? id with
  | some e => e.phase == .aborting
  | none => true

/-- DMA_ABORT_STOP (R231). -/
def dmaAbort (s : State) (e : Engine) : State :=
  if (s.dma e).stopping then
    s.updDma e fun q =>
      { q with stopping := false, queue := q.queue.filter fun i => !isAborting s i.op,
               running := q.running.filter fun i => !isAborting s i.op }
  else s

/-- A read response for a descriptor that waits: its bytes go in, and with the last of them the transfer is
made. -/
def dmaResponse (s : State) (r mtag : Nat) (data : List Byte) : State :=
  let e := Engine.region r
  match (s.dma e).running.find? fun i => i.waits.any fun w => w.1 == mtag with
  | none => s
  | some it =>
    match it.waits.find? fun w => w.1 == mtag with
    | none => s
    | some w =>
      let it1 := { it with fetched := fsets 0 it.fetched w.2.1 (data.take w.2.2),
                           waits := it.waits.filter fun x => x.1 != mtag }
      let s1 := s.updDma e fun q => { q with running := q.running.map fun i => if i == it then it1 else i }
      if it1.waits.isEmpty then performXfer s1 e it1 (rdBytes s it.addr 128) else s1

/-! ### The meanings -/

def execDmaDescriptorStart (e : Engine) (s : State) : Res := .next (dmaStart s e)
def execDmaDescriptorComplete (e : Engine) (s : State) : Res := .next (dmaComplete s e)
def execDmaAbortStop (e : Engine) (s : State) : Res := .next (dmaAbort s e)

end Sys2Proof.Machine
end

