-- ==== Sys2Proof/Machine/Sparse.lean ====
section
/-! DEFINITION. The sparse-work scheduler of a block: plan, dispatch, reduction and preemption (R244 to R250). -/

namespace Sys2Proof.Machine

def SpsJob.pd (j : SpsJob) : PD := PD.of j.prod

/-- The prediction bits of every tile of A, as planning reads them (R248). -/
def readPreds (s : State) (j : SpsJob) : List Nat :=
  if j.pred = 0 then []
  else (List.range j.pd.mt).flatMap fun t => (List.range j.pd.kt).map fun kt => predBits s j.pred j.pd t kt

/-- Non-zero blocks of A's tile (row tile, K-tile): by the prediction, or by the tile's head (R245); a poisoned
head counts as occupied. -/
def tileWeight (s : State) (j : SpsJob) (fa t kt : Nat) : Nat :=
  if j.pred ≠ 0 then popcount (j.preds.getD (t * j.pd.kt + kt) 0)
  else
    let a := j.pd.aBase + (t * j.pd.kt + kt) * slotBytes fa
    if badRange s a 16 then 16 else popcount (rdNat s (a + 2) 2)

/-- The units of one output tile, from the K-tiles' weights. -/
def tileUnits (t nt : Nat) (ws : List Nat) : List WUnit :=
  let r := (ws.zip (List.range ws.length)).foldl
    (fun (x : List WUnit × Nat × Nat × Nat) w =>
      let (us, a, blocks, n) := x
      if n = 32 ∨ 128 < blocks + w.1 then
        (us ++ [{ rt := t, ct := nt, a := a, b := w.2 - 1 }], w.2, w.1, 1)
      else (us, a, blocks + w.1, n + 1))
    ([], 0, 0, 0)
  r.1 ++ [{ rt := t, ct := nt, a := r.2.1, b := ws.length - 1 }]

/-- The plan of R245. -/
def planUnits (s : State) (j : SpsJob) (fa : Nat) : List WUnit :=
  (List.range j.pd.mt).flatMap fun t =>
    let ws := (List.range j.pd.kt).map fun kt => tileWeight s j fa t kt
    (List.range j.pd.nt).flatMap fun nt => tileUnits t nt ws

def WUnit.sameTile (u v : WUnit) : Bool := u.rt == v.rt && u.ct == v.ct
def SpsJob.tileOf (j : SpsJob) (u : WUnit) : List WUnit := j.units.filter fun v => u.sameTile v
def WUnit.started (u : WUnit) : Bool := u.cell.isSome || u.done

/-- Scratch slots that a tile needs: one for every unit but one (R247). -/
def SpsJob.slotsOf (j : SpsJob) (u : WUnit) : Nat := (j.tileOf u).length - 1

/-- Slots of the job, and slots reserved by tiles that have started and are not closed. -/
def SpsJob.slots (j : SpsJob) : Nat := j.scratchBytes / 65536
def SpsJob.reserved (j : SpsJob) : Nat :=
  ((j.units.filter fun u => decide (u.a = 0)).map fun u =>
    let t := j.tileOf u
    if (t.any WUnit.started) && !(t.all fun v => v.done) then t.length - 1 else 0).sum

def State.updJob (s : State) (b : Nat) (f : SpsJob → SpsJob) : State :=
  s.updBlock b fun k => { k with job := k.job.map f }

/-- Does the scheduler run? -/
def schedRuns (s : State) (b : Nat) : Bool :=
  decide (b < 20) && !fencedBlock s b && !(s.region (b / 5)).clkSwitching

/-- A write of the scheduler for its job; a partial write into poison gives the job MEM_POISON (R262). -/
def jobWrite (s : State) (id : OpId) (a : Nat) (bs : List Byte) : State := opWrite s id clsORD false a bs

/-- SPARSE_JOB_PLAN: too small a scratch area ends the job with none of its work performed. -/
def planJob (s : State) (b : Nat) : State :=
  match (s.block b).job with
  | none => s
  | some j0 =>
    if j0.planned || j0.stopping || j0.aborting || !schedRuns s b then s
    else
      let j : SpsJob := { j0 with preds := readPreds s j0 }
      let n := 8 * b + ((List.range 8).find? fun c => natBit j.cells c).getD 0
      let us := planUnits s j (fmtOf (s.cell n) j.pd.fmtA)
      let us : List WUnit := (us.zip (List.range us.length)).map fun u => { u.1 with done := decide (u.2 < j.next) }
      let j1 : SpsJob := { j with units := us, planned := true }
      let short : Bool := us.any fun u => decide (j1.slots < j1.slotsOf u)
      if short then
        endKernel (s.updBlock b fun k => { k with job := none }) j.op stBADDESC 0
      else
        settleJob ((jobWrite s j.op (j.addr + 0x24) (leBytes 4 us.length)).updBlock b fun k => { k with job := some j1 }) b

/-- The next unit in queue order. -/
def SpsJob.nextUnit (j : SpsJob) : Option (Nat × WUnit) :=
  ((List.range j.units.length).zip j.units).find? fun u => !u.2.started

/-- May the unit be dispatched: a split tile's first unit needs its slots; during a preemption only units of
started tiles go on (R247, R250). -/
def SpsJob.mayStart (j : SpsJob) (u : WUnit) : Bool :=
  let begun := (j.tileOf u).any WUnit.started
  (begun || decide (j.reserved + j.slotsOf u ≤ j.slots)) && (!j.stopping || begun)

/-- WORK_UNIT_DISPATCH: cell `c` of the block takes the next unit. -/
def dispatchUnit (s : State) (b c : Nat) : State :=
  match (s.block b).job with
  | none => s
  | some j =>
    let n := 8 * b + c
    let a := (s.cell n).arr
    match j.nextUnit with
    | none => s
    | some (ix, u) =>
      if j.planned && !j.aborting && schedRuns s b && natBit j.cells c && j.mayStart u && cellRuns s n
          && a.cur.isNone && a.st == .idle && !heldNext a false then
        let p : Product :=
          { pid := a.nextPid, addr := blkAddr b + fld j.prod 0x30 4, op := j.op, desc := j.prod, drn := j.drn,
            tile := u.rt * j.pd.nt + u.ct, ktile := u.a,
            unit := some { ix := ix, a := u.a, b := u.b, split := decide (1 < (j.tileOf u).length) } }
        (s.updArr n fun a => { a with cur := some p, st := .firstLoad, nextPid := a.nextPid + 1 }).updJob b fun j =>
          { j with units := j.units.set ix { u with cell := some c } }
      else s

/-! ### Reduction -/

/-- Partial sums in a scratch slot, with their poison. -/
def slotSums (s : State) (j : SpsJob) (int : Bool) (k : Nat) : List (Word × Bool) :=
  (List.range 16384).map fun i =>
    let a := j.scratch + 65536 * k + 4 * i
    let p := badRange s a 4
    (if p then (if int then 0 else toF32 .nan) else BitVec.ofNat 32 (rdNat s a 4), p)

/-- One addition of two partial sums (R247, R81). -/
def addSum (int : Bool) (x y : Word) : Word × List Nat :=
  if int then let (v, e) := satI32 (x.toInt + y.toInt); (ofI32 v, e)
  else
    let (v, e) := (f32 x).add (f32 y)
    let (r, e2) := flushRound v
    (toF32 r, e ++ e2)

/-- Events of several additions, one list of classes for each entry in turn. -/
def joinEvents (x y : List (List Nat)) : List (List Nat) := (x.zip y).map fun e => e.1 ++ e.2

/-- The reduction in increasing K order, with the closing unit's own sums at their place: the sums, the event
classes that each entry met, and the poisoned sums read. -/
def reduceTile (s : State) (j : SpsJob) (int : Bool) (ix : Nat) (own : List Word) (us : List (Nat × WUnit)) :
    List Word × List (List Nat) × Nat :=
  let parts := us.map fun u =>
    if u.1 = ix then own.map fun w => (w, false) else slotSums s j int (u.2.slot.getD 0)
  match parts with
  | [] => (own, [], 0)
  | p :: rest =>
    let pz := ((p :: rest).map fun l => (l.filter fun x => x.2).length).sum
    let r := rest.foldl
      (fun (a : List Word × List (List Nat)) l =>
        let z := (a.1.zip l).map fun x => addSum int x.1 x.2.1
        (z.map Prod.fst, joinEvents a.2 (z.map Prod.snd)))
      (p.map Prod.fst, p.map fun _ => [])
    (r.1, r.2, pz)

/-- The closing unit: the sums are reduced into its accumulators, and the rows go to the drain. -/
def closeTile (s : State) (b n : Nat) (j : SpsJob) (p : Product) (u : UnitRef) : State :=
  let c := s.cell n
  let int := isInt (p.mode c)
  let us := ((List.range j.units.length).zip j.units).filter fun v => decide (v.2.rt * j.pd.nt + v.2.ct = p.tile)
  let (sums, evs, pz) := reduceTile s j int u.ix (fgetRow 0 c.arr.acc 0 16384) us
  let q0 : Product := { p with unit := some { u with split := false }, ended := false, row := 0, open_ := false }
  let q := { q0 with slice := if p.pd.drained then fetchSlice s q0 else [] }
  let sz := (q.slice.filter fun e => e.2).length
  -- an element counts a class once for all the units of its tile and their reduction (R66, R81)
  let ev := (newEvents (fgetRow 0 j.met (16384 * p.tile) 16384) evs).flatten
  let s0 := countValues s (n / 40) (p.mode c).fmt p.tag (leftValues p)
  let s1 := chargeEvents s0 (n / 40) (if int then fINT32 else fFP32) p.tag (ev ++ List.replicate pz evPoison)
  let s2 := chargeEvents s1 (n / 40) fFP32 p.tag (List.replicate (2 * sz) evPoison)
  let s3 := if 0 < pz + sz then s2.addStat p.op stPOISON else s2
  let s4 := s3.updArr n fun a => { a with acc := flisted 0 0 sums, cur := none, st := .idle, draining := a.draining ++ [q] }
  let s5 := if p.pd.drained then
      (List.range (rowsIn p.pd p.tile)).foldl
        (fun s r =>
          let row := drainRow s c q int r ((sums.drop (128 * r)).take (colsIn p.pd p.tile))
          s.updCell n fun c => (c.updArr fun a => bufPut a q r row).bump offDrnRows 1) s4
    else s4
  (s5.updJob b fun j =>
    { j with units := (j.units.zip (List.range j.units.length)).map fun v =>
        if us.any fun w => w.1 == v.2 then { v.1 with done := true, slot := none } else v.1,
             met := j.met.filter fun x => x.1 / 16384 != p.tile }).updBlock b
    fun k => (k.bump 0x508 1).bump 0x510 1

/-- Free scratch slots. -/
def SpsJob.freeSlots (j : SpsJob) : List Nat :=
  (List.range j.slots).filter fun k => !(j.units.any fun u => u.slot == some k)

/-- A unit of a split tile that does not close it writes its accumulators to a free slot; which one is open. -/
def writePartial (s : State) (b n : Nat) (j : SpsJob) (u : UnitRef) : State :=
  let free := j.freeSlots
  let (d, s1) := s.draw
  let k := free.getD (d % max 1 free.length) 0
  let acc := fgetRow 0 (s.cell n).arr.acc 0 16384
  let s2 := jobWrite s1 j.op (j.scratch + 65536 * k) (acc.flatMap fun w => leBytes 4 w.toNat)
  ((s2.updArr n fun a => { a with cur := none, st := .idle }).updJob b fun j =>
    { j with units := j.units.modify u.ix fun v => { v with done := true, slot := some k } }).updBlock b
    (Block.bump 0x508 1)

/-- WORK_UNIT_FINISH: the last row of the unit in the cell's array is in (R247). -/
def finishUnit (s : State) (b c : Nat) : State :=
  let n := 8 * b + c
  match (s.block b).job, (s.cell n).arr.cur with
  | some j, some p =>
    match p.unit with
    | none => s
    | some u =>
      if !(p.ended && p.op == j.op && !j.aborting && cellRuns s n && schedRuns s b) then s
      else if !u.split then
        ((countValues s (n / 40) (p.mode (s.cell n)).fmt p.tag (leftValues p)).updArr n fun a =>
          { a with cur := none, st := .idle, draining := a.draining ++ [{ p with ended := false }] }).updJob b (fun j =>
          { j with units := j.units.modify u.ix fun v => { v with done := true } }) |>.updBlock b (Block.bump 0x508 1)
      else
        let tile := (j.units.getD u.ix {})
        let others := (((List.range j.units.length).zip j.units).filter fun v => tile.sameTile v.2 && v.1 != u.ix)
        if others.all fun v => v.2.done then
          if !p.pd.drained || bufRoom (s.cell n).arr p then closeTile s b n j p u else s
        else writePartial s b n j u
  | _, _ => s

/-- BLOCK_JOB_PREEMPT_DONE: every started tile has drained; NEXT_UNIT names the first unit not dispatched
(R250). -/
def jobPreempted (s : State) (b : Nat) : State :=
  match (s.block b).job with
  | none => s
  | some j =>
    let begun (u : WUnit) : Bool := (j.tileOf u).any WUnit.started
    let next := (j.nextUnit.map Prod.fst).getD j.units.length
    if j.stopping && !j.aborting && !jobBusy s b j.op && schedRuns s b && (j.units.all fun u => u.done || !begun u) then
      let nx := if j.planned then next else j.next
      ((jobWrite s j.op (j.addr + 0x20) (leBytes 4 nx)).updBlock b fun k => { k with job := none }).updOp j.op
        fun e => { e.addStat stPREEMPTED with phase := .finished, preempt := true }
    else s

def execSparseJobPlan (block : Nat) (s : State) : Res := .next (planJob s block)
def execWorkUnitDispatch (block cell : Nat) (s : State) : Res :=
  .next (if cell < 8 then dispatchUnit s block cell else s)
def execWorkUnitFinish (block cell : Nat) (s : State) : Res :=
  .next (if cell < 8 then finishUnit s block cell else s)
def execBlockJobPreemptDone (block : Nat) (s : State) : Res := .next (jobPreempted s block)

end Sys2Proof.Machine
end

