-- ==== Sys2Proof/Machine/Rolac.lean ====
section
/-! DEFINITION. Rolac's operation table: which operations are live, marks of aborts and preemptions (R393 to
R396), promotion (R281), the holds of UPDATE work (R274, R307, R360), and table loads at a kernel boundary
(R56). -/

namespace Sys2Proof.Machine

/-! ### Predicates on entries -/

/-- Opcode group. -/
def OpEntry.group (e : OpEntry) : Nat := e.opcode / 256
def OpEntry.isCtrl (e : OpEntry) : Bool := e.group == 7
def opKERNEL : Nat := 0x201
def opJOB : Nat := 0x202
def opINVROOT : Nat := 0x203
/-- Kernels and memory operations: groups 0x01xx and 0x02xx, and PRIV_COPY. -/
def OpEntry.isWork (e : OpEntry) : Bool := e.group == 1 || e.group == 2 || e.opcode == 0x507
def OpEntry.isLaunch (e : OpEntry) : Bool := e.group == 2
/-- In flight: from admission until the record is committed (R381). -/
def OpEntry.inFlight (e : OpEntry) : Bool := e.admitted && e.phase != .preempted
/-- May an abort or preemption name it (R393)? -/
def OpEntry.isTarget (e : OpEntry) : Bool := !e.isCtrl && (e.admitted || e.phase == .waiting || e.phase == .preempted)
/-- Groups that quiescence lets through (R398). -/
def OpEntry.exempt (e : OpEntry) : Bool := e.group == 5 || e.group == 7 || e.group == 8

def flightCount (s : State) (r : Nat) : Nat := (s.ops.filter fun e => e.inFlight && e.region == r).length
def preemptedCount (s : State) (r : Nat) : Nat :=
  (s.ops.filter fun e => e.region == r && (e.phase == .preempted || e.phase == .preempting || e.preempt)).length

/-! ### Descriptor fields of KERNEL_LAUNCH (Table 13-8) -/

/-- Set bits of a mask, in increasing order. -/
def bitsOf (n m : Nat) : List Nat := (List.range n).filter fun i => natBit m i

/-- Global numbers of the cells that a CELLS field names. -/
def cellsOf (region m : Nat) : List Nat := (bitsOf 40 m).map (40 * region + ·)

def OpEntry.contexts (e : OpEntry) : List Nat := bitsOf 16 (fld e.desc 0x18 2)
def OpEntry.saveBase (e : OpEntry) : Nat := fld e.desc 0x38 8
def OpEntry.saveStride (e : OpEntry) : Nat := fld e.desc 0x40 4
def OpEntry.deadline (e : OpEntry) : Nat := fld e.desc 0x44 4
def OpEntry.bucket (e : OpEntry) : Nat := fld e.desc 0x48 1
def OpEntry.view (e : OpEntry) : Nat := fld e.desc 0x60 8

/-- Size of a context image (Table 5-12). -/
def ctxImageBytes : Nat := 66560

/-! ### Stopping -/

/-- Keys of a sparse map. -/
def keysOf {α : Type} (m : FMap α) : List Nat := m.map Prod.fst

def hasItems (d : Dma) (id : OpId) : Bool := d.items.any fun i => i.op == id

/-- The units that an operation uses are told to stop (R96, R231, R250). -/
def stopUnits (s : State) (id : OpId) : State :=
  let stop (d : Dma) : Dma := if hasItems d id then { d with stopping := true } else d
  let stopCell (s : State) (n : Nat) : State :=
    let s1 := s.updCell n fun c => { c with dma := stop c.dma }
    if (s.cell n).arr.products.any fun p => p.op == id then
      s1.updArr n fun a => { a with abortReq := a.abortReq ++ [id] }
    else if (s.cell n).arr.accOwner = some id then stopArray (fun x => x == id) s1 n
    else s1
  let s1 := (keysOf s.cells).foldl stopCell s
  let s2 := (keysOf s.blocks).foldl
    (fun s b => settleStop (s.updBlock b fun k =>
      { k with dma := stop k.dma, gs := stop k.gs,
               job := k.job.map fun j => if j.op == id then { j with aborting := true } else j }) b) s1
  (keysOf s.regions).foldl (fun s r => s.updRegion r fun g => { g with dma := stop g.dma }) s2

/-- Everything that still belongs to an operation on its units. -/
def unitsBusy (s : State) (id : OpId) : Bool :=
  kernelLive s id || !(itemsOf s id).isEmpty
    || (s.cells.any fun c => c.2.arr.products.any fun p => p.op == id)

/-- The record of an operation is committed: holds of its aborted products end (Table 4-6), and no later abort can
concern its sums. -/
def forgetOp (s : State) (id : OpId) : State :=
  (keysOf s.cells).foldl
    (fun s n => s.updArr n fun a =>
      { a with holds := a.holds.filter fun h => h.1 != id, accOwner := a.accOwner.filter fun x => x != id }) s

/-- Products kept for a preempted kernel are dropped. -/
def dropKept (s : State) (id : OpId) : State :=
  (keysOf s.cells).foldl
    (fun s n => s.updArr n fun a => { a with kept := a.kept.filter fun p => p.op != id }) s

/-- An abort marks an operation (R393, R394): its record will carry ABORTED; a preempted one is dropped with
its saved state. -/
def markAbort (s : State) (id : OpId) : State :=
  match s.op? id with
  | none => s
  | some e =>
    match e.phase with
    | .aborting => s
    | .preempted => (dropKept s id).dropOp id
    | _ => (stopUnits (dropKept s id) id).updOp id fun e =>
        { e.addStat stABORTED with phase := .aborting, preempt := false, d0 := 0, d1 := 0 }

/-! ### Preemption (R90, R168, R250, R395) -/

def OpEntry.canPreempt (e : OpEntry) : Bool := (e.opcode == opKERNEL && e.saveBase != 0) || e.opcode == opJOB

/-- Queued products of a preempted kernel are kept; the one in the array is asked to stop. -/
def preemptArr (id : OpId) (a : Arr) : Arr :=
  let mine (p : Product) : Bool := p.op == id
  let y := a.yielded.filter mine
  let inArray : Bool := match a.cur with
    | some p => mine p
    | none => false
  { a with queue := a.queue.filter fun p => !mine p, dqueue := a.dqueue.filter fun p => !mine p,
           yielded := a.yielded.filter fun p => !mine p,
           kept := a.kept ++ y.toList ++ a.queue.filter mine ++ a.dqueue.filter mine,
           preReq := a.preReq || inArray }

/-- The contexts of a kernel stop issuing. -/
def stopCtxs (id : OpId) (c : Cell) : Cell :=
  (List.range 16).foldl
    (fun c k => c.updCtx k fun x =>
      if x.op = some id ∧ x.st ≠ .stopped then { x with waited := x.st, st := .stopped } else x) c

/-- A preemption marks an operation that can be preempted. One whose outcome is decided by a status that
ranks above PREEMPTED stays as it is (Table 5-13). -/
def markPreempt (s : State) (id : OpId) : State :=
  match s.op? id with
  | none => s
  | some e =>
    let now (s : State) : State :=
      s.updOp id fun e => { e.addStat stPREEMPTED with phase := .finished, preempt := true }
    match e.phase with
    | .waiting | .admitted | .held => now s
    | .finished => if bestStatus (stPREEMPTED :: e.stats) = stPREEMPTED then now s else s
    | .running =>
      let s1 := s.updOp id fun e => { e with phase := .preempting, outran := false }
      if e.opcode = opJOB then
        (keysOf s.blocks).foldl
          (fun s b => s.updJob b fun j => if j.op == id then { j with stopping := true } else j) s1
      else e.cells.foldl (fun s n => s.updCell n fun c => (stopCtxs id c).updArr (preemptArr id)) s1
    | _ => s

/-! ### Promotion (R281) -/

/-- Products of a promoted kernel move to the ordinary queue. -/
def promoteArr (id : OpId) (a : Arr) : Arr :=
  let mine (p : Product) : Bool := p.op == id
  let up (p : Product) : Product := if mine p then { p with deferred := false } else p
  let y := (a.yielded.filter mine).toList.map up
  { a with yielded := a.yielded.filter fun p => !mine p, cur := a.cur.map up, kept := a.kept.map up,
           draining := a.draining.map up, dqueue := a.dqueue.filter fun p => !mine p,
           queue := y ++ a.queue ++ (a.dqueue.filter mine).map up }

def promote (s : State) (id : OpId) : State :=
  match s.op? id with
  | none => s
  | some e => e.cells.foldl (fun s n => s.updArr n (promoteArr id)) (s.updOp id fun e => { e with promoted := true })

/-- Is the entry a DEFERRED kernel that is not promoted yet? -/
def OpEntry.deferredKernel (e : OpEntry) : Bool := e.opcode == opKERNEL && e.cls == clsDEF && !e.promoted

/-- Acceptance of a collective of a bucket promotes the DEFERRED kernels of that bucket and step. -/
def promoteBucket (s : State) (step : DWord) (bucket : Nat) : State :=
  if bucket = 0 then s
  else (s.ops.filter fun e => e.deferredKernel && e.bucket == bucket && e.step == step).foldl
    (fun s e => promote s e.id) s

/-! ### Holds of UPDATE work -/

/-- Live EVAL kernels whose inter-step window ends with an UPDATE of step `step` (R307). -/
def staleEval (s : State) (step : DWord) : List OpEntry :=
  s.ops.filter fun e => e.opcode == opKERNEL && e.cls == clsEVAL && decide (e.view + 2 ≤ step.toNat)
    && (e.phase != .finished || e.preempt || e.admitted)

/-- Does R360 hold UPDATE work of a step back? -/
def durableHold (s : State) (step : DWord) : Bool :=
  let h := s.hrw
  h.undecided || h.recoverWait
    || (h.configured && !(h.hasDurable && decide (step.toNat ≤ h.durable + 1)))
    || (h.flashing.toList ++ h.flashNext.toList).any fun f => decide (f + 2 ≤ step.toNat)

/-- May UPDATE work of an entry start (R274, R307, R360)? -/
def updateFree (s : State) (e : OpEntry) : Bool :=
  e.cls != clsUPD || (s.hub.scalars && (staleEval s e.step).isEmpty && !durableHold s e.step)

/-- Acceptance of an UPDATE launch ends the windows of older views (R307). -/
def endWindows (s : State) (e : OpEntry) : State :=
  if e.cls = clsUPD then (staleEval s e.step).foldl (fun s x => markAbort s x.id) s else s

/-- May UPDATE work start at all: an undecided device starts none, and one that waits for recovery has no open step
(R359, R361)? -/
def mayUpdate (s : State) (e : OpEntry) : Bool := e.cls != clsUPD || !(s.hrw.undecided || s.hrw.recoverWait)

/-- Is an operation of a kind live, for operation `id`: in flight, or accepted before it and not ended or preempted? One
that was accepted later and still waits may itself wait for `id` (log entry 79). -/
def liveFor (s : State) (id : OpId) (p : OpEntry → Bool) : Bool :=
  (s.ops.any fun e => p e && e.inFlight)
    || (s.ops.takeWhile fun e => e.id != id).any fun e => p e && e.phase != .preempted

/-- Is an UPDATE kernel or operation live on the device (R294)? -/
def updateLive (s : State) (id : OpId) : Bool := liveFor s id fun e => e.isWork && e.cls == clsUPD

/-- UPDATE_HOLD_RELEASE: a held launch may start. -/
def holdRelease (s : State) (id : OpId) : State :=
  match s.op? id with
  | some e =>
    if e.phase == .held && !e.released && updateFree s e then s.updOp id fun e => { e with released := true }
    else s
  | none => s

/-- DEADLINE_PROMOTION: the hub counter has reached the deadline. -/
def deadlinePromotion (s : State) (id : OpId) : State :=
  match s.op? id with
  | some e =>
    if e.deferredKernel && e.deadline != 0 && e.isTarget && e.phase != .aborting
        && decide (e.accepted.toNat + e.deadline * 1600 ≤ s.hub.cycle.toNat) then promote s id
    else s
  | none => s

/-! ### Table loads (R56) -/

/-- Is the cell at a kernel boundary: no context belongs to a kernel, and no product is in progress? DESIGN CHOICE: a block
job is no kernel of a cell between two of its work units (log entry 85). -/
def kernelBoundary (c : Cell) : Bool :=
  (c.ctxs.all fun x => x.2.op.isNone) && c.arr.cur.isNone && c.arr.draining.isEmpty && c.arr.queue.isEmpty
    && c.arr.dqueue.isEmpty && c.arr.yielded.isNone

def applyLoad (c : Cell) : TableLoad → Cell
  | .cb16 k codes => { c with cb16 := fsets 0 c.cb16 (16 * k) codes }
  | .cb256 k codes => 
    { c with cb256 := fsets 0 c.cb256 (256 * k) ((List.range 256).map fun i => BitVec.ofNat 16 (fld codes (2 * i) 2)) }
  | .fmt ws => { c with fmt := fsets 0 c.fmt 0 ws }
  | .curve k v => { c with curves := fset {} c.curves k v }

/-- Held loads take effect, in the order in which they came. -/
def applyHeld (c : Cell) : Cell := if kernelBoundary c then { c.held.foldl applyLoad c with held := [] } else c

def execTableLoadTakeEffect (cell : Nat) (s : State) : Res :=
  .next (if cell < 160 ∧ ¬fencedCell s cell then s.updCell cell applyHeld else s)
def execUpdateHoldRelease (o : OpId) (s : State) : Res := .next (holdRelease s o)
def execDeadlinePromotion (o : OpId) (s : State) : Res := .next (deadlinePromotion s o)

end Sys2Proof.Machine
end

