-- ==== Sys2Proof/Machine/Kernel.lean ====
section
/-! DEFINITION. Kernels and their contexts: launch (R131, R392), destinations (R284), the context image and its
save and restore (R168, R169), abort (R170). -/

namespace Sys2Proof.Machine

/-! ### The checks of a launch -/

/-- Does a range lie in mapped memory of regions in service, as an address of a launch must? The status. -/
def rangeStatus (s : State) (res : Bool) (a n : Nat) : Nat := localSpan s res (a, n)

/-- Do two declared ranges overlap under different streams (R284)? -/
def tied (s : State) (base len stream : Nat) : Bool :=
  s.hub.grads.any fun g => overlap base len g.1 g.2.1 && g.2.2 != stream

/-- Fields of the body (Table 13-8, R275, R281, R282, R284, R305). DESIGN CHOICE: SAVE_STRIDE is looked at only where
SAVE_BASE is not 0 (log entry 81). -/
def kernelBodyOk (e : OpEntry) : Bool :=
  let d := e.desc
  let len := fld d 0x58 8
  decide (0 < fld d 0x10 8) && decide (fld d 0x10 8 < 2 ^ 40) && decide (0 < fld d 0x18 2) && zeros d 0x1A 0x1C
    && decide (fld d 0x1C 4 % 8 = 0) && decide (e.saveBase % 256 = 0)
    && (e.saveBase == 0 || decide (ctxImageBytes * e.contexts.length ≤ e.saveStride))
    && zeros d 0x49 0x4C && decide (len % 64 = 0) && decide (fld d 0x50 8 % 64 = 0) && zeros d 0x68 0x80
    && (if e.cls = clsDEF then
          decide (e.deadline ≤ 1000000) && (e.deadline != 0 || e.bucket != 0) && !e.tooLate
        else e.deadline == 0 && e.bucket == 0)
    && (if e.cls = clsEVAL then decide (e.view + 1 = e.step.toNat) && !e.resident else e.view == 0)

/-- Save areas of the named cells. -/
def saveAreas (e : OpEntry) (n : Nat) : List (Nat × Nat) :=
  if e.saveBase = 0 then []
  else (List.range n).map fun i => (e.saveBase + i * e.saveStride, ctxImageBytes * e.contexts.length)

/-- The status that the body of a launch gives it, in the order of Table 13-18; 0 when it may start. -/
def kernelStatus (s : State) (e : OpEntry) : Nat :=
  let d := e.desc
  let cells := cellsOf e.region (fld d 0x10 8)
  let (gb, gl) := (fld d 0x50 8, fld d 0x58 8)
  let args := fld d 0x20 8
  let sts := rangeStatus s e.resident args 120
    :: (saveAreas e cells.length).map fun a => rangeStatus s e.resident a.1 a.2
  let grad := decide (gl = 0) || (decide (gb + gl ≤ hbmTop) && rangeStatus s false gb gl == stOK)
  if cells.any (fencedCell s) || sts.contains stFENCED then stFENCED
  else if !kernelBodyOk e || (decide (0 < gl) && decide (4096 ≤ s.hub.grads.length)) then stBADDESC
  else if decide (0 < gl) && tied s gb gl (fld d 0x4C 4) then stTIED
  else if sts.contains stBOUNDS || !grad then stBOUNDS
  else if badRange s args 120 then stPOISON
  else stOK

/-- Does a launch that Rolac accepted earlier in the step, and whose body is not checked yet, declare a destination? Rolac
handles declarations in the order of acceptance (R284, Table 10-10), so the later launch waits for it. -/
def declaresFirst (s : State) (e : OpEntry) : Bool :=
  decide (0 < fld e.desc 0x58 8) && (s.ops.takeWhile fun x => x.id != e.id).any fun x =>
    x.opcode == opKERNEL && x.step == e.step && decide (0 < fld x.desc 0x58 8)
      && (x.phase == .waiting || x.phase == .admitted)

/-- KERNEL_LAUNCH: the body is checked at admission; an accepted launch declares its destination and waits for
its contexts. -/
def kernelLaunch (s : State) (id : OpId) : State :=
  match s.op? id with
  | some e =>
    if e.opcode == opKERNEL && e.phase == .admitted && !declaresFirst s e then
      match kernelStatus s e with
      | 0 =>
        let d := e.desc
        let gl := fld d 0x58 8
        let s1 := if gl = 0 then s
          else s.updHub fun h => { h with grads := h.grads ++ [(fld d 0x50 8, gl, fld d 0x4C 4)] }
        s1.updOp id fun x =>
          { x with phase := .held, cells := cellsOf e.region (fld d 0x10 8), released := updateFree s1 e }
      | st => refuseLoad s e st
    else s
  | none => s

/-! ### Start -/

/-- Are the named contexts free on every cell, and do the cells run? -/
def ctxsFree (s : State) (e : OpEntry) : Bool :=
  e.cells.all fun n => cellRuns s n && e.contexts.all fun k => (s.ctx ⟨n, k⟩).op.isNone

/-- The state of a context at its launch (R131). -/
def startCtx (s : State) (e : OpEntry) : Ctx :=
  let args := (List.range 15).map fun i => BitVec.ofNat 64 (rdNat s (fld e.desc 0x20 8 + 8 * i) 8)
  { sreg := fsets 0 [] 1 args, pc := fld e.desc 0x1C 4, seed := BitVec.ofNat 64 (fld e.desc 0x28 8),
    step := BitVec.ofNat 64 (fld e.desc 0x30 8), st := .ready, op := some e.id }

/-- KERNEL_START. -/
def kernelStart (s : State) (id : OpId) : State :=
  match s.op? id with
  | some e =>
    if e.opcode == opKERNEL && e.phase == .held && !e.started && e.released && mayUpdate s e && ctxsFree s e then
      let c0 := startCtx s e
      let s0 := countReads s (fld e.desc 0x20 8) 120
      let s1 := e.cells.foldl
        (fun s n => s.updCell n fun c => e.contexts.foldl (fun c k => c.updCtx k fun _ => c0) (applyHeld c)) s0
      s1.updOp id fun e => { e with phase := .running, started := true }
    else s
  | none => s

/-! ### The context image (Table 5-12) -/

/-- Is the stream instruction a row reduction, whose PARTIAL is not zero (R168, R202)? -/
def Stream.isReduction (t : Stream) : Bool := decide (0x60 ≤ t.opc) && decide (t.opc < 0x70)

/-- The image of a stopped context; `part` is PARTIAL, whose layout the spec leaves open. -/
def ctxImage (c : Ctx) (part : List Byte) : List Byte :=
  let flags := b2n c.stream.isSome + 2 * b2n (c.waited == .bar) + 4 * b2n (c.waited == .await)
    + 8 * b2n (c.waited == .dwait)
  leBytes 2 1 ++ leBytes 2 flags ++ leBytes 4 0 ++ leBytes 8 c.pc ++ leBytes 4 ((c.stream.map Stream.pos).getD 0)
    ++ leBytes 4 ((c.stream.map Stream.row).getD 0) ++ leBytes 8 c.evt.toNat ++ leBytes 8 c.count.toNat
    ++ leBytes 8 c.seed.toNat ++ leBytes 8 c.step.toNat ++ leBytes 8 0 ++ part ++ List.replicate 128 0
    ++ (List.range 16).flatMap (fun i => leBytes 8 (sget c i).toNat) ++ List.replicate 128 0
    ++ (List.range 8).flatMap (fun i => leBytes 64 (mget c i).toNat)
    ++ (fgetRow 0 c.vreg 0 16384).flatMap fun w => leBytes 4 w.toNat

/-- The context that an image at `a` holds. -/
def ctxOfImage (s : State) (a : Nat) (id : OpId) (v : SavedCtx) : Ctx :=
  let flags := rdNat s (a + 2) 2
  let st : CtxState := if v.ended then .ended else if natBit flags 1 then .bar else if natBit flags 2 then .await
    else if natBit flags 3 then .dwait else .ready
  { vreg := flisted 0 0 ((List.range 16384).map fun i => BitVec.ofNat 32 (rdNat s (a + 0x400 + 4 * i) 4)),
    mask := flisted 0 0 ((List.range 8).map fun i => BitVec.ofNat 512 (rdNat s (a + 0x200 + 64 * i) 64)),
    sreg := flisted 0 1 ((List.range 15).map fun i => BitVec.ofNat 64 (rdNat s (a + 0x108 + 8 * i) 8)),
    pc := rdNat s (a + 8) 8, evt := BitVec.ofNat 64 (rdNat s (a + 0x18) 8),
    count := BitVec.ofNat 64 (rdNat s (a + 0x20) 8), seed := BitVec.ofNat 64 (rdNat s (a + 0x28) 8),
    step := BitVec.ofNat 64 (rdNat s (a + 0x30) 8), st := st, op := some id,
    stream := v.stream.map fun t => { t with pos := rdNat s (a + 0x10) 4, row := rdNat s (a + 0x14) 4 } }

/-- Save one context of the i-th named cell. -/
def saveCtx (s : State) (e : OpEntry) (i n j k : Nat) : State :=
  let c := s.ctx ⟨n, k⟩
  if c.op = some e.id then
    let red := (c.stream.map Stream.isReduction).getD false
    let (part, s1) := if red then freeBytes 64 s else (List.replicate 64 0, s)
    let a := e.saveBase + i * e.saveStride + j * ctxImageBytes
    let s2 := memWrite s1 a (ctxImage c part)
    (s2.updCtx ⟨n, k⟩ fun c => { c with st := .free, op := none, stream := none, waited := .ready }).updOp e.id
      fun x => { x with saves := x.saves ++
        [{ index := i, ctx := k, addr := a, stream := c.stream, ended := c.waited == .ended }] }
  else s

/-- Save every context of the kernel, cell by cell in increasing context number. -/
def saveCtxs (s : State) (e : OpEntry) : State :=
  (e.cells.zip (List.range e.cells.length)).foldl
    (fun s ni => (e.contexts.zip (List.range e.contexts.length)).foldl
      (fun s kj => saveCtx s e ni.2 ni.1 kj.2 kj.1) s)
    (s.updOp e.id fun e => { e with saves := [] })

/-- Has everything of a preempted kernel stopped but its contexts: the array's context is saved, and issued
DMA descriptors have run to completion (R91, R231)? -/
def quietUnits (s : State) (e : OpEntry) : Bool :=
  (itemsOf s e.id).isEmpty && e.cells.all fun n =>
    let a := (s.cell n).arr
    !((a.cur.toList ++ a.draining ++ a.queue ++ a.dqueue ++ a.yielded.toList).any fun p => p.op == e.id)

/-- Has the kernel come to its end although its preemption was requested: its product ended before the next tile
boundary, every context has ended, and no product is kept (Table 3-7)? -/
def outranKernel (s : State) (e : OpEntry) : Bool :=
  e.outran && e.cells.all fun n =>
    !((s.cell n).arr.kept.any fun p => p.op == e.id)
      && (List.range 16).all fun k => (s.ctx ⟨n, k⟩).op != some e.id || (s.ctx ⟨n, k⟩).waited == .ended

/-- CONTEXT_IMAGE_SAVE_DONE. A kernel that has come to its end first completes with OK, and the request with
ALREADY_COMPLETE (Table 3-7). -/
def imageSaveDone (s : State) (id : OpId) : State :=
  match s.op? id with
  | some e =>
    if e.opcode == opKERNEL && e.phase == .preempting && quietUnits s e && e.cells.all (cellRuns s) then
      if outranKernel s e then (stopKernel s id).finishOp id stOK else
      (saveCtxs s e).updOp id fun e => { e.addStat stPREEMPTED with phase := .finished, preempt := true }
    else s
  | none => s

/-! ### Restore -/

/-- Kept products of the kernel return to their queues, saved ones first (R92). -/
def requeue (id : OpId) (a : Arr) : Arr :=
  let mine := a.kept.filter fun p => p.op == id
  let l := mine.filter (fun p => p.saved.isSome) ++ mine.filter fun p => p.saved.isNone
  { a with kept := a.kept.filter fun p => p.op != id, queue := (l.filter fun p => !p.deferred) ++ a.queue,
           dqueue := (l.filter fun p => p.deferred) ++ a.dqueue }

/-- CONTEXT_RESTORE_DONE: the images are restored and the contexts issue again (R169). -/
def contextRestoreDone (s : State) (id : OpId) : State :=
  match s.op? id with
  | some e =>
    if e.opcode == opKERNEL && e.phase == .held && e.started && e.resumed && e.released && mayUpdate s e && ctxsFree s e then
      let s0 := e.cells.foldl (fun s n => s.updCell n applyHeld) s
      let s1 := e.saves.foldl
        (fun s v =>
          let c := ctxOfImage s v.addr id v
          (countReads s v.addr ctxImageBytes).updCtx ⟨e.cells.getD v.index 0, v.ctx⟩ fun _ => c) s0
      let s2 := e.cells.foldl (fun s n => s.updArr n (requeue id)) s1
      settleKernel (s2.updOp id fun e => { e with phase := .running, saves := [] }) id
    else s
  | none => s

/-! ### Abort -/

/-- KERNEL_ABORT_STOP: the contexts of an aborted kernel stop (R170). -/
def kernelAbortStop (s : State) (id : OpId) : State :=
  match s.op? id with
  | some e => if e.opcode == opKERNEL && e.phase == .aborting then stopKernel s id else s
  | none => s

/-! ### Block jobs (R244) -/

/-- Field checks of a job descriptor and of what it names. -/
def jobOk (s : State) (h : Home) (resumed : Bool) (b : Nat) (raw : List Byte) : Bool :=
  let p := fld raw 0 8
  let pd := PD.of (rdBytes s p 64)
  let inStore (a n : Nat) : Bool := decide (blkAddr b ≤ a) && decide (a + n ≤ blkAddr b + blkSize)
  let sb := fld raw 0x18 4
  let cells := bitsOf 8 (fld raw 0x1C 1)
  decide (p % 64 = 0) && decide (sb % 65536 = 0) && (if sb = 0 then fld raw 0x10 8 == 0
      else decide (fld raw 0x10 8 % 256 = 0) && inStore (fld raw 0x10 8) sb)
    && decide (fld raw 0x1C 1 ≠ 0) && zeros raw 0x1D 0x20 && (resumed || fld raw 0x20 4 == 0)
    && zeros raw 0x28 0x40 && decide (fld raw 8 8 % 8 = 0)
    && pd.sparse && pdOk (s.cell h.cell) h (rdBytes s p 64)
    && decide (pd.srcS ≠ 0) && decide (pd.srcA ≠ 0)
    && (cells.all fun c => decide (pd.ctxSave + c * 65792 + tileCtxBytes ≤ blkSize))
    && (!pd.drained || (DD.outDest (DD.of (readDd s h pd)) != 0 && decide (pd.drainDesc + 128 ≤ blkSize)))

/-- The status of a block job, 0 when it may start. -/
def jobStatus (s : State) (e : OpEntry) : Nat :=
  let a := fld e.desc 0x10 8
  let l := fld e.desc 0x18 1
  let b := 5 * e.region + l
  let raw := rdBytes s a 64
  let n := 8 * b + ((bitsOf 8 (fld raw 0x1C 1)).headD 0)
  let h : Home := ⟨n, blkAddr b, blkSize⟩
  let inStore (a n : Nat) : Bool := decide (blkAddr b ≤ a) && decide (a + n ≤ blkAddr b + blkSize)
  let read : Bool := decide (a % 64 = 0) && inStore a 64 && !badRange s a 64
  if 5 ≤ l then stBADDESC
  else if fencedBlock s b then stFENCED
  -- UNIT_FENCED ranks above BAD_DESCRIPTOR (R445)
  else if read && (bitsOf 8 (fld raw 0x1C 1)).any fun c => fencedCell s (8 * b + c) then stFENCED
  else if !zeros e.desc 0x19 0x20 then stBADDESC
  else if (e.cls == clsDEF || e.cls == clsEVAL) || a % 64 ≠ 0 then stBADDESC
  else if !inStore a 64 then stBADDESC
  else if badRange s a 64 then stPOISON
  else if !inStore (fld raw 0 8) 64 then stBADDESC
  else if badRange s (fld raw 0 8) 64 then stPOISON
  else if !jobOk s h e.resumed b raw then stBADDESC
  else
    let pd := PD.of (rdBytes s (fld raw 0 8) 64)
    let pr := fld raw 8 8
    let pst := if pr = 0 then stOK
      else spansStatus s e.resident [⟨pr, ceilDiv pd.m 32 * (ceilDiv (ceilDiv pd.k 32) 64 * 8), none⟩]
    bestStatus [pst, productStatus s h e.id (fld raw 0 8)]

/-- BLOCK_JOB: checked at admission; it starts when its block's scheduler is free and no hold keeps it. -/
def blockJob (s : State) (id : OpId) : State :=
  match s.op? id with
  | some e =>
    if e.opcode != opJOB || (e.phase != .admitted && e.phase != .held) then s
    else
      let st := if e.phase == .admitted then jobStatus s e else 0
      if st ≠ 0 then refuseLoad s e st
      else
        let rel := e.released && (e.phase == .held || updateFree s e)
        let b := 5 * e.region + fld e.desc 0x18 1
        if rel && (s.block b).job.isNone then
          let a := fld e.desc 0x10 8
          let raw := rdBytes s a 64
          let prod := rdBytes s (fld raw 0 8) 64
          let cells := (bitsOf 8 (fld raw 0x1C 1)).map (8 * b + ·)
          let j : SpsJob :=
            { op := id, addr := a, prod := prod, pred := fld raw 8 8, scratch := fld raw 0x10 8,
              drn := readDd s ⟨cells.headD 0, blkAddr b, blkSize⟩ (PD.of prod),
              scratchBytes := fld raw 0x18 4, cells := fld raw 0x1C 1, next := fld raw 0x20 4 }
          let s2 := cells.foldl (fun s n => s.updCell n applyHeld) s
          (s2.updBlock b fun k => { k with job := some j }).updOp id
            fun e => { e with phase := .running, started := true, cells := cells }
        else s.updOp id fun e => { e with phase := .held, released := rel }
  | none => s

/-! ### DMA operations (groups 0x01xx, PRIV_COPY) -/

/-- The engine that an operation's chain runs on. -/
def chainEngine (e : OpEntry) : Engine :=
  let b := 5 * e.region + fld e.desc 0x18 1
  if e.opcode = 0x102 then .block b else if e.opcode = 0x103 then .gs b else .region e.region

/-- Descriptors that an engine's queue holds (Table 7-3). -/
def engineDepth : Engine → Nat
  | .gs _ => 16
  | .region _ => 64
  | _ => 32

/-- The body of a chain operation: a refusal, a place in its engine's queue, or a wait while that is full. -/
def chainOp (opc : Nat) (s : State) (id : OpId) : State :=
  match s.op? id with
  | some e =>
    if e.opcode != opc || (e.phase != .admitted && e.phase != .held) then s
    else
      let l := fld e.desc 0x18 1
      let blk := opc == 0x102 || opc == 0x103
      if blk && decide (l < 5) && fencedBlock s (5 * e.region + l) then s.finishOp id stFENCED
      else if !(zeros e.desc 0x19 0x20 && (if blk then decide (l < 5) else l == 0)) then s.finishOp id stBADDESC
      else
        let g := chainEngine e
        if engineDepth g ≤ (s.dma g).queue.length then s.updOp id fun e => { e with phase := .held }
        else
          let it : DmaItem := { addr := fld e.desc 0x10 8, op := id, priv := opc == 0x507 }
          (s.updDma g fun q => { q with queue := q.queue ++ [it] }).updOp id
            fun e => { e with phase := .running, started := true }
  | none => s

/-! ### The meanings -/

def execKernelLaunch (o : OpId) (s : State) : Res := .next (kernelLaunch s o)
def execKernelStart (o : OpId) (s : State) : Res := .next (kernelStart s o)
def execContextImageSaveDone (o : OpId) (s : State) : Res := .next (imageSaveDone s o)
def execContextRestoreDone (o : OpId) (s : State) : Res := .next (contextRestoreDone s o)
def execKernelAbortStop (o : OpId) (s : State) : Res := .next (kernelAbortStop s o)
def execBlockJob (o : OpId) (s : State) : Res := .next (blockJob s o)
def execDmaRegion (o : OpId) (s : State) : Res := .next (chainOp 0x101 s o)
def execDmaBlock (o : OpId) (s : State) : Res := .next (chainOp 0x102 s o)
def execDmaGather (o : OpId) (s : State) : Res := .next (chainOp 0x103 s o)
def execPrivCopy (o : OpId) (s : State) : Res := .next (chainOp 0x507 s o)

end Sys2Proof.Machine
end

