-- ==== Sys2Proof/Machine/Mailbox.lean ====
section
/-! DEFINITION. The mailbox block and the way of an operation through Rolac: slots (R371 to R375), acceptance
(R376 to R378), admission (R381 to R383), commit and record (R386 to R389), and the sample strobe (R40). -/

namespace Sys2Proof.Machine

/-! ### Identities (Table 1-4) and proxies (R27) -/

/-- An identity that some master can carry. -/
def idOk (i : Nat) : Bool :=
  (decide (0x10 ≤ i) && decide (i < 0x24)) || i == 0x30 || i == 0x31 || (decide (0x40 ≤ i) && decide (i < 0x4C))
    || (decide (0x80 ≤ i) && decide (i < 0x100))

/-- A master on this device. -/
def localId (i : Nat) : Bool := idOk i && decide (i < 0x80)

/-- Does an entry of HUB_PROXY_MAP match a source (Table 1-5)? -/
def proxyHit (src : Src) (w : Nat) : Bool :=
  natBit w 63 && natBit w (40 + src.region) && decide (natBits w 15 0 ≤ src.id) && decide (src.id ≤ natBits w 31 16)

/-- The identity of a request that arrives from a link (R27, R28). -/
def proxyId (s : State) (src : Src) : Nat :=
  if !s.mbx.locked then 0xFF
  else match (s.hub.proxy.filter fun p => proxyHit src p.2.toNat).head? with
    | some p => 0x80 + natBits p.2.toNat 38 32
    | none => 0xFF

/-! ### The binding table (Table 13-16) -/

def bindOf (s : State) (ch : Nat) : Nat := (fget 0 s.mbx.bind ch).toNat
def bindValid (s : State) (ch : Nat) : Bool := natBit (bindOf s ch) 63
def bindPriv (s : State) (ch : Nat) : Bool := natBit (bindOf s ch) 34
def bindCtrl (s : State) (ch : Nat) : Bool := natBit (bindOf s ch) 33
def bindIrq (s : State) (ch : Nat) : Bool := natBit (bindOf s ch) 32
def bindRecv (s : State) (ch : Nat) : Nat := natBits (bindOf s ch) 15 8
def bindSend (s : State) (ch : Nat) : Nat := natBits (bindOf s ch) 7 0

def State.slot (s : State) (ch : Nat) : Slot := fget {} s.mbx.slots ch
def State.setSlot (s : State) (ch : Nat) (x : Slot) : State :=
  s.updMbx fun m => { m with slots := fset {} m.slots ch x }

/-! ### A write to a slot (R371, R372) -/

def slotBase : Nat := 0x3F0000110000
def inSlots (a : Nat) : Bool := decide (slotBase ≤ a) && decide (a < slotBase + 4096)

/-- The answer to a slot write: 0 accepted, 1 full, 2 refused; a local master sees a bus error for 1 and 2. -/
def slotAnswer (s : State) (w : SlotWrite) (code : Nat) : State :=
  match w.remote with
  | some src => sendMsg s w.via none
      { dest := regionAddr src.id src.region, op := 2, length := 1, mtag := w.mtag, data := leBytes 1 code }
  | none => s.emit (.bus w.master (code == 0) [])

/-- MAILBOX_SLOT_WRITE. -/
def slotWrite (s : State) (w : SlotWrite) : State :=
  let who := match w.remote with
    | some src => proxyId s src
    | none => w.master
  let ch := (w.addr - slotBase) / 16
  if !inSlots w.addr then s
  else if !s.mbx.locked then slotAnswer s w 2
  else if w.addr % 16 ≠ 0 ∨ w.data.length ≠ 16 then slotAnswer (s.updMbx (Mbx.bump 0x28 1)) w 2
  else if !bindValid s ch || who != bindSend s ch then slotAnswer (s.updMbx (Mbx.bump 0x28 1)) w 2
  else if (s.slot ch).full then slotAnswer (s.updMbx (Mbx.bump 0x20 1)) w 1
  else slotAnswer (s.setSlot ch
    { full := true, notice := w.data, at_ := s.hub.cycle, remote := w.remote, via := w.via }) w 0

/-! ### Opcodes (Table 13-6) -/

/-- Size, classes and privilege of an opcode. -/
structure OpRow where
  size : Nat
  classes : List Nat
  priv : Bool
  deriving DecidableEq, Repr

def opRow : Nat → Option OpRow
  | 0x101 => some ⟨32, [0, 1, 2, 3], false⟩
  | 0x102 => some ⟨32, [0, 1, 2, 3], false⟩
  | 0x103 => some ⟨32, [0, 1, 2, 3], false⟩
  | 0x201 => some ⟨128, [0, 1, 2, 3], false⟩
  | 0x202 => some ⟨32, [0, 2], false⟩
  | 0x203 => some ⟨80, [2], false⟩
  | 0x301 => some ⟨64, [0], false⟩
  | 0x302 => some ⟨64, [0], false⟩
  | 0x303 => some ⟨64, [0], false⟩
  | 0x304 => some ⟨64, [0], false⟩
  | 0x305 => some ⟨64, [0], false⟩
  | 0x306 => some ⟨64, [0], false⟩
  | 0x401 => some ⟨144, [0], false⟩
  | 0x402 => some ⟨144, [0], false⟩
  | 0x403 => some ⟨144, [0], false⟩
  | 0x404 => some ⟨144, [0], false⟩
  | 0x405 => some ⟨144, [0], false⟩
  | 0x501 => some ⟨128, [0], true⟩
  | 0x502 => some ⟨48, [0], false⟩
  | 0x503 => some ⟨32, [0], true⟩
  | 0x504 => some ⟨64, [0], true⟩
  | 0x505 => some ⟨64, [0], true⟩
  | 0x506 => some ⟨16, [0], false⟩
  | 0x507 => some ⟨32, [0], true⟩
  | 0x601 => some ⟨96, [0], false⟩
  | 0x602 => some ⟨32, [0], false⟩
  | 0x701 => some ⟨48, [0], false⟩
  | 0x702 => some ⟨48, [0], false⟩
  | 0x703 => some ⟨48, [0], false⟩
  | 0x704 => some ⟨48, [0], false⟩
  | 0x705 => some ⟨48, [0], false⟩
  | 0x706 => some ⟨48, [0], false⟩
  | 0x801 => some ⟨32, [0], true⟩
  | 0x802 => some ⟨32, [0], false⟩
  | 0x803 => some ⟨32, [0], true⟩
  | 0x804 => some ⟨48, [0], true⟩
  | 0x805 => some ⟨80, [0], true⟩
  | 0x806 => some ⟨48, [0], false⟩
  | 0x807 => some ⟨16, [0], false⟩
  | _ => none

/-! ### Acceptance (R376 to R378) -/

/-- Header of Table 13-1, its fields in range. -/
def headerOk (d : List Byte) : Bool :=
  match opRow (fld d 0 2) with
  | some r => decide (fld d 2 1 < 64) && decide (fld d 3 1 < 4) && decide (fld d 4 1 < 4) && r.classes.contains (fld d 5 1)
      && zeros d 6 16
  | none => false

/-- Tags of a channel that name a live or preempted operation. -/
def tagUsed (s : State) (id : OpId) : Bool := s.ops.any fun e => e.id == id

/-- The status with which a notice's descriptor is refused, 0 when it is accepted. -/
def acceptStatus (s : State) (ch : Nat) (notice : List Byte) : Nat :=
  let a := fld notice 0 8
  let size := ((opRow (rdNat s a 2)).map OpRow.size).getD 16
  let d := rdBytes s a size
  if 2 ^ 48 ≤ a then stBOUNDS
  else if fencedSpan s a size then stFENCED
  else if rangeMem a 16 = none ∨ rangeMem a size = none then stBOUNDS
  else if badRange s a size then stPOISON
  else if !zeros notice 12 16 || a % 64 != 0 || !headerOk d || (bindCtrl s ch && fld d 0 2 / 256 != 7)
      || tagUsed s ⟨ch, fld notice 8 4⟩ then stBADDESC
  else if ((opRow (fld d 0 2)).map OpRow.priv).getD false && !bindPriv s ch then stBOUNDS
  else if fencedRegion s (fld d 4 1) then stFENCED
  else stOK

/-- BUCKET of a collective (Table 11-9). -/
def collBucket (d : List Byte) : Nat := fldBits d 0x14 4 17 10

/-- The entry that a notice's descriptor makes. -/
def entryOf (s : State) (ch : Nat) (notice : List Byte) : OpEntry :=
  let a := fld notice 0 8
  let size := ((opRow (rdNat s a 2)).map OpRow.size).getD 16
  let d := rdBytes s a size
  { id := ⟨ch, fld notice 8 4⟩, opcode := fld d 0 2, desc := d, ptr := a, ring := fld d 2 1,
    ordered := natBit (fld d 3 1) 0, resident := natBit (fld d 3 1) 1, region := fld d 4 1, cls := fld d 5 1,
    sender := bindSend s ch, step := s.hub.step, accepted := s.hub.cycle }

/-- An accepted operation joins its queue; a collective that names a bucket promotes the DEFERRED kernels of
that bucket (R281, R282); an UPDATE launch ends the windows of older views, whether or not it is held or
waits for admission (R307, R360). -/
def enqueueOp (s : State) (e : OpEntry) : State :=
  let late := e.opcode == opKERNEL && e.cls == clsDEF && s.hub.buckets.contains (fld e.desc 0x48 1)
  let s0 := if e.isLaunch then endWindows s e else s
  let s1 : State := { s0 with ops := s0.ops ++ [{ e with tooLate := late }] }
  if e.group = 4 then
    let b := collBucket e.desc
    promoteBucket (if b = 0 then s1 else s1.updHub fun h => { h with buckets := h.buckets ++ [b] }) e.step b
  else s1

/-- Rolac, on core `core`, accepts or refuses the operation of a notice. -/
def accept (s : State) (core ch : Nat) (notice : List Byte) : State :=
  let st := acceptStatus s ch notice
  let size := ((opRow (rdNat s (fld notice 0 8) 2)).map OpRow.size).getD 16
  let s := if st = stBOUNDS || st = stFENCED then s else countReads s (fld notice 0 8) size
  if st = stOK then enqueueOp s (entryOf s ch notice)
  else
    let a := fld notice 0 8
    let seen : Bool := !(decide (2 ^ 48 ≤ a) || (rangeMem a 16).isNone || fencedAddr s a || badRange s a 16)
    let e0 := entryOf s ch notice
    let e : OpEntry := { e0 with phase := .finished, stats := [st], desc := [] }
    let e1 := if seen && st != stPOISON then e else { e with opcode := 0, ring := 0 }
    let s1 := if st = stPOISON then chargeEvents s core noFmt 0 [evPoison] else s
    { s1 with refused := s1.refused ++ [e1] }

/-! ### A take (R373 to R375, R382, R383) -/

def waitingCount (s : State) : Nat := (s.ops.filter fun e => !e.isCtrl && e.phase == .waiting).length
def ctrlCount (s : State) : Nat := (s.ops.filter fun e => e.isCtrl && decide (e.id.channel < 256)).length

def isCore (i : Nat) : Bool := decide (0x20 ≤ i) && decide (i < 0x24)

/-- Does the notice in a channel's slot name a control operation? -/
def ctrlNotice (s : State) (ch : Nat) : Bool := bindCtrl s ch || rdNat s (fld (s.slot ch).notice 0 8) 2 / 256 == 7

/-- Does Rolac take a notice from the channel now: while the queues are full only from a CTRL channel (R382), and a
control notice only while fewer than 64 control operations run (R383)? -/
def rolacTakes (s : State) (ch : Nat) : Bool :=
  (bindCtrl s ch || decide (waitingCount s < 1024)) && (!ctrlNotice s ch || decide (ctrlCount s < 64))

/-- The 8-byte empty notice to a remote sender in card mode (R374). -/
def emptyNotice (s : State) (ch tag : Nat) (x : Slot) : State :=
  match x.remote with
  | some src =>
    let m : Msg := { dest := fabAddr src.id (fget 0 s.mbx.notice ch).toNat, srcId := s.hub.deviceId, srcRegion := x.via,
                     op := 0, length := 8, data := leBytes 8 (ch + 2 ^ 16 * s.hub.deviceId + 2 ^ 32 * tag) }
    if src.id = s.hub.deviceId then sendMsg s x.via none m
    else (forward s x.via 0 none m).getD (s.updMbx (Mbx.bump 0x40 1))
  | none => s.updMbx fun m =>
    { m with emptied := fset 0 m.emptied (ch / 64) (fget 0 m.emptied (ch / 64) ||| BitVec.ofNat 64 (2 ^ (ch % 64))) }

/-- The slot empties. -/
def emptySlot (s : State) (ch : Nat) : State :=
  let x := s.slot ch
  let dt := min (2 ^ 32 - 1) (s.hub.cycle - x.at_).toNat
  let s1 := (s.setSlot ch {}).updMbx (Mbx.bump 0x30 1)
  let s2 := if bindIrq s ch && isCore (bindRecv s ch) then
      s1.updMbx fun m => { m with pickupMax := BitVec.ofNat 32 (max m.pickupMax.toNat dt) }
    else s1
  if s.hub.podMode then s2 else emptyNotice s2 ch (fld x.notice 8 4) x

/-- MAILBOX_SLOT_TAKE. -/
def slotTake (s : State) (reader ch : Nat) : State :=
  let x := s.slot ch
  if !bindValid s ch || reader != bindRecv s ch then s.emit (.bus reader false [])
  else if !x.full then s.emit (.bus reader true (List.replicate 16 0))
  else if isCore reader && !rolacTakes s ch then s
  else
    let s1 := (emptySlot s ch).emit (.bus reader true (x.notice.take 15 ++ [0x80]))
    if isCore reader then accept s1 (reader - 0x20) ch x.notice else s1

/-! ### Admission (R381, R398) -/

/-- Has every operation accepted earlier on the channel committed its record? -/
def earlierDone (s : State) (e : OpEntry) : Bool :=
  (s.ops.takeWhile fun x => x.id != e.id).all fun x => x.id.channel != e.id.channel || (x.phase == .preempted)

/-- May a waiting operation be admitted? -/
def admissible (s : State) (e : OpEntry) : Bool :=
  !e.isCtrl && e.phase == .waiting && (!e.ordered || earlierDone s e) && (!s.mbx.quiesced || e.exempt)
    && decide (flightCount s e.region < 256) && decide ((s.ops.filter OpEntry.inFlight).length < 1024)

def toAdmitted (e : OpEntry) : OpEntry :=
  { e with admitted := true, phase := if e.resumed && e.started && e.opcode == opKERNEL then .held else .admitted }

/-- OPERATION_ADMIT. -/
def operationAdmit (s : State) (r : Nat) : State :=
  match s.ops.find? fun e => e.region == r && admissible s e with
  | some e => s.updOp e.id toAdmitted
  | none => s

/-! ### Records (R386 to R389) -/

def State.ring (s : State) (n : Nat) : Ring := fget {} s.mbx.rings n
def State.updRing (s : State) (n : Nat) (f : Ring → Ring) : State :=
  s.updMbx fun m => { m with rings := fupd {} m.rings n f }

def Ring.free (r : Ring) : Bool := decide ((r.tail - r.head).toNat < 2 ^ r.log2)

/-- The ring that takes a record (R379). -/
def ringFor (s : State) (n : Nat) : Option Nat :=
  if (s.ring n).valid then some n else if (s.ring 0).valid then some 0 else none

/-- WARN (Table 13-4). -/
def warnBits (l : List Nat) : Nat :=
  let order := [stOVERLAP, stFROZEN, stPOISON, stLINKDOWN, stTIMEOUT, stSTRAGDEF, stSTRAGDROP, stCORRELATED, stMISMATCH]
  ((order.zip (List.range 9)).map fun x => if l.contains x.1 then 2 ^ x.2 else 0).sum

/-- What a record says, apart from its ring (Table 13-2). -/
structure Record where
  id : OpId
  status : Nat
  opcode : Nat
  ptr : Nat
  step : DWord
  d0 : DWord
  d1 : DWord
  d2 : DWord
  warn : Nat
  reason : Nat
  sender : Nat
  requested : Bool := false
  resumed : Bool := false
  deriving DecidableEq, Repr

/-- The 64 bytes of a record with the given PHASE. -/
def recordBytes (r : Record) (cycle : DWord) (phase : Bool) : List Byte :=
  leBytes 4 r.id.tag ++ leBytes 2 r.status ++ leBytes 2 r.opcode ++ leBytes 8 r.ptr ++ leBytes 8 r.step.toNat
    ++ leBytes 8 r.d0.toNat ++ leBytes 8 r.d1.toNat ++ leBytes 8 r.d2.toNat ++ leBytes 8 cycle.toNat
    ++ leBytes 2 r.warn ++ leBytes 2 r.reason ++ leBytes 1 r.id.channel ++ leBytes 1 r.sender ++ leBytes 1 4
    ++ leBytes 1 (b2n phase + 2 * b2n r.requested + 4 * b2n r.resumed)

/-- Does record n have PHASE 1 (R386)? -/
def phaseBit (n log2 : Nat) : Bool := n / 2 ^ log2 % 2 == 0

/-- May a record for ring `n` be reserved an entry? -/
def canRecord (s : State) (n : Nat) : Bool :=
  match ringFor s n with
  | some k => (s.ring k).free
  | none => true

/-- Write a record into its ring, or discard it when no ring is set up (R379, R387); one for HBM out of service
is not performed (R34). -/
def putRecord (s : State) (n : Nat) (r : Record) : State :=
  match ringFor s n with
  | none => s.updMbx (Mbx.bump 0x48 1)
  | some k =>
    let g := s.ring k
    let a := g.base + 64 * (g.tail.toNat % 2 ^ g.log2)
    if fencedAddr s a then s
    else
      let s1 := memWrite s a (recordBytes r s.hub.cycle (phaseBit g.tail.toNat g.log2))
      (s1.updRing k fun g => { g with tail := g.tail + 1 }).updMbx fun m =>
        { m with ringpend := m.ringpend ||| BitVec.ofNat 64 (2 ^ k) }

/-- The record of an entry. -/
def entryRecord (e : OpEntry) (requested : Bool) : Record :=
  let st := bestStatus e.stats
  { id := e.id, status := st, opcode := e.opcode, ptr := e.ptr, step := e.step, d0 := e.d0, d1 := e.d1,
    d2 := if e.isWork then e.dropped else e.d2, warn := warnBits e.stats,
    reason := if st = stINTERNAL then e.reason else 0, sender := e.sender, requested := requested, resumed := e.resumed }

/-! ### Control operations that wait (R393, R397, R398) -/

def opABORT : Nat := 0x701
def opPREEMPT : Nat := 0x702
def opRESUME : Nat := 0x703
def opQUIESCE : Nat := 0x704
def opUNQUIESCE : Nat := 0x705
def opECHO : Nat := 0x706

/-- The operation that a control body names (Table 13-13). -/
def OpEntry.target (e : OpEntry) : OpId := ⟨fld e.desc 0x14 1, fld e.desc 0x10 4⟩
def OpEntry.scope (e : OpEntry) : Nat := fld e.desc 0x15 1
def OpEntry.remoteReq (e : OpEntry) : Bool := fld e.desc 0x16 1 == 1
def OpEntry.targetId (e : OpEntry) : Nat := fld e.desc 0x18 2

/-- Does an accepted abort or preemption that has not run yet name the operation? -/
def requests (id : OpId) (e : OpEntry) : Bool :=
  (e.opcode == opABORT || e.opcode == opPREEMPT) && e.phase == .waiting && !e.remoteReq
    && (e.target == id || (e.opcode == opABORT && e.scope == 1 && e.target.channel == id.channel))

/-- Has a resumed operation issued again? -/
def resumeIssued (s : State) (id : OpId) : Bool :=
  match s.op? id with
  | some e => !(e.phase == .waiting || e.phase == .admitted || e.phase == .held)
  | none => true

/-- Is an operation that quiescence stops in flight? -/
def quiesceBusy (s : State) : Bool := s.ops.any fun e => e.inFlight && !e.exempt

/-- The outcome of a running control operation whose wait is over. -/
def ctrlDone (s : State) (e : OpEntry) : Option OpEntry :=
  if e.phase == .finished then some e
  else if e.phase != .running || e.sent.isSome then none
  else if e.opcode = opQUIESCE then
    if quiesceBusy s then none
    else some { e with phase := .finished, d0 := BitVec.ofNat 64 e.nAbort, d1 := BitVec.ofNat 64 e.nPreempt }
  else if e.opcode = opRESUME then
    if resumeIssued s e.target then some { e with phase := .finished } else none
  else if e.targets.isEmpty then
    let fr := decide (1 < e.named)
    some { (if e.marked then e else e.addStat stALREADY) with
      phase := .finished, d0 := if fr then BitVec.ofNat 64 (Config.free s.fresh) else BitVec.ofNat 64 (e.seen.getD 0),
      d1 := if fr then BitVec.ofNat 64 (Config.free (s.fresh + 1)) else e.d1 }
  else none

/-- A target's record has been committed with a status: control operations that wait for it go on. -/
def targetGone (s : State) (id : OpId) (st : Nat) : State :=
  { s with ops := s.ops.map fun e =>
      if e.targets.contains id then
        { e with targets := e.targets.filter (· != id), seen := some st,
                 marked := if e.opcode = opPREEMPT then st == stPREEMPTED else e.marked }
      else if requests id e then { e with seen := some st } else e }

/-- Answers to remote requests leave when their outcome is decided (R399): the body of Table 13-14. -/
def flushAnswer (s : State) (e : OpEntry) : State :=
  match e.answer, ctrlDone s e with
  | some (src, seq), some x =>
    let typ := if e.opcode = opABORT then 4 else 3
    let scope := if e.opcode = opUNQUIESCE then 3 else e.scope
    let body := leBytes 1 1 ++ leBytes 1 scope ++ leBytes 1 e.target.channel ++ leBytes 1 0 ++ leBytes 4 e.target.tag
      ++ leBytes 4 seq ++ leBytes 2 (bestStatus x.stats) ++ leBytes 2 0 ++ leBytes 8 x.d0.toNat
    (answerBridle s e.region e.byPort src typ body).dropOp e.id
  | _, _ => s

def flushAnswers (s : State) : State := s.ops.foldl flushAnswer s

/-- May the entry's record be committed: its outcome is decided, its units are quiet, and of an aborted one no message is
on a link any more (R387, R394)? -/
def outcomeOf (s : State) (e : OpEntry) : Option OpEntry :=
  if e.isCtrl then ctrlDone s e
  else if (e.phase == .finished || (e.phase == .aborting && !opInFlight s e.id)) && (e.preempt || !unitsBusy s e.id) then some e
  else none

/-- RECORD_COMMIT. -/
def recordCommit (s : State) (id : OpId) : State :=
  match s.refused.find? fun e => e.id == id with
  | some e =>
    if canRecord s e.ring then
      putRecord { s with refused := s.refused.eraseP fun e => e.id == id } e.ring (entryRecord e false)
    else s
  | none => match s.op? id with
    | some e0 => match outcomeOf s e0 with
      | some e =>
        if canRecord s e.ring then
          let s0 : State := { s with fresh := s.fresh + (if e.named ≤ 1 then 0 else 2) }
          let s1 := putRecord s0 e.ring (entryRecord e (s.ops.any (requests id)))
          let s2 := if e.preempt then
              s1.updOp id fun x => { x with phase := .preempted, preempt := false, admitted := false,
                                            stats := x.stats.filter (· != stPREEMPTED) }
            else (forgetOp s1 id).dropOp id
          flushAnswers (targetGone s2 id (bestStatus e.stats))
        else s
      | none => s
    | none => s

/-- RING_HEAD_POLL: HEAD as the consumer has written it. -/
def ringHeadPoll (s : State) (n : Nat) : State :=
  let g := s.ring n
  if decide (n < 64) && g.valid && !fencedAddr s g.headAddr then
    (countReads s g.headAddr 8).updRing n fun x => { x with head := BitVec.ofNat 64 (rdNat s g.headAddr 8) }
  else s

/-! ### The sample strobe -/

/-- An accepted sample (R40). -/
def strobe (s : State) : State := s.updHub fun h => { h with busy := true, seq := h.seq + 1 }

/-- SAMPLE_STROBE: a write while BUSY is 1 is ignored. -/
def sampleStrobe (s : State) (master : Nat) : State :=
  if localId master then (if s.hub.busy then s else strobe s).emit (.bus master true [])
  else s.emit (.bus master false [])

/-- SAMPLE_LATCH_DONE: the five latches. -/
def latchDone (s : State) : State :=
  if s.hub.busy then
    (List.range 4).foldl (fun s r => s.updRegion r fun g => { g with latch := g.cycle, seq := g.seq + 1 })
      (s.updHub fun h => { h with latch := h.cycle, busy := false })
  else s

def execMailboxSlotWrite (w : SlotWrite) (s : State) : Res :=
  .next (if w.remote.isSome || localId w.master then slotWrite s w else s)
def execMailboxSlotTake (reader channel : Nat) (s : State) : Res :=
  .next (if channel < 256 then slotTake s reader channel else s)
def execOperationAdmit (region : Nat) (s : State) : Res := .next (operationAdmit s region)
def execRecordCommit (o : OpId) (s : State) : Res := .next (if o.channel < 256 then recordCommit s o else s)
def execRingHeadPoll (ring : Nat) (s : State) : Res := .next (ringHeadPoll s ring)
def execSampleStrobe (master : Nat) (s : State) : Res := .next (sampleStrobe s master)
def execSampleLatchDone (s : State) : Res := .next (latchDone s)

end Sys2Proof.Machine
end

