-- ==== Sys2Proof/Machine/Girth.lean ====
section
/-! DEFINITION. Girth: the checks of a schedule image (R290) and the scalars of a step (R288, R291).  FP64 is followed
operation by operation where a segment's factor of u is exact, and else by an interval about the exact value; where that
leaves the rounding to FP32 open, the scalar is a free value (log entry 20). -/

namespace Sys2Proof.Machine

/-! ### The image (Tables 10-5, 10-6) -/

def gthImageBytes : Nat := 4224

/-- SEGS and OP of a channel. -/
def gthSegs (img : List Byte) (n : Nat) : Nat := fld img (16 * n) 1
def gthOp (img : List Byte) (n : Nat) : Nat := fld img (16 * n + 1) 1

/-- A segment. -/
structure GSeg where
  start : Nat
  len : Nat
  v0 : Word
  v1 : Word
  p : Word
  kind : Nat
  raw : Nat
  deriving DecidableEq, Repr

def gthSeg (img : List Byte) (n k : Nat) : GSeg :=
  let o := 0x80 + 512 * n + 32 * k
  { start := fld img o 8, len := fld img (o + 8) 8, v0 := BitVec.ofNat 32 (fld img (o + 0x10) 4),
    v1 := BitVec.ofNat 32 (fld img (o + 0x14) 4), p := BitVec.ofNat 32 (fld img (o + 0x18) 4),
    kind := fld img (o + 0x1C) 1, raw := fld img o 32 }

def gthList (img : List Byte) (n : Nat) : List GSeg := (List.range (gthSegs img n)).map (gthSeg img n)

/-- Is an FP32 value finite? -/
def finite32 (w : Word) : Bool := (f32 w).isFinite

/-- Is an FP32 value in [0, 1)? -/
def unit32 (w : Word) : Bool := Val.zero.le (f32 w) && (f32 w).lt Val.one

/-- The checks of one segment (Table 10-6, R290). -/
def segOk (op : Nat) (g : GSeg) : Bool :=
  finite32 g.v0 && finite32 g.v1 && finite32 g.p && decide (g.kind ≤ 4) && decide (g.raw / 2 ^ 232 = 0)
    && (if g.kind = 0 then g.len == 0 && g.v1 == 0 else decide (0 < g.len))
    && (if g.kind = 2 then Val.zero.lt (f32 g.p)
        else if g.kind = 4 then Val.one.le (f32 g.p) else g.p == 0)
    && (op != 1 || (unit32 g.v0 && unit32 g.v1))

def rising : List Nat → Bool
  | a :: b :: t => decide (a < b) && rising (b :: t)
  | _ => true

/-- The loader takes the image (R290); segments that are not in use are not looked at. -/
def gthImageOk (img : List Byte) : Bool :=
  (List.range 8).all fun n =>
    decide (gthSegs img n ≤ 16) && decide (gthOp img n ≤ 1) && zeros img (16 * n + 2) (16 * n + 16)
      && (gthList img n).all (segOk (gthOp img n)) && rising ((gthList img n).map GSeg.start)

/-! ### The scalars (R291) -/

/-- `n` nested terms of the cosine series from term `k`, at the square of the argument. -/
def cosNest : Nat → Nat → Int → Int
  | 0, _, _ => fxOne
  | n + 1, k, x2 => fxOne - fxMul x2 (cosNest n (k + 1) x2) / ((2 * k - 1 : Nat) * (2 * k : Nat) : Int)

/-- cos πu for u in [0, 1]. -/
def fxCosPi (u : Int) : Int :=
  if u = 0 then fxOne else if u = fxOne then -fxOne
  else let x := fxMul fxPi u; cosNest 110 1 (fxMul x x)

/-- A finite FP32 value in fixed point, exactly. -/
def fx32 (w : Word) : Int :=
  match f32 w with
  | .fin s m e => fxOf s m e
  | _ => 0

/-- (1 − u)^P. -/
def fxPowOne (u : Int) (p : Word) : Int :=
  let r := fxOne - u
  if r ≤ 0 then 0 else if u = 0 then fxOne else fxExpTail (fxMul (fx32 p) (fxLog r))

/-- ⌊n × 2^q⌋, where n × 2^q was computed in FP64: exact when n has at most 53 significant bits; otherwise a free value
among the floors within the error of the FP64 power and product. -/
def floor64 (key n : Nat) (q : Int) : Nat :=
  let sh (v : Nat) : Nat := if 0 ≤ q then v * 2 ^ q.toNat else v / 2 ^ (-q).toNat
  if n < 2 ^ 53 then sh n
  else
    let lo := sh (n - n / 2 ^ 48)
    lo + Config.tableTie 0x111 (key * 2 ^ 64 + n % 2 ^ 64) % (sh (n + n / 2 ^ 48) - lo + 1)

/-- Length of cycle k: the greatest of 1 and ⌊LEN × P^k⌋. -/
def cycleLen (len : Nat) (p : Word) (k : Nat) : Nat :=
  match f32 p with
  | .fin _ m e => max 1 (floor64 k (len * m ^ k) (e * (k : Int)))
  | _ => 1

/-- Position and length of the cycle that holds `pos`; `fuel` is above `pos`. -/
def restartAt (len : Nat) (p : Word) : Nat → Nat → Nat → Nat × Nat
  | 0, _, _ => (0, 1)
  | fuel + 1, k, pos =>
    let l := cycleLen len p k
    if pos < l then (pos, l) else restartAt len p fuel (k + 1) (pos - l)

def fxRatio (a b : Nat) : Int := (a : Int) * fxOne / (b : Int)

/-- The value of the COSINE rule at u. -/
def fxCosine (v0 v1 : Int) (u : Int) : Int := v1 + fxMul (v0 - v1) ((fxOne + fxCosPi u) / 2)

/-- The value of a segment other than CONSTANT at step t, in fixed point. -/
def segValue (g : GSeg) (t : Nat) : Int :=
  let d := t - g.start
  let u := if g.len ≤ d then fxOne else fxRatio d g.len
  let (a, b) := (fx32 g.v0, fx32 g.v1)
  match g.kind with
  | 1 => a + fxMul (b - a) u
  | 2 => b + fxMul (a - b) (fxPowOne u g.p)
  | 3 => fxCosine a b u
  | _ =>
    let (q, l) := if g.p = 0x3F800000 then (d % g.len, g.len) else restartAt g.len g.p (d + 1) 0 d
    fxCosine a b (fxRatio q l)

/-- Round an approximation with the given error to FP32; a free value where the two ends differ. -/
def gthRound (key arg : Nat) (v err : Int) : Word :=
  if v = 0 then 0
  else
    let lo := fxRound .near (v - err)
    let hi := fxRound .near (v + err)
    if lo = hi then lo else BitVec.ofNat 32 (Config.tableTie key arg)

/-! ### FP64 -/

/-- The layout code of FP64. -/
def fFP64 : Nat := 13

def to64 (v : Val) : Val := (roundTo fFP64 v).1

/-- min(1, d ÷ LEN) in FP64. -/
def unit64 (d len : Nat) : Val :=
  if len ≤ d then .one else (divTo fFP64 (to64 (.fin false d 0)) (to64 (.fin false len 0))).1

/-- A power with a natural exponent, where FP64 holds it exactly. -/
def exactPow (r : Val) (p : Word) : Option Val :=
  match r, f32 p with
  | .fin _ m e, .fin _ n k =>
    let x := if 0 ≤ k then n * 2 ^ k.toNat else n / 2 ^ (-k).toNat
    let whole : Bool := decide (0 ≤ k) || decide (n % 2 ^ (-k).toNat = 0)
    if m = 0 then some .zero
    else if m = 2 ^ Nat.log2 m then (if whole then some (.fin false 1 ((e + Nat.log2 m) * x)) else none)
    else if whole && decide (x ≤ 53) && decide (m ^ x < 2 ^ 53) then some (.fin false (m ^ x) (e * x)) else none
  | _, _ => none

/-- (1 + cos πu) ÷ 2 where FP64 gives it without error: at 0, 1/2 and 1. -/
def exactCos (u : Val) : Option Val :=
  if u.isZero then some .one
  else if u.eqv .one then some .zero
  else if u.eqv (.fin false 1 (-1)) then some (.fin false 1 (-1))
  else none

/-- base + (other − base) × f in FP64, then in FP32; a free bit where a fused product would round otherwise. -/
def lerp64 (key arg : Nat) (base other f : Val) : Word :=
  let d := to64 (other.sub base).1
  let two := toF32 (to64 (base.add (to64 (d.mul f).1)).1)
  let fused := toF32 (to64 (d.fma f base).1)
  if two = fused ∨ Config.tableTie key arg % 2 = 0 then two else fused

/-- Value and factor of a segment whose factor FP64 holds exactly: the base, the other end and the factor. -/
def exactForm (g : GSeg) (t : Nat) : Option (Val × Val × Val) :=
  let d := t - g.start
  let (a, b) := (f32 g.v0, f32 g.v1)
  let u := unit64 d g.len
  match g.kind with
  | 1 => some (a, b, u)
  | 2 => (exactPow (to64 (Val.one.sub u).1) g.p).map fun f => (b, a, f)
  | 3 => (exactCos u).map fun f => (b, a, f)
  | _ =>
    let (q, l) := if g.p = 0x3F800000 then (d % g.len, g.len) else restartAt g.len g.p (d + 1) 0 d
    (exactCos (unit64 q l)).map fun f => (b, a, f)

/-- The value of a segment other than CONSTANT at step t (R291). -/
def segScalar (g : GSeg) (t : Nat) : Word :=
  let key := 0x100 + g.kind
  let arg := g.raw * 2 ^ 64 + t
  match exactForm g t with
  | some (base, other, f) => lerp64 key arg base other f
  | none => gthRound key arg (segValue g t) ((((fx32 g.v0).natAbs + (fx32 g.v1).natAbs : Nat) : Int) / 2 ^ 48)

/-- The FP32 value that a channel schedules for step t. -/
def scheduled (img : List Byte) (n t : Nat) : Word :=
  let segs := gthList img n
  match segs.head? with
  | none => 0
  | some g0 =>
    let t' := max t g0.start
    let g := ((segs.filter fun g => decide (g.start ≤ t')).getLast?).getD g0
    if g.kind = 0 then g.v0 else segScalar g t'

/-- 1 ÷ (1 − s^t). -/
def biasCorrect (s : Word) (t : Nat) : Word :=
  let x := fx32 s
  if x = 0 then 0x3F800000
  else
    let p := fxExpTail ((t : Int) * fxLog x)
    if p = fxOne then BitVec.ofNat 32 (Config.tableTie 0x110 (s.toNat * 2 ^ 64 + t))
    else
      let v := fxDiv fxOne (fxOne - p)
      gthRound 0x110 (s.toNat * 2 ^ 64 + t) v (fxMul v v / 2 ^ 50)

/-- The scalar of channel n for step t; +0 for a disabled channel. -/
def gthScalar (img : List Byte) (n t : Nat) : Word :=
  if gthSegs img n = 0 then 0
  else
    let w := scheduled img n t
    if gthOp img n = 1 then biasCorrect w t else w

/-- The parameter block (Table 10-4). -/
def gthBlock (outs : List Word) (step gen : Nat) : List Byte :=
  outs.flatMap (fun w => leBytes 4 w.toNat) ++ leBytes 8 step ++ leBytes 8 gen ++ List.replicate 16 0

/-- One copy of the block, where its memory is in service and in no residency pool (R34, R271). -/
def gthCopy (a : Nat) (b : List Byte) (s : State) : State :=
  if localSpan s false (a, b.length) = stOK then memWrite s a b else s

/-- Girth at the opening of step t: a schedule that waits takes effect, and the scalars of the one in use are
written to every live block and to HBM. -/
def gthOpen (s : State) (t : Nat) : State :=
  let s1 := match s.gth.next with
    | some (img, off, a) => s.updGth fun g => { g with image := some img, blkOffset := off, hbmAddr := a, next := none }
    | none => s
  match s1.gth.image with
  | none => s1
  | some img =>
    let outs := (List.range 8).map fun n => gthScalar img n t
    let b := gthBlock outs t s1.gth.gen.toNat
    let s2 := (List.range 20).foldl
      (fun s k => if fencedBlock s k then s else gthCopy (blkAddr k + s1.gth.blkOffset) b s) s1
    let s3 := if s1.gth.hbmAddr = 0 then s2 else gthCopy s1.gth.hbmAddr b s2
    s3.updGth fun g => { g with stepOut := BitVec.ofNat 64 t, out := fsets 0 [] 0 outs }

end Sys2Proof.Machine
end

