-- ==== Sys2Proof/Machine/Special.lean ====
section
/-! DEFINITION. The special-function family (Table 6-1): evaluations, row statistics and normalisation,
soft maximum, row scaling and scans; and the issue of a stream instruction's next chunk. -/

namespace Sys2Proof.Machine

/-! ### Parameter blocks (R175, R176, Table 6-2) -/

/-- A parameter block. -/
structure PBlk where
  rows : Nat := 0
  flags : Nat := 0
  mask : Nat := 0
  aux0 : Nat := 0
  aux1 : Nat := 0
  p0 : Nat := 0
  sc0 : Nat := 0
  sc1 : Nat := 0
  deriving DecidableEq, Repr

def readPBlk (s : State) (a : Nat) : PBlk :=
  { rows := rdNat s a 4, flags := rdNat s (a + 4) 4, mask := rdNat s (a + 8) 8, aux0 := rdNat s (a + 0x10) 8
    aux1 := rdNat s (a + 0x18) 8, p0 := rdNat s (a + 0x20) 4, sc0 := rdNat s (a + 0x28) 8
    sc1 := rdNat s (a + 0x30) 8 }

/-- The parameter block of a context's instruction. -/
def pblkOf (s : State) (cx : Cx) (f : Vs) : PBlk := readPBlk s (sget (s.ctx cx) f.c).toNat

/-- A value of P0 in range: finite, and at least +0 or above 0. -/
def p0Ok (w : Nat) (pos : Bool) : Bool :=
  let v := decodeFp 0 w
  v.isFinite && !v.neg? && (!pos || !v.isZero)

/-- The fields of the block that an opcode uses hold values in range, and the others are 0. -/
def pblkOk (opc : Nat) (sB : Bool) (b : PBlk) (z : Bool) : Bool :=
  let sc0 := decide (b.sc0 = 0)
  let sc1 := decide (b.sc1 = 0)
  decide (0 < b.rows) && decide (b.rows ≤ 65536) && z &&
    match opc with
    | 0xE4 => decide (b.flags = 0) && decide (b.aux0 = 0) && decide (b.aux1 = 0) && p0Ok b.p0 false && sc0 && sc1
    | 0xE5 => decide (b.flags = 0) && decide (b.p0 = 0) && (sc0 || (sB && decide (b.aux0 ≠ 0)))
        && (sc1 || (sB && decide (b.aux1 ≠ 0)))
    | 0xE8 => decide (b.flags < 4) && decide (b.aux0 = 0) && decide (b.aux1 = 0) && p0Ok b.p0 true && sc0 && sc1
    | 0xEA => decide (b.flags < 3) && decide (b.aux1 = 0) && decide (b.p0 = 0)
        && (decide (b.flags = 2) || decide (b.aux0 = 0)) && sc1
        && (sc0 || (sB && decide (b.flags = 2) && decide (b.aux0 ≠ 0)))
    | _ => decide (b.flags < 2) && decide (b.p0 = 0) && sc0 && sc1

/-- A tensor that the block names. -/
def auxOpnd (s : State) (cx : Cx) (f : Vs) (a sc : Nat) : Opnd :=
  ⟨a, Fmt.ofDesc (s.cell cx.cell) f.fb, sc⟩

/-- Record streams of an opcode: register field and bytes per row. -/
def recReach (s : State) (cx : Cx) (opc : Nat) (f : Vs) (rows : Nat) : Bool :=
  let c := s.ctx cx
  match opc with
  | 0xE4 => reach s cx (sget c f.d).toNat (16 * rows)
  | 0xE5 => reach s cx (sget c f.b).toNat (16 * rows)
  | 0xE8 => reach s cx (sget c f.b).toNat (32 * rows)
  | 0xEA => reach s cx (sget c f.b).toNat (32 * rows)
  | _ => true

/-- Do the mask stream and the record streams begin at multiples of 64 (R141, R175)? -/
def recAligned (s : State) (cx : Cx) (opc : Nat) (f : Vs) (b : PBlk) : Bool :=
  decide (b.mask % 64 = 0) &&
    match opc with
    | 0xE4 => stAligned s cx f.d
    | 0xE5 => stAligned s cx f.b
    | 0xE8 => stAligned s cx f.b
    | 0xEA => stAligned s cx f.b
    | _ => decide (b.aux0 % 64 = 0) && decide (b.aux1 % 64 = 0)

/-- Checks of a row-wise instruction. -/
def rowCheck (s : State) (cx : Cx) (opc : Nat) (f : Vs) : Option Nat :=
  let a := (sget (s.ctx cx) f.c).toNat
  let dest := opc != 0xE4
  let src2 := opc == 0xEC
  if f.t ≠ 0 ∨ f.bb ∨ f.ms ∨ a % 64 ≠ 0 then some stBADDESC
  else if !(inMem (.cell cx.cell) a 64) then some stBOUNDS
  else if badRange s a 64 then some stPOISON
  else
    let b := readPBlk s a
    let z := zeros (rdBytes s a 64) 0x24 0x28 && zeros (rdBytes s a 64) 0x38 0x40
    let sB := (Fmt.ofDesc (s.cell cx.cell) f.fb).scaled
    let usesA0 := b.aux0 ≠ 0 ∧ (opc = 0xE5 ∨ opc = 0xEA)
    let usesA1 := b.aux1 ≠ 0 ∧ opc = 0xE5
    let z0 := decide (opc = 0xEA ∧ b.flags = 2)
    if !(pblkOk opc sB b z) then some stBADDESC
    else if !(stForm s cx f.a f.fa && (!dest || stForm s cx f.d f.fd) && (!src2 || stForm s cx f.b f.fb)
        && (!(decide usesA0 || z0) || decide (b.aux0 % 64 = 0)) && (!(decide usesA1) || decide (b.aux1 % 64 = 0))
        && recAligned s cx opc f b) then
      some stBADDESC
    else if !(rowReach s cx f.a f.fa f.blk b.rows f.n && (!dest || rowReach s cx f.d f.fd f.blk b.rows f.n)
        && (!src2 || rowReach s cx f.b f.fb f.blk b.rows f.n)
        && recReach s cx opc f b.rows
        && (!(decide (opc = 0xE5 ∧ b.aux0 ≠ 0)) || opReach s cx (auxOpnd s cx f b.aux0 b.sc0) false 1 f.n)
        && (!(decide usesA1) || opReach s cx (auxOpnd s cx f b.aux1 b.sc1) false 1 f.n)
        && (!z0 || opReach s cx (auxOpnd s cx f b.aux0 b.sc0) f.blk b.rows f.n)
        && (!(src2 && decide (b.aux0 ≠ 0)) || reach s cx b.aux0 (8 * b.rows))
        && (!(src2 && decide (b.aux1 ≠ 0)) || reach s cx b.aux1 (8 * b.rows))
        && (decide (b.mask = 0) || reach s cx b.mask (b.rows * ceilDiv f.n 8))) then some stBOUNDS
    else none

/-- Checks of FEVAL, FEVALX (`two` false) and FREFINE. -/
def evalCheck (s : State) (cx : Cx) (f : Vs) (two : Bool) : Option Nat :=
  if f.t ≠ 0 ∨ f.bb ∨ f.blk then some stBADDESC
  else if two ∧ fmtOf (s.cell cx.cell) f.fd ≠ fFP32 then some stBADDESC
  else if !(stForm s cx f.a f.fa && stForm s cx f.d f.fd && (!two || stForm s cx f.b f.fd)
      && (!f.ms || stAligned s cx f.c)) then some stBADDESC
  else if !(stReach s cx f.a f.fa f.n && stReach s cx f.d f.fd f.n && (!two || stReach s cx f.b f.fd f.n)
      && (!f.ms || reach s cx (sget (s.ctx cx) f.c).toNat (ceilDiv f.n 8))) then some stBOUNDS
  else none

/-! ### Results on their way to memory -/

/-- A result with the events counted before its encoding, and the set of classes that the encoding no
longer counts (bit c for class c). -/
structure SfRes where
  v : Val
  pre : List (Nat × Nat) := []
  mask : Nat := 0
  deriving DecidableEq, Repr

/-- All classes. -/
def allClasses : Nat := 1023

/-- A result whose classes are each counted once (R66). -/
def sfRes (fm : Nat) (v : Val) (pre : List (Nat × Nat)) : SfRes :=
  { v := v, pre := once pre, mask := classMask fm pre }

/-- The result of an evaluation: the event of R184 is the only one. -/
def evRes (fm : Nat) (r : Ev) (pre : List (Nat × Nat)) : SfRes :=
  match r.fixed with
  | some l => { v := r.res, pre := once (pre ++ tagEv fm l), mask := allClasses }
  | none => sfRes fm r.res pre

def SfRes.left (fm mask : Nat) (es : List Nat) : List (Nat × Nat) :=
  tagEv fm (es.filter fun c => !natBit mask c)

/-- Write codes of row `r` of a blocked tensor of pitch `p` from column `c0` on, a multiple of 32. -/
def putBlkRow (cx : Cx) (o : Opnd) (p r : Nat) (s : State) (c0 : Nat) (cs : List (Option Nat)) : State :=
  let bb := blockBytes o.fmt.code
  let at_ (b : Nat) : Nat := o.base + (r / 32 * p + b) * bb + r % 32 * (bb / 32)
  (List.range (ceilDiv cs.length 32)).foldl
    (fun s b => kWriteElems s cx (at_ (c0 / 32 + b)) o.fmt.bits 0 ((cs.drop (32 * b)).take 32)) s

/-- The elements of a row of a blocked tensor that the spec leaves unspecified (R150). -/
def scrambleBlkRow (cx : Cx) (o : Opnd) (p r : Nat) (act : List Bool) (s : State) : State :=
  let q := freeCodes o.fmt.bits act s
  let s1 := putBlkRow cx o p r q.2 0 q.1
  if o.fmt.scaled then
    (List.range (ceilDiv act.length 128)).foldl (fun s g =>
      if ((act.drop (128 * g)).take 128).any id then kWrite s.draw.2 cx (o.scale + r * (p / 4) + g) [BitVec.ofNat 8 s.draw.1]
      else s) s1
  else s1

/-- Store one row of a blocked tensor of pitch `p`; answers the encoding events of each element. -/
def storeBlkRow (s : State) (cx : Cx) (o : Opnd) (si p r : Nat) (vals : List (Option Res1)) :
    State × List (List Nat) :=
  let put := putBlkRow cx o p r
  if o.fmt.scaled then
    (List.range (ceilDiv vals.length 128)).foldl (fun (acc : State × List (List Nat)) g =>
      let vs := (vals.drop (128 * g)).take 128
      let act := vs.filterMap id
      if act.isEmpty then (acc.1, acc.2 ++ vs.map fun _ => [])
      else
        let sc := if natBit si 63 then natBits si 55 48 else computeScale o.fmt (act.map Res1.v)
        let eg := encodeGroup o.fmt (fun _ => .ne) sc (vs.map fun r => (r.getD ⟨Val.zero, none⟩).v)
        let ng := nanGroup o.fmt (act.map Res1.v)
        let s1 := put acc.1 (128 * g) ((vs.zip eg.elems).map fun q => q.1.map fun _ => q.2.1)
        (kWrite s1 cx (o.scale + r * (p / 4) + g) [BitVec.ofNat 8 (if ng then 255 else sc)],
          acc.2 ++ (vs.zip eg.elems).map fun q => if q.1.isSome then q.2.2 else []))
      (s, [])
  else
    let enc := vals.map fun r => r.map fun r => let (c, e, _) := o.fmt.encode .ne r.v; (c, e)
    (put s 0 (enc.map fun q => q.map Prod.fst), enc.map fun q => (q.map Prod.snd).getD [])

/-- Charge the events of stored elements and count their values. -/
def sfCharge (s : State) (cx : Cx) (f : Vs) (fm : Nat) (rs : List (Option SfRes)) (es : List (List Nat)) :
    State :=
  let l := (rs.zip es).flatMap fun p => match p.1 with
    | some r => SfRes.left fm r.mask p.2
    | none => []
  countValues (vecPairs s cx f.g l) (cx.cell / 40) fm f.g (rs.filter Option.isSome).length

/-- A held element of a scale group that a later row completes. -/
def heldOf (r : Option SfRes) : PendEl :=
  match r with
  | none => ⟨3, 0, 0⟩
  | some r => ⟨0, ((encodeFp 0 .ne r.v).1 : Int), r.mask⟩

def ofHeld (p : PendEl) : Option SfRes :=
  if p.kind = 3 then none else some { v := decodeFp 0 p.bits.toNat, mask := p.seen }

/-- Does a row-wise instruction's destination overlap a source or its mask stream other than in place (R150)? -/
def rowClash (s : State) (cx : Cx) (t : Stream) : Bool :=
  let f := t.f
  let b := pblkOf s cx f
  let d := stOpnd s cx f.d f.fd
  let both (o : Opnd) (blk : Bool) (rows : Nat) : Bool :=
    [d.data f.blk b.rows f.n, d.scales f.blk b.rows f.n].any fun x => x.meets (o.data blk rows f.n) || x.meets (o.scales blk rows f.n)
  d.clash (stOpnd s cx f.a f.fa) f.blk b.rows f.n
    || (t.opc == 0xEC && d.clash (stOpnd s cx f.b f.fb) f.blk b.rows f.n)
    || (t.opc == 0xE5 && decide (b.aux0 ≠ 0) && both (auxOpnd s cx f b.aux0 b.sc0) false 1)
    || (t.opc == 0xE5 && decide (b.aux1 ≠ 0) && both (auxOpnd s cx f b.aux1 b.sc1) false 1)
    || (t.opc == 0xEA && decide (b.flags = 2) && d.clash (auxOpnd s cx f b.aux0 b.sc0) f.blk b.rows f.n)
    || (decide (b.mask ≠ 0) && (d.data f.blk b.rows f.n).meets (b.mask, b.rows * ceilDiv f.n 8))

/-- Store one row of results. In a linear scaled destination the elements of an incomplete scale group wait
for the next row. -/
def sfPutRow (s : State) (cx : Cx) (t : Stream) (last : Bool) (rs : List (Option SfRes)) : State × Stream :=
  let f := t.f
  let o := stOpnd s cx f.d f.fd
  let fm := o.fmt.code
  let si := stScaleWord s cx f.d
  let pre := rs.flatMap fun r => (r.map SfRes.pre).getD []
  let s0 := kPoison (vecPairs s cx f.g pre) cx pre
  let one (r : Option SfRes) : Option Res1 := r.map fun r => ⟨r.v, none⟩
  let open_ := rowClash s cx t
  if f.blk then
    let (s1, es) := storeBlkRow s0 cx o si (pitchOf fm f.n) t.row (rs.map one)
    let s2 := sfCharge s1 cx f fm rs es
    (if open_ then scrambleBlkRow cx o (pitchOf fm f.n) t.row (rs.map Option.isSome) s2 else s2, t)
  else if o.fmt.scaled then
    let all := t.pend.map ofHeld ++ rs
    let n := if last then all.length else all.length / 128 * 128
    let now := all.take n
    let i0 := t.row * f.n - t.pend.length
    let (s1, es) := storeElems s0 cx o si false .ne i0 (now.map one)
    let s2 := sfCharge s1 cx f fm now es
    (if open_ then scramble cx o i0 (now.map Option.isSome) s2 else s2, { t with pend := (all.drop n).map heldOf })
  else
    let (s1, es) := storeElems s0 cx o si false .ne (t.row * f.n) (rs.map one)
    let s2 := sfCharge s1 cx f fm rs es
    (if open_ then scramble cx o (t.row * f.n) (rs.map Option.isSome) s2 else s2, t)

/-! ### Reading rows and records -/

/-- Is element `i` of row `r` active under the block's mask stream (R156)? -/
def pbActive (s : State) (b : PBlk) (n r i : Nat) : Bool :=
  b.mask = 0 || bitAt s b.mask (r * (8 * ceilDiv n 8) + i)

/-- Poison reads of a row's mask bits (R154). -/
def pbPoison (s : State) (cx : Cx) (b : PBlk) (f : Vs) (r : Nat) : State :=
  let evs := if b.mask = 0 then [] else bitPoison s b.mask (r * (8 * ceilDiv f.n 8)) f.n
  kPoison (vecPairs s cx f.g evs) cx evs

/-- Element `i` of row `r` in FP32, with the event of a poison read, and those of its conversion charged to `fm`. -/
def rowVal (s : State) (o : Opnd) (fm : Nat) (blk : Bool) (n r i : Nat) : Val × List (Nat × Nat) :=
  let (v, p) := o.rowElem s blk n r i
  let (x, e) := roundTo fFP32 v
  (x, (if p then [(o.fmt.code, evPoison)] else []) ++ tagEv fm e)

/-- The 32-bit words of a record, none for a poisoned one, and whether any is. -/
def readRec (s : State) (a n : Nat) : List (Option Word) × Bool :=
  let ws := (List.range n).map fun i =>
    if badRange s (a + 4 * i) 4 then none else some (BitVec.ofNat 32 (rdNat s (a + 4 * i) 4))
  (ws, ws.any Option.isNone)

def recF (r : List (Option Word)) (i : Nat) : Val :=
  match r.getD i none with
  | some w => f32 w
  | none => .nan
def recU (r : List (Option Word)) (i : Nat) : Nat := ((r.getD i none).getD 0).toNat

/-- The poison read of a record (R66: tag 0). -/
def recPoison (s : State) (cx : Cx) (p : Bool) : State :=
  if p then kStat (vecEvents s cx noFmt 0 [evPoison]) cx stPOISON else s

def wordsBytes (ws : List Word) : List Byte := ws.flatMap fun w => leBytes 4 w.toNat

/-- Is the family's chunk 1,024 elements (R175)? -/
def sfChunk (s : State) (cx : Cx) (opc : Nat) (f : Vs) : Nat :=
  let c := s.cell cx.cell
  let small (i : Nat) : Bool := decide (fmtBits (fmtOf c i) ≤ 16)
  let b := pblkOf s cx f
  let aux := (opc == 0xE5 && (decide (b.aux0 ≠ 0) || decide (b.aux1 ≠ 0))) || (opc == 0xEA && decide (b.flags = 2))
  if opc = 0xE4 then (if small f.fa then 1024 else 512)
  else if small f.fa && small f.fd && (!aux || small f.fb) then 1024 else 512

def sfBump (off n : Nat) (s : State) (cx : Cx) : State := s.updCell cx.cell (Cell.bump off n)

/-- After a row: the next one, or past the instruction. -/
def sfNextRow (s : State) (cx : Cx) (t : Stream) (last : Bool) : State :=
  s.updCtx cx fun c =>
    if last then { c with stream := none }.advance else { c with stream := some { t with row := t.row + 1 } }

/-! ### FEVAL, FEVALX, FREFINE -/

/-- One chunk of FEVAL or FEVALX. -/
def evalChunk (s : State) (cx : Cx) (t : Stream) : State :=
  let f := t.f
  let len := sfChunk s cx t.opc f
  let is := chunkElems f len t.pos
  let cv := fget {} (s.cell cx.cell).curves f.fb
  let o := stOpnd s cx f.d f.fd
  let fm := o.fmt.code
  let rs := is.map fun i =>
    if stActive s cx f 0 i then
      let x := srcElem s (stOpnd s cx f.a f.fa) 0 fm i
      some (evRes fm (if t.opc = 0xE1 then evalTimes cv x.1 else evalSlot cv x.1) x.2)
    else none
  let pre := maskPoison s cx f 0 is ++ rs.flatMap fun r => (r.map SfRes.pre).getD []
  let s0 := kPoison (vecPairs s cx f.g pre) cx pre
  let (s1, es) := storeElems s0 cx o (stScaleWord s cx f.d) f.ms .ne (is.headD 0)
    (rs.map fun r => r.map fun r => ⟨r.v, none⟩)
  let s2 := sfBump 0x1400 (rs.filter Option.isSome).length (sfCharge s1 cx f fm rs es) cx
  nextChunk (if ewClash s cx t o then scramble cx o (is.headD 0) (rs.map Option.isSome) s2 else s2) cx (decide ((t.pos + 1) * len < f.n))

/-- One chunk of FREFINE: SEED to s[SD], SLOPE to s[SB]. -/
def refineChunk (s : State) (cx : Cx) (t : Stream) : State :=
  let f := t.f
  let len := 512
  let is := chunkElems f len t.pos
  let cv := fget {} (s.cell cx.cell).curves f.fb
  let rs := is.map fun i =>
    if stActive s cx f 0 i then
      let x := srcElem s (stOpnd s cx f.a f.fa) 0 fFP32 i
      let r := refine cv (toF32 x.1)
      some (r.res, r.slope, once (x.2 ++ tagEv fFP32 (r.fixed.getD [])))
    else none
  let pre := maskPoison s cx f 0 is ++ rs.flatMap fun r => (r.map fun r => r.2.2).getD []
  let word (v : Val) : Nat := (encodeFp 0 .ne v).1
  let s0 := kPoison (vecPairs s cx f.g pre) cx pre
  let s1 := kWriteElems s0 cx (sget (s.ctx cx) f.d).toNat 32 (is.headD 0) (rs.map fun r => r.map fun r => word r.1)
  let s2 := kWriteElems s1 cx (sget (s.ctx cx) f.b).toNat 32 (is.headD 0)
    (rs.map fun r => r.map fun r => word r.2.1)
  let n := (rs.filter Option.isSome).length
  let s3 := sfBump 0x1408 n (countValues s2 (cx.cell / 40) fFP32 f.g (2 * n)) cx
  -- a destination that overlaps the source other than in place (R150)
  let open_ (r : Nat) (s : State) : State :=
    let d : Opnd := ⟨(sget (s.ctx cx) r).toNat, Fmt.plain fFP32, 0⟩
    if ewClash s cx t d then scramble cx d (is.headD 0) (rs.map Option.isSome) s else s
  nextChunk (open_ f.b (open_ f.d s3)) cx (decide ((t.pos + 1) * len < f.n))

/-! ### RSTAT (R192 to R194) -/

def f32add (a b : Val) : Val := (rounded fFP32 (a.add b)).1
def f32fma (a b c : Val) : Val := (rounded fFP32 (a.fma b c)).1

/-- One element into its lane's sums. -/
def statLane (k : Val) (a : Option (Val × Val)) (x : Option Val) : Option (Val × Val) :=
  match x with
  | none => a
  | some x =>
    let t := f32add x k.negate
    let (s1, s2) := a.getD (Val.zero, Val.zero)
    some (f32add s1 t, f32fma t t s2)

/-- Up to 512 elements into the lanes. -/
def statLanes (k : Val) : List (Option (Val × Val)) → List (Option Val) → List (Option (Val × Val))
  | a :: as, x :: xs => statLane k a x :: statLanes k as xs
  | as, [] => as
  | [], x :: xs => statLane k none x :: statLanes k [] xs

/-- A row in pieces of 512. -/
def statFold (k : Val) : Nat → List (Option (Val × Val)) → List (Option Val) → List (Option (Val × Val))
  | 0, a, _ => a
  | n + 1, a, xs => statFold k n (statLanes k a (xs.take 512)) (xs.drop 512)

/-- The reciprocal square root of the refine evaluator: a value within 1 ulp. -/
def refineRsqrt (d : Val) : Word :=
  match d with
  | .fin _ m e =>
    let (k, q) := rsqrtSticky m e
    let lo := (encodeMag 0 .tz false k 1 q).1
    let hi := (encodeMag 0 .up false k 1 q).1
    let p := Config.rstdPick (toF32 d).toNat
    if lo = hi then BitVec.ofNat 32 (lo - 1 + p % 3) else BitVec.ofNat 32 (if p % 2 = 0 then lo else hi)
  | _ => 0

/-- The record of a row and its event classes. -/
def rowStat (eps : Val) (xs : List (Option Val)) : List Word × List Nat :=
  let act := xs.filterMap id
  let n := act.length
  let nanW : Word := 0x7FC00000
  match act with
  | [] => ([0, 0, 0, 0], [evEmpty])
  | k :: _ =>
    if act.any Val.isNan then ([nanW, nanW, nanW, BitVec.ofNat 32 n], [])
    else
      let infs := act.filter Val.isInf
      if infs ≠ [] then
        let mean := if infs.all (fun v => v == infs.headD .nan) then toF32 (infs.headD .nan) else nanW
        ([mean, nanW, nanW, BitVec.ofNat 32 n], [evInv])
      else
        let lanes := statFold k 16 [] xs
        let tree (g : Val × Val → Val) : Val :=
          match treeFold (fSum fFP32) 9 (lanes.map fun o => o.map fun p => (g p, [])) with
          | some r => r.1
          | none => Val.zero
        let s1 := tree Prod.fst
        let s2 := tree Prod.snd
        let nn := Val.fin false n 0
        let q := (divTo fFP32 s1 nn).1
        let mean := f32add k q
        let v := (divTo fFP32 (f32fma s1.negate q s2) nn).1
        let clamp := !s2.isInf && v.lt Val.zero
        let var := if s2.isInf then .inf false else if v.lt Val.zero || v.isZero then Val.zero else v
        let d := f32add var eps
        let rstd : Word := if d.isZero then 0x7F800000 else if d.isInf then 0 else refineRsqrt d
        let evs := (if clamp then [evVar] else []) ++ (if s2.isInf || d.isZero then [evOver] else [])
        ([toF32 mean, toF32 var, rstd, BitVec.ofNat 32 n], evs)

def rstatRow (s : State) (cx : Cx) (t : Stream) (b : PBlk) : State :=
  let f := t.f
  let o := stOpnd s cx f.a f.fa
  let els := (List.range f.n).map fun i =>
    if pbActive s b f.n t.row i then some (rowVal s o fFP32 f.blk f.n t.row i) else none
  let pre := els.flatMap fun e => (e.map Prod.snd).getD []
  let (ws, evs) := rowStat (decodeFp 0 b.p0) (els.map fun e => e.map Prod.fst)
  let last := decide (b.rows ≤ t.row + 1)
  let s1 := kPoison (vecPairs (pbPoison s cx b f t.row) cx f.g (once (pre ++ tagEv fFP32 evs))) cx pre
  let rec_ : Extent := ((sget (s.ctx cx) f.d).toNat, 16 * b.rows)
  let clash := rec_.meets (o.data f.blk b.rows f.n) || rec_.meets (o.scales f.blk b.rows f.n)
  let fr := freeCodes 32 (if clash then ws.map fun _ => true else []) s1
  let s2 := kWrite fr.2 cx (rec_.1 + 16 * t.row)
    (wordsBytes (if clash then fr.1.map fun c => BitVec.ofNat 32 (c.getD 0) else ws))
  let vals := els.filterMap fun e => e.map Prod.fst
  let finiteRow := decide (vals ≠ []) && vals.all Val.isFinite
  let s3 := sfBump 0x1410 1 (if finiteRow then sfBump 0x1408 1 s2 cx else s2) cx
  sfNextRow s3 cx t last

/-! ### RNORM (R195) -/

def rnormRow (s : State) (cx : Cx) (t : Stream) (b : PBlk) : State :=
  let f := t.f
  let o := stOpnd s cx f.a f.fa
  let fm := fmtOf (s.cell cx.cell) f.fd
  let (r, p) := readRec s ((sget (s.ctx cx) f.b).toNat + 16 * t.row) 4
  let mean := recF r 0
  let rstd := recF r 2
  let aux (a sc i : Nat) (dflt : Val) : Val × List (Nat × Nat) :=
    if a = 0 then (dflt, []) else rowVal s (auxOpnd s cx f a sc) fm false f.n 0 i
  let rs := (List.range f.n).map fun i =>
    if pbActive s b f.n t.row i then
      let x := rowVal s o fm f.blk f.n t.row i
      let g := aux b.aux0 b.sc0 i Val.one
      let h := aux b.aux1 b.sc1 i Val.zero
      let d := rounded fFP32 (x.1.sub mean)
      let m := rounded fFP32 (d.1.mul rstd)
      let y := rounded fFP32 (m.1.fma g.1 h.1)
      some (sfRes fm y.1 (x.2 ++ g.2 ++ h.2 ++ tagEv fm (d.2 ++ m.2 ++ y.2)))
    else none
  let last := decide (b.rows ≤ t.row + 1)
  let (s1, t1) := sfPutRow (recPoison (pbPoison s cx b f t.row) cx p) cx t last rs
  sfNextRow s1 cx t1 last

/-! ### SMAX (R196 to R198) -/

/-- The SFU's fixed copy of the shipped exp curve. -/
def expCopy (x : Val) : Ev := evaluate (shippedView 1) x

/-- exp(a − b), the difference rounded once; a finite difference that leaves the range of FP32 counts vanished with its
exponential (R184, R196). -/
def expDiff (a b : Val) : Ev :=
  let d := (rounded fFP32 (a.sub b)).1
  if d.isInf && a.isFinite && b.isFinite then { expCopy d with fixed := some [if d.neg? then evVan else evOver] }
  else expCopy d

/-- Sum of the active values, chunk by chunk (R156), and whether a step overflowed. -/
def chunkSum (len : Nat) : Nat → List (Option Val) → Option Val × Bool → Option Val × Bool
  | 0, _, acc => acc
  | n + 1, xs, acc =>
    if xs.isEmpty then acc
    else
      let r := treeFold (fSum fFP32) 10 ((xs.take len).map fun o => o.map fun v => (v, []))
      let acc' : Option Val × Bool :=
        match r, acc.1 with
        | none, _ => acc
        | some v, none => (some v.1, acc.2 || v.2.contains evOver)
        | some v, some a =>
          let q := rounded fFP32 (a.add v.1)
          (some q.1, acc.2 || v.2.contains evOver || q.2.contains evOver)
      chunkSum len n (xs.drop len) acc'

def smaxRow (s : State) (cx : Cx) (t : Stream) (b : PBlk) : State :=
  let f := t.f
  let o := stOpnd s cx f.a f.fa
  let fm := fmtOf (s.cell cx.cell) f.fd
  let bounded := natBit b.flags 0
  let init := natBit b.flags 1
  let sb := (sget (s.ctx cx) f.b).toNat + 32 * t.row
  let (rc, rp) := if init then ([], false) else readRec s sb 4
  let m0 : Val := if init then .inf true else recF rc 0
  let l0 : Val := if init then Val.zero else recF rc 1
  let n0 := if init then 0 else recU rc 2
  let fl0 := if init then 2 * b2n bounded else recU rc 3
  let p0 := decodeFp 0 b.p0
  -- scores, with what their reading and their product count
  let zs := (List.range f.n).map fun i =>
    if pbActive s b f.n t.row i then
      let x := rowVal s o fm f.blk f.n t.row i
      let z := rounded fFP32 (x.1.mul p0)
      (if z.1 == .inf true then none else some z.1, x.2 ++ tagEv fm z.2)
    else (none, [])
  let mt := zs.foldl (fun acc z => match z.1 with
    | some v => if v.isNan then acc else Val.maxv acc v
    | none => acc) (.inf true)
  let mnew := if bounded then Val.zero else Val.maxv m0 mt
  let same := m0.eqv mnew
  let ae : Ev := if bounded || same then { res := Val.one, exact := Val.one } else expDiff m0 mnew
  let alpha := ae.res
  let top := !bounded && mnew == .inf false
  let big := Val.fin false 88 0
  let rs : List (Option Val × SfRes) := zs.map fun z =>
    match z.1 with
    | none => (none, sfRes fm Val.zero z.2)
    | some v =>
      if bounded then
        let out := !v.isNan && big.lt v.abs
        let w := if out then (if v.neg? then big.negate else big) else v
        let e := expCopy w
        let r := evRes fm e (z.2 ++ if out then [(fm, evBound)] else [])
        (some r.v, r)
      else if top then
        let p := if v.isNan then Val.nan else if v.isInf then Val.one else Val.zero
        (some p, { v := p, pre := once z.2, mask := allClasses })
      else
        let r := evRes fm (expDiff v mnew) z.2
        (some r.v, r)
  let viol := bounded && rs.any fun r => r.2.pre.contains (fm, evBound)
  let (sum, ov) := chunkSum (sfChunk s cx 0xE8 f) 16 (rs.map Prod.fst) (none, false)
  let l1 := if bounded then rounded fFP32 (l0.add (sum.getD Val.zero))
    else rounded fFP32 (alpha.fma l0 (sum.getD Val.zero))
  let mix := !init && (natBit fl0 1 != bounded)
  let cnt := (zs.filter fun z => z.1.isSome).length
  let rowEv := tagEv fFP32 ((ae.fixed.getD []) ++ (if ov || l1.2.contains evOver then [evOver] else [])
    ++ (if mix then [evInv] else []))
  let last := decide (b.rows ≤ t.row + 1)
  let s1 := vecPairs (recPoison (pbPoison s cx b f t.row) cx rp) cx f.g (once rowEv)
  let (s2, t1) := sfPutRow s1 cx t last (rs.map fun r => some r.2)
  let rec_ := wordsBytes [toF32 mnew, if mix then 0x7FC00000 else toF32 l1.1, BitVec.ofNat 32 (n0 + cnt),
    BitVec.ofNat 32 (fl0 ||| b2n viol), toF32 alpha, 0, 0, 0]
  let evals := (if top then 0 else cnt) + b2n (!bounded && !same)
  let s3 := sfBump 0x1418 1 (sfBump 0x1400 evals (kWrite s2 cx sb rec_) cx) cx
  sfNextRow s3 cx t1 last

/-! ### RSCALE (R199) -/

def rscaleRow (s : State) (cx : Cx) (t : Stream) (b : PBlk) : State :=
  let f := t.f
  let o := stOpnd s cx f.a f.fa
  let fm := fmtOf (s.cell cx.cell) f.fd
  let (rc, rp) := readRec s ((sget (s.ctx cx) f.b).toNat + 32 * t.row) 5
  let l := recF rc 1
  let al := recF rc 4
  let empty := b.flags = 1 ∧ recU rc 2 = 0
  let rs := (List.range f.n).map fun i =>
    if pbActive s b f.n t.row i then
      let x := rowVal s o fm f.blk f.n t.row i
      let z : Val × List (Nat × Nat) :=
        if b.flags = 2 then rowVal s (auxOpnd s cx f b.aux0 b.sc0) fm f.blk f.n t.row i else (Val.zero, [])
      let y : Val × List Nat :=
        if empty then (Val.zero, [])
        else if b.flags = 0 then rounded fFP32 (al.mul x.1)
        else if b.flags = 1 then divTo fFP32 x.1 l
        else rounded fFP32 (al.fma x.1 z.1)
      some (sfRes fm y.1 (x.2 ++ z.2 ++ tagEv fm y.2))
    else none
  let last := decide (b.rows ≤ t.row + 1)
  let s0 := recPoison (pbPoison s cx b f t.row) cx rp
  let s1 := if empty then vecPairs s0 cx f.g [(fm, evEmpty)] else s0
  let (s2, t1) := sfPutRow s1 cx t last rs
  sfNextRow s2 cx t1 last

/-! ### SCAN (R200, R201) -/

/-- A step of the scan network: a, b and the classes its operations met. -/
structure ScanEl where
  a : Val
  b : Val
  evs : List Nat := []
  deriving DecidableEq, Repr

/-- The combination of a later pair with an earlier one. -/
def scanComb (x y : ScanEl) : ScanEl :=
  let p := rounded fFP32 (x.a.mul y.a)
  let q := rounded fFP32 (x.a.fma y.b x.b)
  ⟨p.1, q.1, x.evs ++ p.2 ++ q.2⟩

/-- One distance of the Kogge–Stone prefix. -/
def scanLevel (d : Nat) (l : List ScanEl) : List ScanEl :=
  l.take d ++ ((l.drop d).zip l).map fun p => scanComb p.1 p.2

def scanPrefix (l : List ScanEl) : List ScanEl :=
  (List.range 9).foldl (fun l i => if 2 ^ i < l.length then scanLevel (2 ^ i) l else l) l

/-- Chunks of 512 steps in processing order, the carry `h` applied with one FMA. -/
def scanChunks : Nat → Val → List ScanEl → List (Val × List Nat)
  | 0, _, _ => []
  | n + 1, h, l =>
    if l.isEmpty then []
    else
      let out := (scanPrefix (l.take 512)).map fun e =>
        let r := rounded fFP32 (e.a.fma h e.b)
        (r.1, e.evs ++ r.2)
      out ++ scanChunks n ((out.getLast?.map Prod.fst).getD h) (l.drop 512)

def scanRow (s : State) (cx : Cx) (t : Stream) (b : PBlk) : State :=
  let f := t.f
  let n := f.n
  let oa := stOpnd s cx f.a f.fa
  let ob := stOpnd s cx f.b f.fb
  let fm := fmtOf (s.cell cx.cell) f.fd
  let rev := natBit b.flags 0
  let (rc, rp) := if b.aux0 = 0 then ([some 0, some 0], false) else readRec s (b.aux0 + 8 * t.row) 2
  let act (i : Nat) : Bool := pbActive s b n t.row i
  let readA (i : Nat) : Val × List (Nat × Nat) := rowVal s oa fm f.blk n t.row i
  let order := if rev then (List.range n).reverse else List.range n
  let steps := order.map fun i =>
    if act i then
      let a : Val × List (Nat × Nat) :=
        if rev then (if i + 1 < n then readA (i + 1) else (recF rc 1, [])) else readA i
      let bb := rowVal s ob fm f.blk n t.row i
      (({ a := a.1, b := bb.1 } : ScanEl), a.2 ++ bb.2)
    else ({ a := Val.one, b := Val.zero }, [])
  let h := scanChunks 16 (recF rc 0) (steps.map Prod.fst)
  let rs0 := (order.zip (h.zip steps)).map fun p =>
    if act p.1 then some (sfRes fm p.2.1.1 (p.2.2.2 ++ tagEv fm p.2.1.2)) else none
  let rs := if rev then rs0.reverse else rs0
  let last := decide (b.rows ≤ t.row + 1)
  let (s1, t1) := sfPutRow (recPoison (pbPoison s cx b f t.row) cx rp) cx t last rs
  let hEnd := (h.getLast?.map Prod.fst).getD (recF rc 0)
  let edge := if rev && decide (b.aux1 ≠ 0) then readA 0 else (Val.zero, [])
  let s2 := if b.aux1 = 0 then s1
    else
      let s' := kWrite s1 cx (b.aux1 + 8 * t.row) (wordsBytes [toF32 hEnd, toF32 edge.1])
      kPoison (vecPairs s' cx f.g edge.2) cx edge.2
  sfNextRow (sfBump 0x1420 n s2 cx) cx t1 last

/-! ### The next chunk of a stream instruction (R149) -/

/-- The work of one chunk, or of one row of a row-wise instruction. -/
def chunkWork (s : State) (cx : Cx) (t : Stream) : State :=
  let b := pblkOf s cx t.f
  match t.opc with
  | 0xE0 => evalChunk s cx t
  | 0xE1 => evalChunk s cx t
  | 0xE2 => refineChunk s cx t
  | 0xE4 => rstatRow s cx t b
  | 0xE5 => rnormRow s cx t b
  | 0xE8 => smaxRow s cx t b
  | 0xEA => rscaleRow s cx t b
  | 0xEC => scanRow s cx t b
  | o => if 0x60 ≤ o ∧ o ≤ 0x66 then reduceChunk s cx t else ewChunk s cx t

/-- Does the context hold a stream instruction that may issue a chunk? -/
def canChunk (s : State) (cx : Cx) : Option Stream :=
  let c := s.ctx cx
  if c.st == .ready && !(s.region (cx.cell / 40)).clkSwitching && granted s cx then c.stream else none

/-- Chunks that one issue of the stream instruction takes: a row of a row-wise instruction has all of its own (R175). -/
def chunksAt (s : State) (cx : Cx) (t : Stream) : Nat :=
  if [0xE4, 0xE5, 0xE8, 0xEA].contains t.opc then ceilDiv t.f.n (sfChunk s cx t.opc t.f)
  else if t.opc = 0xEC then ceilDiv t.f.n 512
  else 1

/-- STREAM_CHUNK_ISSUE (R149). CELL_VEC_ISSUED counts each chunk once; the first one was counted at issue. -/
def execStreamChunkIssue (cx : Cx) (s : State) : Res :=
  .next (match canChunk s cx with
    | some t =>
      let n := chunksAt s cx t - if t.pos = 0 ∧ t.row = 0 then 1 else 0
      chunkWork (s.updCell cx.cell (Cell.bump offIssued n)) cx t
    | none => s)

/-! ### The instructions -/

/-- FEVAL (R181). -/
def execFeval (cx : Cx) (f : Vs) (s : State) : Res :=
  .next (issueAt s cx fun s => stIssue 0xE0 (evalCheck s cx f false) s cx f)

/-- FEVALX (R174). -/
def execFevalx (cx : Cx) (f : Vs) (s : State) : Res :=
  .next (issueAt s cx fun s => stIssue 0xE1 (evalCheck s cx f false) s cx f)

/-- FREFINE (R189). -/
def execFrefine (cx : Cx) (f : Vs) (s : State) : Res :=
  .next (issueAt s cx fun s => stIssue 0xE2 (evalCheck s cx f true) s cx f)

/-- RSTAT (R192). -/
def execRstat (cx : Cx) (f : Vs) (s : State) : Res :=
  .next (issueAt s cx fun s => stIssue 0xE4 (rowCheck s cx 0xE4 f) s cx f)

/-- RNORM (R195). -/
def execRnorm (cx : Cx) (f : Vs) (s : State) : Res :=
  .next (issueAt s cx fun s => stIssue 0xE5 (rowCheck s cx 0xE5 f) s cx f)

/-- SMAX (R196). -/
def execSmax (cx : Cx) (f : Vs) (s : State) : Res :=
  .next (issueAt s cx fun s => stIssue 0xE8 (rowCheck s cx 0xE8 f) s cx f)

/-- RSCALE (R199). -/
def execRscale (cx : Cx) (f : Vs) (s : State) : Res :=
  .next (issueAt s cx fun s => stIssue 0xEA (rowCheck s cx 0xEA f) s cx f)

/-- SCAN (R200). -/
def execScan (cx : Cx) (f : Vs) (s : State) : Res :=
  .next (issueAt s cx fun s => stIssue 0xEC (rowCheck s cx 0xEC f) s cx f)

end Sys2Proof.Machine
end

