-- ==== Sys2Proof/Machine/Tables.lean ====
section
/-! DEFINITION. The table operations of group 0x03xx (Table 13-10): codebooks (R54), format descriptors (R58,
R59), curves (R178 to R187), rescale tables (R107), schedules (R289, R290) and freeze masks (R294). -/

namespace Sys2Proof.Machine

/-! ### The common body (Table 13-10) -/

def OpEntry.tCells (e : OpEntry) : Nat := fld e.desc 0x10 8
def OpEntry.tImage (e : OpEntry) : Nat := fld e.desc 0x18 8
def OpEntry.tSize (e : OpEntry) : Nat := fld e.desc 0x20 4
def OpEntry.tSlot (e : OpEntry) : Nat := fld e.desc 0x24 2
def OpEntry.tKind (e : OpEntry) : Nat := fld e.desc 0x26 1
def OpEntry.tArg0 (e : OpEntry) : Nat := fld e.desc 0x28 8
def OpEntry.tArg1 (e : OpEntry) : Nat := fld e.desc 0x30 8

/-- Bytes that the table does not name. -/
def tableZeros (e : OpEntry) : Bool := zeros e.desc 0x27 0x28 && zeros e.desc 0x38 0x40

/-- CELLS of a load into cells. -/
def cellsFieldOk (m : Nat) : Bool := decide (0 < m) && decide (m < 2 ^ 40)

/-- The status of a load whose form is right or not: fences, form, the range of its image, poison, and what the
loader says of the image (R445). -/
def loadStatus (s : State) (e : OpEntry) (cells : List Nat) (form : Bool) (size : Nat) (img : List Byte → Bool) : Nat :=
  let st := if size = 0 then stOK else rangeStatus s e.resident e.tImage size
  if cells.any (fencedCell s) || st == stFENCED then stFENCED
  else if !form then stBADDESC
  else if st = stBOUNDS then stBOUNDS
  else if badRange s e.tImage size then stPOISON
  else if !img (rdBytes s e.tImage size) then stBADDESC
  else stOK

/-- The image of a load that is not refused before is read. -/
def imageRead (s : State) (e : OpEntry) (size st : Nat) : State :=
  if st = stOK ∨ st = stPOISON then countReads s e.tImage size else s

/-- A load that its cells hold until their next kernel boundary (R56); one already at a boundary takes it by
TABLE_LOAD_TAKE_EFFECT or at its next kernel start. -/
def holdLoad (s : State) (cells : List Nat) (l : TableLoad) : State :=
  cells.foldl (fun s n => s.updCell n fun c => { c with held := c.held ++ [l] }) s

/-- The entry of an operation of opcode `opc` whose body has not been checked yet. -/
def admittedOp (s : State) (id : OpId) (opc : Nat) : Option OpEntry :=
  match s.op? id with
  | some e => if e.opcode == opc && e.phase == .admitted then some e else none
  | none => none

/-! ### Codebooks, formats, curves -/

def codebookLoad (s : State) (id : OpId) : State :=
  match admittedOp s id 0x301 with
  | none => s
  | some e =>
    let cells := cellsOf e.region e.tCells
    let size := if e.tKind = 0 then 16 else 512
    let form := tableZeros e && cellsFieldOk e.tCells && decide (e.tKind ≤ 1) && decide (e.tSize = size)
      && decide (e.tSlot < if e.tKind = 0 then 4 else 2) && e.tArg0 == 0 && e.tArg1 == 0
    let st := loadStatus s e cells form size fun _ => true
    let s := imageRead s e size st
    if st ≠ stOK then refuseLoad s e st
    else
      let img := rdBytes s e.tImage size
      (holdLoad s cells (if e.tKind = 0 then .cb16 e.tSlot img else .cb256 e.tSlot img)).finishOp id stOK

/-- Is a format descriptor one that R59 lets in? -/
def fmtDescOk (w : Nat) : Bool :=
  let f := natBits w 3 0
  let slot := natBits w 6 4
  let rnd := natBits w 11 10
  decide (w < 2 ^ 12) && natBits w 9 7 == 0 && decide (f ≤ 10) && decide (rnd ≤ 1)
    && (if f = fCB16 then decide (slot ≤ 3) else if f = fCB256 then decide (slot ≤ 1) else slot == 0)
    && (rnd == 0 || f == fBF16 || f == fE4M3 || f == fE5M2 || f == fE3M2)

def fmtLoad (s : State) (id : OpId) : State :=
  match admittedOp s id 0x302 with
  | none => s
  | some e =>
    let cells := cellsOf e.region e.tCells
    let form := tableZeros e && cellsFieldOk e.tCells && e.tKind == 0 && e.tSize == 64 && e.tSlot == 0
      && e.tArg0 == 0 && e.tArg1 == 0
    let st := loadStatus s e cells form 64 fun img => (List.range 16).all fun i => fmtDescOk (fld img (4 * i) 4)
    let s := imageRead s e 64 st
    if st ≠ stOK then refuseLoad s e st
    else
      let img := rdBytes s e.tImage 64
      let ws := (List.range 16).map fun i => BitVec.ofNat 32 (fld img (4 * i) 4)
      (holdLoad s cells (.fmt ws)).finishOp id stOK

def curveLoad (s : State) (id : OpId) : State :=
  match admittedOp s id 0x303 with
  | none => s
  | some e =>
    let cells := cellsOf e.region e.tCells
    let shipped := decide (e.tArg0 ≠ 0)
    let size := if shipped then 0 else e.tSize
    let form := tableZeros e && cellsFieldOk e.tCells && e.tKind == 0 && decide (e.tSlot < 16) && e.tArg1 == 0
      && (if shipped then shippedFuncs.contains e.tArg0 && e.tSize == 0 && e.tImage == 0
          else decide (64 ≤ e.tSize) && decide (e.tSize ≤ 64 + 256 * 40) && decide (e.tSize % 256 = 64))
    let st := loadStatus s e cells form size fun img => shipped || imageOk img
    let s := imageRead s e size st
    if st ≠ stOK then refuseLoad s e st
    else
      let c := if shipped then Curve.ofShipped e.tArg0 else Curve.ofImage (rdBytes s e.tImage size)
      ((holdLoad s cells (.curve e.tSlot c)).finishOp id stOK).updOp id fun e => { e with d0 := BitVec.ofNat 64 c.word }

/-! ### Rescale tables -/

def rescalePlace (s : State) (id : OpId) : State :=
  match admittedOp s id 0x304 with
  | none => s
  | some e =>
    let form := tableZeros e && e.tCells == 0 && e.tKind == 0 && e.tSlot == 0 && e.tArg1 == 0
      && decide (0 < e.tSize) && decide (e.tSize % 8 = 0) && decide (e.tArg0 % 8 = 0)
    let dst := rangeStatus s e.resident e.tArg0 e.tSize
    let st := loadStatus s e [] form e.tSize fun _ => true
    let st1 := bestStatus [st, dst]
    let s := imageRead s e e.tSize st1
    if st1 ≠ stOK then refuseLoad s e st1
    else (opWrite s id e.cls false e.tArg0 (rdBytes s e.tImage e.tSize)).finishOp id stOK

/-! ### Schedules -/

def scheduleLoad (s : State) (id : OpId) : State :=
  match admittedOp s id 0x305 with
  | none => s
  | some e =>
    let form := tableZeros e && e.tCells == 0 && e.tKind == 0 && e.tSlot == 0 && decide (e.tSize = gthImageBytes)
      && decide (e.tArg0 % 64 = 0) && decide (e.tArg0 + 64 ≤ blkSize) && decide (e.tArg1 % 64 = 0)
    let dst := if e.tArg1 = 0 then stOK
      else if hbmTop < e.tArg1 + 64 then stBOUNDS else rangeStatus s false e.tArg1 64
    let st := loadStatus s e [] form gthImageBytes gthImageOk
    let st1 := bestStatus [st, dst]
    let s := imageRead s e gthImageBytes st1
    if st1 ≠ stOK then refuseLoad s e st1
    else
      let img := rdBytes s e.tImage gthImageBytes
      (s.updGth fun g => { g with gen := g.gen + 1, next := some (img, e.tArg0, e.tArg1) }).finishOp id stOK

/-! ### Freeze masks -/

def freezePages : Nat := 18874368

/-- The load of an entry takes effect. -/
def applyFreeze (s : State) (e : OpEntry) : State :=
  let img := rdBytes s e.tImage e.tSize
  let bits := (List.range e.tArg1).map fun i => natBit (img.getD (i / 8) 0).toNat (i % 8)
  let s1 : State := { s with frozen := fputRow false s.frozen e.tArg0 bits }
  s1.finishOp e.id stOK

def freezeLoad (s : State) (id : OpId) : State :=
  match admittedOp s id 0x306 with
  | none => s
  | some e =>
    let form := tableZeros e && e.tCells == 0 && e.tKind == 0 && e.tSlot == 0
      && decide (e.tArg0 + e.tArg1 ≤ freezePages) && decide (e.tSize = ceilDiv e.tArg1 8)
    let st := loadStatus s e [] form e.tSize fun _ => true
    let s := imageRead s e e.tSize st
    if st ≠ stOK then refuseLoad s e st
    else if updateLive s id then s.updOp id fun e => { e with phase := .held }
    else applyFreeze s e

/-- FREEZE_TAKE_EFFECT: no UPDATE kernel or operation is live, so the held loads take effect in order. -/
def freezeTakeEffect (s : State) : State :=
  (s.ops.filter fun e => e.opcode == 0x306 && e.phase == .held && !updateLive s e.id).foldl applyFreeze s

def execCodebookLoad (o : OpId) (s : State) : Res := .next (codebookLoad s o)
def execFmtLoad (o : OpId) (s : State) : Res := .next (fmtLoad s o)
def execCurveLoad (o : OpId) (s : State) : Res := .next (curveLoad s o)
def execRescalePlace (o : OpId) (s : State) : Res := .next (rescalePlace s o)
def execScheduleLoad (o : OpId) (s : State) : Res := .next (scheduleLoad s o)
def execFreezeLoad (o : OpId) (s : State) : Res := .next (freezeLoad s o)
def execFreezeTakeEffect (s : State) : Res := .next (freezeTakeEffect s)

end Sys2Proof.Machine
end

