-- ==== Sys2Proof/Machine/Tick.lean ====
section
/-! DEFINITION. The counters at a fabric cycle in which no command waits (log entry 3): those of R38 advance, and
the counters of cycles in which a unit waits or is busy advance by free amounts (log entry 40). -/

namespace Sys2Proof.Machine

/-- Cell cycles per 1,600 fabric cycles at each step of the cell clock (R8, R36). -/
def clkRate (step : Nat) : Nat :=
  match step with
  | 0 => 940
  | 1 => 705
  | _ => 470

/-- Cell-window offset of CELL_CYCLE. -/
def offCellCycle : Nat := 0x1900

/-- Cell-window offset of CELL_VEC_VBUSY. -/
def offVbusy : Nat := 0x1210

/-- The counters of a cell that may advance in a cell cycle: STALL, LOADWAIT and HOLD while the array holds a product,
VBUSY, FBUSY, MBUSY, STARVE and CELL_STORE_VWAIT while a context is live, CELL_DMA_HALF while a descriptor runs. -/
def cellWaits (c : Cell) : List Nat :=
  (if c.arr.cur.isSome then [0x1010, 0x1018, 0x1110] else [])
    ++ (if c.ctxs.any fun x => x.2.op.isSome then [offVbusy, 0x1218, 0x1220, 0x1228, 0x1810] else [])
    ++ (if c.dma.running.isEmpty then [] else [0x1610])

/-- Those of a block: BLK_DMA_HALF, BLK_SPS_SLOTWAIT, BLK_BANK_WAIT. -/
def blockWaits (k : Block) : List Nat :=
  (if k.dma.running.isEmpty && k.gs.running.isEmpty then [] else [0x408]) ++ (if k.job.isSome then [0x520] else []) ++ [0x610]

/-- Does the counter at a register address advance in this cycle? Its timing is left open, so the answer is free. -/
def advances (s : State) (a : Nat) : Nat := Config.timing a s.hub.cycle.toNat % 2

/-- One cell cycle of a cell, and of a block. -/
def tickCell (s : State) (n : Nat) : State :=
  if fencedCell s n then s
  else s.updCell n fun c =>
    (cellWaits c).foldl (fun c o => c.bump o (advances s (0x300000000000 + n * 0x100000 + o))) (c.bump offCellCycle 1)
def tickBlock (s : State) (b : Nat) : State :=
  if fencedBlock s b then s
  else s.updBlock b fun k =>
    (blockWaits k).foldl (fun k o => k.bump o (advances s (0x300010000000 + b * 0x100000 + o))) k

/-- LNK_FEC_CORR and LNK_FEC_UNCORR of a link that is up: codewords that its lanes had corrected or not. -/
def tickLink (s : State) (l : Nat) : State :=
  let k := s.link l
  if k.st == 2 || k.st == 3 then
    s.updLink l fun k => [0x28, 0x30].foldl (fun k o => k.bump o (advances s (0x300022000000 + l * 0x100000 + o))) k
  else s

/-- A region that boot firmware has released (R401): its counter, and its cells' counters when their clock passes
a cycle; none during a switch. -/
def tickRegion (s0 : State) (r : Nat) : State :=
  let s := (List.range 6).foldl (fun s i => tickLink s (6 * r + i)) s0
  let g := s.region r
  if !g.released then s0
  else
  let p := g.clkPhase + if g.clkSwitching then 0 else clkRate g.clkStep
  let s1 := s.setRegion r { g with cycle := g.cycle + 1, clkPhase := p % 1600 }
  if 1600 ≤ p then
    (List.range 5).foldl (fun s i => tickBlock s (5 * r + i)) ((List.range 40).foldl (fun s i => tickCell s (40 * r + i)) s1)
  else s1

/-- Is the start of an UPDATE kernel held under R360? -/
def holdsUpdate (s : State) : Bool :=
  s.ops.any fun e => e.phase == .held && !e.released && e.cls == clsUPD && durableHold s e.step

/-- One fabric cycle of the hub, of the four regions, and of the hold that HRW_HOLD counts. -/
def tickCounters (s : State) : State :=
  if !s.hub.running then s
  else
    let s1 := (List.range 4).foldl tickRegion (s.updHub fun h => { h with cycle := h.cycle + 1 })
    if holdsUpdate s then { s1 with hrw := { s1.hrw with holdCycles := s1.hrw.holdCycles + 1 } } else s1

end Sys2Proof.Machine
end

