-- ==== Sys2Proof/Machine/Opening.lean ====
section
/-! DEFINITION. Steps of training: the opening of a step (R273, R274), abandonment (R276), telemetry banks and
records (R302 to R304), and the residency pool (R270). -/

namespace Sys2Proof.Machine

/-! ### Telemetry -/

/-- The counters of a cell that the record sums: CELL_ARR_ROWCYC, CELL_VEC_VBUSY, CELL_CYCLE. -/
def tlmOffsets : List Nat := [offRowCyc, offVbusy, offCellCycle]

/-- Their values in the cells of a region, as `openCtr` keys them. -/
def tlmCounters (s : State) (r : Nat) : FMap DWord :=
  flisted 0 0 ((List.range 40).flatMap fun i => tlmOffsets.map fun o => fget 0 (s.cell (40 * r + i)).ctr o)

/-- The advance of the k-th of them since the opening, summed over live cells (R304). -/
def tlmAdvance (s : State) (r k : Nat) : DWord :=
  (((List.range 40).filter fun i => !fencedCell s (40 * r + i)).map fun i =>
    fget 0 (s.cell (40 * r + i)).ctr (tlmOffsets.getD k 0) - fget 0 (s.region r).tlm.openCtr (3 * i + k)).foldl (· + ·) 0

def tlmRecordBytes : Nat := 327744
def tlmStride : Nat := 331776

/-- One tag's entry of Table 10-9. -/
def tlmEntry (m : FMap Word) (tag : Nat) : List Byte :=
  (List.range 70).flatMap (fun w => leBytes 4 (fget 0 m (80 * tag + w)).toNat) ++ List.replicate 40 0

/-- The closed bank as a record (Table 10-9). -/
def tlmRecord (s : State) (r : Nat) : List Byte :=
  let t := (s.region r).tlm
  leBytes 8 t.closedStep.toNat ++ leBytes 4 t.closedFlags ++ leBytes 4 r ++ leBytes 8 t.closedOpen.toNat
    ++ leBytes 8 t.closedClose.toNat ++ leBytes 8 t.closedRowCyc.toNat ++ leBytes 8 t.closedVbusy.toNat
    ++ leBytes 8 t.closedCycles.toNat ++ leBytes 8 0
    ++ (List.range 1024).flatMap (tlmEntry t.closed)

/-- TELEMETRY_RECORD_WRITE: the closed bank is written where a ring is set, and cleared. -/
def tlmWrite (s : State) (r : Nat) : State :=
  let t := (s.region r).tlm
  if decide (r < 4) && t.writing then
    let a := t.base + t.closedStep.toNat % (t.ring + 1) * tlmStride
    let wr := decide (t.base ≠ 0) && !fencedAddr s a && !fencedRegion s r
    let s1 := if wr then memWrite s a (tlmRecord s r) else s
    s1.updTlm r fun t => { t with writing := false, closed := [], records := t.records + BitVec.ofNat 32 (b2n wr) }
  else s

/-- Telemetry of a region closes: the banks swap. `flags` says how the attempt ended. -/
def tlmClose (s : State) (r flags : Nat) : State :=
  let s := tlmWrite s r
  let g := s.region r
  s.updTlm r fun t =>
    { t with bank := !t.bank, writing := true, closed := t.live, live := [], closedStep := s.hub.step,
             closedFlags := flags + t.flags % 8 / 4 * 4 + 8 * b2n s.hrw.restored, flags := 0,
             closedOpen := t.openCycle, closedClose := g.cycle, openCycle := g.cycle,
             closedRowCyc := tlmAdvance s r 0, closedVbusy := tlmAdvance s r 1, closedCycles := tlmAdvance s r 2,
             openCtr := tlmCounters s r }

/-- TELEMETRY_SET (Table 13-12). -/
def telemetrySet (s : State) (id : OpId) : State :=
  match admittedOp s id 0x802 with
  | none => s
  | some e =>
    let base := fld e.desc 0x10 8
    let ring := fld e.desc 0x18 1
    let rs := bitsOf 4 (fld e.desc 0x19 1)
    let form := zeros e.desc 0x1A 0x20 && decide (fld e.desc 0x19 1 < 16) && decide (1 ≤ ring) && decide (ring ≤ 64)
      && decide (base % 4096 = 0)
    let st := if base = 0 then stOK else rangeStatus s false base (ring * tlmStride)
    if rs.any (fencedRegion s) || st == stFENCED then s.finishOp id stFENCED
    else if !form then s.finishOp id stBADDESC
    else if st ≠ stOK then s.finishOp id st
    else (rs.foldl (fun s r => s.updTlm r fun t => { t with base := base, ring := ring - 1 }) s).finishOp id stOK

/-! ### The residency pool -/

/-- Is a kernel or memory operation with the residency flag live? -/
def residentLive (s : State) (id : OpId) : Bool := liveFor s id fun e => e.isWork && e.resident

/-- The pool size and layer count of an entry take effect in every block. -/
def applyResidency (s : State) (e : OpEntry) : State :=
  ((List.range 20).foldl
    (fun s b => s.updBlock b fun k =>
      { k with resLayers := fld e.desc 0x11 1, resBase := blkSize - fld e.desc 0x10 1 * 0x100000 }) s).finishOp e.id stOK

/-- RESIDENCY_SET. -/
def residencySet (s : State) (id : OpId) : State :=
  match admittedOp s id 0x801 with
  | none => s
  | some e =>
    if !(decide (fld e.desc 0x10 1 ≤ 16) && decide (fld e.desc 0x11 1 ≤ 16) && zeros e.desc 0x12 0x20) then
      s.finishOp id stBADDESC
    else if residentLive s id then s.updOp id fun e => { e with phase := .held }
    else applyResidency s e

/-- RESIDENCY_TAKE_EFFECT. -/
def residencyTakeEffect (s : State) : State :=
  (s.ops.filter fun e => e.opcode == 0x801 && e.phase == .held && !residentLive s e.id).foldl applyResidency s

/-! ### Steps -/

/-- Step t opens: R274's actions in order. `flags` says how the attempt that ends ended (Table 10-9), and
`restored` whether a restore opens this one. -/
def openStep (s : State) (t flags : Nat) (restored : Bool) : State :=
  let s1 := (List.range 4).foldl (fun s r => tlmClose s r flags) s
  let s2 := s1.updHub fun h => { h with grads := [], buckets := [] }
  let s3 := gthOpen s2 t
  let s4 := s3.updHub fun h => { h with step := BitVec.ofNat 64 t, scalars := true }
  { s4 with hrw := { s4.hrw with restored := restored, openFences := (List.range 4).filter (fencedRegion s4) } }

/-- Does abandonment of step t abort the entry (R276)? -/
def abandoned (t : DWord) (e : OpEntry) : Bool :=
  e.isWork && e.cls != clsEVAL && e.step == t && e.phase != .preempted

/-- R276: the live kernels and memory operations of the abandoned step are aborted. -/
def abortStep (s : State) (t : DWord) : State := (s.ops.filter (abandoned t)).foldl (fun s e => markAbort s e.id) s

def execTelemetryRecordWrite (region : Nat) (s : State) : Res := .next (tlmWrite s region)
def execTelemetrySet (o : OpId) (s : State) : Res := .next (telemetrySet s o)
def execResidencySet (o : OpId) (s : State) : Res := .next (residencySet s o)
def execResidencyTakeEffect (s : State) : Res := .next (residencyTakeEffect s)

end Sys2Proof.Machine
end

