-- ==== Sys2Proof/Machine/Links.lean ====
section
/-! DEFINITION. Links: training (R313, R318), flits with go-back re-send (R314 to R319), credits and arbitration
(R320 to R322), and a link's fence (R30, R319). -/

namespace Sys2Proof.Machine

/-! ### Waiting transfers -/

/-- The remote transfers of an operation stop waiting, in every region: their bytes do not come (R231). -/
def dropWaits (s : State) (id : OpId) : State :=
  (List.range 4).foldl
    (fun s r => s.updRegion r fun g =>
      { g with dma := { g.dma with running := g.dma.running.map fun i => if i.op == id then { i with waits := [] } else i } }) s

/-- An operation has lost messages: LINK_DOWN (R319). -/
def lostMessages (s : State) (id : OpId) : State :=
  let s1 := dropWaits (opLinkDown s (some id)) id
  if s1.hrw.restoring.any fun x => x.op == id then
    ({ s1 with hrw := { s1.hrw with restoring := s1.hrw.restoring.filter fun x => x.op != id } } : State).finishOp id stLINKDOWN
  else s1

/-! ### Fencing a link -/

/-- Whole messages among flits that have not been sent, and flits of messages that are partly sent: a first flit
begins a message, and the later ones of its channel and class belong to it. -/
def splitMessages (q : List TxFlit) : List (List TxFlit) × List TxFlit :=
  q.foldl
    (fun (acc : List (List TxFlit) × List TxFlit) f =>
      let mine (m : List TxFlit) : Bool := m.any fun g => g.vc == f.vc && g.cls == f.cls
      if f.som then (acc.1 ++ [[f]], acc.2)
      else match acc.1.reverse.findIdx? mine with
        | some i =>
          let j := acc.1.length - 1 - i
          (acc.1.set j (acc.1.getD j [] ++ [f]), acc.2)
        | none => (acc.1, acc.2 ++ [f])) ([], [])

/-- The message that flits carry. -/
def messageOf (fs : List TxFlit) : Msg :=
  let m := msgOf (fs.flatMap TxFlit.payload)
  { m with data := m.data.take m.length }

/-- Is a read of region `r` answered over link `l`? -/
def comesOver (s : State) (r l fa : Nat) : Bool :=
  match pathFrom 8 s r (devOf fa) 0 with
  | some (k, p, _, _) => if p < 6 then 6 * k + p == l else 6 * k + p - 5 == l
  | none => false

/-- Operations, of any region, that wait for bytes over link `l`: transfers, and restores from a mirror. -/
def waitersOver (s : State) (l : Nat) : List OpId :=
  (s.regions.flatMap fun g =>
      (g.2.dma.running.filter fun i => i.waits.any fun w => comesOver s g.1 l w.2.1).map DmaItem.op)
    ++ (s.hrw.restoring.filter fun x => comesOver s x.region l x.src).map Restore.op

/-- Bit of a link in FENCES (Table 14-4). -/
def fenceBit (l : Nat) : Nat := 2 ^ (24 + l)

/-- A message that waited whole on a fenced link takes the route that remains; a heartbeat was the link's own (R319,
R328, R335). -/
def reroute (s : State) (r : Nat) (fs : List TxFlit) : State :=
  let m := messageOf fs
  let op := (fs.head?).bind TxFlit.op
  let cls := ((fs.head?).map TxFlit.cls).getD 0
  if m.srcId ≠ s.hub.deviceId then transit s r cls m fs
  else if m.op = 6 ∧ fld m.data 0 2 = 1 then s
  else match pathFrom 8 s r (devOf m.dest) cls with
    | some (k, p, c, t) => sendFlits s k p t (fs.map fun f => { f with cls := c })
    | none => if m.op = 6 then bridleAgain s m.srcRegion m.mtag else opLinkDown s op

/-- A link is fenced: flits in its retry buffer are lost, with LINK_DOWN to the operations that sent them; messages
that wait whole take the route that remains (R319). -/
def fenceLink (s : State) (l : Nat) : State :=
  if (s.link l).st = 4 then s
  else
    let k := s.link l
    let r := l / 6
    let (whole, part) := splitMessages (k.txq ++ k.bridleWait)
    let cut := k.tunnels.flatMap fun t => (t.2.window.flatMap fun w => w.2) ++ t.2.queue.flatten
    let lost := ((k.retry.map Prod.snd ++ part ++ cut).filterMap TxFlit.op ++ waitersOver s l).dedup
    let k' : Link := { k with st := 4, txq := [], bridleWait := [], offers := [], retry := [], resend := [], rx := [], inbuf := [],
                              resv := [], shared := 0, owed := [], tunnels := [] }
    let s1 := { (s.updRegion r fun g => { g with fence := g.fence ||| BitVec.ofNat 64 (2 ^ (48 + l % 6)) }) with
      links := fset {} s.links l k' }
    let s2 : State := { s1 with store := { s1.store with fences := s1.store.fences ||| fenceBit l } }
    let s3 := lost.foldl lostMessages s2
    let held := k.tunnels.flatMap fun t => t.2.queue.flatten
    whole.foldl (fun s fs => reroute s r fs) ((part ++ held).foldl leaves s3)

/-! ### Training (R313) -/

/-- 163.84 ns and 2 µs in link cycles at 1.328125 GHz. -/
def rttFull : Nat := 217
def rttMax : Nat := 2656

/-- Reserved credits by 2 VC + class (Table 11-4), and the shared pool. -/
def resvOf (k : Nat) : Nat := if k < 2 then 26 else 32
def fullCredits : FMap Nat := fsets 0 [] 0 ((List.range 8).map resvOf)

/-- What this end says of itself in link-control flits. -/
def ownInfo (s : State) (l : Nat) : PeerInfo :=
  { deviceId := s.hub.deviceId, localLink := l % 6, mode := (s.link l).mode, rtt := (s.link l).rtt }

/-- Electrical training has ended and the peer has spoken: the link is up, or fenced when the peer is in the
other mode or is this device. -/
def linkSettle (s : State) (l : Nat) : State :=
  let k := s.link l
  if k.st ≠ 1 ∨ !k.trained then s
  else if k.mode = 1 then s.updLink l fun k => { k with st := 2 }
  else match k.peer with
    | none => s
    | some p =>
      if p.mode ≠ k.mode ∨ p.deviceId = s.hub.deviceId then fenceLink s l
      else s.updLink l fun k =>
        { k with st := if rttFull < k.rtt then 3 else 2, peerId := p.deviceId, peerLink := p.localLink,
                 resv := fullCredits, shared := 780, lastRx := (s.region (l / 6)).cycle }

/-- This end's link-control flit goes out: it takes a number and a place in the retry buffer, as the flits after it do
(R317). -/
def sendControl (s : State) (l : Nat) : State :=
  let p := ownInfo s l
  (s.updLink l fun k =>
    { k.bump 0x08 1 with retry := k.retry ++ [(k.txSeq, { typ := 3, control := some p })], txSeq := (k.txSeq + 1) % 4096 }).emit
    (.control l p)

/-- LINK_TRAINING_DONE. -/
def trainingDone (s : State) (l : Nat) (ok : Bool) (rtt : Nat) : State :=
  let k := s.link l
  if k.st ≠ 1 ∨ k.trained then s
  else if !ok ∨ (k.mode = 0 ∧ rttMax < rtt) then fenceLink s l
  else
    let s1 := s.updLink l fun k => { k with trained := true, rtt := if k.mode = 0 then rtt else 0 }
    linkSettle (if k.mode = 0 then sendControl s1 l else s1) l

/-- LINK_CONTROL_FLIT: the peer's next numbered flit; once training has ended, the peer's say is final. -/
def linkControl (s : State) (l : Nat) (p : PeerInfo) : State :=
  if (s.link l).st = 1 ∧ (s.link l).mode = 0 then
    linkSettle (s.updLink l fun k => { k.bump 0x10 1 with peer := some p, rxLast := (k.rxLast + 1) % 4096 }) l
  else s

/-- LINK_SIGNAL_LOSS: in service the link is fenced at once. -/
def signalLoss (s : State) (l : Nat) : State :=
  if (s.link l).st = 2 ∨ (s.link l).st = 3 then fenceLink s l else s

/-! ### Receiving -/

/-- Does the flit's CRC match (R315)? -/
def flitCrcOk (b : List Byte) : Bool := fld b 252 4 == crc32 (b.take 252)

/-- Flits that an ACK covers leave the retry buffer: those up to the one it names, when it names one there. -/
def ackRetry (ack : Nat) (l : Link) : Link :=
  match l.retry.findIdx? fun x => x.1 == ack with
  | some i =>
    { l with retry := l.retry.drop (i + 1),
             resend := l.resend.filter fun x => (l.retry.drop (i + 1)).any fun y => y.1 == x.1 }
  | none => l

/-- Credits that come back fill the reserved ones first. -/
def creditBack (k n : Nat) (l : Link) : Link :=
  let have_ := fget 0 l.resv k
  let up := min n (resvOf k - have_)
  { l with resv := fset 0 l.resv k (have_ + up), shared := min 780 (l.shared + (n - up)) }

/-- What every flit in good order carries: ACK and credits. -/
def headerIn (h : LinkHead) (l : Link) : Link := creditBack (2 * h.crVc + h.crClass) h.crCount (ackRetry h.ack l)

/-- A native link in service, after the lock of R370. -/
def inService (s : State) (l : Nat) : Bool := linkUp s l 0 && s.mbx.locked

/-- Something arrived from the peer: it is not silent (R328). -/
def heard (s : State) (l : Nat) : State :=
  s.updLink l fun k => { k with lastRx := (s.region (l / 6)).cycle, unresponsive := false }

/-- Credits to return that a header carries: the first that are owed. -/
def creditOut (l : Link) : Nat × Nat := match l.owed.head? with
  | some (k, n) => (k, min n 31)
  | none => (0, 0)

/-- A flit leaves with the link's ACK and owed credits in its header. -/
def sendFlit (s : State) (l : Nat) (h : LinkHead) (payload : List Byte) : State :=
  let k := s.link l
  let (key, n) := creditOut k
  let h1 := { h with ack := k.rxLast, crVc := key / 2, crClass := key % 2, crCount := n }
  (s.updLink l fun k => { k with owed := fset 0 k.owed key (fget 0 k.owed key - n) }).emit (.flit l (flitBytes h1 payload))

/-- A flit is discarded for CRC or sequence; the first one asks for a re-send, with a flit that LNK_TX_FLITS counts. -/
def flitDiscard (s : State) (l : Nat) : State :=
  let k := s.link l
  let s1 := s.updLink l fun k => { k.bump 0x18 1 with discarding := true }
  if k.discarding then s1 else sendFlit (s1.updLink l (Link.bump 0x08 1)) l { typ := 2 } []

/-- A message reaches this device over link `l`. The rows COLLECTIVE_CONTRIBUTION and COLLECTIVE_RESULT bring what messages
of OP 4 and 5 carry, whole (log entry 43). -/
def messageHome (s : State) (l : Nat) (m : Msg) : State :=
  let r := l / 6
  if m.op = 4 ∨ m.op = 5 then s
  else
    let k := if m.op = 6 ∧ fld m.data 0 2 = 1 then r else homeOf r (localOf m.dest)
    if ringJoins s r k then deliver s k (.msg m) else s

/-- The flits of a message that has come whole, as they go on; `src` is the place that each has in the input buffer. -/
def passFlits (m : Msg) (cls : Nat) (src : Option (Nat × Nat)) (parts : List (List Byte)) : List TxFlit :=
  (parts.zip (List.range parts.length)).map fun x =>
    { payload := x.1, vc := vcOf m.op, cls := cls, som := decide (x.2 = 0), eom := decide (x.2 + 1 = parts.length), src := src }

/-- A whole message has come over link `l` in route class `cls` (R26, R332). -/
def messageIn (s : State) (l cls : Nat) (src : Option (Nat × Nat)) (parts : List (List Byte)) : State :=
  let fs := passFlits (msgOf parts.flatten) cls src parts
  let m := messageOf fs
  if devOf m.dest = s.hub.deviceId then messageHome (fs.foldl leaves s) l m else transit s (l / 6) cls m fs

/-- Payload of a data flit joins its message; `key` names the channel's buffer. A flit of a native link stays in the input
buffer until its message goes on (R321). -/
def payloadIn (s : State) (l key : Nat) (src : Option (Nat × Nat)) (h : LinkHead) (flit : List Byte) : State :=
  let part := ((flit.drop 12).take 240).take h.valid
  let all := (if h.som then [] else fget [] (s.link l).rx key) ++ [part]
  if h.eom then messageIn (s.updLink l fun k => { k with rx := fset [] k.rx key [] }) l h.cls src all
  else s.updLink l fun k => { k with rx := fset [] k.rx key all }

/-- FLIT_RECEIVE: a numbered flit. -/
def flitReceive (s0 : State) (l : Nat) (flit : List Byte) : State :=
  if !inService s0 l || decide (flit.length ≠ 256) then s0
  else
    let s := heard s0 l
    let h := LinkHead.of flit
    let k := s.link l
    if flitCrcOk flit && (h.typ == 1 || h.typ == 2) then s0
    else if !flitCrcOk flit || decide (h.seq ≠ (k.rxLast + 1) % 4096) then flitDiscard s l
    else
      let s1 := s.updLink l fun k => headerIn h { k.bump 0x10 1 with rxLast := h.seq, discarding := false }
      if h.typ ≠ 0 then s1
      else
        let key := 2 * h.vc + h.cls
        payloadIn (s1.updLink l fun k => { k with inbuf := fset 0 k.inbuf key (fget 0 k.inbuf key + 1) }) l key (some (l, key)) h flit

/-- NULL_FLIT_RECEIVE. -/
def nullFlitReceive (s0 : State) (l : Nat) (flit : List Byte) : State :=
  if !inService s0 l || decide (flit.length ≠ 256) then s0
  else
    let s := heard s0 l
    if !flitCrcOk flit then flitDiscard s l
    else if (LinkHead.of flit).typ ≠ 1 then s0
    else s.updLink l (headerIn (LinkHead.of flit))

/-- RETRY_REQUEST: every flit after the one named is sent again; a flit re-sent 8 times in a row without being
accepted fences the link (R319). -/
def retryRequest (s0 : State) (l : Nat) (flit : List Byte) : State :=
  if !inService s0 l || decide (flit.length ≠ 256) then s0
  else
    let s := heard s0 l
    let h := LinkHead.of flit
    if !flitCrcOk flit then flitDiscard s l
    else if h.typ ≠ 2 then s0
    else
      let s1 := s.updLink l fun k => let k' := headerIn h k; { k' with resend := k'.retry }
      if (s1.link l).retry.any fun x => decide (8 ≤ x.2.tries) then fenceLink s1 l else s1

/-! ### Sending (R321, R322) -/

/-- Does the channel and class hold a credit? -/
def hasCredit (l : Link) (k : Nat) : Bool := decide (0 < fget 0 l.resv k) || decide (0 < l.shared)

def spendCredit (k : Nat) (l : Link) : Link :=
  if 0 < fget 0 l.resv k then { l with resv := fset 0 l.resv k (fget 0 l.resv k - 1) } else { l with shared := l.shared - 1 }

/-- The message of a channel that is partly sent, at its next flit: the flits of a message go back to back on their
channel (R316). -/
def midMessage (l : Link) (vc : Nat) : Option TxFlit :=
  ([0, 1].filterMap fun c => l.txq.find? fun f => f.vc == vc && f.cls == c).find? fun f => !f.som

/-- The flit of a channel that may go next: the next one of a message that is partly sent, or else the first one whose route
class has a credit, so that no class waits for the other's credits (R321, R333). -/
def readyOn (l : Link) (vc : Nat) : Option TxFlit :=
  match midMessage l vc with
  | some f => if hasCredit l (2 * f.vc + f.cls) then some f else none
  | none => l.txq.find? fun f => f.vc == vc && hasCredit l (2 * f.vc + f.cls)

/-- Flits of the message at the head of a channel and class. -/
def headLength (l : Link) (vc cls : Nat) : Nat :=
  match (l.txq.filter fun f => f.vc == vc && f.cls == cls).findIdx? fun f => f.eom with
  | some i => i + 1
  | none => 1

/-- The channel after `vc` in the round of 1 to 3. -/
def nextVc (vc : Nat) : Nat := vc % 3 + 1

/-- May the channel's turn go on with its head? -/
def turnGoes (l : Link) (vc left : Nat) : Bool :=
  match readyOn l vc with
  | some f => decide (0 < left) && (!f.som || decide (headLength l vc f.cls ≤ left) || left == 44)
  | none => false

/-- The channel of 1 to 3 that sends next, with the flits left in its turn; `n` channels are still to be asked. -/
def pickVc (l : Link) : Nat → Nat → Nat → Option (Nat × Nat)
  | 0, _, _ => none
  | n + 1, vc, left => if turnGoes l vc left then some (vc, left) else pickVc l n (nextVc vc) 44

/-- The flit that the output sends, and the turn after it. -/
def pickFlit (l : Link) : Option (TxFlit × Nat × Nat) :=
  match (if 15 ≤ l.sinceBridle then readyOn l 0 else none) with
  | some f => some (f, l.turn, l.turnLeft)
  | none => match pickVc l 4 l.turn l.turnLeft with
    | some (vc, left) =>
      match readyOn l vc with
      | some f =>
        if left ≤ 1 ∨ (vc ≤ 2 ∧ f.eom) then some (f, nextVc vc, 44) else some (f, vc, left - 1)
      | none => none
    | none => none

/-- Header of a queued flit. -/
def TxFlit.head (f : TxFlit) (seq : Nat) : LinkHead :=
  { seq := seq, vc := f.vc, cls := f.cls, typ := f.typ, som := f.som, eom := f.eom, valid := f.payload.length }

/-- A flit slot passes. -/
def slotPasses (l : Link) : Link := { l with sinceBridle := min 16 (l.sinceBridle + 1) }

/-- Is a flit one of the Bridle lane, which may take one slot in any 16 (R322)? -/
def isBridleFlit (f : TxFlit) : Bool := f.vc == 0 && f.typ == 0

/-- A flit that is sent again counts its re-sends while it waits to be accepted. -/
def triedAgain (seq : Nat) (l : Link) : Link :=
  { l with retry := l.retry.map fun x => if x.1 == seq then (x.1, { x.2 with tries := x.2.tries + 1 }) else x }

/-- The oldest flit still to be sent again goes out; more than 1,024 re-sends within 1 ms fence the link. A Bridle flit keeps
the pace of R322. -/
def sendAgain (s : State) (l : Nat) (x : Nat × TxFlit) (rest : List (Nat × TxFlit)) : State :=
  let k := s.link l
  let now := (s.region (l / 6)).cycle
  let times := (k.resendAt.filter fun t => decide ((now - t).toNat < 1600000)) ++ [now]
  if isBridleFlit x.2 ∧ k.sinceBridle < 15 then s.updLink l slotPasses
  else
    let s1 := s.updLink l fun k =>
      let k1 := slotPasses (triedAgain x.1 { k.bump 0x20 1 with resend := rest, resendAt := times })
      { k1 with sinceBridle := if isBridleFlit x.2 then 0 else k1.sinceBridle }
    let s2 := match x.2.control with
      | some p => s1.emit (.control l p)
      | none => sendFlit s1 l (x.2.head x.1) x.2.payload
    if 1024 < times.length then fenceLink s2 l else s2

/-- A null flit (R317). -/
def sendNull (s : State) (l : Nat) : State := sendFlit (s.updLink l slotPasses) l { typ := 1 } []

/-- FLIT_TRANSMIT: one flit slot of the output. -/
def flitTransmit (s : State) (l : Nat) : State :=
  if !inService s l then s
  else
    let s := s.updLink l (offerBridle (s.region (l / 6)).cycle)
    let k := s.link l
    match k.resend with
    | x :: rest => sendAgain s l x rest
    | [] =>
      if 128 ≤ k.retry.length then sendNull s l
      else match pickFlit k with
        | none => s.updLink l slotPasses
        | some (f, turn, left) =>
          let s1 := s.updLink l fun k =>
            let k1 := slotPasses (spendCredit (2 * f.vc + f.cls) (k.bump 0x08 1))
            { k1 with txq := k.txq.erase f, retry := k.retry ++ [(k.txSeq, f)], txSeq := (k.txSeq + 1) % 4096,
                      turn := turn, turnLeft := left, sinceBridle := if f.vc = 0 then 0 else k1.sinceBridle }
          shipped (leaves (sendFlit s1 l (f.head k.txSeq) f.payload) f) f

/-- NULL_FLIT_TIMER: 32 slots without other traffic; before the lock a link carries link-control flits only (R330). -/
def nullTimer (s : State) (l : Nat) : State :=
  if inService s l then sendNull (s.updLink l fun k => { k with sinceBridle := 16 }) l else s

def execLinkTrainingDone (link : Nat) (ok : Bool) (rtt : Nat) (s : State) : Res :=
  .next (if link < 24 then trainingDone s link ok rtt else s)
def execLinkControlFlit (link : Nat) (peer : PeerInfo) (s : State) : Res :=
  .next (if link < 24 then linkControl s link peer else s)
def execLinkSignalLoss (link : Nat) (s : State) : Res := .next (if link < 24 then signalLoss s link else s)
def execFlitReceive (link : Nat) (flit : List Byte) (s : State) : Res :=
  .next (if link < 24 then flitReceive s link flit else s)
def execNullFlitReceive (link : Nat) (flit : List Byte) (s : State) : Res :=
  .next (if link < 24 then nullFlitReceive s link flit else s)
def execRetryRequest (link : Nat) (flit : List Byte) (s : State) : Res :=
  .next (if link < 24 then retryRequest s link flit else s)
def execNullFlitTimer (link : Nat) (s : State) : Res := .next (if link < 24 then nullTimer s link else s)
def execFlitTransmit (link : Nat) (s : State) : Res := .next (if link < 24 then flitTransmit s link else s)

end Sys2Proof.Machine
end

