-- ==== Sys2Proof/Machine/Remote.lean ====
section
/-! DEFINITION. Messages from other devices that act on memory (R29, R296, R316): writes, reads, atomic adds, and
the answers to this device's own. -/

namespace Sys2Proof.Machine

/-- A delivered message leaves its region's queue, where it stands there. -/
def takeMsg (s : State) (r : Nat) (d : Deliver) : State :=
  s.updRegion r fun g => { g with inbox := g.inbox.erase d }

/-- Is a message one that this device performs: of the given OP, and for an address of its own? -/
def forUs (s : State) (op : Nat) (m : Msg) : Bool := m.op == op && devOf m.dest == s.hub.deviceId

/-- A refusal under R29, answered as R372 answers a slot write; that of a read of one byte has two, so that no answer
of the length asked for is a refusal (log entry 42). -/
def refuseRemote (s : State) (r : Nat) (m : Msg) : State :=
  let bs : List Byte := if m.op = 1 ∧ m.length = 1 then [2, 2] else [2]
  sendMsg s r none
    { dest := regionAddr m.srcId m.srcRegion, op := 2, length := bs.length, mtag := m.mtag, data := bs }

/-- Does a range touch memory that is out of service (R34)? -/
def fencedRange (s : State) (a n : Nat) : Bool := fencedSpan s a n

/-- May another device's request reach the range: it lies in one memory, outside a residency pool (R29, R271)? -/
def remoteReach (s : State) (a n : Nat) : Bool := decide (0 < n) && localSpan s false (a, n) != stBOUNDS

/-- REMOTE_WRITE: into a mailbox slot, or into memory; anything else is refused (R29). Writes from other devices
are never checked against the freeze mask (R296). -/
def remoteWrite (s0 : State) (r : Nat) (m : Msg) : State :=
  let s := takeMsg s0 r (.msg m)
  let a := localOf m.dest
  if !forUs s0 0 m then s0
  else if inSlots a then
    slotWrite s { master := 0xFF, addr := a, data := m.data, remote := some ⟨m.srcId, m.srcRegion⟩, mtag := m.mtag, via := r }
  else if !remoteReach s a m.data.length then refuseRemote s r m
  else if fencedRange s a m.data.length then s
  else memWrite s a m.data

/-- Bytes of a remote read; those of poisoned blocks or words are free values (log entry 42). -/
def readOut (s : State) (a n : Nat) : List Byte × State :=
  ((List.range n).map fun i => if bad s (a + i) then BitVec.ofNat 8 (Config.free (s.fresh + i)) else rdByte s (a + i),
   { countReads s a n with fresh := s.fresh + n })

/-- READ_REQUEST: the bytes return to the requester's region with its MTAG. -/
def readRequest (s0 : State) (r : Nat) (m : Msg) : State :=
  let s := takeMsg s0 r (.msg m)
  let a := localOf m.dest
  if !forUs s0 1 m then s0
  else if !remoteReach s a m.length then refuseRemote s r m
  else if fencedRange s a m.length then s
  else
    let (bs, s1) := readOut s a m.length
    let marks := ((List.range m.length).filter fun i => bad s (a + i)).map fun i => (m.dest + i, 1)
    sendNoted s1 r none (if marks.isEmpty then none else some (.poison marks))
      { dest := regionAddr m.srcId m.srcRegion, op := 2, length := m.length, mtag := m.mtag, data := bs }

/-- READ_RESPONSE: bytes that a transfer waits for, or the refusal of a read or a write of this device, which
gives its operation BOUNDS (R29, R372). -/
def readResponse (s0 : State) (r : Nat) (m : Msg) : State :=
  let s := takeMsg s0 r (.msg m)
  let g := s.region r
  if !forUs s0 2 m then s0
  else match g.dma.running.find? fun i => i.waits.any fun w => w.1 == m.mtag with
    | some it =>
      let want := ((it.waits.find? fun w => w.1 == m.mtag).map fun w => w.2.2).getD 0
      if m.data.length ≠ want then dropWaits (s.addStat it.op stBOUNDS) it.op
      else dmaResponse s r m.mtag m.data
    | none => match g.wrote.find? fun p => p.1 == m.mtag with
      | some p => if m.data = [1] ∨ m.data = [2] then s.addStat p.2 stBOUNDS else s
      | none => s

/-- Events of an addition whose format the message does not give (R5): a poisoned word is one read of poison (R264);
otherwise free bits say whether it overflowed, as FP32, or saturated, as INT32 (log entry 42). -/
def addEvents (s : State) (r a : Nat) : State :=
  if bad s a then chargeEvents s r noFmt 0 [evPoison]
  else
    let (v, s1) := s.draw
    match v % 3 with
    | 0 => s1
    | 1 => chargeEvents s1 r fFP32 0 [evOver]
    | _ => chargeEvents s1 r fINT32 0 [evSat]

/-- One piece of an atomic add: a poisoned word keeps its poison (Table 9-4); the sum is a free value, since the
spec gives the message no element format (log entry 42). -/
def addPiece (s0 : State) (r a n : Nat) : State :=
  let s := addEvents s0 r a
  if bad s a then s else let (bs, s1) := freeBytes n s; writeUnit s1 a bs

/-- ATOMIC_ADD. -/
def atomicAdd (s0 : State) (r : Nat) (m : Msg) : State :=
  let s := takeMsg s0 r (.msg m)
  let a := localOf m.dest
  if !forUs s0 3 m then s0
  else if !remoteReach s a m.data.length then refuseRemote s r m
  else if fencedRange s a m.data.length then s
  else (pieces m.data.length a m.data).foldl (fun s p => addPiece s r p.1 p.2.length) s

def execRemoteWrite (region : Nat) (m : Msg) (s : State) : Res := .next (if region < 4 then remoteWrite s region m else s)
def execReadRequest (region : Nat) (m : Msg) (s : State) : Res := .next (if region < 4 then readRequest s region m else s)
def execAtomicAdd (region : Nat) (m : Msg) (s : State) : Res := .next (if region < 4 then atomicAdd s region m else s)

end Sys2Proof.Machine
end

