-- ==== Sys2Proof/Machine/Pleacher.lean ====
section
/-! DEFINITION. Pleacher: collectives (R339 to R348). Contributions and results pass whole between regions of the device, and
as messages of OP 4 and 5 on VC1 to other devices (R316, R347, log entry 43). -/

namespace Sys2Proof.Machine

/-! ### The descriptor (Table 11-9); offsets count from the header -/

def cOp (d : List Byte) : Nat := fldBits d 0x10 4 2 0
def cRed (d : List Byte) : Nat := fldBits d 0x10 4 4 3
def cIn (d : List Byte) : Nat := fldBits d 0x10 4 8 5
def cOut (d : List Byte) : Nat := fldBits d 0x10 4 12 9
def cPolicy (d : List Byte) : Nat := fldBits d 0x10 4 14 13
def cTag (d : List Byte) : Nat := fldBits d 0x14 4 9 0
def cCid (d : List Byte) : Nat := fld d 0x18 4
def cDeadline (d : List Byte) : Nat := fld d 0x1C 4
def cGroup (d : List Byte) : Nat := fld d 0x20 8
def cMembers (d : List Byte) : Nat := fld d 0x28 4
def cRoot (d : List Byte) : Nat := fld d 0x2C 4
def cCount (d : List Byte) : Nat := fld d 0x30 8
def cSrc (d : List Byte) : Nat := fld d 0x38 8
def cDst (d : List Byte) : Nat := fld d 0x40 8
def cHdr (d : List Byte) : Nat := fld d 0x48 8
def cDefer (d : List Byte) : Nat := fld d 0x50 8

def cReduces (d : List Byte) : Bool := decide (cOp d ≤ 1)

/-- FP32, BF16, FP16 or INT32, the last under the code 0xB of this descriptor. -/
def cFmtOk (f : Nat) : Bool := f == 0 || f == 1 || f == 2 || f == fINT32

/-- Fields of the body. -/
def collOk (opc : Nat) (d : List Byte) : Bool :=
  cOp d == opc - 0x401 && decide (cRed d ≤ 2) && (cReduces d || cRed d == 0) && cFmtOk (cIn d) && cFmtOk (cOut d)
    && ((cIn d == fINT32) == (cOut d == fINT32)) && decide (cPolicy d ≤ 2) && (cReduces d || cPolicy d == 0)
    && fldBits d 0x10 4 31 15 == 0 && fldBits d 0x14 4 31 18 == 0 && decide (cDeadline d ≤ 1000000)
    && (cDeadline d != 0 || cPolicy d == 0) && decide (2 ≤ cMembers d) && decide (cMembers d ≤ 262144)
    && (if cOp d = 4 then decide (cRoot d < cMembers d) else cRoot d == 0)
    && decide (1 ≤ cCount d) && decide (cCount d ≤ 2 ^ 34) && (cReduces d || cHdr d == 0)
    && (cPolicy d == 1 || cDefer d == 0) && zeros d 0x58 0x90

/-! ### Shards (R340) -/

def shardSize (d : List Byte) : Nat := 64 * ceilDiv (cCount d) (64 * cMembers d)
def shardLo (d : List Byte) (r : Nat) : Nat := r * shardSize d
def shardLen (d : List Byte) (r : Nat) : Nat := min (shardLo d r + shardSize d) (cCount d) - shardLo d r

/-- Shards that hold elements. -/
def shardsOf (d : List Byte) : List Nat := (List.range (cMembers d)).filter fun r => decide (0 < shardLen d r)

def elSize (f : Nat) : Nat := fmtBits f / 8

/-- Elements that a member's source and destination hold. -/
def srcCount (d : List Byte) (rank : Nat) : Nat :=
  match cOp d with
  | 3 => cMembers d * cCount d
  | 4 => if rank = cRoot d then cCount d else 0
  | _ => cCount d

def dstCount (d : List Byte) (rank : Nat) : Nat :=
  match cOp d with
  | 1 => shardLen d rank
  | 2 => cMembers d * cCount d
  | 3 => cMembers d * cCount d
  | _ => cCount d

/-- Device and region of a member. -/
def memberDev (w : Nat) : Nat := w % 65536
def memberReg (w : Nat) : Nat := natBits w 17 16

/-- The members' words of a group array. -/
def groupOf (s : State) (a n : Nat) : List Nat := (List.range n).map fun i => rdNat s (a + 4 * i) 4

def selfWord (s : State) (r : Nat) : Nat := s.hub.deviceId + r * 65536

/-- The status of a collective's body, 0 when it is held for its start. -/
def collStatus (s : State) (e : OpEntry) : Nat :=
  let d := e.desc
  let m := cMembers d
  let gst := rangeStatus s e.resident (cGroup d) (4 * m)
  if !collOk e.opcode d then (if gst == stFENCED then stFENCED else stBADDESC)
  else if gst ≠ stOK then gst
  else if badRange s (cGroup d) (4 * m) then stPOISON
  else
    let g := groupOf s (cGroup d) m
    match g.findIdx? fun w => w == selfWord s e.region with
    | none => stBADDESC
    | some rank =>
      let hdr := if cReduces d then rangeStatus s e.resident (cHdr d) (64 * m) else stOK
      let def_ := if cPolicy d = 1 then rangeStatus s e.resident (cDefer d) (4 * shardSize d + 64) else stOK
      let src := rangeStatus s e.resident (cSrc d) (srcCount d rank * elSize (cIn d))
      let dst := rangeStatus s e.resident (cDst d) (dstCount d rank * elSize (cOut d))
      let bad_ : Bool := g.any fun w => decide (2 ^ 18 ≤ w)
      bestStatus ([hdr, def_, src, dst] ++ if bad_ then [stBADDESC] else [])

/-- The body of a collective is checked at admission; an accepted one waits for its start. -/
def collective (opc : Nat) (s : State) (id : OpId) : State :=
  match admittedOp s id opc with
  | none => s
  | some e =>
    match collStatus s e with
    | 0 => s.updOp id fun e => { e with phase := .held }
    | st => refuseLoad s e st

/-! ### Sending -/

/-- The messages of a contribution (OP 4) or a result (OP 5) to a region of another device: at most 4,096 data bytes in each;
the last flit completes the shipment. -/
def shipMessages (dev region op : Nat) (data : List Byte) : List Msg :=
  (List.range (ceilDiv data.length 4096)).map fun i =>
    let bs := (data.drop (4096 * i)).take 4096
    { dest := regionAddr dev region, op := op, length := bs.length, data := bs }

/-- Send a shipment's messages in order; each takes the route that its entry gives now. -/
def sendShipment (s : State) (r : Nat) (op : Option OpId) (x : Shipment) : List Msg → State
  | [] => s
  | m :: t =>
    match forwardNoted s r 0 op (if t.isEmpty then some x else none) { m with srcId := s.hub.deviceId, srcRegion := r } with
    | some s1 => sendShipment s1 r op x t
    | none => opLinkDown s op

/-- A contribution or a result goes to a member: over the ring within the device (R26), on VC1 to another. -/
def sendContribution (s : State) (r : Nat) (op : Option OpId) (w : Nat) (c : Contribution) : State :=
  let dev := memberDev w
  let k := memberReg w
  if dev = s.hub.deviceId then (if ringJoins s r k then deliver s k (.contribution c) else opLinkDown s op)
  else sendShipment s r op (.contribution dev k c) (shipMessages dev k 4 c.data)

def sendResult (s : State) (r : Nat) (op : Option OpId) (w : Nat) (c : CollResult) : State :=
  let dev := memberDev w
  let k := memberReg w
  if dev = s.hub.deviceId then (if ringJoins s r k then deliver s k (.result c) else opLinkDown s op)
  else sendShipment s r op (.result dev k c) (shipMessages dev k 5 (c.data ++ c.header.getD []))

/-- Code of element i of a member's source, a poisoned one as NaN or 0 (R66, R341); and whether it was. -/
def srcCode (s : State) (d : List Byte) (i : Nat) : Nat × Bool :=
  let f := cIn d
  let a := cSrc d + i * elSize f
  if badRange s a (elSize f) then ((if fmtInt f then 0 else canonNan f), true) else (rdNat s a (elSize f), false)

/-- `n` elements from `i` as FMT_IN bytes, with the poison that they met. -/
def srcBytes (s : State) (d : List Byte) (i n : Nat) : List Byte × Nat :=
  let l := (List.range n).map fun k => srcCode s d (i + k)
  (l.flatMap fun x => leBytes (elSize (cIn d)) x.1, (l.filter Prod.snd).length)

/-- Poison met by a member's reads. -/
def metPoison (s : State) (e : OpEntry) (k : Nat) : State :=
  if k = 0 then s
  else (chargeEvents s e.region (cIn e.desc) (cTag e.desc) (List.replicate k evPoison)).addStat e.id stPOISON

/-- HBM blocks that a member's source elements take. -/
def readSrc (s : State) (d : List Byte) (i n : Nat) : State := countReads s (cSrc d + i * elSize (cIn d)) (n * elSize (cIn d))

/-- Elements of a collective without a reduction, encoded in FMT_OUT where that differs from FMT_IN. -/
def movedBytes (s : State) (e : OpEntry) (i n : Nat) : List Byte × State :=
  let d := e.desc
  let (bs, k) := srcBytes s d i n
  let s1 := metPoison (readSrc s d i n) e k
  if cIn d = cOut d then (bs, s1)
  else
    let l := (List.range n).map fun j =>
      (Fmt.plain (cOut d)).encode .ne ((Fmt.plain (cIn d)).decode (fld bs (j * elSize (cIn d)) (elSize (cIn d))))
    (l.flatMap fun x => leBytes (elSize (cOut d)) x.1, chargeEvents s1 e.region (cOut d) (cTag d) (l.flatMap fun x => x.2.1))

/-! ### Reduction (R341) -/

/-- One element joins a sum: FP32 with one rounding, or INT32 saturating; maximum and minimum under R64. -/
def combine (isInt : Bool) (red : Nat) (a b : Word) : Word × List Nat :=
  if isInt then
    if red = 0 then let x := satI32 (a.toInt + b.toInt); (ofI32 x.1, x.2)
    else (ofI32 (if red = 1 then max a.toInt b.toInt else min a.toInt b.toInt), [])
  else
    let x := fpOp fFP32 (if red = 0 then 0 else if red = 1 then 7 else 6) (f32 a) (f32 b) .nan
    (toF32 x.1, x.2)

/-- A contributed element in FP32 or INT32; every FMT_IN value is exact there. -/
def widen (f code : Nat) : Word :=
  if fmtInt f then BitVec.ofNat 32 code else toF32 ((Fmt.plain f).decode code)

/-- Words of contributed bytes. -/
def widenAll (f : Nat) (bs : List Byte) : List Word :=
  (List.range (bs.length / elSize f)).map fun i => widen f (fld bs (i * elSize f) (elSize f))

/-- Elementwise combination; the first contribution is the sum as it stands. -/
def combineAll (isInt : Bool) (red : Nat) (a b : List Word) : List Word × List Nat :=
  if a.isEmpty then (b, [])
  else
    let l := (a.zip b).map fun x => combine isInt red x.1 x.2
    (l.map Prod.fst, l.flatMap Prod.snd)

/-- Format to which accumulation is charged. -/
def accFmt (d : List Byte) : Nat := if cIn d = fINT32 then fINT32 else fFP32

/-- The encoded result of a shard, and its events. -/
def encodeSums (d : List Byte) (l : List Word) : List Byte × List Nat :=
  if cOut d = fINT32 then (l.flatMap fun w => leBytes 4 w.toNat, [])
  else
    let xs := l.map fun w => (Fmt.plain (cOut d)).encode .ne (f32 w)
    (xs.flatMap fun x => leBytes (elSize (cOut d)) x.1, xs.flatMap fun x => x.2.1)

/-! ### Shards at their owner -/

def bumpPlc (s : State) (r off n : Nat) : State :=
  s.updRegion r fun g => { g with ctr := ctrAdd g.ctr (0x40000 + off) n }

def isShard (cid step shard : Nat) (x : Shard) : Bool := x.cid == cid && x.step == step && x.shard == shard

def shardAt (s : State) (r cid step shard : Nat) : Option Shard := (s.region r).shards.find? (isShard cid step shard)

def updShard (s : State) (r cid step shard : Nat) (f : Shard → Shard) : State :=
  s.updRegion r fun g => { g with shards := g.shards.map fun x => if isShard cid step shard x then f x else x }

/-- The member's operation of a collective in region r. -/
def collOpOf (s : State) (r cid step : Nat) : Option OpId :=
  ((s.region r).colls.find? fun c => cCid c.body == cid && c.step == step).map Coll.op

/-- The shard header (Table 11-10). -/
def shardHeader (s : State) (r : Nat) (x : Shard) (folded : Nat) (now : DWord) : List Byte :=
  leBytes 8 x.step ++ leBytes 4 (x.ranks.length + folded) ++ leBytes 4 x.ranks.length ++ leBytes 4 folded
    ++ leBytes 4 (cMembers x.body - x.ranks.length) ++ leBytes 8 x.first.toNat ++ leBytes 8 now.toNat
    ++ leBytes 2 s.hub.deviceId ++ leBytes 1 r ++ List.replicate 21 0

/-- PLC_FINAL (Table 11-13). -/
def finalBody (s : State) (r : Nat) (x : Shard) (folded : Nat) : List Byte :=
  leBytes 4 x.cid ++ leBytes 4 x.shard ++ leBytes 8 x.step ++ leBytes 2 s.hub.deviceId ++ leBytes 1 r
    ++ leBytes 1 (cPolicy x.body) ++ leBytes 4 (x.ranks.length + folded) ++ leBytes 4 (cMembers x.body - x.ranks.length)

/-- Members with their ranks. -/
def ranked (g : List Nat) : List (Nat × Nat) := g.zip (List.range g.length)

/-- Finalisation of a shard in cycle `now` of the region counter (R342, R343). -/
def finalise (s : State) (r : Nat) (now : DWord) (x : Shard) : State :=
  let d := x.body
  let old := (s.region r).defers.filter fun y => y.cid == x.cid && y.shard == x.shard && y.step + 1 == x.step
  let (sums, ev1) := old.foldl
    (fun a y => let c := combineAll (cIn d == fINT32) (cRed d) a.1 y.sums; (c.1, a.2 ++ c.2)) (x.sums, [])
  let folded := (old.map Deferral.count).sum
  let (bytes, ev2) := encodeSums d sums
  let hdr := shardHeader s r x folded now
  let s1 := updShard s r x.cid x.step x.shard fun y => { y with final := true, sums := [] }
  let s2 := chargeEvents (chargeEvents s1 r (accFmt d) (cTag d) ev1) r (cOut d) (cTag d) ev2
  let op := collOpOf s r x.cid x.step
  let res (own : Bool) : CollResult :=
    { cid := x.cid, step := x.step, shard := x.shard, element := if cOp d = 1 then 0 else shardLo d x.shard,
      data := if cOp d = 1 ∧ !own then [] else bytes, header := some hdr }
  let s3 := (ranked x.group).foldl (fun s w => sendResult s r op w.1 (res (w.2 == x.shard))) s2
  if cPolicy d = 0 then s3
  else ((ranked x.group).filter fun w => !x.ranks.contains w.2).foldl
    (fun s w => (reachBridle s r none (memberDev w.1) (memberReg w.1) 7 (finalBody s r x folded)).1) s3

/-- Finalise when every member has contributed. -/
def finaliseFull (s : State) (r cid step shard : Nat) : State :=
  match shardAt s r cid step shard with
  | some x => if !x.final && decide (x.ranks.length = cMembers x.body) then finalise s r (s.region r).cycle x else s
  | none => s

/-- The last region-counter cycle at which a contribution to the shard is on time. -/
def lastCycle (x : Shard) : Nat := x.first.toNat + cDeadline x.body * 1600

/-- Has the shard's deadline passed at `now`? -/
def overdue (x : Shard) (now : DWord) : Bool :=
  cPolicy x.body != 0 && !x.ranks.isEmpty && decide (lastCycle x < now.toNat)

/-- Finalisation at the deadline. -/
def finaliseLate (s : State) (r : Nat) (x : Shard) : State := finalise s r (BitVec.ofNat 64 (lastCycle x)) x

/-- A write of Pleacher for a member's operation, or for none that is still in the table (R262). -/
def plcWrite (s : State) (op : Option OpId) (a : Nat) (bs : List Byte) : State :=
  match op with
  | some id => opWrite s id 0 false a bs
  | none => memWrite s a bs

/-- A late contribution (R343, R344). -/
def lateContribution (s0 : State) (r : Nat) (x : Shard) (c : Contribution) : State :=
  let s := bumpPlc s0 r 0x08 1
  let next : Bool := ((shardAt s r c.cid (c.step + 1) c.shard).map Shard.final).getD false
  if cPolicy x.body = 1 ∧ !next then
    let d := x.body
    let mine (y : Deferral) : Bool := y.cid == c.cid && y.shard == c.shard && y.step == c.step
    let old := ((s.region r).defers.find? mine).getD { cid := c.cid, shard := c.shard, step := c.step, base := cDefer d }
    let (sums, ev) := combineAll (cIn d == fINT32) (cRed d) old.sums (widenAll (cIn d) c.data)
    let new : Deferral := { old with sums := sums, count := old.count + 1 }
    let s1 := s.updRegion r fun g => { g with defers := g.defers.filter (fun y => !mine y) ++ [new] }
    let s2 := chargeEvents (bumpPlc s1 r 0x10 1) r (accFmt d) (cTag d) ev
    let (tail, s3) := freeBytes 64 s2
    let op := collOpOf s3 r c.cid c.step
    if fencedRange s3 new.base (4 * sums.length + 64) then s3
    else plcWrite (plcWrite s3 op new.base (wordBytes32 sums)) op (new.base + 4 * shardSize d) tail
  else bumpPlc s r 0x18 1
where
  wordBytes32 (l : List Word) : List Byte := l.flatMap fun w => leBytes 4 w.toNat

/-- A contribution on time. -/
def onTime (s : State) (r : Nat) (at_ : DWord) (x : Shard) (c : Contribution) : State :=
  let d := x.body
  let (sums, ev) := combineAll (cIn d == fINT32) (cRed d) x.sums (widenAll (cIn d) c.data)
  let s1 := updShard s r x.cid x.step x.shard fun y =>
    { y with sums := sums, ranks := y.ranks ++ [c.rank], first := if y.ranks.isEmpty then at_ else y.first }
  finaliseFull (chargeEvents s1 r (accFmt d) (cTag d) ev) r x.cid x.step x.shard

/-- A contribution has been accepted into a sum or a deferral area, or discarded: its member need not wait for it (R346). -/
def accountFor (s : State) (c : Contribution) : State :=
  (List.range 4).foldl
    (fun s r => s.updRegion r fun g =>
      { g with colls := g.colls.map fun x =>
          if cCid x.body == c.cid && x.step == c.step && x.rank == c.rank then { x with unsettled := x.unsettled.erase c.shard }
          else x }) s

/-- A contribution that reached its owner at region-counter cycle `at_`. -/
def contribute (s : State) (r : Nat) (at_ : DWord) (c : Contribution) : State :=
  match shardAt s r c.cid c.step c.shard with
  | none =>
    if c.step + 1 < s.hub.step.toNat then accountFor (bumpPlc (bumpPlc s r 0x08 1) r 0x18 1) c
    else s.updRegion r fun g => { g with early := g.early ++ [(at_, c)] }
  | some x =>
    if x.ranks.contains c.rank then s
    else if x.final then accountFor (lateContribution s r x c) c
    else if overdue x at_ then
      let s1 := finaliseLate s r x
      accountFor (lateContribution s1 r x c) c
    else onTime (accountFor s c) r at_ x c

/-- COLLECTIVE_CONTRIBUTION. -/
def collContribution (s : State) (r : Nat) (c : Contribution) : State :=
  contribute (takeMsg s r (.contribution c)) r (s.region r).cycle c

/-- SHARD_DEADLINE, once the last cycle in which a contribution is on time is over. -/
def shardDeadline (s : State) (r cid shard : Nat) : State :=
  match (s.region r).shards.find? fun x =>
      x.cid == cid && x.shard == shard && !x.final && overdue x (s.region r).cycle with
  | some x => finaliseLate s r x
  | none => s

/-! ### Start (R282, R340) -/

def liveColl (s : State) (c : Coll) : Bool :=
  match s.op? c.op with
  | some e => e.phase == .running
  | none => false

/-- Does a DEFERRED kernel of the collective's bucket and step still run or wait (R282)? -/
def bucketBusy (s : State) (e : OpEntry) : Bool :=
  let b := collBucket e.desc
  b != 0 && s.ops.any fun k => k.opcode == opKERNEL && k.cls == clsDEF && k.bucket == b && k.step == e.step

/-- A reduction's contributions: one to each shard's owner, but for shards that were finalised with DROP before
the member contributed (R325). -/
def sendShards (s : State) (e : OpEntry) (g : List Nat) (rank : Nat) : State :=
  let d := e.desc
  (shardsOf d).foldl
    (fun s k =>
      if (s.region e.region).finals.contains (cCid d, e.step.toNat, k, 2) then bumpPlc s e.region 0x18 1
      else
        let (bs, n) := srcBytes s d (shardLo d k) (shardLen d k)
        sendContribution (metPoison (readSrc s d (shardLo d k) (shardLen d k)) e n) e.region (some e.id) (g.getD k 0)
          { cid := cCid d, step := e.step.toNat, shard := k, rank := rank, data := bs }) s

/-- What the other collectives send. -/
def sendMoves (s : State) (e : OpEntry) (g : List Nat) (rank : Nat) : State :=
  let d := e.desc
  let n := cCount d
  let res (el : Nat) (bs : List Byte) : CollResult :=
    { cid := cCid d, step := e.step.toNat, shard := rank, element := el, data := bs }
  match cOp d with
  | 2 =>
    let (bs, s1) := movedBytes s e 0 n
    g.foldl (fun s w => sendResult s e.region (some e.id) w (res (rank * n) bs)) s1
  | 3 => (ranked g).foldl
      (fun s w =>
        let (bs, s1) := movedBytes s e (w.2 * n) n
        sendResult s1 e.region (some e.id) w.1 (res (rank * n) bs)) s
  | _ =>
    if rank = cRoot d then
      let (bs, s1) := movedBytes s e 0 n
      g.foldl (fun s w => sendResult s e.region (some e.id) w (res 0 bs)) s1
    else s

/-- The member's own shard comes to be, and the contributions that came before it count, each at its own time. -/
def openShard (s : State) (e : OpEntry) (g : List Nat) (rank : Nat) : State :=
  let d := e.desc
  let r := e.region
  let x : Shard := { body := d, group := g, cid := cCid d, step := e.step.toNat, shard := rank }
  if shardLen d rank = 0 ∨ (shardAt s r x.cid x.step rank).isSome then s
  else
    let mine (p : DWord × Contribution) : Bool := p.2.cid == x.cid && p.2.step == x.step && p.2.shard == rank
    let early := (s.region r).early
    (early.filter mine).foldl (fun s p => contribute s r p.1 p.2)
      (s.updRegion r fun h => { h with early := early.filter fun p => !mine p, shards := h.shards ++ [x] })

/-- COLLECTIVE_START. -/
def collectiveStart (s : State) (id : OpId) : State :=
  match s.op? id with
  | some e =>
    let r := e.region
    let live := (s.region r).colls.filter (liveColl s)
    if e.group != 4 || e.phase != .held || bucketBusy s e || decide (64 ≤ live.length) then s
    else
      let d := e.desc
      let g := groupOf s (cGroup d) (cMembers d)
      let s := countReads s (cGroup d) (4 * cMembers d)
      let rank := (g.findIdx? fun w => w == selfWord s r).getD 0
      let near := (shardsOf d).filter fun k => memberDev (g.getD k 0) == s.hub.deviceId
      let c : Coll := { op := id, body := d, group := g, rank := rank, step := e.step.toNat,
                        unsettled := if cReduces d then near.filter fun k => !(s.region r).finals.contains (cCid d, e.step.toNat, k, 2)
                          else [] }
      let s1 := (s.updRegion r fun h => { h with colls := live ++ [c] }).updOp id
        fun e => { e with phase := .running, started := true }
      if cReduces d then openShard (sendShards s1 e g rank) e g rank else sendMoves s1 e g rank
  | none => s

/-! ### Results -/

/-- Shards or source ranks from which a member expects a result. -/
def expected (d : List Byte) : List Nat :=
  if cReduces d then shardsOf d else if cOp d = 4 then [cRoot d] else List.range (cMembers d)

/-- Is a member's collective over: its last result is in, and its last contribution is accepted, deferred or discarded? What
goes to another device counts as accepted when its flits are acknowledged (log entry 43). -/
def collDone (s : State) (c : Coll) : Bool :=
  liveColl s c && ((expected c.body).all fun k => c.got.contains k) && c.unsettled.isEmpty
    && (c.late.isEmpty || !opInFlight s c.op)

/-- A member whose collective is over completes (R346). -/
def settleColl (s : State) (r : Nat) (c : Coll) : State :=
  if collDone s c then
    let st := if c.late.isEmpty then stOK else if cPolicy c.body = 1 then stSTRAGDEF else stSTRAGDROP
    ((s.updRegion r fun g => { g with colls := g.colls.filter fun x => x.op != c.op }).updOp c.op
      fun e => { e with d0 := BitVec.ofNat 64 c.late.length }).finishOp c.op st
  else s

/-- Members that wait for nothing any more complete. -/
def settleColls (s : State) : State :=
  (List.range 4).foldl
    (fun s r => ((s.region r).colls.filter (collDone s)).foldl (fun s c => settleColl s r c) s) s

/-- COLLECTIVE_RESULT: the bytes and the header become visible together; one that comes before the member has
started waits in the region's queue. -/
def collResult (s0 : State) (r : Nat) (c : CollResult) : State :=
  let s := takeMsg s0 r (.result c)
  match (s.region r).colls.find? fun x => cCid x.body == c.cid && x.step == c.step && liveColl s x with
  | none => if (s0.region r).inbox.contains (.result c) then s0 else deliver s0 r (.result c)
  | some x =>
    if x.got.contains c.shard then s
    else
      let d := x.body
      let a := cDst d + c.element * elSize (cOut d)
      let s1 := if c.data.isEmpty || fencedRange s a c.data.length || !inMem ((memOf a).getD .hbm) a c.data.length then s
        else countValues (opWrite s x.op 0 false a c.data) r (cOut d) (cTag d) (c.data.length / elSize (cOut d))
      let h := c.header.getD []
      let ha := cHdr d + 64 * c.shard
      let s2 := if h.isEmpty || fencedRange s1 ha 64 then s1 else opWrite s1 x.op 0 false ha h
      let late := !h.isEmpty && decide (0 < fld h 0x14 4)
      let x' : Coll := { x with got := x.got ++ [c.shard], late := if late then x.late ++ [c.shard] else x.late }
      settleColl (s2.updRegion r fun g => { g with colls := g.colls.map fun y => if y.op == x.op then x' else y }) r x'

/-! ### Loss and abandonment (R347, R348) -/

/-- Does a collective name a device? -/
def namesDev (dev : Nat) (c : Coll) : Bool := c.group.any fun w => memberDev w == dev

/-- A device is reported lost to a region's Pleacher: collectives that cannot go on without it end. -/
def pleacherLost (s : State) (r dev : Nat) : State :=
  let hit (c : Coll) : Bool := liveColl s c && namesDev dev c && cPolicy c.body == 0
  let l := (s.region r).colls.filter hit
  l.foldl
    (fun s c => bumpPlc ((s.updRegion r fun g =>
        { g with colls := g.colls.filter (fun x => x.op != c.op),
                 shards := g.shards.filter fun x => !(x.cid == cCid c.body && x.step == c.step) }).finishOp c.op stTIMEOUT)
      r 0x20 1) s

/-- Is something of a queue part of a step? -/
def ofStep (t : Nat) : Deliver → Bool
  | .contribution c => c.step == t
  | .result c => c.step == t
  | _ => false

/-- The collectives of an abandoned step are aborted; deferral areas keep their contents. -/
def abortColls (s : State) (t : Nat) : State :=
  let s1 := (s.ops.filter fun e => e.group == 4 && e.step.toNat == t).foldl (fun s e => markAbort s e.id) s
  (List.range 4).foldl
    (fun s r => s.updRegion r fun g =>
      { g with colls := g.colls.filter (fun c => c.step != t), shards := g.shards.filter (fun x => x.step != t),
               early := g.early.filter (fun p => p.2.step != t), finals := g.finals.filter (fun f => f.2.1 != t),
               inbox := g.inbox.filter fun x => !ofStep t x }) s1

/-- The commit of step t ends the holding of deferrals that it folded (R343), and of older shards. -/
def commitColls (s : State) (t : Nat) : State :=
  (List.range 4).foldl
    (fun s r => s.updRegion r fun g =>
      { g with defers := g.defers.filter (fun y => decide (t < y.step + 1)),
               shards := g.shards.filter (fun x => decide (t ≤ x.step + 1)),
               finals := g.finals.filter fun f => decide (t ≤ f.2.1 + 1) }) s

/-- PLC_FINAL: a member that has not contributed yet remembers the notice (R325). -/
def plcFinal (s : State) (r : Nat) (b : List Byte) : State :=
  let k := (fld b 0 4, fld b 8 8, fld b 4 4, fld b 0x13 1)
  if !zeros b 0x1C 222 then s
  else
    let active := (s.region r).colls.any fun c => cCid c.body == k.1 && c.step == k.2.1
    if active || (s.region r).finals.contains k then s else s.updRegion r fun g => { g with finals := g.finals ++ [k] }

def execAllReduce (o : OpId) (s : State) : Res := .next (collective 0x401 s o)
def execReduceScatter (o : OpId) (s : State) : Res := .next (collective 0x402 s o)
def execAllGather (o : OpId) (s : State) : Res := .next (collective 0x403 s o)
def execAllToAll (o : OpId) (s : State) : Res := .next (collective 0x404 s o)
def execBroadcast (o : OpId) (s : State) : Res := .next (collective 0x405 s o)
def execCollectiveStart (o : OpId) (s : State) : Res := .next (collectiveStart s o)
def execCollectiveContribution (region : Nat) (c : Contribution) (s : State) : Res :=
  .next (if region < 4 then collContribution s region c else s)
def execCollectiveResult (region : Nat) (c : CollResult) (s : State) : Res :=
  .next (if region < 4 then collResult s region c else s)
def execShardDeadline (region cid shard : Nat) (s : State) : Res :=
  .next (if region < 4 then shardDeadline s region cid shard else s)

end Sys2Proof.Machine
end

