-- ==== Sys2Proof/Machine/Hedgerow.lean ====
section
/-! DEFINITION. Hedgerow: the slot table (R350), headers (R351), mirror and flash copies (R353 to R356), the votes
and results of the commit tree (R357 to R361), restore and recovery (R362 to R364), pairing (R365, R366). -/

namespace Sys2Proof.Machine

def State.updHrw (s : State) (f : Hrw → Hrw) : State := { s with hrw := f s.hrw }

/-! ### Slots -/

def SlotEntry.base (slot : Nat) (e : SlotEntry) : Nat := if slot = 0 then e.baseA else e.baseB

/-- Entries of a region, in order. -/
def entriesOf (s : State) (r : Nat) : List SlotEntry := s.hrw.slots.filter fun e => e.region == r

/-- Regions that hold slot entries. -/
def slotRegions (s : State) : List Nat := (List.range 4).filter fun r => !(entriesOf s r).isEmpty

/-- Bytes of a region's ranges. -/
def hrwBytes (s : State) (r : Nat) : Nat := ((entriesOf s r).map SlotEntry.length).sum

/-- Where a region's slot header lies. -/
def headerAddr (s : State) (slot r : Nat) : Nat := (((entriesOf s r).head?).map (SlotEntry.base slot)).getD 0

/-- The slot header (Table 12-1). -/
def slotHeader (s : State) (r flags step seed cursor : Nat) : List Byte :=
  leBytes 2 1 ++ leBytes 2 flags ++ leBytes 4 r ++ leBytes 8 step ++ leBytes 8 seed ++ leBytes 8 cursor
    ++ leBytes 8 (s.region r).cycle.toNat ++ List.replicate 24 0

/-- Write the headers of a slot in every region in service. -/
def writeHeaders (s : State) (slot flags step seed cursor : Nat) : State :=
  (slotRegions s).foldl
    (fun s r => if fencedRegion s r then s else memWrite s (headerAddr s slot r) (slotHeader s r flags step seed cursor)) s

/-- Does a region's header of a slot hold step D? -/
def holdsStep (s : State) (slot d r : Nat) : Bool :=
  let a := headerAddr s slot r
  !fencedRegion s r && !badRange s a 64 && rdNat s a 2 == 1 && rdNat s (a + 2) 2 % 2 == 1 && rdNat s (a + 8) 8 == d

/-! ### The commit tree (R357) -/

/-- Rank of this device, and the region that handles its commit. -/
def ownRank (s : State) : Option Nat := s.hrw.group.findIdx? fun w => memberDev w == s.hub.deviceId
def commitRegion (s : State) : Nat := match ownRank s with
  | some k => memberReg (s.hrw.group.getD k 0)
  | none => 0

def parentOf (f r : Nat) : Nat := (r - 1) / f
def childrenOf (f m r : Nat) : List Nat := ((List.range f).map fun i => f * r + 1 + i).filter fun c => decide (c < m)

/-- Ranks of this device's children. -/
def ownChildren (s : State) : List Nat := match ownRank s with
  | some r => childrenOf s.hrw.fanout s.hrw.group.length r
  | none => []

/-- Send a Bridle message of the tree to a member; the management port takes what no route takes (R329). -/
def treeSend (s : State) (rank typ : Nat) (body : List Byte) : State :=
  let w := s.hrw.group.getD rank 0
  (reachBridle s (commitRegion s) none (memberDev w) (memberReg w) typ body).1

/-! ### Mirror copies (R354) -/

/-- The mirror buffer of a region for step s, a fabric address at the keeper. -/
def mirrorAddr (s : State) (r step : Nat) : Nat := s.hrw.mirrors.getD (2 * r + step % 2) 0

/-- The mirror header (Table 12-3). -/
def mirrorHeader (s : State) (r step valid : Nat) : List Byte :=
  let h := headerAddr s s.hrw.current r
  leBytes 2 1 ++ leBytes 1 valid ++ leBytes 1 r ++ leBytes 2 s.hub.deviceId ++ leBytes 2 0 ++ leBytes 8 step
    ++ leBytes 8 (hrwBytes s r) ++ rdBytes s (h + 0x10) 8 ++ rdBytes s (h + 0x18) 8 ++ List.replicate 24 0

/-- A write to the keeper, with the ranges there that it marks as poisoned. -/
def shipWrite (s : State) (r : Nat) (marks : List (Nat × Nat)) (a : Nat) (bs : List Byte) : State :=
  sendNoted s r none (if marks.isEmpty then none else some (.poison marks)) { dest := a, op := 0, length := bs.length, data := bs }

/-- 4,096 bytes of a range go to `dst`; blocks that are poisoned are copied as poisoned (Table 12-9, R231). -/
def shipPiece (s : State) (r a dst : Nat) : State :=
  let marks := ((List.range 64).filter fun i => bad s (a + 64 * i)).map fun i => (dst + 64 * i, 64)
  shipWrite (countReads s a 4096) r marks dst (rdBytes s a 4096)

/-- Every range of the current slot in 4,096-byte writes; poisoned blocks are counted (Table 12-9). -/
def shipRanges (s : State) (r step : Nat) : State :=
  let out := (entriesOf s r).foldl
    (fun (x : State × Nat) e =>
      let a := e.base s.hrw.current
      ((List.range (e.length / 4096)).foldl (fun s i => shipPiece s r (a + 4096 * i) (x.2 + 4096 * i)) x.1,
        x.2 + e.length))
    (s, mirrorAddr s r step + 64)
  let bad_ := ((entriesOf s r).map fun e =>
    ((List.range (e.length / 64)).filter fun i => bad s (e.base s.hrw.current + 64 * i)).length).sum
  out.1.updHrw fun h => { h with shipPoison := fupd 0 h.shipPoison r (· + BitVec.ofNat 32 bad_) }

/-- Shipping of step s starts in every region in service that holds entries. -/
def shipStart (s : State) (step : Nat) : State :=
  let rs := (slotRegions s).filter fun r => !fencedRegion s r
  let s1 := s.updHrw fun h => { h with shipping := rs, shipStep := step, shipFailed := false, shipped := false }
  rs.foldl (fun s r => shipRanges (shipWrite s r [] (mirrorAddr s r step) (mirrorHeader s r step 0)) r step) s1

/-! ### Flash copies (R355, R356) -/

/-- The area that the next image takes: the oldest that is neither pinned nor the newest complete image. -/
def flashArea (h : Hrw) : Nat :=
  let newest := (h.areas.filter FlashArea.complete).foldl (fun n a => max n a.age) 0
  let free_ := (List.range 3).filter fun i =>
    let a := h.areas.getD i {}
    !a.pinned && !(a.complete && a.age == newest)
  (free_.foldl (fun (b : Option Nat) i => match b with
    | some j => if (h.areas.getD i {}).age < (h.areas.getD j {}).age then some i else some j
    | none => some i) none).getD 0

/-- The newest complete image of a step; a step that was withdrawn and run again has an older one. -/
def newestImage (h : Hrw) (step : Nat) : Option FlashArea :=
  (h.areas.filter fun f => f.complete && f.step == step).foldl
    (fun b f => match b with
      | some g => if g.age < f.age then some f else b
      | none => some f) none

/-- The slot that holds step `step` after a commit: the current one, or the other when a later step is current. -/
def snapSlotOf (h : Hrw) (step : Nat) : Nat := if step = h.committed then h.current else 1 - h.current

/-- Bytes of every region's ranges in a slot, packed in entry order, region by region. -/
def slotImage (s : State) (slot : Nat) : List Byte :=
  (List.range 4).flatMap fun r => (entriesOf s r).flatMap fun e => rdBytes s (e.base slot) e.length

/-- SHA-256 digests of an image's ranges, which its header holds (R355). -/
def FlashArea.digests (a : FlashArea) : List (List Byte) :=
  (a.lengths.foldl (fun (x : List (List Byte) × Nat) n => (x.1 ++ [sha256 (fgets 0 a.data x.2 n)], x.2 + n)) ([], 0)).1

/-- HBM blocks of a region's ranges are read. -/
def readSlot (s : State) (slot r : Nat) : State := (entriesOf s r).foldl (fun s e => countReads s (e.base slot) e.length) s

/-- The NVMe Writes of an image: every region's ranges on its own queue pair, and the 4 KiB header last (R355). An area is
a third of the LBA range. -/
def nvmeWrites (s : State) (area step : Nat) : State :=
  let cmd (r : Nat) (header : Bool) (n : Nat) : Out :=
    let q := s.hrw.nvme.getD r {}
    .nvme r area step q.sq q.ns (q.lba + area * (q.count / 3)) header n
  let s1 := (slotRegions s).foldl (fun s r => s.emit (cmd r false (hrwBytes s r))) s
  s1.emit (cmd ((slotRegions s).headD 0) true 4096)

/-- A flash copy of step s is read from its slot and begins to be written. -/
def flashStart (s : State) (step : Nat) : State :=
  let h := s.hrw
  match h.flashing with
  | some _ => s.updHrw fun h => { h with flashNext := some step }
  | none =>
    let i := flashArea h
    let slot := snapSlotOf h step
    let hd := headerAddr s slot ((slotRegions s).headD 0)
    let age := (h.areas.foldl (fun n a => max n a.age) 0) + 1
    let a : FlashArea :=
      { step := step, seed := rdNat s (hd + 0x10) 8, cursor := rdNat s (hd + 0x18) 8,
        lengths := ((List.range 4).flatMap (entriesOf s)).map SlotEntry.length, data := flisted 0 0 (slotImage s slot), age := age }
    let s1 := (slotRegions s).foldl (fun s r => readSlot s slot r) s
    nvmeWrites (s1.updHrw fun h => { h with areas := h.areas.set i a, flashing := some step, flashNext := none }) i step

/-- Is step s one that the device copies to flash (R353, R366)? -/
def flashStep (h : Hrw) (step : Nat) : Bool := h.correlated || (decide (0 < h.flashEvery) && decide (step % h.flashEvery = 0))

/-- This device counts as lost for round 1 of step s: a region that holds slot entries is fenced (R362). -/
def slotLost (s : State) : Bool := (slotRegions s).any (fencedRegion s)

/-- Copies of the slot last committed: its mirror, and its flash image when step s is one to flash. -/
def copyStart (s : State) (step : Nat) : State :=
  let s1 := if s.hrw.paired then shipStart s step else s
  if flashStep s1.hrw step then flashStart s1 step else s1

/-! ### Applying results (R359) -/

/-- A record that Hedgerow writes into the recovery ring; it waits for an entry there (Table 13-2). -/
def recoveryRecord (s : State) (step : Nat) (sts : List Nat) : State :=
  { s with refused := s.refused ++
      [{ id := ⟨0xFF, 0⟩, phase := .finished, opcode := 0x502, ring := s.hrw.recoveryRing, sender := 0xFF,
         step := s.hub.step, stats := sts, d0 := BitVec.ofNat 64 step }] }

/-- The snapshot commit operation ends. -/
def endCommit (s : State) (st result reason firstNo durable : Nat) : State :=
  match s.hrw.commit with
  | none => s
  | some (id, _, _) =>
    let s1 := (if s.hrw.correlated then s.addStat id stCORRELATED else s).finishOp id st
    (s1.updOp id fun e =>
      if e.phase == .aborting then e
      else { e with d0 := BitVec.ofNat 64 (firstNo % 2 ^ 32 * 2 ^ 32 + reason % 256 * 256 + result % 256),
                    d1 := BitVec.ofNat 64 durable }).updHrw fun h => { h with commit := none }

/-- The abandonment of a step (R276, R348). -/
def abandonStep (s : State) (t : Nat) : State := abortColls (abortStep s (BitVec.ofNat 64 t)) t

/-- COMMIT(s). -/
def applyCommit (s : State) (step reason firstNo durable : Nat) : State :=
  let (seed, cursor) := match s.hrw.commit with
    | some (_, a, b) => (a, b)
    | none => (0, 0)
  let new := 1 - s.hrw.current
  let s1 := writeHeaders s new 1 step seed cursor
  let s2 := s1.updHrw fun h => { h with current := new, committed := step, rounds := [] }
  let s3 := openStep (commitColls s2 step) (step + 1) 1 false
  let s4 := endCommit s3 (if s.hrw.correlated then stCORRELATED else stOK) 0 reason firstNo durable
  copyStart s4 step

/-- ABANDON(s). -/
def applyAbandon (s : State) (step recover reason firstNo durable : Nat) : State :=
  let s1 := endCommit (abandonStep s step) stABANDONED 1 reason firstNo durable
  let s2 := s1.updHrw fun h => { h with rounds := h.rounds.filter fun x => x.phase != 0 }
  if recover = 0 then openStep s2 step 2 false else s2.updHrw fun h => { h with recoverWait := true }

/-- WITHDRAW(s): the pointer goes back, and the device waits for recovery. -/
def applyWithdraw (s : State) (step : Nat) : State :=
  let lost := s.hrw.shipFailed
  let s1 := endCommit (abandonStep s (step + 1)) stABANDONED 3 0 (2 ^ 32 - 1) s.hrw.durable
  let s2 := s1.updHrw fun h =>
    { h with current := if step = 0 then h.current else 1 - h.current, committed := step - 1, recoverWait := true, rounds := [], shipping := [],
             shipped := false, flashNext := none }
  recoveryRecord s2 step (if lost then [stABANDONED, stPARTNERLOST] else [stABANDONED])

/-- A result as the body of COMMIT_RESULT has it (Table 12-4), applied by this device. -/
def applyResult (s : State) (result recover reason step durable firstNo : Nat) : State :=
  match result with
  | 0 => applyCommit s step reason firstNo durable
  | 1 => applyAbandon s step recover reason firstNo durable
  | 2 => s.updHrw fun h =>
      { h with durable := step, hasDurable := true, rounds := h.rounds.filter fun x => !(x.phase == 1 && x.step == step) }
  | _ => applyWithdraw s step

def resultBody (s : State) (result recover reason step durable firstNo : Nat) : List Byte :=
  leBytes 4 s.hrw.cid ++ leBytes 1 result ++ leBytes 1 recover ++ leBytes 2 reason ++ leBytes 8 step ++ leBytes 4 durable
    ++ leBytes 4 firstNo

/-- A result goes down the tree, and the device applies it. -/
def passResult (s : State) (result recover reason step durable firstNo : Nat) : State :=
  let b := resultBody s result recover reason step durable firstNo
  applyResult ((ownChildren s).foldl (fun s c => treeSend s c 6 b) s) result recover reason step durable firstNo

/-! ### Votes (R358) -/

def noRank : Nat := 2 ^ 32 - 1

def isRound (step phase : Nat) (x : Round) : Bool := x.step == step && x.phase == phase

def roundAt (s : State) (step phase : Nat) : Round :=
  (s.hrw.rounds.find? (isRound step phase)).getD { step := step, phase := phase }

def putRound (s : State) (x : Round) : State :=
  s.updHrw fun h => { h with rounds := h.rounds.filter (fun y => !isRound x.step x.phase y) ++ [x] }

/-- The first NO that a node knows of: its reason and rank; its own comes first. -/
def firstNoOf (rank : Nat) (x : Round) : Option (Nat × Nat) :=
  match x.own with
  | some (false, reason) => some (reason, rank)
  | _ => (x.votes.find? fun v => !v.2.1).map fun v => (v.2.2.1, v.2.2.2.2)

/-- YES votes that a node knows of in its subtree. -/
def covered (x : Round) : Nat :=
  (match x.own with
    | some (true, _) => 1
    | _ => 0) + (x.votes.map fun v => v.2.2.2.1).sum

/-- A node's vote, when it is decided: none while some vote is missing and none is NO. -/
def nodeVote (s : State) (rank : Nat) (x : Round) : Option (Bool × Nat × Nat) :=
  match firstNoOf rank x with
  | some (reason, k) => some (false, reason, k)
  | none =>
    if x.own.isSome && (ownChildren s).all fun c => x.votes.any fun v => v.1 == c then some (true, 0, noRank) else none

def voteBody (s : State) (x : Round) (yes : Bool) (reason firstNo : Nat) : List Byte :=
  leBytes 4 s.hrw.cid ++ leBytes 1 x.phase ++ leBytes 1 (b2n yes) ++ leBytes 2 reason ++ leBytes 8 x.step
    ++ leBytes 4 (covered x) ++ leBytes 4 firstNo

/-- The root decides, or another node votes, as soon as its round allows (R358). -/
def settleRound (s : State) (step phase : Nat) : State :=
  let x := roundAt s step phase
  match ownRank s with
  | none => s
  | some rank =>
    if x.sent then s
    else match nodeVote s rank x with
      | none => s
      | some (yes, reason, k) =>
        let s1 := putRound s { x with sent := true }
        if rank = 0 then
          let rec_ := if !yes ∧ (reason = 5 ∨ reason = 3) then 1 else 0
          let res := if phase = 0 then (if yes then 0 else 1) else if yes then 2 else 3
          let dur := if res = 2 then step else s.hrw.durable
          passResult s1 res rec_ reason step dur k
        else treeSend s1 (parentOf s.hrw.fanout rank) 5 (voteBody s x yes reason k)

/-- This device's own vote. -/
def castVote (s : State) (step phase : Nat) (yes : Bool) (reason : Nat) : State :=
  let x := roundAt s step phase
  if x.own.isSome then s else settleRound (putRound s { x with own := some (yes, reason) }) step phase

/-- A snapshot commit that is aborted before the device's vote is sent: the vote is NO (Table 12-9). -/
def abortedVote (s : State) (id : OpId) : State :=
  let step := s.hub.step.toNat
  let x := roundAt s step 0
  if x.sent || !s.hrw.configured || s.hrw.recoverWait || s.hrw.undecided then s
  else if (s.hrw.commit.map fun c => c.1) = some id then
    settleRound (putRound (s.updHrw fun h => { h with commit := none }) { x with own := some (false, 1) }) step 0
  else castVote s step 0 false 1

/-- A vote, or the lack of one, of a child. -/
def childVote (s : State) (step phase rank : Nat) (yes : Bool) (reason cov firstNo : Nat) : State :=
  let x := roundAt s step phase
  if x.votes.any fun v => v.1 == rank then s
  else settleRound (putRound s { x with votes := x.votes ++ [(rank, yes, reason, cov, firstNo)] }) step phase

/-- COMMIT_VOTE: a child's vote for the open step, or for the step last committed. -/
def commitVote (s : State) (src : Src) (b : List Byte) : State :=
  let phase := fld b 4 1
  let step := fld b 8 8
  let live := if phase = 0 then decide (step = s.hub.step.toNat) else decide (step = s.hrw.committed)
  match s.hrw.group.findIdx? fun w => memberDev w == src.id with
  | some rank =>
    if s.hrw.configured && fld b 0 4 == s.hrw.cid && decide (phase ≤ 1) && decide (fld b 5 1 ≤ 1) && live
        && zeros b 0x18 222 && (ownChildren s).contains rank && !s.hrw.recoverWait && !s.hrw.undecided then
      childVote s step phase rank (fld b 5 1 == 1) (fld b 6 2) (fld b 0x10 4) (fld b 0x14 4)
    else s
  | none => s

/-- May a result for `step` be applied now? -/
def resultLive (s : State) (result step : Nat) : Bool :=
  s.hrw.configured && !s.hrw.recoverWait && !s.hrw.undecided && decide (result ≤ 3)
    && (if result ≤ 1 then decide (step = s.hub.step.toNat)
        else decide (step = s.hrw.committed) && !(s.hrw.hasDurable && s.hrw.durable == step))

/-- COMMIT_RESULT: passed on to the children, and applied. -/
def commitResult (s : State) (b : List Byte) : State :=
  if fld b 0 4 == s.hrw.cid && resultLive s (fld b 4 1) (fld b 8 8) && zeros b 0x18 222 then
    passResult s (fld b 4 1) (fld b 5 1) (fld b 6 2) (fld b 8 8) (fld b 0x10 4) (fld b 0x14 4)
  else s

/-- The round in which a missing child is a NO: an undecided durability round, else the open step's commit. -/
def openRound (s : State) : Nat × Nat :=
  let h := s.hrw
  if h.hasDurable && h.durable == h.committed then (s.hub.step.toNat, 0) else (h.committed, 1)

/-- VOTE_TIMEOUT: some vote of the round is in, and the child's is not. -/
def voteTimeout (s : State) (rank : Nat) : State :=
  let (step, phase) := openRound s
  let go (st ph : Nat) (s : State) : State :=
    let x := roundAt s st ph
    if (x.own.isSome || !x.votes.isEmpty) && !x.sent then childVote s st ph rank false 4 0 rank else s
  if s.hrw.configured && (ownChildren s).contains rank && !s.hrw.recoverWait then
    if phase = 1 ∧ ((roundAt s step 1).own.isSome ∨ !(roundAt s step 1).votes.isEmpty) then go step 1 s
    else go s.hub.step.toNat 0 s
  else s

/-- A device of the group is lost (R328): NO for a child, at once. -/
def treeLost (s : State) (dev : Nat) : State :=
  match s.hrw.group.findIdx? fun w => memberDev w == dev with
  | some rank =>
    if s.hrw.configured && (ownChildren s).contains rank && !s.hrw.recoverWait && !s.hrw.undecided then
      let (step, phase) := openRound s
      childVote s step phase rank false 5 0 rank
    else s
  | none => s

/-- The device's last vote goes to its parent through the management port (R329). -/
def voteAgain (s : State) : State :=
  match s.hrw.rounds.reverse.find? Round.sent, ownRank s with
  | some x, some (rank + 1) => match nodeVote s (rank + 1) x with
    | some (yes, reason, k) =>
      (sendOob s (memberDev (s.hrw.group.getD (parentOf s.hrw.fanout (rank + 1)) 0)) 5 (voteBody s x yes reason k)).1
    | none => s
  | _, _ => s

/-- The device asks the root over the management port: its vote goes out again (R329, R361, log entry 44). -/
def askRoot (s : State) : State :=
  match s.hrw.rounds.reverse.find? Round.sent, ownRank s with
  | some x, some (rank + 1) => match nodeVote s (rank + 1) x with
    | some (yes, reason, k) => (sendOob s (memberDev (s.hrw.group.getD 0 0)) 5 (voteBody s x yes reason k)).1
    | none => s
  | _, _ => s

/-- RESULT_TIMEOUT: the device asks the root, and applies its answer or is undecided (R361). -/
def resultTimeout (s0 : State) (answer : Option (List Byte)) : State :=
  if !(s0.hrw.configured && s0.hrw.rounds.any Round.sent) || s0.hrw.undecided || s0.hrw.recoverWait then s0
  else
  let s := askRoot s0
  match answer with
    | some b => commitResult s b
    | none => match s.hrw.commit with
      | some (id, _, _) => ((if s.hrw.correlated then s.addStat id stCORRELATED else s).finishOp id stTIMEOUT).updHrw fun h => { h with undecided := true, commit := none }
      | none => s.updHrw fun h => { h with undecided := true }

/-! ### Completion of copies -/

/-- The device counts as lost in round 1 of the step last committed: it votes NO with REASON 3 (R362). -/
def lossVote (s : State) : State :=
  let h := s.hrw
  if h.configured && slotLost s && !h.recoverWait && !h.undecided && !(h.hasDurable && h.durable == h.committed) then
    castVote s h.committed 1 false 3
  else s

/-- The durability vote, when the mirror copy is complete and, on a correlated device, the flash image too. -/
def durableVote (s : State) : State :=
  let h := s.hrw
  if slotLost s then lossVote s
  else if h.paired && h.shipped && !h.shipFailed && (!h.correlated || (h.lastFlash == h.shipStep && h.flashing.isNone)) && !h.recoverWait
      && !h.undecided then
    castVote s h.shipStep 1 true 0
  else s

/-- MIRROR_COPY_COMPLETE. -/
def mirrorDone (s : State) (r : Nat) (ok : Bool) : State :=
  let h := s.hrw
  if !h.shipping.contains r then s
  else
    let rest := h.shipping.filter (· != r)
    if ok then
      let s1 := shipWrite s r [] (mirrorAddr s r h.shipStep) (mirrorHeader s r h.shipStep 1)
      durableVote (s1.updHrw fun h =>
        { h with shipping := rest, shipped := rest.isEmpty, copies := fupd 0 h.copies r (· + 1),
                 shipBytes := fupd 0 h.shipBytes r (· + BitVec.ofNat 64 (hrwBytes s r)) })
    else
      let s1 := s.updHrw fun h => { h with shipping := rest, shipped := rest.isEmpty, shipFailed := true }
      if h.recoverWait || h.undecided then s1 else castVote s1 h.shipStep 1 false 6

/-- FLASH_IMAGE_COMPLETE. -/
def flashDone (s : State) (ok : Bool) : State :=
  let h := s.hrw
  match h.flashing with
  | none => s
  | some step =>
    let s1 :=
      if ok then
        let store := decide (0 < h.storeEvery) && decide (step % h.storeEvery = 0)
        let held := h.areas.any FlashArea.pinned
        let age := h.areas.foldl (fun n a => max n a.age) 0
        s.updHrw fun h =>
          { h with flashing := none, lastFlash := step,
                   areas := h.areas.map fun a =>
                     if a.step == step && a.age == age && a.age != 0 then { a with complete := true, pinned := store && !held } else a,
                   storeSkipped := (h.storeSkipped + b2n (store && held)) % 256 }
      else s.updHrw fun h => { h with flashing := none, flashErrors := (h.flashErrors + 1) % 65536 }
    let s2 := match s1.hrw.flashNext with
      | some k => flashStart s1 k
      | none => s1
    if ok then durableVote s2
    else if h.correlated && h.shipStep == step && !h.recoverWait && !h.undecided then castVote s2 step 1 false 7
    else s2

/-! ### SNAP_CONFIG (R350, Table 13-11) -/

/-- Is a kernel or memory operation live? -/
def workLive (s : State) (id : OpId) : Bool := liveFor s id OpEntry.isWork

/-- The slot table of an image: entry k of region r at 64 r + k. -/
def slotTable (s : State) (a : Nat) : List (SlotEntry × Nat) :=
  ((List.range 256).map fun i =>
    ({ region := i / 64, baseA := rdNat s (a + 24 * i) 8, baseB := rdNat s (a + 24 * i + 8) 8,
       length := rdNat s (a + 24 * i + 16) 8 * 65536 }, i)).filter fun x => x.1.length != 0

/-- An entry's ranges are aligned, of a lawful length, and in its region's HBM. -/
def slotEntryOk (e : SlotEntry) : Bool :=
  let inReg (a : Nat) : Bool :=
    decide (e.region * regionSpan ≤ a) && decide (a + e.length ≤ (e.region + 1) * regionSpan) && decide (a % 65536 = 0)
  decide (e.length ≤ 2 ^ 38) && inReg e.baseA && inReg e.baseB

/-- Do no two ranges of a list overlap? -/
def disjoint : List (Nat × Nat) → Bool
  | [] => true
  | x :: t => (t.all fun y => !overlap x.1 x.2 y.1 y.2) && disjoint t

def slotsOk (l : List SlotEntry) : Bool :=
  l.all slotEntryOk && disjoint (l.flatMap fun e => [(e.baseA, e.length), (e.baseB, e.length)])

/-- A commit group names this device, in lawful words. -/
def groupOk (s : State) (g : List Nat) : Bool :=
  !g.isEmpty && (g.all fun w => decide (w < 2 ^ 18)) && g.any fun w => memberDev w == s.hub.deviceId

def nvmeOf (s : State) (a r : Nat) : Nvme :=
  let b := a + 32 * r
  { sq := rdNat s b 2, cq := rdNat s (b + 2) 2, ns := rdNat s (b + 4) 4, lba := rdNat s (b + 8) 8, count := rdNat s (b + 16) 8 }

/-- Fields of SNAP_CONFIG (Table 13-11). DESIGN CHOICE: STORE_EVERY 0 is refused, as no multiple that names a step (log
entry 82). -/
def configForm (e : OpEntry) : Bool :=
  let d := e.desc
  decide (2 ≤ fld d 0x28 1) && decide (fld d 0x28 1 ≤ 15) && decide (fld d 0x29 1 < 64) && decide (1 ≤ fld d 0x2A 2)
    && decide (1 ≤ fld d 0x2C 4) && decide (fld d 0x2C 4 % fld d 0x2A 2 = 0)
    && decide (1 ≤ fld d 0x30 4) && decide (fld d 0x30 4 ≤ 10000) && decide (1 ≤ fld d 0x34 4)
    && decide (fld d 0x34 4 ≤ 60000) && zeros d 0x50 0x80

def snapConfig (s : State) (id : OpId) : State :=
  match admittedOp s id 0x501 with
  | none => s
  | some e =>
    let d := e.desc
    let m := fld d 0x20 4
    let slotsAt := (fld d 0x10 8, 6144)
    let groupAt := (fld d 0x18 8, 4 * m)
    let nvmeAt := (fld d 0x48 8, 128)
    let parts : List (Nat × Nat) := [slotsAt, groupAt, (fld d 0x40 8, 64), nvmeAt]
    let sts := ((fld d 0x38 8, 24) :: parts).map fun x => rangeStatus s false x.1 x.2
    let readable (x : Nat × Nat) : Bool := rangeStatus s false x.1 x.2 == stOK && !badRange s x.1 x.2
    let slots := (slotTable s (fld d 0x10 8)).map Prod.fst
    let g := groupOf s (fld d 0x18 8) m
    let nv := (List.range 4).map (nvmeOf s (fld d 0x48 8))
    let nvz : Bool := (List.range 4).all fun r => rdNat s (fld d 0x48 8 + 32 * r + 24) 8 == 0
    let form : Bool := configForm e && (!readable slotsAt || slotsOk slots) && (!readable groupAt || groupOk s g)
      && (!readable nvmeAt || nvz)
    if sts.contains stFENCED then s.finishOp id stFENCED
    else if workLive s id || !form then s.finishOp id stBADDESC
    else if sts.contains stBOUNDS then s.finishOp id stBOUNDS
    else if parts.any fun x => badRange s x.1 x.2 then refuseLoad s e stPOISON
    else
        let s := parts.foldl (fun s x => countReads s x.1 x.2) s
        let mir := (List.range 8).map fun i => rdNat s (fld d 0x40 8 + 8 * i) 8
        let s1 := s.updHrw fun h =>
          { h with slots := slots, current := 0, configured := true, group := g, cid := fld d 0x24 4, fanout := fld d 0x28 1,
                   recoveryRing := fld d 0x29 1, flashEvery := fld d 0x2A 2, storeEvery := fld d 0x2C 4,
                   voteTimeout := fld d 0x30 4, resultTimeout := fld d 0x34 4, runState := fld d 0x38 8, mirrors := mir,
                   nvme := nv, committed := 0, durable := 0, hasDurable := false, recoverWait := false, undecided := false,
                   rounds := [], commit := none, shipping := [], shipped := false, shipFailed := false }
        (copyStart s1 0).finishOp id stOK

/-! ### SNAP_COMMIT -/

/-- The device's own vote in round 0 (R358): YES, or the reason of its NO. -/
def ownVote (s : State) (id : OpId) (yes : Bool) : Bool × Nat :=
  if !yes then (false, 1)
  else if liveFor s id fun e => e.isWork && e.cls == clsUPD && e.step == s.hub.step then (false, 2)
  else if (slotRegions s).any fun r => fencedRegion s r && !s.hrw.openFences.contains r then (false, 3)
  else (true, 0)

def snapCommit (s : State) (id : OpId) : State :=
  match admittedOp s id 0x502 with
  | none => s
  | some e =>
    let d := e.desc
    let s := if s.hrw.correlated then s.addStat id stCORRELATED else s
    if !(decide (fld d 0x10 8 = s.hub.step.toNat) && decide (fld d 0x28 1 ≤ 1) && zeros d 0x29 0x30)
        || !s.hrw.configured || s.hrw.commit.isSome || s.hrw.recoverWait || s.hrw.undecided then
      s.finishOp id stBADDESC
    else
      let s1 := (s.updOp id fun e => { e with phase := .running, started := true }).updHrw fun h =>
        { h with commit := some (id, fld d 0x18 8, fld d 0x20 8) }
      let v := ownVote s1 id (fld d 0x28 1 == 1)
      castVote s1 s.hub.step.toNat 0 v.1 v.2

/-! ### Pairing (R365) -/

/-- Has every region a route to a device? -/
def routedAll (s : State) (dev : Nat) : Bool := (List.range 4).all fun r => (RouteEntry.of (routeWord s r dev)).valid

def snapPair (s : State) (id : OpId) : State :=
  match admittedOp s id 0x503 with
  | none => s
  | some e =>
    let d := e.desc
    let k := fld d 0x10 2
    if workLive s id || !(decide (fld d 0x12 1 ≤ 1) && zeros d 0x13 0x20) || k == s.hub.deviceId || !routedAll s k
        || s.hrw.pairing.isSome then
      s.finishOp id stBADDESC
    else
      ((s.updOp id fun e => { e with phase := .running, started := true }).updHrw fun h =>
        { h with pairing := some (id, k, fld d 0x12 1 == 1), paired := false, keeperShares := false }).emit (.handshake k s.hub.deviceId s.hub.domain (fld d 0x12 1 == 1))

/-- Has the step last committed an image, complete or being written? -/
def imaged (s : State) : Bool := s.hrw.flashing == some s.hrw.committed || (newestImage s.hrw s.hrw.committed).isSome

/-- A new keeper receives the step last committed; a correlated device without an image of it writes one (R366). -/
def shipAfterPair (s : State) : State :=
  if s.hrw.configured && s.hrw.paired then
    let s1 := shipStart s s.hrw.committed
    if s1.hrw.correlated && !imaged s1 then flashStart s1 s1.hrw.committed else s1
  else s

/-- PAIR_HANDSHAKE: from the keeper that this device asked, or from a device that asks this one to keep for it. -/
def pairHandshake (s : State) (peer : Nat) (domain : Option Nat) (asked : Bool) : State :=
  let apart := domain.isSome && s.hub.domain.isSome && s.hub.domain != domain
  match s.hrw.pairing with
  | some (id, k, forced) =>
    if k = peer then
      let s1 := s.updHrw fun h => { h with pairing := none }
      if apart then
        shipAfterPair ((s1.updHrw fun h => { h with paired := true, keeper := peer, keeperDomain := domain.getD 0, keeperShares := false }).finishOp id stOK)
      else if forced then
        shipAfterPair ((s1.updHrw fun h =>
          { h with paired := true, keeper := peer, keeperDomain := domain.getD 0, keeperShares := true }).finishOp id stCORRELATED)
      else s1.finishOp id stCORRELATED
    else keep s peer apart asked
  | none => keep s peer apart asked
where
  /-- This device answers as keeper; `asked` is the FORCED flag of the device that asks (log entry 44). -/
  keep (s : State) (peer : Nat) (apart asked : Bool) : State :=
    if s.hrw.hasWard && s.hrw.ward != peer then s
    else
      let s1 := s.emit (.handshake peer s.hub.deviceId s.hub.domain false)
      if apart then s1.updHrw fun h => { h with ward := peer, hasWard := true, wardShares := false }
      else if asked then s1.updHrw fun h => { h with ward := peer, hasWard := true, wardShares := true }
      else s1

/-! ### Restore and recovery (R363, R364) -/

/-- A signed difference as a 64-bit value. -/
def diff64 (a b : Nat) : DWord := BitVec.ofNat 64 a - BitVec.ofNat 64 b

/-- A survivor's keeper still holds the complete mirror of durable step D: the new round 1 has its vote (R363). -/
def mirrorHeld (s : State) (d : Nat) : Bool := s.hrw.paired && s.hrw.hasDurable && s.hrw.durable == d

/-- STEP of a restore or recovery. -/
def restoreStep (e : OpEntry) : Nat := if e.opcode = 0x504 then fld e.desc 0x20 8 else fld e.desc 0x10 8

/-- A restore or recovery ends; explicit values that differ from those of the header, whose STEP is `d`, give RESTORE_MISMATCH
with the differences (R364). -/
def restoreEnd (s : State) (id : OpId) (d seed cursor : Nat) : State :=
  match s.op? id with
  | none => s
  | some e =>
    let (xd, xs, xc) := (restoreStep e, fld e.desc 0x28 8, fld e.desc 0x30 8)
    if fld e.desc 0x38 1 == 1 && (xd != d || xs != seed || xc != cursor) then
      (s.finishOp id stMISMATCH).updOp id fun e =>
        { e with d0 := diff64 xd d, d1 := diff64 xc cursor, d2 := BitVec.ofNat 64 (xs ^^^ seed) }
    else s.finishOp id stOK

/-- The derived run state is written and step D + 1 opens as after a restore. -/
def reopen (s : State) (id : OpId) (d seed cursor : Nat) (kept : Bool) : State :=
  let run := leBytes 8 seed ++ leBytes 8 (d + 1) ++ leBytes 8 cursor
  let flags := if s.hrw.recoverWait then 2 else 0
  let s1 := s.updHrw fun h =>
    { h with committed := d, hasDurable := false, recoverWait := false, undecided := false, rounds := [], commit := none,
             restoring := [], flashNext := none }
  let s2 := if fencedRange s1 s1.hrw.runState 24 then s1 else opWrite s1 id 0 true s1.hrw.runState run
  let s3 := openStep s2 (d + 1) flags true
  let s4 := s3.updMbx fun m => { m with quiesced := false }
  let s5 := if kept then castVote s4 d 1 true 0 else shipAfterPair s4
  restoreEnd s5 id d seed cursor

/-- Pieces of a range by 64 KiB page. -/
def pagesOf (n : Nat) : List Nat := (List.range (n / 65536)).map (65536 * ·)

/-- A region's ranges are written into slot A, and their frozen pages into slot B as well. -/
def writeSlotA (s : State) (id : OpId) (r : Nat) (data : List Byte) : State :=
  ((entriesOf s r).foldl
    (fun (x : State × List Byte) e =>
      ((pagesOf e.length).foldl
        (fun s o =>
          let bs := (x.2.drop o).take 65536
          let s1 := opWrite s id 0 true (e.baseA + o) bs
          if frozenAt s (e.baseA + o) then opWrite s1 id 0 true (e.baseB + o) bs else s1) x.1,
       x.2.drop e.length)) (s, data)).1

/-- Set FLAGS of a region's header in slot A: valid, written by a restore. -/
def markRestored (s : State) (id : OpId) (r : Nat) : State := opWrite s id 0 true (headerAddr s 0 r + 2) (leBytes 2 3)

/-- A restore of a region waits for nothing any more. -/
def restoreOver (s : State) (id : OpId) : State := s.updHrw fun h => { h with restoring := h.restoring.filter fun x => x.op != id }

/-- Region r's bytes are there. Their slot header says which step they hold: an image of another step is restored only under
EXPLICIT, with its own step (R364), and nothing is written otherwise. The step opens once every region holds it (log
entry 45). -/
def regionRestored (s : State) (id : OpId) (r d : Nat) (explicit : Bool) (data : List Byte) : State :=
  let h := fld data 8 8
  let s0 := restoreOver s id
  if fld data 0 2 != 1 || (h != d && !explicit) then s0.finishOp id stMISMATCH
  else
    let s1 := (markRestored (writeSlotA s0 id r data) id r).updHrw fun x => { x with current := 0 }
    let (seed, cursor) := (fld data 0x10 8, fld data 0x18 8)
    if (slotRegions s1).all (holdsStep s1 0 h) then reopen s1 id h seed cursor false else restoreEnd s1 id h seed cursor

/-- The next read of a mirror buffer. -/
def restoreRead (s : State) (x : Restore) : State :=
  let n := min 4096 (x.len - x.got.length)
  let (tag, s1) := takeTag s x.region
  sendMsg ((restoreOver s1 x.op).updHrw fun h => { h with restoring := h.restoring ++ [{ x with tag := tag }] }) x.region (some x.op)
    { dest := x.src + x.got.length, op := 1, length := n, mtag := tag }

/-- A mirror buffer has been read whole. -/
def restoreWhole (s : State) (x : Restore) (d : Nat) : State :=
  let h := x.got
  if fld h 0 2 == 1 && fld h 2 1 == 1 && fld h 8 8 == d then regionRestored s x.op x.region d false (h.drop 64)
  else (restoreOver s x.op).finishOp x.op stPARTNERLOST

/-- The restore that a read response is for. -/
def restoreFor (s : State) (r mtag : Nat) : Option Restore := s.hrw.restoring.find? fun x => x.region == r && x.tag == mtag

/-- Bytes of a mirror buffer return. -/
def restoreResponse (s : State) (x : Restore) (m : Msg) : State :=
  match s.op? x.op with
  | none => restoreOver s x.op
  | some e =>
    if e.phase != .running then restoreOver s x.op
    else if m.data.length ≠ min 4096 (x.len - x.got.length) then (restoreOver s x.op).finishOp x.op stPARTNERLOST
    else
      let x' := { x with got := x.got ++ m.data }
      if x'.got.length = x.len then restoreWhole s x' (restoreStep e) else restoreRead s x'

/-- The keeper does not answer a restore. -/
def restoreLost (s : State) (id : OpId) : State :=
  if s.hrw.restoring.any fun x => x.op == id then (restoreOver s id).finishOp id stPARTNERLOST else s

/-- Bytes of a region within a packed image. -/
def regionOffset (s : State) (r : Nat) : Nat := ((List.range r).map (hrwBytes s)).sum

def snapRestore (s : State) (id : OpId) : State :=
  match admittedOp s id 0x504 with
  | none => s
  | some e =>
    let d := e.desc
    let src := fld d 0x10 1
    let a := fld d 0x18 8
    let step := fld d 0x20 8
    let r := e.region
    let n := hrwBytes s r
    let run := s.updOp id fun e => { e with phase := .running, started := true }
    let own := src == 0 && devOf a == s.hub.deviceId
    let b := localOf a
    let at_ := a + 4096 + regionOffset s r
    if (own && (rangeMem b (64 + n)).isSome && fencedRange s b (64 + n))
        || (src == 2 && rangeStatus s false at_ n == stFENCED) then s.finishOp id stFENCED
    else if !(decide (src ≤ 2) && zeros d 0x11 0x18 && decide (fld d 0x38 1 ≤ 1) && zeros d 0x39 0x40) || !s.hrw.configured
        || n == 0 then s.finishOp id stBADDESC
    else if src = 0 then
      let x : Restore := { op := id, region := r, src := a, len := 64 + n }
      if own then
        if (rangeMem b (64 + n)).isNone then s.finishOp id stBOUNDS
        else restoreWhole (countReads run b (64 + n)) { x with got := rdBytes s b (64 + n) } step
      else if (pathFrom 8 s r (devOf a) 0).isNone then s.finishOp id stPARTNERLOST
      else restoreRead run x
    else if src = 1 then
      match newestImage s.hrw step with
      | some f => regionRestored run id r step (fld d 0x38 1 == 1) (fgets 0 f.data (regionOffset s r) n)
      | none => s.finishOp id stMISMATCH
    else match rangeStatus s false at_ n with
      | 0 => regionRestored (countReads run at_ n) id r step (fld d 0x38 1 == 1) (rdBytes s at_ n)
      | st => s.finishOp id st

/-- A keeper or ward that the new commit group no longer holds is lost: the device may be paired again (R363, R365). -/
def dropLost (s : State) (g : List Nat) : State :=
  let lost (dev : Nat) : Bool := (s.hrw.group.any fun w => memberDev w == dev) && !g.any fun w => memberDev w == dev
  let s1 := if s.hrw.paired && lost s.hrw.keeper then s.updHrw fun h => { h with paired := false, keeperShares := false } else s
  if s.hrw.hasWard && lost s.hrw.ward then s1.updHrw fun h => { h with hasWard := false, wardShares := false } else s1

def snapRecover (s : State) (id : OpId) : State :=
  match admittedOp s id 0x505 with
  | none => s
  | some e =>
    let d := e.desc
    let step := fld d 0x10 8
    let m := fld d 0x20 4
    let gst := rangeStatus s false (fld d 0x18 8) (4 * m)
    let g := groupOf s (fld d 0x18 8) m
    let form := decide (fld d 0x38 1 ≤ 1) && zeros d 0x39 0x40 && decide (0 < m) && s.hrw.configured
    let slot? := [s.hrw.current, 1 - s.hrw.current].find? fun k => (slotRegions s).all (holdsStep s k step)
    if gst = stFENCED then s.finishOp id stFENCED
    else if !form then s.finishOp id stBADDESC
    else if gst = stBOUNDS then s.finishOp id stBOUNDS
    else if badRange s (fld d 0x18 8) (4 * m) then refuseLoad s e stPOISON
    else if !groupOk s g then s.finishOp id stBADDESC
    else match slot? with
      | none => s.finishOp id stMISMATCH
      | some k =>
        let a := headerAddr s k ((slotRegions s).headD 0)
        let s1 := (dropLost s g).updHrw fun h => { h with current := k, group := g, cid := fld d 0x24 4 }
        reopen s1 id step (rdNat s (a + 0x10) 8) (rdNat s (a + 0x18) 8) (mirrorHeld s1 step)

/-- SNAP_RELEASE: the pin of R356 is released. -/
def snapRelease (s : State) (id : OpId) : State :=
  match admittedOp s id 0x506 with
  | none => s
  | some _ => (s.updHrw fun h => { h with areas := h.areas.map fun a => { a with pinned := false } }).finishOp id stOK

def execReadResponse (region : Nat) (m : Msg) (s : State) : Res :=
  .next (if region < 4 then
      (match (if forUs s 2 m then restoreFor s region m.mtag else none) with
        | some x => restoreResponse (takeMsg s region (.msg m)) x m
        | none => readResponse s region m)
    else s)
def execSnapConfig (o : OpId) (s : State) : Res := .next (snapConfig s o)
def execSnapCommit (o : OpId) (s : State) : Res := .next (snapCommit s o)
def execSnapPair (o : OpId) (s : State) : Res := .next (snapPair s o)
def execSnapRestore (o : OpId) (s : State) : Res := .next (snapRestore s o)
def execSnapRecover (o : OpId) (s : State) : Res := .next (snapRecover s o)
def execSnapRelease (o : OpId) (s : State) : Res := .next (snapRelease s o)
def execMirrorCopyComplete (region : Nat) (ok : Bool) (s : State) : Res := .next (mirrorDone s region ok)
def execFlashImageComplete (ok : Bool) (s : State) : Res := .next (flashDone s ok)
def execVoteTimeout (child : Nat) (s : State) : Res := .next (voteTimeout s child)
def execResultTimeout (answer : Option (List Byte)) (s : State) : Res := .next (resultTimeout s answer)
def execPairHandshake (peer : Nat) (domain : Option Nat) (forced : Bool) (s : State) : Res :=
  .next (pairHandshake s peer domain forced)

end Sys2Proof.Machine
end

