-- ==== Sys2Proof/Machine/Control.lean ====
section
/-! DEFINITION. Control operations (Table 13-13, R393 to R399), local and over the Bridle lane, and the watchdog of
a command processor (Table 13-5). -/

namespace Sys2Proof.Machine

/-! ### The body -/

/-- Fields that must be zero, and ranges, of a control body. -/
def ctrlBodyOk (e : OpEntry) : Bool :=
  let d := e.desc
  let far := e.opcode == opABORT || e.opcode == opQUIESCE || e.opcode == opUNQUIESCE || e.opcode == opECHO
  decide (e.scope ≤ if e.opcode = opABORT then 1 else if e.opcode = opQUIESCE then 2 else 0)
    && decide (fld d 0x16 1 ≤ 1) && (far || fld d 0x16 1 == 0) && zeros d 0x17 0x18 && (e.remoteReq || fld d 0x18 2 == 0)
    && zeros d 0x1A 0x20 && (e.opcode == opRESUME || zeros d 0x20 0x28) && zeros d 0x28 0x30

/-- A control operation that has not run yet. -/
def ctrlEntry (s : State) (id : OpId) (opc : Nat) : Option OpEntry :=
  match s.op? id with
  | some e => if e.opcode == opc && e.phase == .waiting then some e else none
  | none => none

def targetWord (t : OpId) : DWord := BitVec.ofNat 64 (t.channel % 256 * 2 ^ 32 + t.tag % 2 ^ 32)

/-- A control operation is over. -/
def ctrlEnd (s : State) (id : OpId) (st : Nat) (d0 d1 : DWord) : State :=
  s.updOp id fun e => { e.addStat st with phase := .finished, d0 := d0, d1 := d1 }

/-- It waits for the records of its targets. -/
def ctrlWait (s : State) (id : OpId) (ts : List OpId) (named : Nat) (marked : Bool) (d1 : DWord) : State :=
  s.updOp id fun e => { e with phase := .running, targets := ts, named := named, marked := marked, seen := none, d1 := d1 }

/-! ### ABORT (R393, R394) -/

/-- An abort reaches one target; a snapshot commit whose vote has not been sent votes NO (Table 12-9). -/
def abortTarget (s : State) (id : OpId) : State :=
  match s.op? id with
  | none => s
  | some e =>
    let s1 := if e.opcode == 0x502 && (e.phase == .waiting || e.phase == .admitted || e.phase == .running)
        && decide (fld e.desc 0x10 8 = s.hub.step.toNat) then
        markAbort (abortedVote s id) id
      else markAbort s id
    s1.updHrw fun h =>
      { h with pairing := h.pairing.filter (fun p => p.1 != id), restoring := h.restoring.filter fun x => x.op != id }

/-- The operations that an abort names: one, or every one of the channel. -/
def abortNames (s : State) (e : OpEntry) : List OpEntry :=
  s.ops.filter fun x => x.isTarget && (if e.scope = 1 then x.id.channel == e.target.channel else x.id == e.target)

/-- No target was found: its record may have been committed just before. -/
def noTarget (s : State) (e : OpEntry) : State :=
  ctrlEnd s e.id stALREADY (BitVec.ofNat 64 (e.seen.getD 0xFFFF)) (targetWord e.target)

def abortRun (s : State) (e : OpEntry) : State :=
  let l := abortNames s e
  let fresh := l.any fun x => x.phase != .aborting
  let stay := (l.filter fun x => x.phase != .preempted).map OpEntry.id
  let s1 := l.foldl (fun s x => abortTarget s x.id) s
  if l.isEmpty then noTarget s e
  else
    let d1 := targetWord ((l.headD e).id)
    if l.length = 1 ∧ stay.isEmpty then ctrlEnd s1 e.id stOK 3 d1
    else ctrlWait s1 e.id stay l.length fresh d1

/-! ### Remote requests (R399, Tables 11-13, 13-14) -/

/-- Body of a Bridle ABORT or QUIESCE. -/
def ctlBody (kind scope ch tag seq result : Nat) (detail : DWord) : List Byte :=
  leBytes 1 kind ++ leBytes 1 scope ++ leBytes 1 ch ++ leBytes 1 0 ++ leBytes 4 tag ++ leBytes 4 seq ++ leBytes 2 result
    ++ leBytes 2 0 ++ leBytes 8 detail.toNat

/-- Body and type of a remote request. -/
def requestBody (s : State) (e : OpEntry) (seq : Nat) : Nat × List Byte :=
  if e.opcode = opECHO then (9, leBytes 4 0 ++ leBytes 4 seq ++ leBytes 8 s.hub.cycle.toNat ++ List.replicate 206 0)
  else
    (if e.opcode = opABORT then 4 else 3,
     ctlBody 0 (if e.opcode = opUNQUIESCE then 3 else e.scope) e.target.channel e.target.tag seq 0 0)

/-- The request leaves over the Bridle lane, or through the management port where no route takes it; when neither path is
there the operation ends with CONTROL_TIMEOUT (R329). -/
def sendRequest (s : State) (e : OpEntry) : State :=
  let seq := s.hub.ctlSeq
  let (typ, body) := requestBody s e seq
  let s1 := (s.updHub fun h => { h with ctlSeq := (h.ctlSeq + 1) % 2 ^ 32 }).updOp e.id fun x =>
    { x with phase := .running, sent := some (s.hub.cycle, seq) }
  let (s2, ok) := reachBridle s1 e.region (some e.id) e.targetId 0 typ body
  if ok then s2 else (ctrlEnd s1 e.id stTIMEOUT 0 0).updOp e.id fun x => { x with sent := none }

/-- Run a control operation: its body is checked; a remote one is sent, a local one acts. -/
def ctrlRun (opc : Nat) (act : State → OpEntry → State) (s : State) (id : OpId) : State :=
  match ctrlEntry s id opc with
  | none => s
  | some e =>
    if !ctrlBodyOk e then ctrlEnd s id stBADDESC 0 0
    else if e.remoteReq then sendRequest s e
    else act s e

/-! ### PREEMPT (R395) -/

def preemptRun (s : State) (e : OpEntry) : State :=
  let d1 := targetWord e.target
  match s.ops.find? fun x => x.isTarget && x.id == e.target with
  | none => noTarget s e
  | some t =>
    match t.phase with
    | .preempted => ctrlEnd s e.id stALREADY 3 d1
    | .aborting | .preempting => ctrlWait s e.id [t.id] 1 false d1
    | _ =>
      if t.preempt then ctrlWait s e.id [t.id] 1 false d1
      else if !t.canPreempt || decide (64 ≤ preemptedCount s t.region) then ctrlEnd s e.id stBADDESC 0 d1
      else ctrlWait (markPreempt s t.id) e.id [t.id] 1 true d1

/-! ### RESUME (R397) -/

/-- The address in a new cell's store of what lay in an old one's. -/
def movedAddr (m : List (Nat × Nat)) (a : Nat) : Nat :=
  match memOf a with
  | some (.cell n) => match m.find? fun p => p.1 == n with
    | some p => a - cellAddr n + cellAddr p.2
    | none => a
  | _ => a

def movedCell (m : List (Nat × Nat)) (n : Nat) : Nat := match m.find? fun p => p.1 == n with
  | some p => p.2
  | none => n

/-- A kept product on its new cell. -/
def movedProduct (m : List (Nat × Nat)) (p : Product) : Product :=
  { p with addr := movedAddr m p.addr, saved := p.saved.map (movedAddr m),
           issuer := p.issuer.map fun c => { c with cell := movedCell m c.cell } }

/-- The images of an operation that lie in old cells' stores: context images and tile contexts. -/
def imagesIn (s : State) (e : OpEntry) (m : List (Nat × Nat)) : List (Nat × Nat) :=
  let ctx := e.saves.map fun v => (v.addr, ctxImageBytes)
  let tile := m.flatMap fun p =>
    ((s.cell p.1).arr.kept.filter fun q => q.op == e.id).filterMap fun q => q.saved.map fun a => (a, tileCtxBytes)
  (ctx ++ tile).filter fun x => movedAddr m x.1 != x.1

/-- A preempted kernel moves to new cells. -/
def moveKernel (s : State) (e : OpEntry) (new : List Nat) : State :=
  let m := e.cells.zip new
  let copies := (imagesIn s e m).map fun x => (movedAddr m x.1, rdBytes s x.1 x.2)
  let s1 := copies.foldl (fun s x => memWrite s x.1 x.2) s
  let kept := m.map fun p => (p.2, ((s.cell p.1).arr.kept.filter fun q => q.op == e.id).map (movedProduct m))
  let s2 := kept.foldl (fun s p => s.updArr p.1 fun a => { a with kept := a.kept ++ p.2 }) (dropKept s1 e.id)
  s2.updOp e.id fun x =>
    { x with cells := new, saves := x.saves.map fun v => { v with addr := movedAddr m v.addr } }

/-- CELLS of a launch descriptor is replaced. -/
def patchCells (d : List Byte) (cells : Nat) : List Byte := d.take 0x10 ++ leBytes 8 cells ++ d.drop 0x18

/-- RESUME. DESIGN CHOICE: it is UNIT_FENCED too where one of the cells that the operation was preempted on is fenced,
whatever cells it names (log entry 84). -/
def resumeRun (s : State) (e : OpEntry) : State :=
  let mask := fld e.desc 0x20 8
  match s.ops.find? fun x => x.phase == .preempted && x.id == e.target with
  | none => ctrlEnd s e.id stBADDESC 0 0
  | some t =>
    let new := if mask = 0 then t.cells else cellsOf t.region mask
    let named := if t.opcode = opKERNEL then (bitsOf 40 (fld t.desc 0x10 8)).length else 0
    if new.any (fencedCell s) || t.cells.any (fencedCell s) then ctrlEnd s e.id stFENCED 0 0
    else if mask ≠ 0 ∧ (t.opcode ≠ opKERNEL ∨ 2 ^ 40 ≤ mask ∨ new.length ≠ named) then ctrlEnd s e.id stBADDESC 0 0
    else
      let s1 := if mask = 0 then s
        else (if t.started then moveKernel s t new else s).updOp t.id fun x => { x with desc := patchCells x.desc mask }
      (s1.updOp t.id fun x => { x with phase := .waiting, resumed := true, admitted := false }).updOp e.id
        fun x => { x with phase := .running }

/-! ### QUIESCE, UNQUIESCE, ECHO (R398) -/

/-- One operation in flight under PREEMPT_ALL: preempted where that can be, else aborted. -/
def preemptOrAbort (s : State) (x : OpEntry) : State :=
  if x.canPreempt && decide (preemptedCount s x.region < 64) then markPreempt s x.id else abortTarget s x.id

/-- Operations in flight that a quiesce stops. -/
def quiesceNames (s : State) : List OpEntry :=
  s.ops.filter fun x => x.inFlight && !x.exempt && x.phase != .aborting

def countWhere (s : State) (l : List OpEntry) (p : OpEntry → Bool) : Nat :=
  (l.filter fun x => match s.op? x.id with
    | some y => p y
    | none => false).length

def quiesceRun (s : State) (e : OpEntry) : State :=
  let l := quiesceNames s
  let s1 := match e.scope with
    | 1 => l.foldl (fun s x => abortTarget s x.id) s
    | 2 => l.foldl preemptOrAbort s
    | _ => s
  let aborted := countWhere s1 l fun y => y.phase == .aborting
  let preempted := countWhere s1 l fun y => y.phase == .preempting || y.preempt
  (s1.updMbx fun m => { m with quiesced := true }).updOp e.id fun x =>
    { x with phase := .running, nAbort := aborted, nPreempt := if e.scope = 2 then preempted else 0 }

def unquiesceRun (s : State) (e : OpEntry) : State :=
  ctrlEnd (s.updMbx fun m => { m with quiesced := false }) e.id stOK 0 0

/-- A local ECHO's round trip is a free value. -/
def echoRun (s : State) (e : OpEntry) : State :=
  let (v, s1) := s.draw
  ctrlEnd s1 e.id stOK (BitVec.ofNat 64 v) 0

/-! ### Requests from other devices -/

/-- Are the bytes of a Table 13-14 body that must be zero zero? -/
def ctlBodyOk (b : List Byte) : Bool := decide (fld b 0 1 ≤ 1) && zeros b 3 4 && zeros b 0xE 0x10 && zeros b 0x18 222

/-- Is a delivered message the Bridle message of that type and body? -/
def isBridle (typ : Nat) (b : List Byte) : Deliver → Bool
  | .msg m => m.op == 6 && fld m.data 0 2 == typ && decide (m.data.drop 2 = (b ++ List.replicate 222 0).take 222)
  | .forwarded _ t body => t == typ && decide (body = (b ++ List.replicate 222 0).take 222)
  | _ => false

/-- A Bridle message leaves its region's queue, where it stands there. -/
def takeBridle (s : State) (r typ : Nat) (b : List Byte) : State :=
  s.updRegion r fun g => { g with inbox := g.inbox.eraseP (isBridle typ b) }

/-- Did the message come through the management port? -/
def cameByPort (s : State) (r typ : Nat) (b : List Byte) : Bool :=
  match (s.region r).inbox.find? (isBridle typ b) with
  | some (.forwarded _ _ _) => true
  | _ => false

/-- The answer with which a request is turned away. -/
def answerBounds (s : State) (r typ : Nat) (byPort : Bool) (src : Src) (b : List Byte) : State :=
  answerBridle s r byPort src typ (ctlBody 1 (fld b 1 1) (fld b 2 1) (fld b 4 4) (fld b 8 4) stBOUNDS 0)

/-- The entry that stands for a remote request until its answer leaves; no channel of the device has its
number. -/
def requestEntry (s : State) (r opc : Nat) (byPort : Bool) (src : Src) (b : List Byte) : OpEntry :=
  let scope := if opc = opUNQUIESCE then 0 else fld b 1 1
  { id := ⟨65536 + 4 * src.id + src.region, fld b 8 4⟩, opcode := opc, region := r, answer := some (src, fld b 8 4),
    step := s.hub.step, byPort := byPort,
    desc := leBytes 16 opc ++ leBytes 4 (fld b 4 4) ++ leBytes 1 (fld b 2 1) ++ leBytes 1 scope ++ List.replicate 26 0 }

/-- The answer to a request of this device. -/
def answerIn (s : State) (typ : Nat) (src : Src) (seq st : Nat) (d0 : DWord) : State :=
  let mine (e : OpEntry) : Bool :=
    e.isCtrl && e.phase == .running && e.targetId == src.id
      && (if typ = 9 then e.opcode == opECHO else if typ = 4 then e.opcode == opABORT
          else e.opcode == opQUIESCE || e.opcode == opUNQUIESCE)
      && (match e.sent with
        | some (_, k) => k == seq
        | none => false)
  match s.ops.find? mine with
  | some e =>
    let d1 := if typ = 4 then targetWord e.target else 0
    (ctrlEnd s e.id st d0 d1).updOp e.id fun x => { x with sent := none }
  | none => s

/-- A request over the Bridle lane: turned away, or performed as a local operation would be. -/
def bridleRequest (s : State) (r typ opc : Nat) (byPort may : Bool) (src : Src) (b : List Byte) : State :=
  let e := requestEntry s r opc byPort src b
  if !may then answerBounds s r typ byPort src b
  else if tagUsed s e.id then s
  else
    let s1 : State := { s with ops := s.ops ++ [e] }
    let s2 := if opc = opABORT then ctrlRun opABORT abortRun s1 e.id
      else if opc = opQUIESCE then ctrlRun opQUIESCE quiesceRun s1 e.id
      else ctrlRun opUNQUIESCE unquiesceRun s1 e.id
    flushAnswers s2

/-- BRIDLE_ABORT. -/
def bridleAbort (s0 : State) (r : Nat) (src : Src) (b : List Byte) : State :=
  let s := takeBridle s0 r 4 b
  if !ctlBodyOk b then s0
  else if fld b 0 1 = 1 then answerIn s 4 src (fld b 8 4) (fld b 0xC 2) (BitVec.ofNat 64 (fld b 0x10 8))
  else
    let ch := fld b 2 1
    bridleRequest s r 4 opABORT (cameByPort s0 r 4 b) (bindValid s ch && bindSend s ch == proxyId s src) src b

/-- BRIDLE_QUIESCE; SCOPE 3 is UNQUIESCE. -/
def bridleQuiesce (s0 : State) (r : Nat) (src : Src) (b : List Byte) : State :=
  let s := takeBridle s0 r 3 b
  if !ctlBodyOk b then s0
  else if fld b 0 1 = 1 then answerIn s 3 src (fld b 8 4) (fld b 0xC 2) (BitVec.ofNat 64 (fld b 0x10 8))
  else
    let may : Bool := (List.range 256).any fun ch => bindValid s ch && bindCtrl s ch && bindSend s ch == proxyId s src
    bridleRequest s r 3 (if fld b 1 1 = 3 then opUNQUIESCE else opQUIESCE) (cameByPort s0 r 3 b) may src b

/-- BRIDLE_ECHO (R325): a request goes back with KIND 1; an answer gives the round trip. -/
def bridleEcho (s0 : State) (r : Nat) (src : Src) (b : List Byte) : State :=
  let s := takeBridle s0 r 9 b
  if !(decide (fld b 0 1 ≤ 1) && zeros b 1 4) then s0
  else if fld b 0 1 = 0 then answerBridle s r (cameByPort s0 r 9 b) src 9 (1#8 :: b.drop 1)
  else
    let t := (s.ops.find? fun e => match e.sent with
      | some (_, k) => e.opcode == opECHO && k == fld b 4 4
      | none => false).bind OpEntry.sent
    answerIn s 9 src (fld b 4 4) stOK (s.hub.cycle - ((t.map Prod.fst).getD 0))

/-! ### Time-outs (R329, R399) -/

/-- A remote request that nothing answered: it goes through the management port, or ends with CONTROL_TIMEOUT. -/
def unanswered (s : State) (e : OpEntry) (oob : Bool) : State :=
  let (typ, body) := requestBody s e ((e.sent.map Prod.snd).getD 0)
  match (if oob then sendOob s e.targetId typ body else (s, false)) with
  | (s1, true) => s1
  | _ => (ctrlEnd s e.id stTIMEOUT 0 0).updOp e.id fun x => { x with sent := none }

/-- REMOTE_CONTROL_TIMEOUT: 100 µs of the hub counter. -/
def remoteTimeout (s : State) (id : OpId) (oob : Bool) : State :=
  match s.op? id with
  | some e => match e.sent with
    | some (t, _) =>
      if e.isCtrl && e.phase == .running && decide (160000 ≤ (s.hub.cycle - t).toNat) then unanswered s e oob else s
    | none => s
  | none => s

/-- BRIDLE_DELIVERY_TIMEOUT: a Bridle message of an operation met UNREACHABLE, no route or no answer; a vote that
no path delivers leaves the device undecided (R361). -/
def deliveryTimeout (s : State) (id : OpId) (oob : Bool) : State :=
  match s.op? id with
  | some e =>
    if e.isCtrl && e.phase == .running && e.sent.isSome then unanswered s e oob
    else if oob then (if (s.hrw.commit.map fun c => c.1) = some id then voteAgain s else s)
    else if (s.hrw.commit.map fun c => c.1) = some id then resultTimeout s none
    else restoreLost s id
  | none => s

/-- COMMAND_PROCESSOR_WATCHDOG: the operations that the core holds end with INTERNAL, REASON 1 (log entry 46). -/
def watchdog (s : State) (core : Nat) : State :=
  (s.ops.filter fun e => e.region == core && e.phase != .preempted && e.answer.isNone).foldl
    (fun s e => (if e.isCtrl then s else stopUnits (dropKept s e.id) e.id).updOp e.id fun x =>
      { x.addStat stINTERNAL with phase := if x.isCtrl then .finished else .aborting, reason := 1, preempt := false,
                                  sent := none, targets := [], d0 := 0, d1 := 0 }) s

def execAbort (o : OpId) (s : State) : Res := .next (ctrlRun opABORT abortRun s o)
def execPreempt (o : OpId) (s : State) : Res := .next (ctrlRun opPREEMPT preemptRun s o)
def execResume (o : OpId) (s : State) : Res := .next (ctrlRun opRESUME resumeRun s o)
def execQuiesce (o : OpId) (s : State) : Res := .next (ctrlRun opQUIESCE quiesceRun s o)
def execUnquiesce (o : OpId) (s : State) : Res := .next (ctrlRun opUNQUIESCE unquiesceRun s o)
def execEcho (o : OpId) (s : State) : Res := .next (ctrlRun opECHO echoRun s o)
def execRemoteControlTimeout (o : OpId) (oob : Bool) (s : State) : Res := .next (remoteTimeout s o oob)
def execBridleDeliveryTimeout (o : OpId) (oob : Bool) (s : State) : Res := .next (deliveryTimeout s o oob)
def execBridleQuiesce (region : Nat) (src : Src) (b : List Byte) (s : State) : Res :=
  .next (if region < 4 then bridleQuiesce s region src b else s)
def execBridleAbort (region : Nat) (src : Src) (b : List Byte) (s : State) : Res :=
  .next (if region < 4 then bridleAbort s region src b else s)
def execBridleEcho (region : Nat) (src : Src) (b : List Byte) (s : State) : Res :=
  .next (if region < 4 then bridleEcho s region src b else s)
def execCommandProcessorWatchdog (core : Nat) (s : State) : Res := .next (if core < 4 then watchdog s core else s)

end Sys2Proof.Machine
end

