-- ==== Sys2Proof/Machine/Bridle.lean ====
section
/-! DEFINITION. Bridle messages of the fabric itself (R324 to R329): liveness, loss, the commit tree's messages,
finalisation notices, UNREACHABLE (R335), and bodies that are discarded (R325). -/

namespace Sys2Proof.Machine

/-! ### Bodies (Table 11-13, R358, R359, Table 13-14) -/

/-- Has the body of a message of type `typ` the zeros that its table asks for? -/
def bridleBodyOk (typ : Nat) (b : List Byte) : Bool :=
  match typ with
  | 1 => zeros b 4 8 && zeros b 0x10 222
  | 2 => zeros b 6 8 && zeros b 0x10 222
  | 3 => ctlBodyOk b
  | 4 => ctlBodyOk b
  | 5 => zeros b 0x18 222
  | 6 => zeros b 0x18 222
  | 7 => zeros b 0x1C 222
  | 8 => natBits (fld b 0x0C 2) 15 12 == 0 && decide (fld b 0x0A 1 < 4) && decide (fld b 0x0B 1 < 64)
      && decide (fld b 0x0E 1 < 4) && zeros b 0x12 222
  | 9 => zeros b 1 4
  | _ => false

/-! ### Liveness (R328) -/

/-- 10 µs and 40 µs of a region counter. -/
def beatCycles : Nat := 16000
def silenceCycles : Nat := 64000

def beatBody (s : State) (r l : Nat) : List Byte :=
  leBytes 2 s.hub.deviceId ++ leBytes 1 r ++ leBytes 1 (l % 6) ++ leBytes 4 0 ++ leBytes 8 (s.region r).cycle.toNat

/-- One HEARTBEAT joins the Bridle queue of a native link in service. -/
def sendBeat (r : Nat) (s : State) (l : Nat) : State :=
  if inService s l then
    let m : Msg := { bridleMsg (regionAddr (s.link l).peerId 0) 1 (beatBody s r l) with srcId := s.hub.deviceId, srcRegion := r }
    s.updLink l (enqueue (s.region r).cycle ((flitsOf m 0 none).map fun f => { f with region := some r }))
  else s

/-- HEARTBEAT_TIMER. -/
def heartbeatTimer (s : State) (r : Nat) : State :=
  let now := (s.region r).cycle
  if !fencedRegion s r && decide (beatCycles ≤ (now - (s.region r).lastBeat).toNat) then
    ((List.range 6).map (6 * r + ·)).foldl (sendBeat r) (s.updRegion r fun g => { g with lastBeat := now })
  else s

/-- HEARTBEAT: its link's peer is alive. -/
def heartbeat (s : State) (r l : Nat) (b : List Byte) : State :=
  if bridleBodyOk 1 b then heard (takeBridle s r 1 b) l else s

/-- A device is lost to this region: its Pleacher and the commit tree learn of it (R328, R358). -/
def deviceLost (s : State) (r dev : Nat) : State := treeLost (pleacherLost s r dev) dev

/-- Members, in other regions, of the region's active collectives that name a device. -/
def membersWith (s : State) (r dev : Nat) : List Nat :=
  ((((s.region r).colls.filter fun c => liveColl s c && namesDev dev c).flatMap Coll.group).dedup).filter
    fun w => w != selfWord s r

def lostBody (s : State) (r l dev : Nat) : List Byte :=
  leBytes 2 dev ++ leBytes 2 s.hub.deviceId ++ leBytes 1 r ++ leBytes 1 (l % 6) ++ leBytes 2 0
    ++ leBytes 8 (s.region r).cycle.toNat

/-- PEER_SILENCE_TIMEOUT: the peer is marked unresponsive, and LOST goes out. -/
def peerSilence (s : State) (l : Nat) : State :=
  let k := s.link l
  let r := l / 6
  if linkUp s l 0 && !k.unresponsive && decide (silenceCycles ≤ ((s.region r).cycle - k.lastRx).toNat) then
    let s1 := s.updLink l fun k => { k with unresponsive := true }
    let body := lostBody s r l k.peerId
    let s2 := (membersWith s r k.peerId).foldl
      (fun s w => (reachBridle s r none (memberDev w) (memberReg w) 2 body).1) s1
    deviceLost s2 r k.peerId
  else s

/-- LOST: not forwarded further. -/
def lost (s : State) (r : Nat) (b : List Byte) : State :=
  if bridleBodyOk 2 b then deviceLost (takeBridle s r 2 b) r (fld b 0 2) else s

/-! ### The commit tree and finalisation notices -/

/-- COMMIT_VOTE reaches the region that stands for this device in the tree. -/
def voteIn (s : State) (src : Src) (b : List Byte) : State :=
  if bridleBodyOk 5 b then commitVote (takeBridle s (commitRegion s) 5 b) src b else s

/-- COMMIT_RESULT. -/
def resultIn (s : State) (b : List Byte) : State :=
  if bridleBodyOk 6 b then commitResult (takeBridle s (commitRegion s) 6 b) b else s

/-- PLC_FINAL. -/
def finalIn (s : State) (r : Nat) (b : List Byte) : State :=
  if bridleBodyOk 7 b then plcFinal (takeBridle s r 7 b) r b else s

/-! ### UNREACHABLE (R335) -/

/-- A write of this region was discarded. -/
def writeLost (s : State) (r mtag : Nat) : State :=
  match (s.region r).wrote.find? fun p => p.1 == mtag with
  | some p => s.addStat p.2 stLINKDOWN
  | none => s

/-- A read request of this region was discarded. -/
def readLost (s : State) (r mtag : Nat) : State :=
  match (s.region r).dma.running.find? fun i => i.waits.any fun w => w.1 == mtag with
  | some i => lostMessages s i.op
  | none => match restoreFor s r mtag with
    | some x => restoreLost s x.op
    | none => s

/-- Collective traffic of this region to a device was discarded. -/
def collLost (s : State) (r dev : Nat) : State :=
  ((s.region r).colls.filter fun c => liveColl s c && namesDev dev c).foldl (fun s c => opLinkDown s (some c.op)) s

/-- UNREACHABLE: the operation that sent the message completes with LINK_DOWN; a Bridle message goes out again through the
management port (R329). -/
def unreachable (s0 : State) (r : Nat) (b : List Byte) : State :=
  if !bridleBodyOk 8 b || fld b 8 2 != s0.hub.deviceId || fld b 0x0A 1 != r then s0
  else
    let s := takeBridle s0 r 8 b
    let dev := devOf (fld b 0 8)
    match fld b 0x0B 1 with
    | 0 => writeLost s r (fld b 0x0C 2)
    | 1 => readLost s r (fld b 0x0C 2)
    | 4 => collLost s r dev
    | 5 => collLost s r dev
    | 6 => bridleAgain s r (fld b 0x0C 2)
    | _ => s

/-! ### Messages that are discarded -/

/-- LNK_BRIDLE_BAD. -/
def offBridleBad : Nat := 0x48

/-- BRIDLE_BAD: a reserved type, or a body with a non-zero byte where zero is required. -/
def bridleBad (s : State) (l typ : Nat) (b : List Byte) : State :=
  if bridleBodyOk typ b then s
  else ((List.range 4).foldl (fun s r => takeBridle s r typ b) s).updLink l (Link.bump offBridleBad 1)

def execHeartbeatTimer (region : Nat) (s : State) : Res := .next (if region < 4 then heartbeatTimer s region else s)
def execHeartbeat (region link : Nat) (b : List Byte) (s : State) : Res :=
  .next (if region < 4 ∧ link < 24 then heartbeat s region link b else s)
def execPeerSilenceTimeout (link : Nat) (s : State) : Res := .next (if link < 24 then peerSilence s link else s)
def execLost (region : Nat) (b : List Byte) (s : State) : Res := .next (if region < 4 then lost s region b else s)
def execCommitVote (src : Src) (b : List Byte) (s : State) : Res := .next (voteIn s src b)
def execCommitResult (b : List Byte) (s : State) : Res := .next (resultIn s b)
def execPlcFinal (region : Nat) (b : List Byte) (s : State) : Res := .next (if region < 4 then finalIn s region b else s)
def execUnreachable (region : Nat) (b : List Byte) (s : State) : Res :=
  .next (if region < 4 then unreachable s region b else s)
def execBridleBad (link typ : Nat) (b : List Byte) (s : State) : Res :=
  .next (if link < 24 then bridleBad s link typ b else s)

end Sys2Proof.Machine
end

