-- ==== Sys2Proof/Machine/Ethernet.lean ====
section
/-! DEFINITION. Links in Ethernet mode (R337, R338): tunnels with their numbering, retry window and fence, and host
frames. -/

namespace Sys2Proof.Machine

/-! ### Frames -/

/-- A big-endian number, as frames and packets carry theirs. -/
def beNat (bs : List Byte) : Nat := bs.foldl (fun n b => 256 * n + b.toNat) 0

/-- Field of a frame: `n` bytes at `off`, big-endian. -/
def beFld (d : List Byte) (off n : Nat) : Nat := beNat ((d.drop off).take n)

/-- Where the packet of a frame starts: after the addresses, an 802.1Q tag if there is one, and the type. -/
def packetAt (f : List Byte) : Nat := if beFld f 12 2 = 0x8100 then 18 else 14

/-- The source address and payload of an IPv6 UDP packet to a port; none for any other. -/
def udpTo (f : List Byte) (port : Nat) : Option (List Byte × List Byte) :=
  let p := packetAt f
  let n := beFld f (p + 44) 2
  if beFld f (p - 2) 2 == 0x86DD && beFld f p 1 / 16 == 6 && beFld f (p + 6) 1 == 17 && beFld f (p + 42) 2 == port
      && decide (8 ≤ n) && decide (p + 40 + n ≤ f.length) then
    some ((f.drop (p + 8)).take 16, (f.drop (p + 48)).take (n - 8))
  else none

/-- Is the first byte of an address that of a group? -/
def isGroup (mac : List Byte) : Bool := natBit ((mac.headD 0).toNat) 0

/-! ### Tunnels -/

/-- The valid tunnel of a link whose peer has an address. -/
def tunnelFrom (k : Link) (addr : List Byte) : Option Nat :=
  (List.range 256).find? fun t => (k.tunnel t).valid && decide ((k.tunnel t).entry.take 16 = addr)

/-- Does `ack` cover datagram `n`, in the window that starts at `first`? -/
def covers (first ack n : Nat) : Bool :=
  decide ((n + 2 ^ 32 - first) % 2 ^ 32 ≤ (ack + 2 ^ 32 - first) % 2 ^ 32) && decide ((ack + 2 ^ 32 - first) % 2 ^ 32 < 2 ^ 31)

/-- Datagrams that an ACK covers leave the window. -/
def releaseWindow (now : DWord) (ack : Nat) (u : Tunnel) : Tunnel :=
  match u.window with
  | [] => u
  | (first, _) :: _ =>
    let rest := u.window.filter fun w => !covers first ack w.1
    if rest.length = u.window.length then u else { u with window := rest, since := now, tried := now }

/-- Waiting messages go out while the window has room; `n` bounds their number. -/
def drainTunnel (l t : Nat) : Nat → State → State
  | 0, s => s
  | n + 1, s =>
    let u := (s.link l).tunnel t
    match u.queue with
    | [] => s
    | fs :: rest =>
      if u.inFlight + fs.length ≤ 4096 ∧ !tunnelPaused (s.region (l / 6)).cycle (s.link l) u then
        drainTunnel l t n (tunnelPut (s.updLink l fun k => k.updTunnel t fun u => { u with queue := rest }) l t fs)
      else s

/-- Everything in the window goes out again, oldest first, unless the peer has paused the tunnel's priority. -/
def tunnelAgain (s : State) (l t : Nat) : State :=
  let now := (s.region (l / 6)).cycle
  if tunnelPaused now (s.link l) ((s.link l).tunnel t) then s
  else (((s.link l).tunnel t).window).foldl (fun s w => tunnelOut s l t w.1 (w.2.map tunnelFlit))
    (s.updLink l fun k => k.updTunnel t fun u => { u with tried := now })

/-- A null flit carries the ACK when no data does; it takes the number before the next one (log entry 31). -/
def tunnelAck (s : State) (l t : Nat) : State :=
  let u := (s.link l).tunnel t
  if tunnelPaused (s.region (l / 6)).cycle (s.link l) u then s
  else tunnelOut s l t ((u.txSeq + 2 ^ 32 - 1) % 2 ^ 32) [flitBytes { typ := 1 } []]

/-- Flits of a datagram. -/
def flitsIn (b : List Byte) : List (List Byte) := (List.range (b.length / 256)).map fun i => (b.drop (256 * i)).take 256

/-- Is a tunnel payload in form: header, flit count, and flits in good order? -/
def tunnelOk (b : List Byte) : Bool :=
  let n := fld b 8 1
  decide (1 ≤ n) && decide (n ≤ 34) && zeros b 9 16 && decide (b.length = 16 + 256 * n) && (flitsIn (b.drop 16)).all flitCrcOk

/-- The flits enter the fabric as from a native link; key 16 + 8 t on hold the tunnel's messages. -/
def tunnelFlits (s : State) (l t : Nat) (fs : List (List Byte)) : State :=
  fs.foldl
    (fun s f =>
      let h := LinkHead.of f
      if h.typ = 0 then payloadIn s l (16 + 8 * t + 2 * h.vc + h.cls) none h f else s) s

/-- A tunnel datagram: its ACK, and its flits when it is the next in order. A datagram of null flits alone is an
ACK; one that covers nothing tells of a gap. -/
def tunnelIn (s : State) (l t : Nat) (b : List Byte) : State :=
  let fs := flitsIn (b.drop 16)
  let seq := fld b 0 4
  let now := (s.region (l / 6)).cycle
  let before := ((s.link l).tunnel t).window
  let s1 := s.updLink l fun k => k.updTunnel t (releaseWindow now (fld b 4 4))
  let after := ((s1.link l).tunnel t).window
  let s2 := drainTunnel l t ((s1.link l).tunnel t).queue.length s1
  if fs.all fun f => (LinkHead.of f).typ == 1 then
    if !after.isEmpty && after.length == before.length then tunnelAgain s2 l t else s2
  else if seq = ((s2.link l).tunnel t).rxNext then
    tunnelAck (tunnelFlits (s2.updLink l fun k => k.updTunnel t fun u => { u with rxNext := (seq + 1) % 2 ^ 32 }) l t fs) l t
  else tunnelAck s2 l t

/-! ### Priority flow control (R336) -/

/-- Is a frame an IEEE 802.1Qbb PAUSE: MAC control, opcode 0x0101 (log entry 80)? -/
def isPfc (f : List Byte) : Bool := beFld f 12 2 == 0x8808 && beFld f 14 2 == 0x0101

/-- Fabric cycles of `q` pause quanta, 512 bit times each at 800 Gb/s. -/
def pauseCycles (q : Nat) : Nat := ceilDiv (q * 128) 125

/-- The priorities that a PAUSE frame enables are paused for its times, 0 ending a pause. -/
def pfcIn (now : DWord) (f : List Byte) (k : Link) : Link :=
  (List.range 8).foldl
    (fun k i =>
      if natBit (beFld f 16 2) i then
        let q := beFld f (18 + 2 * i) 2
        { k with paused := fset 0 k.paused i (if q = 0 then 0 else now + BitVec.ofNat 64 (pauseCycles q)) }
      else k) k

/-- Tunnels of a link send what waits, as far as windows and pauses let them. -/
def drainLink (s : State) (l : Nat) : State :=
  (s.link l).tunnels.foldl (fun s t => drainTunnel l t.1 t.2.queue.length s) s

/-- Pauses of a link that are over are forgotten, and its tunnels go on. -/
def endPauses (s : State) (l : Nat) : State :=
  let now := (s.region (l / 6)).cycle
  if (s.link l).paused.any fun p => decide (p.2.toNat ≤ now.toNat) then
    drainLink (s.updLink l fun k => { k with paused := k.paused.filter fun p => decide (now.toNat < p.2.toNat) }) l
  else s

/-! ### The commands -/

/-- ETHERNET_FRAME_RECEIVE. -/
def frameReceive (s : State) (l : Nat) (f : List Byte) : State :=
  let k := s.link l
  let dst := f.take 6
  if !linkUp s l 1 || !s.mbx.locked || decide (f.length < 64) || decide (9216 < f.length) then s
  else if isPfc f then
    let now := (s.region (l / 6)).cycle
    drainLink (s.updLink l (pfcIn now f)) l
  else match (if dst = k.mac then udpTo f k.port else none) with
    | some (addr, b) => match tunnelFrom k addr with
      | some t => if tunnelOk b then tunnelIn s l t b else s
      | none => s
    | none =>
      if dst = k.mac ∨ isGroup dst then s.updLink l fun k => { k with frames := k.frames ++ [f] } else s

/-- 100 µs and 10 ms of the region counter. -/
def resendCycles : Nat := 160000
def fenceCycles : Nat := 16000000

/-- TUNNEL_RESEND_TIMER. -/
def tunnelResend (s : State) (l t : Nat) : State :=
  let u := (s.link l).tunnel t
  if linkUp s l 1 && u.valid && !u.window.isEmpty
      && decide (resendCycles ≤ ((s.region (l / 6)).cycle - u.tried).toNat) then tunnelAgain s l t
  else s

/-- TUNNEL_FENCE_TIMEOUT: messages in flight are lost. -/
def tunnelFence (s : State) (l t : Nat) : State :=
  let u := (s.link l).tunnel t
  if linkUp s l 1 && u.valid && !u.window.isEmpty
      && decide (fenceCycles ≤ ((s.region (l / 6)).cycle - u.since).toNat) then
    let fs := (u.window.flatMap fun w => w.2) ++ u.queue.flatten
    let s1 := s.updLink l fun k => k.updTunnel t fun u => { u with fenced := true, window := [], queue := [] }
    (fs.filterMap TxFlit.op).dedup.foldl lostMessages (u.queue.flatten.foldl leaves s1)
  else s

def execEthernetFrameReceive (link : Nat) (frame : List Byte) (s : State) : Res :=
  .next (if link < 24 then frameReceive s link frame else s)
def execTunnelResendTimer (link tunnel : Nat) (s : State) : Res :=
  .next (if link < 24 ∧ tunnel < 256 then tunnelResend s link tunnel else s)
def execTunnelFenceTimeout (link tunnel : Nat) (s : State) : Res :=
  .next (if link < 24 ∧ tunnel < 256 then tunnelFence s link tunnel else s)

end Sys2Proof.Machine
end

