-- ==== Sys2Proof/Machine/Faults.lean ====
section
/-! DEFINITION. Hardware errors and fences (R30 to R34, Table 1-7), and the HBM controllers' reads and writes with
their check values (R258 to R262, R265). -/

namespace Sys2Proof.Machine

/-! ### Which operations use a unit (R32) -/

def usesDma (d : Dma) (e : OpEntry) : Bool := d.items.any fun i => i.op == e.id

/-- Does an operation use a cell: until its record is committed (R32), and a preempted one until it is dropped
(R33)? -/
def usesCell (s : State) (n : Nat) (e : OpEntry) : Bool :=
  let c := s.cell n
  let j := (s.block (n / 8)).job
  (e.started && e.cells.contains n
      && (e.phase == .running || e.phase == .preempting || e.phase == .finished || e.phase == .preempted))
    || (c.arr.products.any fun p => p.op == e.id) || usesDma c.dma e
    || (match j with
      | some j => j.op == e.id && natBit j.cells (n % 8)
      | none => false)

def usesBlock (s : State) (b : Nat) (e : OpEntry) : Bool :=
  let k := s.block b
  usesDma k.dma e || usesDma k.gs e
    || (e.started && e.phase == .finished && (e.opcode == 0x102 || e.opcode == 0x103)
      && 5 * e.region + fld e.desc 0x18 1 == b)
    || (k.job.map fun j => j.op == e.id).getD false
    || (List.range 8).any fun i => usesCell s (8 * b + i) e

/-- A collective that names a member of region `r` of this device. -/
def namesMember (s : State) (r : Nat) (e : OpEntry) : Bool :=
  (List.range 4).any fun k => (s.region k).colls.any fun c => c.op == e.id && c.group.contains (selfWord s r)

def usesRegion (s : State) (r : Nat) (e : OpEntry) : Bool :=
  (e.region == r && e.started && (e.phase == .running || e.phase == .preempting || e.phase == .finished)) || usesDma (s.region r).dma e
    || namesMember s r e || (List.range 5).any fun j => usesBlock s (5 * r + j) e

/-! ### Ending them -/

/-- LAST_TILE of the operation's product in any of some cells (R97). -/
def lastTileOf (s : State) (cells : List Nat) (id : OpId) : Nat :=
  ((cells.filterMap fun n => (((s.cell n).arr.cur.toList ++ (s.cell n).arr.draining).find? fun p => p.op == id).bind
    Product.last).head?).getD 0xFFFFFFFF

/-- DETAIL0 of FAULT_ABORTED: the fenced unit's place and number (Table 13-3). -/
def faultUnit (shift n : Nat) : DWord := BitVec.ofNat 64 (0xFFFFFFFF - 0xFF * 2 ^ shift + n * 2 ^ shift)

/-- A fence ends an operation that uses the unit: as an abort, with FAULT_ABORTED. One that an abort has marked
keeps that outcome; a preempted one loses what was saved (R33). -/
def faultOp (s : State) (d0 : DWord) (last : Nat) (id : OpId) : State :=
  match s.op? id with
  | none => s
  | some e =>
    match e.phase with
    | .aborting => s
    | .preempted => dropKept s id
    | _ => (stopUnits (dropKept s id) id).updOp id fun e =>
        { e.addStat stFAULT with phase := .aborting, preempt := false, d0 := d0, d1 := BitVec.ofNat 64 last }

def faultOps (s : State) (d0 : DWord) (cells : List Nat) (uses : OpEntry → Bool) : State :=
  (s.ops.filter fun e => !e.isCtrl && uses e).foldl (fun a e => faultOp a d0 (lastTileOf s cells e.id) e.id) s

/-- A launch or resume that Rolac holds and that names a fenced cell is not performed (R33). -/
def refuseHeld (s : State) : State :=
  (s.ops.filter fun e => e.phase == .held && e.isLaunch && e.cells.any (fencedCell s)).foldl
    (fun s e => (dropKept s e.id).finishOp e.id stFENCED) s

/-! ### Out of service -/

/-- A DMA unit out of service: its transfers are gone, its counters stand. -/
def Dma.cleared (d : Dma) : Dma := { done := d.done, overlap := d.overlap }

/-- The contexts, products and transfers of a fenced cell are gone; its counters stand. -/
def clearedCell (c : Cell) : Cell :=
  { c with ctxs := [], arr := { saves := c.arr.saves, resumes := c.arr.resumes }, dma := c.dma.cleared,
           held := [] }

/-- RGN_FENCE and Cantle's record (R31). -/
def setFence (s : State) (r bit store : Nat) : State :=
  let s1 := s.updRegion r fun g => { g with fence := g.fence ||| BitVec.ofNat 64 (2 ^ bit) }
  { s1 with store := { s1.store with fences := s1.store.fences ||| 2 ^ store } }

/-- A cell is fenced. -/
def fenceCellNow (s : State) (n : Nat) : State :=
  let s1 := faultOps s (faultUnit 8 n) [n] (usesCell s n)
  refuseHeld (settleStop ((setFence s1 (n / 40) (n % 40) (48 + n)).updCell n clearedCell) (n / 8))

def clearedBlock (k : Block) : Block := { k with dma := k.dma.cleared, gs := k.gs.cleared, job := none }

/-- The bits of a block and of its eight cells (Table 1-8). -/
def markBlock (s : State) (b : Nat) : State :=
  (setFence s (b / 5) (40 + b % 5) (4 + b)).updRegion (b / 5) fun g =>
    { g with fence := g.fence ||| BitVec.ofNat 64 (255 * 2 ^ (8 * (b % 5))) }

/-- A block and its eight cells are fenced. -/
def fenceBlockNow (s : State) (b : Nat) : State :=
  let cells := (List.range 8).map (8 * b + ·)
  let s1 := faultOps s (faultUnit 16 b) cells (usesBlock s b)
  refuseHeld (cells.foldl (fun s n => s.updCell n clearedCell) ((markBlock s1 b).updBlock b clearedBlock))

/-- The class of a hub-die fault, and of four fenced regions: all regions quiesce (Table 1-7). -/
def deviceFault (s : State) : State := s.updMbx fun m => { m with quiesced := true }

/-- Work of a fenced region that has not started is not performed (R34). -/
def refuseHome (s : State) (r : Nat) : State :=
  (s.ops.filter fun e => e.region == r && !e.isCtrl && !e.started
      && (e.phase == .waiting || e.phase == .admitted || e.phase == .held)).foldl (fun s e => s.finishOp e.id stFENCED) s

/-- What a fenced region held: its blocks, cells, DMA and Pleacher, and its links' queues. -/
def clearRegion (s : State) (r : Nat) : State :=
  let s1 := ((List.range 40).map (40 * r + ·)).foldl (fun s n => s.updCell n clearedCell) s
  let s2 := ((List.range 5).map (5 * r + ·)).foldl (fun s b => s.updBlock b clearedBlock) s1
  let s3 := ((List.range 6).map (6 * r + ·)).foldl
    (fun s l => s.updLink l fun k =>
      { k with st := 4, txq := [], bridleWait := [], offers := [], retry := [], resend := [], rx := [], inbuf := [], resv := [],
               shared := 0, owed := [], tunnels := [] }) s2
  let s4 := ((List.range 3).map (3 * r + ·)).foldl (fun s h => s.updHbm h fun k => { k with st := 4 }) s3
  s4.updRegion r fun g =>
    { g with dma := g.dma.cleared, inbox := [], colls := [], shards := [], defers := [], early := [], finals := [],
             clkTarget := none, clkSwitching := false }

/-- A region is fenced. -/
def fenceRegionNow (s : State) (r : Nat) : State :=
  if fencedRegion s r then s
  else
    let cells := (List.range 40).map (40 * r + ·)
    let s1 := faultOps s (faultUnit 24 r) cells (usesRegion s r)
    let s2 := refuseHeld (clearRegion (setFence (refuseHome s1 r) r 63 r) r)
    if (List.range 4).all (fencedRegion s2) then deviceFault s2 else lossVote s2

/-! ### HARDWARE_ERROR -/

/-- Counters of Table 9-8. -/
def offStoreCorr : Nat := 0x1800
def offStorePoison : Nat := 0x1808
def offBlkCorr : Nat := 0x600
def offBlkPoison : Nat := 0x608

/-- An uncorrectable word of a cell or block store is poisoned and counted (R265). -/
def poisonWord (s : State) (a : Nat) : State :=
  match memOf a with
  | some (.cell n) => if fencedRegion s (n / 40) then s else (setBad s a true).updCell n (Cell.bump offStorePoison 1)
  | some (.blk b) => if fencedRegion s (b / 5) then s else (setBad s a true).updBlock b (Block.bump offBlkPoison 1)
  | _ => s

/-- The classes of Table 1-7. A hub-die fault may take the management controller with it, and the fault GPIO is
then asserted: a free value says whether. -/
def hardwareError (s : State) : HwError → State
  | .correctedCellStore n => if n < 160 then s.updCell n (Cell.bump offStoreCorr 1) else s
  | .correctedBlockStore b => if b < 20 then s.updBlock b (Block.bump offBlkCorr 1) else s
  | .correctedOther r => if r < 4 then s.updRegion r fun g => { g with corrected := g.corrected + 1 } else s
  | .sramWord a => poisonWord s a
  | .curveMemory n k =>
    if n < 160 ∧ k < 16 then s.updCell n fun c => { c with curves := fupd {} c.curves k fun v => { v with poisoned := true } }
    else s
  | .cellFault n => if n < 160 ∧ ¬fencedCell s n then fenceCellNow s n else s
  | .blockFault b => if b < 20 ∧ ¬fencedBlock s b then fenceBlockNow s b else s
  | .linkFault l => if l < 24 then fenceLink s l else s
  | .regionFault r => if r < 4 then fenceRegionNow s r else s
  | .deviceFault =>
    let (v, s1) := (deviceFault s).draw
    { s1 with pins := { s1.pins with fault := s1.pins.fault || v % 2 == 1 } }

/-! ### The HBM controllers -/

/-- HBM_READ_RETURN: a block comes back after `n` failed checks in a row (R261); a marked block reads as poisoned
at once (R262). -/
def readReturn (s : State) (h a n : Nat) : State :=
  if !decide (a < hbmTop) || stackOf a != h || fencedAddr s a then s
  else
    let marked := bad s a
    let poisoned := marked || decide (4 ≤ n)
    let s1 := s.updHbm h (Hbm.bump 0x08 64)
    let s2 := if !marked ∧ 1 ≤ n ∧ n ≤ 3 then s1.updHbm h (Hbm.bump 0x20 1) else s1
    let s3 := if !marked && poisoned then
        (setBad s2 a true).updHbm h fun k => { k.bump 0x28 1 with poisonLast := unitBase a }
      else s2
    if poisoned then s3.updHbm h (Hbm.bump 0x30 1) else s3

/-- A write into a fenced region is not performed (R34): an operation's ends it with UNIT_FENCED, another master's is a
bus error to that master. -/
def fencedWrite (s : State) (w : HbmWrite) : State :=
  match w.op.bind s.op? with
  | some e =>
    if e.phase != .running && e.phase != .preempting then s
    else if e.opcode = opKERNEL then endKernel s e.id stFENCED 0
    else s.addStat e.id stFENCED
  | none => if localId w.master && decide (w.master < 0x40) then s.emit (.bus w.master false []) else s

/-- A write of an operation that runs, under the rules of R286, R295 and R306. -/
def acceptFor (s : State) (w : HbmWrite) (e : OpEntry) : State :=
  if e.phase != .running && e.phase != .preempting then s
  else if slotOk s e.cls w.addr w.data.length || w.priv then opWrite s e.id e.cls w.priv w.addr w.data
  else if e.opcode = opKERNEL then endKernel s e.id stBOUNDS 0
  else s.addStat e.id stBOUNDS

/-- HBM_WRITE_ACCEPT: visible when the controller accepts it (R258); part of a block is a read-modify-write (R259). -/
def writeAccept (s : State) (w : HbmWrite) : State :=
  if !idOk w.master || w.data.isEmpty || decide (64 < w.addr % 64 + w.data.length)
      || !decide (w.addr + w.data.length ≤ hbmTop) then s
  else if fencedAddr s w.addr then fencedWrite s w
  else match w.op with
    | none => writeUnit s w.addr w.data
    | some id => match s.op? id with
      | some e => acceptFor s w e
      | none => s

def execHardwareError (e : HwError) (s : State) : Res := .next (hardwareError s e)
def execHbmReadReturn (stack addr bad : Nat) (s : State) : Res := .next (readReturn s stack addr bad)
def execHbmWriteAccept (w : HbmWrite) (s : State) : Res := .next (writeAccept s w)

end Sys2Proof.Machine
end

