-- ==== Sys2Proof/Machine/Power.lean ====
section
/-! DEFINITION. The power and thermal arbiter (R426 to R429). -/

namespace Sys2Proof.Machine

def State.updPwr (s : State) (f : Power → Power) : State := { s with pwr := f s.pwr }

/-! ### Means -/

def Watts.total (w : Watts) : Nat := w.regions.sum + w.hbm + w.links + w.hub + w.losses

/-- Mean of a consumer over a list of samples, in whole watts (the registers' rounding is the model's). -/
def meanOf (f : Watts → Nat) (l : List Watts) : Nat := if l.isEmpty then 0 else (l.map f).sum / l.length

/-- Is the mean above `n` watts? -/
def meanAbove (f : Watts → Nat) (l : List Watts) (n : Nat) : Bool := decide (n * l.length < (l.map f).sum)
def meanBelow (f : Watts → Nat) (l : List Watts) (n : Nat) : Bool := decide ((l.map f).sum < n * l.length)

/-- Samples of the last 100 µs and of the last 10 ms, one every 10 µs. -/
def last100 (s : State) : List Watts := s.pwr.samples.take 10
def last10ms (s : State) : List Watts := s.pwr.samples.take 1000

def p100 (s : State) : Nat := meanOf Watts.total (last100 s)
def p10 (s : State) : Nat := meanOf Watts.total (last10ms s)

/-! ### Steps -/

/-- A live region: released, and not fenced. -/
def liveRegion (s : State) (r : Nat) : Bool := (s.region r).released && !fencedRegion s r

/-- Live regions whose clock may step down. -/
def aboveLowest (s : State) : List Nat := (List.range 4).filter fun r => liveRegion s r && decide (requiredStep s r < 2)

/-- One step down by a power rule, and by the heat rule. -/
def powerDown (s : State) (r : Nat) : State :=
  s.updPwr fun w => { w with pwrHold := fset 0 w.pwrHold r (min 2 (requiredStep s r + 1)) }
def heatDown (s : State) (r : Nat) : State :=
  s.updPwr fun w => { w with heatHold := fset 0 w.heatHold r (min 2 (requiredStep s r + 1)) }

def bump16 (n k : Nat) : Nat := (n + k) % 65536

/-! ### POWER_SAMPLE -/

/-- The fast rule, and what a sample tells the recovery rule. -/
def powerSample (s : State) (w : Watts) : State :=
  let s1 := s.updPwr fun p => { p with samples := (w :: p.samples).take 1000 }
  let l := last100 s1
  let s2 := s1.updPwr fun p => { p with calm := p.calm && !meanAbove Watts.total l 2450, fastSkip := p.fastSkip - 1 }
  if s2.pwr.fastSkip = 0 ∧ meanAbove Watts.total l 2600 then
    let rs := aboveLowest s2
    let s3 := rs.foldl powerDown s2
    orderSteps (s3.updPwr fun p => { p with fastSkip := 10, fast := bump16 p.fast rs.length })
  else s2

/-! ### TEMPERATURE_SAMPLE -/

def hottest (l : List Nat) : Nat := l.foldl max 0

/-- Stacks of region `r` in a sample. -/
def stacksOf (t : Temps) (r : Nat) : List Nat := (t.stackC.drop (3 * r)).take 3

/-- The trip (R427): every region to 470 MHz, THERM_TRIP, and the device fault class. -/
def trip (s : State) : State :=
  let s1 := deviceFault (s.updPwr fun p => { p with trip := true })
  orderSteps { s1 with pins := { s1.pins with thermTrip := true } }

/-- A sample of every sensor. -/
def temperatureSample (s : State) (t : Temps) : State :=
  let s1 := s.updPwr fun p =>
    { p with temps := fsets 0 p.temps 0 (t.regions.map hottest), hubTemp := hottest t.hub,
             stackMax := fsets 0 p.stackMax 0 ((List.range 4).map fun r => hottest (stacksOf t r)) }
  let s2 := (List.range 12).foldl (fun s h => s.updHbm h fun k => { k with temp := t.stackC.getD h 0 % 256 }) s1
  if (t.regions.any fun l => decide (105 ≤ hottest l)) || decide (105 ≤ hottest t.hub) then trip s2 else s2

/-! ### ARBITER_TICK -/

/-- Region of the highest power, the lowest-numbered among equals. -/
def highestPower (s : State) (rs : List Nat) : Option Nat :=
  let p (r : Nat) : Nat := meanOf (fun w => w.regions.getD r 0) (last10ms s)
  rs.foldl (fun b r => match b with
    | some k => if p k < p r then some r else b
    | none => some r) none

/-- Sustained power. -/
def sustainedRule (s : State) : State :=
  if meanAbove Watts.total (last10ms s) s.pwr.cap then
    match highestPower s (aboveLowest s) with
    | some r => (powerDown s r).updPwr fun p => { p with sustained := bump16 p.sustained 1 }
    | none => s
  else s

/-- Regions that only the power rules hold down: the one at the lowest clock, the lowest-numbered among equals. -/
def stepUpRegion (s : State) : Option Nat :=
  let h (r : Nat) : Nat := fget 0 s.pwr.pwrHold r
  let rs := (List.range 4).filter fun r => liveRegion s r && decide (fget 0 s.pwr.heatHold r < h r)
  rs.foldl (fun b r => match b with
    | some k => if h k < h r then some r else b
    | none => some r) none

/-- Power recovery; a sample under the brake or the trip steps nothing up. -/
def recoveryRule (s : State) : State :=
  let good := s.pwr.calm && !s.pwr.samples.isEmpty
    && meanBelow Watts.total (last10ms s) (s.pwr.cap - 150)
  let n := if good then min 10 (s.pwr.lowTicks + 1) else 0
  let s1 := s.updPwr fun p => { p with lowTicks := n, calm := true }
  if n = 10 ∧ ¬s.pwr.brake ∧ ¬s.pwr.trip then
    match stepUpRegion s1 with
    | some r => s1.updPwr fun p => { p with pwrHold := fset 0 p.pwrHold r (fget 0 p.pwrHold r - 1) }
    | none => s1
  else s1

/-- Is a region or one of its stacks at or above a temperature? -/
def regionHeat (s : State) (r n : Nat) : Bool := decide (n ≤ max (fget 0 s.pwr.temps r) (fget 0 s.pwr.stackMax r))

/-- Region heat and heat recovery; a release steps up at most one step in a tick. -/
def heatRule (s : State) (r : Nat) : State :=
  if regionHeat s r 95 then
    let s1 := s.updPwr fun p => { p with coolTicks := fset 0 p.coolTicks r 0 }
    if liveRegion s r ∧ requiredStep s r < 2 then
      (heatDown s1 r).updPwr fun p => { p with thermal := bump16 p.thermal 1 }
    else s1
  else
    let n := if regionHeat s r 90 then 0 else min 10 (fget 0 s.pwr.coolTicks r + 1)
    s.updPwr fun p =>
      { p with coolTicks := fset 0 p.coolTicks r n,
               heatHold := if n = 10 then fset 0 p.heatHold r (fget 0 p.heatHold r - 1) else p.heatHold }

/-- ARBITER_TICK: the 10 ms tick. -/
def arbiterTick (s : State) : State :=
  orderSteps ((List.range 4).foldl heatRule (recoveryRule (sustainedRule s)))

/-! ### POWER_BRAKE (R428) -/

/-- The brake holds every region at 470 MHz; after it the power rules hold them until they recover. -/
def brakeAssert (s : State) : State :=
  if s.pwr.brake then s
  else orderSteps (s.updPwr fun p =>
    { p with brake := true, brakes := bump16 p.brakes 1, pwrHold := fsets 0 p.pwrHold 0 [2, 2, 2, 2], lowTicks := 0 })

def brakeRelease (s : State) : State := orderSteps (s.updPwr fun p => { p with brake := false })

/-! ### Registers of the arbiter (Table 14-10) -/

def pwrStatus (s : State) : Nat := s.pwr.cap + 2 ^ 18 * b2n s.pwr.brake + 2 ^ 19 * b2n s.pwr.trip
def pwrSample (s : State) : Nat := p100 s % 65536 + 2 ^ 16 * (p10 s % 65536)
def pwrConsumer (s : State) : Nat :=
  let m (f : Watts → Nat) : Nat := meanOf f (last10ms s) % 65536
  m (fun w => w.regions.sum) + 2 ^ 16 * m Watts.hbm + 2 ^ 32 * m Watts.links + 2 ^ 48 * m Watts.hub
def thmRegion (s : State) (r : Nat) : Nat :=
  requiredStep s r + 2 ^ 24 * (fget 0 s.pwr.temps r % 256) + 2 ^ 32 * (fget 0 s.pwr.stackMax r % 256)
def thmHub (s : State) : Nat := s.pwr.hubTemp % 256
def thrCount (s : State) : Nat :=
  s.pwr.fast + 2 ^ 16 * s.pwr.sustained + 2 ^ 32 * s.pwr.thermal + 2 ^ 48 * s.pwr.brakes

/-- The arbiter runs while the device is powered and out of reset. -/
def arbiterOn (s : State) : Bool := s.pins.powerGood && !s.pins.heldReset

def execPowerSample (w : Watts) (s : State) : Res := .next (if arbiterOn s then powerSample s w else s)
def execTemperatureSample (t : Temps) (s : State) : Res :=
  .next (if arbiterOn s && decide (t.regions.length = 4) && decide (t.stackC.length = 12) then temperatureSample s t else s)
def execArbiterTick (s : State) : Res := .next (if arbiterOn s then arbiterTick s else s)
def execPowerBrakeAssert (s : State) : Res := .next (brakeAssert s)
def execPowerBrakeRelease (s : State) : Res := .next (brakeRelease s)

end Sys2Proof.Machine
end

