-- ==== Sys2Proof/Machine/Regs.lean ====
section
/-! DEFINITION. Control and hub registers (Tables 1-3, 1-5, 1-8, 1-12, 3-8, 4-7, 5-14, 6-9, 7-10, 8-7, 9-8, 10-11,
11-7, 11-12, 12-10, 13-16, 14-10): what a read returns, and what a write does (R10 to R13). -/

namespace Sys2Proof.Machine

/-! ### Cantle's public registers (Table 14-10) -/

/-- Bytes `8 w` to `8 w + 7` of a digest. -/
def digestWord (d : List Byte) (w : Nat) : Nat := fld d (8 * w) 8

def cntStatus (s : State) : Nat :=
  let c := s.cnt
  c.stage % 256 + 2 ^ 9 * b2n (c.stage != 0 && s.store.ownerHash.isSome) + 2 ^ 10 * (c.bank % 2) + 2 ^ 11 * b2n c.fallback
    + 2 ^ 12 * b2n c.recovery + 2 ^ 13 * b2n c.bootTimeout + 2 ^ 14 * b2n c.ready + 2 ^ 15 * b2n c.exhausted

def cntSvn (s : State) : Nat := ((List.range 5).map fun t => fget 0 s.store.svn t % 64 * 2 ^ (6 * t)).sum

/-! ### Cell window -/

def arrCode : ArrState → Nat
  | .idle => 0
  | .firstLoad => 1
  | .streaming => 2
  | .holding => 3
  | .emptying => 4
  | .saving => 5
  | .restoring => 6
  | .stopping => 7

def ctxCode : CtxState → Nat
  | .free => 0
  | .ready => 1
  | .await => 3
  | .dwait => 3
  | .bar => 4
  | .stopped => 5
  | .ended => 6

/-- A mask of the contexts of a cell that satisfy `p`. -/
def ctxMask (c : Cell) (p : Ctx → Bool) : Nat := ((List.range 16).map fun k => b2n (p (fget {} c.ctxs k)) * 2 ^ k).sum

def waits (x : Ctx) : Bool := x.st == .await || x.st == .dwait || x.st == .bar

/-- CELL_ARR_STATUS.STATE: the array stops for an abort, or holds at a tile boundary for a clock step; else what it
does. -/
def arrState (s : State) (n : Nat) : ArrState :=
  let a := (s.cell n).arr
  let g := s.region (n / 40)
  match a.cur with
  | none => a.st
  | some p =>
    if a.abortReq.contains p.op then .stopping
    else if (a.st == .firstLoad || a.st == .streaming) && (g.clkTarget.isSome || g.clkSwitching)
        && atBoundary (s.cell n) p then .holding
    else a.st

/-- Does an operation with something in the cell stop after an abort or a fault? -/
def cellAborts (s : State) (n : Nat) : Bool := s.ops.any fun e => e.phase == .aborting && usesCell s n { e with phase := .running }

def vecState (s : State) (n : Nat) : Nat :=
  let c := s.cell n
  let live (p : Ctx → Bool) : Bool := c.ctxs.any fun x => x.2.op.isSome && p x.2
  if (live fun _ => true) && cellAborts s n then 5
  else if live fun x => x.st == .stopped then
    -- everything but the images is saved: they are being written
    (if s.ops.any fun e => e.phase == .preempting && e.cells.contains n && quietUnits s e then 3 else 2)
  else if s.ops.any fun e => e.opcode == opKERNEL && e.phase == .held && e.started && e.resumed && e.released
      && e.cells.contains n && ctxsFree s e then 4
  else if live fun _ => true then 1
  else 0

def drnState (s : State) (n : Nat) : Nat :=
  let c := s.cell n
  match c.arr.bufs with
  | [] => 0
  | b :: _ =>
    if cellAborts s n then 4
    else if c.arr.bufs.any fun b => b.replay then 3
    else if wholeTile c b.prod.dd && !b.swept && unitReady c { b with swept := true } 0 then 2 else 1

/-- CELL_DRN_STATUS.BUF_BUSY. -/
def bufBusy (a : Arr) : Nat := a.bufs.foldl (fun m b => m ||| 2 ^ b.slot) 0

/-- Idle, running, stopping (Table 7-10). -/
def dmaState (d : Dma) : Nat := if d.stopping then 2 else if d.items.isEmpty then 0 else 1

/-- The 64-bit counters of the cell window. -/
def cellCounters : List Nat :=
  [0x1008, 0x1010, 0x1018, 0x1020, 0x1108, 0x1110, 0x1118, 0x1120, 0x1128, 0x1208, 0x1210, 0x1218, 0x1220, 0x1228, 0x1400,
   0x1408, 0x1410, 0x1418, 0x1420, 0x1608, 0x1610, 0x1700, 0x1708, 0x1710, 0x1718, 0x1800, 0x1808, 0x1810, 0x1900, 0x1910,
   0x1918]

def isDeferred (p : Option Product) : Bool := match p with
  | some p => p.deferred
  | none => false

/-- Descriptors of a queue, at most four: a product that returns from a save waits as a context. -/
def queued (l : List Product) : Nat := min 4 (l.filter fun p => p.saved.isNone).length

def cellReg (s : State) (n o : Nat) : Option Nat :=
  let c := s.cell n
  let a := c.arr
  let g := s.region (n / 40)
  if cellCounters.contains o then some (fget 0 c.ctr o).toNat
  else if o = 0x1000 then
    some (arrCode (arrState s n) + 16 * b2n (fencedCell s n) + 32 * queued a.queue + 2 ^ 10 * g.clkStep)
  else if o = 0x1028 then some (a.saves.toNat + 2 ^ 32 * a.resumes.toNat)
  else if o = 0x1100 then some (drnState s n + 64 * bufBusy a)
  else if o = 0x1200 then
    some (vecState s n + 2 ^ 16 * ctxMask c (fun x => x.op.isSome && waits x) + 2 ^ 32 * ctxMask c fun x => x.op.isSome)
  else if 0x1240 ≤ o ∧ o < 0x1290 then some (fget 0 c.ctr o).toNat
  else if 0x1300 ≤ o ∧ o < 0x1380 then
    let x := fget {} c.ctxs ((o - 0x1300) / 8)
    some (ctxCode x.st + 2 ^ 8 * (x.pc % 2 ^ 32))
  else if 0x1480 ≤ o ∧ o < 0x1500 then some (fget {} c.curves ((o - 0x1480) / 8)).word
  else if o = 0x1600 then some (dmaState c.dma + 16 * c.dma.running.length + 2 ^ 8 * c.dma.queue.length)
  else if o = 0x1618 then some (c.dma.done.toNat + 2 ^ 32 * c.dma.overlap.toNat)
  else if o = 0x1908 then
    some (8 * b2n (isDeferred a.cur) + 16 * b2n a.yielded.isSome + 32 * queued a.dqueue)
  else if 0x2000 ≤ o ∧ o < 0x2040 then
    let n := (o - 0x2000) / 4
    some ((fget 0 c.fmt n).toNat + 2 ^ 32 * (fget 0 c.fmt (n + 1)).toNat)
  else none

/-! ### Block, region, HBM, link, Pleacher, Hedgerow and DMA windows -/

def blkCounters : List Nat := [0x400, 0x408, 0x420, 0x428, 0x430, 0x508, 0x510, 0x518, 0x520, 0x600, 0x608, 0x610]

def spsState (j : SpsJob) : Nat :=
  if j.aborting then 5 else if j.stopping then 4 else if !j.planned then 1
  else if j.units.all fun u => u.done then 3 else 2

def blkReg (s : State) (b o : Nat) : Option Nat :=
  let k := s.block b
  if blkCounters.contains o then some (fget 0 k.ctr o).toNat
  else if o = 0x500 then
    some (match k.job with
      | some j => spsState j + 2 ^ 24 * j.cells + 2 ^ 32 * (j.units.filter fun u => !u.done).length
      | none => 0)
  else if o = 0x618 then some (k.resBase + 2 ^ 40 * k.resLayers)
  else none

/-- Frozen pages of a region (R293). -/
def frozenPages (s : State) (r : Nat) : Nat :=
  (s.frozen.filter fun p => decide (p.1 * 65536 / regionSpan = r)).length

def rgnReg (s : State) (r o : Nat) : Option Nat :=
  let g := s.region r
  if o = 0x10 then some g.cycle.toNat
  else if o = 0x18 then some g.latch.toNat
  else if o = 0x20 then some g.seq.toNat
  else if o = 0x100 then some g.fence.toNat
  else if o = 0x200 then some (g.clkStep + 2 ^ 32 * g.clkSteps.toNat)
  else if o = 0x280 then some (frozenPages s r)
  else if o = 0x288 then some g.frzDropped.toNat
  else if o = 0x300 then
    some (b2n g.tlm.writing + 2 * b2n g.tlm.bank + 2 ^ 8 * g.tlm.ring + 2 ^ 32 * g.tlm.records.toNat)
  else if o = 0x308 then some g.tlm.base
  else if 0x40000 ≤ o ∧ o < 0x80000 then
    let n := (o - 0x40000) / 4
    some (routeWord s r n + 2 ^ 32 * routeWord s r (n + 1))
  else none

def hbmReg (s : State) (h o : Nat) : Option Nat :=
  let k := s.hbm h
  if o = 0 then some (k.st + 16 * b2n k.trainFail + 2 ^ 8 * (k.temp % 256))
  else if 8 ≤ o ∧ o < 0x38 then some (fget 0 k.ctr o).toNat
  else if o = 0x38 then some k.poisonLast
  else none

def lnkReg (s : State) (l o : Nat) : Option Nat :=
  let k := s.link l
  let vc (v : Nat) : Nat := fget 0 k.resv (2 * v) + fget 0 k.resv (2 * v + 1)
  if o = 0 then
    some (k.st + 16 * k.mode + 2 ^ 32 * (k.rtt % 4096) + 2 ^ 45 * (k.peerLink % 8) + 2 ^ 48 * (k.peerId % 65536))
  else if o = 0x38 then
    some (vc 0 + 2 ^ 8 * vc 1 + 2 ^ 16 * vc 2 + 2 ^ 24 * vc 3 + 2 ^ 32 * k.shared)
  else if o = 0x40 then some k.bridleMax
  else if 8 ≤ o ∧ o ≤ 0x48 then some (fget 0 k.ctr o).toNat
  else if 0x10000 ≤ o ∧ o < 0x14000 then some (fld (k.tunnel ((o - 0x10000) / 64)).entry ((o - 0x10000) % 64) 8)
  else none

def plcReg (s : State) (r o : Nat) : Option Nat :=
  let g := s.region r
  let act := (g.colls.filter (liveColl s)).length
  if o = 0 then
    some ((if s.ops.any fun e => e.group == 4 && e.region == r && e.phase == .aborting then 2 else if 0 < act then 1 else 0)
      + 2 ^ 32 * act)
  else if 8 ≤ o ∧ o ≤ 0x20 then some (fget 0 g.ctr (0x40000 + o)).toNat
  else none

def hrwState (s : State) : Nat :=
  let h := s.hrw
  let ship := !h.shipping.isEmpty
  if !h.configured then 0
  else if !h.restoring.isEmpty || s.ops.any fun e => e.opcode == 0x504 && e.phase == .running then 5
  else if ship && h.flashing.isSome then 4 else if h.flashing.isSome then 3 else if ship then 2 else 1

def hrwReg (s : State) (r o : Nat) : Option Nat :=
  let h := s.hrw
  if o = 0 then
    some (hrwState s + 16 * b2n h.paired + 32 * b2n h.correlated + 64 * b2n h.undecided + 128 * b2n h.recoverWait)
  else if o = 0x08 then some h.current
  else if o = 0x10 then some (h.committed % 2 ^ 32 + 2 ^ 32 * (h.durable % 2 ^ 32))
  else if o = 0x18 then
    some (b2n h.hasWard + 2 ^ 16 * (h.keeperDomain % 65536) + 2 ^ 32 * (h.ward % 65536) + 2 ^ 48 * (h.keeper % 65536))
  else if o = 0x20 then some ((fget 0 h.copies r).toNat + 2 ^ 32 * (fget 0 h.shipPoison r).toNat)
  else if o = 0x28 then some (fget 0 h.shipBytes r).toNat
  else if o = 0x30 then
    some (b2n h.flashing.isSome + 2 * b2n (h.areas.any fun a => a.pinned) + 2 ^ 8 * (h.storeSkipped % 256)
      + 2 ^ 16 * (h.flashErrors % 65536) + 2 ^ 32 * (h.lastFlash % 2 ^ 32))
  else if o = 0x38 then some h.holdCycles.toNat
  else if 0x10000 ≤ o ∧ o < 0x10800 ∧ (o - 0x10000) % 32 < 24 then
    let e := (entriesOf s r)[(o - 0x10000) / 32]?
    some (match e, (o - 0x10000) % 32 with
      | some e, 0 => 2 ^ 63 + e.baseA
      | some e, 8 => e.baseB
      | some e, _ => e.length / 65536
      | none, _ => 0)
  else none

def dmaReg (s : State) (r o : Nat) : Option Nat :=
  let g := s.region r
  if o = 0 then some (2 ^ min 4 g.dma.running.length - 1 + 2 ^ 8 * g.dma.queue.length)
  else if o = 0x08 ∨ o = 0x10 then some (fget 0 g.ctr (0x60000 + o)).toNat
  else none

/-! ### Hub windows -/

def hubFabric (s : State) : Nat := s.hub.deviceId % 65536 + 2 ^ 16 * (s.hub.position % 4) + 2 ^ 18 * b2n s.hub.podMode
def hubDomain (s : State) : Nat := match s.hub.domain with
  | some d => d % 65536 + 2 ^ 16
  | none => 0

def hubReg (s : State) (o : Nat) : Option Nat :=
  let h := s.hub
  if o = 0x10 then some h.cycle.toNat
  else if o = 0x18 then some h.latch.toNat
  else if o = 0x20 then some (2 * b2n h.busy + 4 * h.seq.toNat)
  else if o = 0x100 then some h.step.toNat
  else if o = 0x200 then some (hubFabric s)
  else if o = 0x208 then some (hubDomain s)
  else if o = 0x300 then some (pwrStatus s)
  else if o = 0x308 then some (pwrSample s)
  else if o = 0x310 then some (pwrConsumer s)
  else if 0x340 ≤ o ∧ o < 0x360 then some (thmRegion s ((o - 0x340) / 8))
  else if o = 0x360 then some (thmHub s)
  else if o = 0x368 then some (thrCount s)
  else if 0x1000 ≤ o ∧ o < 0x1400 then some (fget 0 h.proxy ((o - 0x1000) / 8)).toNat
  else none

def fullMask (s : State) (k : Nat) : Nat := ((List.range 64).map fun i => b2n (s.slot (64 * k + i)).full * 2 ^ i).sum

def ringReg (g : Ring) (o : Nat) : Option Nat :=
  if o = 0 then some (g.base + 2 ^ 48 * g.notify + 2 ^ 58 * g.log2 + 2 ^ 63 * b2n g.valid)
  else if o = 8 then some g.headAddr
  else if o = 16 then some g.tail.toNat
  else none

def mbxReg (s : State) (o : Nat) : Option Nat :=
  let m := s.mbx
  if o = 0 then
    some (b2n m.locked + 2 * b2n s.hub.podMode + 4 * b2n m.quiesced
      + 2 ^ 16 * ((List.range 256).filter fun c => (s.slot c).full).length)
  else if o = 8 then some 0
  else if o = 0x10 then some ((List.range 4).map fun r => flightCount s r * 2 ^ (16 * r)).sum
  else if o = 0x18 then
    some (waitingCount s + 2 ^ 16 * (s.ops.filter fun e => e.phase == .preempted).length)
  else if o = 0x38 then some m.pickupMax.toNat
  else if 0x20 ≤ o ∧ o ≤ 0x48 then some (fget 0 m.ctr o).toNat
  else if 0x100 ≤ o ∧ o < 0x120 then some (fullMask s ((o - 0x100) / 8))
  else if 0x120 ≤ o ∧ o < 0x140 then some (fget 0 m.emptied ((o - 0x120) / 8)).toNat
  else if o = 0x140 then some m.ringpend.toNat
  else if 0x1000 ≤ o ∧ o < 0x1800 then some (fget 0 m.bind ((o - 0x1000) / 8)).toNat
  else if 0x1800 ≤ o ∧ o < 0x2000 then some (fget 0 m.notice ((o - 0x1800) / 8)).toNat
  else if 0x2000 ≤ o ∧ o < 0x2800 then ringReg (s.ring ((o - 0x2000) / 32)) ((o - 0x2000) % 32)
  else none

def gthReg (s : State) (o : Nat) : Option Nat :=
  let g := s.gth
  if o = 0 then some (b2n g.busy + 2 * b2n g.image.isSome + 4 * b2n g.next.isSome + 2 ^ 32 * g.gen.toNat)
  else if o = 8 then some g.stepOut.toNat
  else if o = 0x10 then some g.blkOffset
  else if o = 0x18 then some g.hbmAddr
  else if 0x40 ≤ o ∧ o < 0x80 then some (fget 0 g.out ((o - 0x40) / 8)).toNat
  else none

/-- Words of the identity fingerprint and of the boot measurements are digests; `fpr` is the fingerprint, which reads 0
until start-up has begun, as OWNED does (R14). -/
def cntReg (s : State) (fpr : List Byte) (o : Nat) : Option Nat :=
  if o = 0 then some (cntStatus s)
  else if o = 8 then some s.cnt.leaf
  else if o = 0x10 then some (cntSvn s)
  else if 0x100 ≤ o ∧ o < 0x1A0 then some (digestWord (fget [] s.cnt.measure ((o - 0x100) / 32)) ((o - 0x100) % 32 / 8))
  else if 0x200 ≤ o ∧ o < 0x220 then some (if s.cnt.stage = 0 then 0 else digestWord fpr ((o - 0x200) / 8))
  else none

def mgtReg (s : State) (o : Nat) : Option Nat :=
  if o = 0 then some (b2n s.mgt.linkUp + 16 * s.mgt.update)
  else if o = 8 then some s.mgt.rx.toNat
  else if o = 0x10 then some s.mgt.refused.toNat
  else none

/-- The 64 bits at an address that is a multiple of 8; two neighbours where the registers have 32 bits; none where no
register of the spec's tables lies (R22, R24). -/
def readReg64 (s : State) (fpr : List Byte) (a : Nat) : Option Nat :=
  let o := a % 0x100000
  if a % 8 ≠ 0 then none
  else if 0x300000000000 ≤ a ∧ a < 0x300100000000 then
    let w := (a - 0x300000000000) / 0x100000
    if w < 0xA0 then cellReg s w o
    else if 0x100 ≤ w ∧ w < 0x114 then blkReg s (w - 0x100) o
    else if 0x200 ≤ w ∧ w < 0x204 then rgnReg s (w - 0x200) o
    else if 0x210 ≤ w ∧ w < 0x21C then hbmReg s (w - 0x210) o
    else if 0x220 ≤ w ∧ w < 0x238 then lnkReg s (w - 0x220) o
    else if 0x240 ≤ w ∧ w < 0x244 then plcReg s (w - 0x240) o
    else if 0x250 ≤ w ∧ w < 0x254 then hrwReg s (w - 0x250) o
    else if 0x260 ≤ w ∧ w < 0x264 then dmaReg s (w - 0x260) o
    else none
  else if 0x3F0000000000 ≤ a ∧ a < 0x3F0000500000 then
    match (a - 0x3F0000000000) / 0x100000 with
    | 0 => hubReg s o
    | 1 => mbxReg s o
    | 2 => gthReg s o
    | 3 => cntReg s fpr o
    | _ => mgtReg s o
  else none

/-- CELL_FMT_DESC and RGN_ROUTE, the registers of 32 bits (Tables 2-4, 11-7). -/
def reg32 (a : Nat) : Bool :=
  let w := (a - 0x300000000000) / 0x100000
  let o := a % 0x100000
  decide (0x300000000000 ≤ a) && (decide (w < 0xA0) && decide (0x2000 ≤ o) && decide (o < 0x2040)
    || decide (0x200 ≤ w) && decide (w < 0x204) && decide (0x40000 ≤ o) && decide (o < 0x80000))

/-- The register at an address, with its upper neighbour where it has 32 bits and the address is a multiple of 8. -/
def readReg (s : State) (fpr : List Byte) (a : Nat) : Option Nat :=
  if a % 8 = 4 && reg32 a then (readReg64 s fpr (a - 4)).map fun v => v / 2 ^ 32 else readReg64 s fpr a

/-! ### Writes -/

/-- Replace bits [hi:lo] of a register image. -/
def putBits (old new hi lo : Nat) : Nat := old - natBits old hi lo * 2 ^ lo + natBits new hi lo * 2 ^ lo

/-- A field keeps its value when what is written is reserved (R13). -/
def putField (old new hi lo : Nat) (ok : Nat → Bool) : Nat := if ok (natBits new hi lo) then putBits old new hi lo else old

/-- A receiver identity that the device has (R370). -/
def receiverOk (i : Nat) : Bool := localId i

/-- MBX_BIND: its RWL fields; a reserved identity leaves its field as it is. -/
def bindWrite (old v : Nat) : Nat :=
  let w := putBits (putBits old v 63 63) v 34 32
  putField (putField w v 15 8 receiverOk) v 7 0 idOk

/-- HUB_PROXY_MAP: its RWL fields. -/
def proxyWrite (old v : Nat) : Nat := putBits (putBits (putBits (putBits old v 63 63) v 43 40) v 38 32) v 31 0

/-- A write to the mailbox window outside the slots. -/
def mbxWrite (s : State) (o v : Nat) : State :=
  let w := BitVec.ofNat 64 v
  if 0x120 ≤ o ∧ o < 0x140 then
    s.updMbx fun m => { m with emptied := fupd 0 m.emptied ((o - 0x120) / 8) fun x => x &&& ~~~w }
  else if o = 0x140 then s.updMbx fun m => { m with ringpend := m.ringpend &&& ~~~w }
  else if s.mbx.locked then s
  else if 0x1000 ≤ o ∧ o < 0x1800 then
    s.updMbx fun m => { m with bind := fupd 0 m.bind ((o - 0x1000) / 8) fun x => BitVec.ofNat 64 (bindWrite x.toNat v) }
  else if 0x1800 ≤ o ∧ o < 0x2000 then
    s.updMbx fun m => { m with notice := fset 0 m.notice ((o - 0x1800) / 8) (BitVec.ofNat 64 (v % 2 ^ 48)) }
  else s

/-- A write to the hub general window; the RWL fields are governed by the binding table's lock. -/
def hubWrite (s : State) (o v : Nat) : State :=
  if s.mbx.locked then s
  else if o = 0x200 then s.updHub fun h => { h with deviceId := v % 65536 }
  else if 0x1000 ≤ o ∧ o < 0x1400 then
    s.updHub fun h =>
      { h with proxy := fupd 0 h.proxy ((o - 0x1000) / 8) fun x => BitVec.ofNat 64 (proxyWrite x.toNat v) }
  else s

end Sys2Proof.Machine
end

