-- ==== Sys2Proof/Machine/SysOps.lean ====
section
/-! DEFINITION. Register writes, the binding lock (R370) with what it sets going (R273, R410, R419), and the
configuration operations of Table 13-12. -/

namespace Sys2Proof.Machine

/-- The identity fingerprint (R413). -/
def fingerprint : List Byte := sha256 Config.identKey

def State.reg (s : State) (a : Nat) : Option Nat := readReg s fingerprint a

/-! ### The lock -/

/-- Image of type `t` of the bank that was booted. -/
def bootedImage (s : State) (t : Nat) : List Byte := fget [] s.store.images (5 * s.cnt.bank + t)

/-- Was an image of the type booted? -/
def wasBooted (s : State) (t : Nat) : Bool := decide (fget [] s.cnt.measure t ≠ [])

/-- Fuse minima rise to the SVN of each image booted that has COMMIT_SVN set (R410). -/
def raiseSvn (s : State) : FMap Nat :=
  (List.range 5).foldl
    (fun m t =>
      let img := bootedImage s t
      if wasBooted s t && natBit (fld img 2 1) 0 then fset 0 m t (max (fget 0 m t) (fld img 1 1)) else m) s.store.svn

/-- The lock is reached: the registers that it governs no longer change; Cantle commits the bank and records the
place of the device; Rolac opens step 1. -/
def lockDevice (s : State) : State :=
  if s.mbx.locked then s
  else
    let s1 := s.updMbx fun m => { m with locked := true }
    let s2 : State := { s1 with
      cnt := { s1.cnt with stage := if s1.cnt.stage = 9 then 0x10 else s1.cnt.stage, relocated := false },
      store := { s1.store with svn := raiseSvn s1, active := s1.cnt.bank, nextBank := none, serial := s1.cnt.serial,
                               lastPosition := some s1.hub.position } }
    if s2.hub.step = 0 then openStep s2 1 0 false else s2

/-- BINDING_LOCK; a master that came over a link may not write the window (R29). -/
def bindingLock (s : State) (master : Nat) : State :=
  if localId master then (lockDevice s).emit (.bus master true []) else s.emit (.bus master false [])

/-! ### REGISTER_WRITE -/

/-- The effect of a write to a register that exists. -/
def regEffect (s : State) (a v : Nat) : State :=
  let o := a % 0x100000
  if a = 0x3F0000100008 then (if natBit v 0 then lockDevice s else s)
  else if a = 0x3F0000000020 then (if natBit v 0 && !s.hub.busy then strobe s else s)
  else if 0x3F0000000000 ≤ a ∧ a < 0x3F0000100000 then hubWrite s o v
  else if 0x3F0000100000 ≤ a ∧ a < 0x3F0000200000 then mbxWrite s o v
  else s

/-- REGISTER_WRITE: by a local master to a register of the tables; a write into the slots is a slot write of the
wrong size (R371). -/
def registerWrite (s : State) (master a v : Nat) : State :=
  if !localId master then s.emit (.bus master false [])
  else if inSlots a then slotWrite s { master := master, addr := a, data := leBytes 8 v }
  else if (s.reg a).isNone then s.emit (.bus master false [])
  else (regEffect s a (v % 2 ^ 64)).emit (.bus master true [])

/-! ### COUNTER_COPY -/

/-- Address and count of each entry. -/
def copyEntries (d : List Byte) : List (Nat × Nat) :=
  (List.range (fld d 0x18 1)).map fun i => (fldBits d (0x20 + 8 * i) 8 47 0, fldBits d (0x20 + 8 * i) 8 63 56)

def copyRegs (d : List Byte) : List Nat := (copyEntries d).flatMap fun e => (List.range e.2).map fun i => e.1 + 8 * i

/-- COUNTER_COPY: every register is read once, in order. -/
def counterCopy (s : State) (id : OpId) : State :=
  match admittedOp s id 0x601 with
  | none => s
  | some e =>
    let d := e.desc
    let n := fld d 0x18 1
    let dest := fld d 0x10 8
    let form := decide (1 ≤ n) && decide (n ≤ 8) && zeros d 0x19 0x20 && zeros d (0x20 + 8 * n) 0x60
      && ((copyEntries d).all fun x => decide (1 ≤ x.2) && decide (x.2 ≤ 64) && decide (x.1 % 8 = 0))
      && ((List.range n).all fun i => fldBits d (0x20 + 8 * i) 8 55 48 == 0)
    let rs := copyRegs d
    let st := rangeStatus s e.resident dest (8 * rs.length)
    if st = stFENCED then s.finishOp id stFENCED
    else if !form then s.finishOp id stBADDESC
    else if st ≠ stOK ∨ rs.any fun a => (s.reg a).isNone then s.finishOp id stBOUNDS
    else (opWrite s id e.cls false dest (rs.flatMap fun a => leBytes 8 ((s.reg a).getD 0))).finishOp id stOK

/-! ### CYCLE_SAMPLE (R40) -/

/-- The 48 bytes of a sample. -/
def sampleBytes (s : State) : List Byte :=
  leBytes 8 s.hub.latch.toNat ++ (List.range 4).flatMap (fun r => leBytes 8 (s.region r).latch.toNat)
    ++ leBytes 8 s.hub.seq.toNat

/-- CYCLE_SAMPLE: a strobe as soon as no other sample runs; the latches are written once BUSY clears. -/
def cycleSample (s : State) (id : OpId) : State :=
  match s.op? id with
  | none => s
  | some e =>
    let dest := fld e.desc 0x10 8
    let go (s : State) : State :=
      if s.hub.busy then s.updOp id fun e => { e with phase := .held }
      else (strobe s).updOp id fun e => { e with phase := .running, started := true }
    if e.opcode ≠ 0x602 then s
    else match e.phase with
      | .admitted =>
        let st := rangeStatus s e.resident dest 48
        if st = stFENCED then s.finishOp id stFENCED
        else if !zeros e.desc 0x18 0x20 then s.finishOp id stBADDESC
        else if st ≠ stOK then s.finishOp id st
        else go s
      | .held => go s
      | .running =>
        if s.hub.busy then s
        else if fencedRange s dest 48 then s.finishOp id stFENCED
        else (opWrite s id e.cls false dest (sampleBytes s)).finishOp id stOK
      | _ => s

/-! ### PEER_LOAD (R329) -/

/-- PEER_LOAD: the peer-address table. -/
def peerLoad (s : State) (id : OpId) : State :=
  match admittedOp s id 0x803 with
  | none => s
  | some e =>
    let a := fld e.desc 0x10 8
    let n := fld e.desc 0x18 4
    let st := rangeStatus s false a (24 * n)
    if st = stFENCED then s.finishOp id stFENCED
    else if n = 0 ∨ 65536 < n ∨ !zeros e.desc 0x1C 0x20 then s.finishOp id stBADDESC
    else if st ≠ stOK then s.finishOp id st
    else if badRange s a (24 * n) then refuseLoad s e stPOISON
    else
      let s := countReads s a (24 * n)
      let rows := (List.range n).map fun i => rdBytes s (a + 24 * i) 24
      if !(rows.all fun r => zeros r 2 8) then s.finishOp id stBADDESC
      else (s.updHub fun h => { h with peers := rows.foldl (fun m r => fset [] m (fld r 0 2) (r.drop 8)) [] }).finishOp id stOK

/-! ### ROUTE_LOAD (R332, R334) -/

/-- Is a port code one that a region can hold: not reserved, and a tunnel port only on an Ethernet-mode link? -/
def portOk (s : State) (r p : Nat) : Bool :=
  decide (p ≤ 7) || p == 15 || ((p == 9 || p == 10) && (s.link (6 * r + p - 5)).mode == 1)

/-- The bits of an entry that are not reserved. -/
def routeBits (w : Nat) : Nat := natBits w 31 24 * 2 ^ 24 + natBits w 15 13 * 2 ^ 13 + natBits w 7 0

/-- The table of a region after a load of `ws` from entry `first`. -/
def routesAfter (s : State) (r first : Nat) (ws : List Nat) : FMap Nat := fsets 0xFF (s.region r).routes first ws

/-- Valid entries of a table. -/
def validRoutes (m : FMap Nat) : Nat := (m.filter fun p => natBit p.2 15).length

def routeLoad (s : State) (id : OpId) : State :=
  match admittedOp s id 0x804 with
  | none => s
  | some e =>
    let d := e.desc
    let a := fld d 0x10 8
    let first := fld d 0x18 4
    let n := fld d 0x1C 4
    let rs := bitsOf 4 (fld d 0x20 1)
    let st := rangeStatus s false a (4 * n)
    let form := decide (first < 65536) && decide (1 ≤ n) && decide (first + n ≤ 65536) && decide (fld d 0x20 1 < 16)
      && zeros d 0x21 0x30
    if st = stFENCED ∨ rs.any (fencedRegion s) then s.finishOp id stFENCED
    else if !form then s.finishOp id stBADDESC
    else if st ≠ stOK then s.finishOp id st
    else if badRange s a (4 * n) then refuseLoad s e stPOISON
    else
      let s := countReads s a (4 * n)
      let ws := (List.range n).map fun i => routeBits (rdNat s (a + 4 * i) 4)
      let ports := rs.all fun r => ws.all fun w => portOk s r (natBits w 3 0) && portOk s r (natBits w 7 4)
      let few := s.hub.podMode || rs.all fun r => decide (validRoutes (routesAfter s r first ws) ≤ 15)
      if !ports || !few then s.finishOp id stBADDESC
      else (rs.foldl (fun s r => s.updRegion r fun g => { g with routes := routesAfter s r first ws }) s).finishOp id stOK

/-! ### ETH_CONFIG (R337, R338) -/

/-- Is a tunnel entry in form: VALID 0 or 1, and zero where R338 names nothing? -/
def tunnelEntryOk (b : List Byte) : Bool := zeros b 24 26 && decide (fld b 28 1 ≤ 1) && zeros b 29 64

def ethConfig (s : State) (id : OpId) : State :=
  match admittedOp s id 0x805 with
  | none => s
  | some e =>
    let d := e.desc
    let port := fld d 0x10 1
    let l := 6 * e.region + port
    let img := fld d 0x30 8
    let n := if img = 0 then 0 else fld d 0x11 1 + 1
    let retry := fld d 0x38 8
    let sts := [if img = 0 then stOK else rangeStatus s false img (64 * n), rangeStatus s false retry 0x10000000,
      rangeStatus s false (fld d 0x40 8) 8, rangeStatus s false (fld d 0x48 8) 8]
    let hbm := decide (retry + 0x10000000 ≤ hbmTop) && decide (fld d 0x40 8 < hbmTop) && decide (fld d 0x48 8 < hbmTop)
    let form := (port == 4 || port == 5) && (s.link l).mode == 1 && (decide (img ≠ 0) || fld d 0x11 1 == 0)
      && !isGroup ((d.drop 0x14).take 6) && zeros d 0x1A 0x20 && decide (retry % 4096 = 0)
    if sts.contains stFENCED || fencedLink s l then s.finishOp id stFENCED
    else if !form then s.finishOp id stBADDESC
    else if sts.contains stBOUNDS || !hbm then s.finishOp id stBOUNDS
    else if badRange s img (64 * n) then refuseLoad s e stPOISON
    else
      let s := countReads s img (64 * n)
      let rows := (List.range n).map fun i => rdBytes s (img + 64 * i) 64
      if !rows.all tunnelEntryOk then s.finishOp id stBADDESC
      else
        let cut := (s.link l).tunnels.flatMap fun t => (t.2.window.flatMap fun w => w.2) ++ t.2.queue.flatten
        let s1 := s.updLink l fun k =>
          { k with mac := (d.drop 0x14).take 6, ipv6 := (d.drop 0x20).take 16, port := fld d 0x12 2, retryArea := retry,
                   hostRx := fld d 0x40 8, hostTx := fld d 0x48 8,
                   tunnels := fsets {} [] 0 (rows.map fun b => { entry := b }) }
        let s2 := ((s.link l).tunnels.flatMap fun t => t.2.queue.flatten).foldl leaves s1
        ((cut.filterMap TxFlit.op).dedup.foldl lostMessages s2).finishOp id stOK

/-! ### RING_SETUP (R385) -/

/-- Does an operation in flight or preempted write its record to ring `n`? -/
def ringInUse (s : State) (n : Nat) : Bool := s.ops.any fun e => (e.inFlight || e.phase == .preempted) && e.ring == n

/-- A ring is set up: zero in every entry and in the HEAD word, written by `write` (an operation's writes under R262, the
start-up's plainly), and TAIL 0. -/
def setRing (s : State) (write : State → Nat → List Byte → State) (n log2 notify base head : Nat) : State :=
  (write (write s base (List.replicate (64 * 2 ^ log2) 0)) head (leBytes 8 0)).updRing n fun _ => { valid := true, log2 := log2, notify := notify, base := base, headAddr := head }

def ringSetup (s : State) (id : OpId) : State :=
  match admittedOp s id 0x806 with
  | none => s
  | some e =>
    let d := e.desc
    let n := fld d 0x10 1
    let log2 := fld d 0x11 1
    let notify := fld d 0x12 1
    let base := fld d 0x18 8
    let head := fld d 0x20 8
    let bytes := 64 * 2 ^ min 16 log2
    let sts := [rangeStatus s false base bytes, rangeStatus s false head 8]
    let form := decide (1 ≤ n) && decide (n ≤ 63) && decide (6 ≤ log2) && decide (log2 ≤ 16)
      && (notify == 0 || localId notify) && zeros d 0x13 0x18 && zeros d 0x28 0x30 && decide (base % 4096 = 0)
      && decide (head % 8 = 0) && !ringInUse s n
    if sts.contains stFENCED then s.finishOp id stFENCED
    else if !form then s.finishOp id stBADDESC
    else if sts.contains stBOUNDS || !decide (base + bytes ≤ hbmTop) || !decide (head + 8 ≤ hbmTop) then
      s.finishOp id stBOUNDS
    else (setRing s (fun s a b => opWrite s id clsORD false a b) n log2 notify base head).finishOp id stOK

/-! ### IDENTITY_READ -/

/-- Fenced units as IDENTITY_READ reports them (Table 13-3). -/
def fencedUnits (s : State) : Nat :=
  ((List.range 4).map fun r => b2n (fencedRegion s r) * 2 ^ (32 + r)).sum
    + ((List.range 24).map fun l => b2n (fencedLink s l) * 2 ^ (8 + l)).sum
    + ((List.range 20).filter (fencedBlock s)).length

def identityRead (s : State) (id : OpId) : State :=
  match admittedOp s id 0x807 with
  | none => s
  | some _ => (s.updOp id fun e =>
      { e with d0 := BitVec.ofNat 64 (hubFabric s), d1 := BitVec.ofNat 64 (hubDomain s),
               d2 := BitVec.ofNat 64 (fencedUnits s) }).finishOp id stOK

def execBindingLock (master : Nat) (s : State) : Res := .next (bindingLock s master)
def execRegisterWrite (master addr value : Nat) (s : State) : Res := .next (registerWrite s master addr value)
def execCounterCopy (o : OpId) (s : State) : Res := .next (counterCopy s o)
def execCycleSample (o : OpId) (s : State) : Res := .next (cycleSample s o)
def execPeerLoad (o : OpId) (s : State) : Res := .next (peerLoad s o)
def execRouteLoad (o : OpId) (s : State) : Res := .next (routeLoad s o)
def execEthConfig (o : OpId) (s : State) : Res := .next (ethConfig s o)
def execRingSetup (o : OpId) (s : State) : Res := .next (ringSetup s o)
def execIdentityRead (o : OpId) (s : State) : Res := .next (identityRead s o)

end Sys2Proof.Machine
end

