-- ==== Sys2Proof/Machine/Boot.lean ====
section
/-! DEFINITION. Start-up (R401 to R416): reset, image checks, boot firmware, stacks and links, the binding table, and
the board's power events (R433 to R435, R442). -/

namespace Sys2Proof.Machine

def State.updCnt (s : State) (f : Cantle → Cantle) : State := { s with cnt := f s.cnt }
def State.updStore (s : State) (f : Store → Store) : State := { s with store := f s.store }
def State.updPins (s : State) (f : Pins → Pins) : State := { s with pins := f s.pins }

/-! ### Reset -/

/-- What a reset leaves: fuses, Cantle's store and the flash keep their contents, and so do the images that Hedgerow
wrote to its NVMe device (R355), though no pin of one (HRW_FLASH.PINNED resets to 0), and the physical pins; the
strap value of POSITION and the brake's input stay as the board drives them. The commands that wait, what has left
the device, and the model's count of free values are not the device's. -/
def resetState (s : State) : State :=
  { State.reset with
    pending := s.pending, store := s.store, pins := s.pins, out := s.out, fresh := s.fresh,
    hub := { position := s.hub.position },
    hrw := { areas := s.hrw.areas.map fun a => { a with pinned := false } },
    pwr := { brake := s.pwr.brake, trip := s.pins.thermTrip, pwrHold := if s.pwr.brake then fsets 0 [] 0 [2, 2, 2, 2] else [] } }

/-- A RELEASE takes effect (R417). -/
def releaseOwner (c : Store) : Store :=
  if c.releaseNext then { c with releaseNext := false, ownerHash := none, mgtKey := [] } else c

/-- Start-up begins: stage 1, with the bank that an update marked or else the active one (R409, R421). -/
def beginStart (s : State) : State :=
  let s1 := (resetState s).updStore releaseOwner
  { s1 with
    hub := { s1.hub with running := true },
    cnt := { stage := 1, bank := s1.store.nextBank.getD s1.store.active,
             relocated := s1.store.lastPosition.isSome && s1.store.lastPosition != some s1.hub.position } }

/-! ### Rails (Table 15-1, R435) -/

/-- A rail within its tolerance. -/
def railsOk (p : PowerUp) : Bool :=
  decide (11400 ≤ p.vinMv) && decide (p.vinMv ≤ 12600) && decide (3135 ≤ p.v3p3Mv) && decide (p.v3p3Mv ≤ 3465)
    && decide (1710 ≤ p.v1p8Mv) && decide (p.v1p8Mv ≤ 1890)

/-- The limit of a rail: 0 VIN_MAIN, 1 V3P3_AUX, 2 V1P8_IO. -/
def railLimit : Nat → Nat
  | 0 => 10800
  | 1 => 2970
  | _ => 1620

/-- The device stays in reset, with FAULT, until POWER_GOOD is cycled. -/
def holdReset (s : State) : State :=
  (resetState s).updPins fun p => { p with heldReset := true, fault := true, thermTrip := p.thermTrip && p.powerGood }

/-- POWER_GOOD_RISE: the straps are sampled, and start-up begins. -/
def powerGoodRise (s : State) (p : PowerUp) : State :=
  if s.pins.powerGood then s
  else
    let s1 := (s.updPins fun x => { x with powerGood := true, enroll := p.enrollEnable }).updHub fun h =>
      { h with position := p.position % 4 }
    if railsOk p then beginStart s1 else holdReset s1

/-- POWER_GOOD_FALL: reset at once; THERM_TRIP and FAULT are released. -/
def powerGoodFall (s : State) : State := resetState (s.updPins fun _ => {})

def railUndervoltage (s : State) (rail mv : Nat) : State :=
  if s.pins.powerGood && decide (mv < railLimit rail) then holdReset s else s

/-- SYSREF_LOSS: the clock monitors hold every die in reset. -/
def sysrefLoss (s : State) : State := if s.pins.powerGood then holdReset s else s

/-- LINKREF_LOSS: the region's links lose lock (R313). -/
def linkrefLoss (s : State) (r : Nat) : State := ((List.range 6).map (6 * r + ·)).foldl signalLoss s

/-! ### Images (R407, R408) -/

/-- Payload limits of Table 14-2. -/
def payloadLimit : Nat → Nat
  | 0 => 0x80000
  | 1 => 0x400000
  | 2 => 0x800000
  | 3 => 0x1000000
  | _ => 0x100000

def imageBytes (s : State) (b t : Nat) : List Byte := fget [] s.store.images (5 * b + t)
def imagePayload (img : List Byte) : List Byte := (img.drop 4096).take (fld img 4 4)
def imageDigest (img : List Byte) : List Byte := (img.drop 0x10).take 32

/-- Does the key of an image stand for its signer: a Vikaene key slot that is not revoked, or the owner? -/
def signerOk (s : State) (t : Nat) (img : List Byte) : Bool :=
  let h := sha256 ((img.drop 0x800).take 56)
  let k := fld img 3 1
  if t = 4 then k == 0 && s.store.ownerHash == some h
  else decide (k ≤ 3) && decide (h = Config.vikaeneHash k) && !fget false s.store.revoked k

/-- Does the image of type `t` in bank `b` verify? -/
def verifyImage (s : State) (b t : Nat) : Bool :=
  let img := imageBytes s b t
  let n := fld img 4 4
  fld img 0 1 == t && decide (fld img 1 1 < 64) && decide (n ≤ payloadLimit t) && decide (4096 + n ≤ img.length)
    && signerOk s t img && decide (fget 0 s.store.svn t ≤ fld img 1 1)
    && decide (sha256 (imagePayload img) = imageDigest img)
    && lmsVerify ((img.drop 0x800).take 56) (img.take 0x100) ((img.drop 0x100).take 1772)

/-- Links whose Ethernet-mode bit may be 1. -/
def ethernetLinks : List Nat := [4, 5, 10, 11, 16, 17, 22, 23]

/-- The payload of a boot image (Table 14-11, R412). -/
def bootPayloadOk (b : List Byte) : Bool :=
  let modes := fld b 8 4
  let ring := fld b 0x10 8
  let head := fld b 0x18 8
  let log2 := fld b 0x20 1
  let addr := natBit (fld b 0x25 1) 0
  decide (b.length = 5248) && fld b 0 2 == 1 && decide (fld b 2 2 ≤ 1) && decide (fld b 4 2 % 4 = 0) && zeros b 6 8
    && ((List.range 32).all fun i => !natBit modes i || ethernetLinks.contains i) && zeros b 0xC 0x10
    && decide (ring % 4096 = 0) && decide (6 ≤ log2) && decide (log2 ≤ 16) && decide (ring + 64 * 2 ^ log2 ≤ hbmTop)
    && decide (head % 8 = 0) && decide (head + 8 ≤ hbmTop) && (fld b 0x21 1 == 0 || localId (fld b 0x21 1))
    && decide (fld b 0x25 1 ≤ 1) && (if addr then decide (1 ≤ fld b 0x24 1) && decide (fld b 0x24 1 ≤ 128)
        else fld b 0x24 1 == 0 && zeros b 0x30 0x40)
    && zeros b 0x26 0x30 && zeros b 0x50 0x80
    && (List.range 256).all fun i =>
      let w := fld b (0x80 + 8 * i) 8
      !natBit w 63 || (receiverOk (natBits w 15 8) && idOk (natBits w 7 0))

/-! ### Stages 2 to 4 (R409, R411) -/

/-- Recovery mode with a management-controller image of either bank, or a halt in stage 3. -/
def noBank (s : State) : State :=
  match [s.cnt.bank, 1 - s.cnt.bank].find? fun b => verifyImage s b 1 with
  | some b => (s.updCnt fun c =>
      { c with recovery := true, measure := fset [] [] 1 (imageDigest (imageBytes s b 1)) }).updPins
        fun p => { p with fault := true }
  | none => (s.updCnt fun c => { c with stage := 0x13 }).updPins fun p => { p with fault := true }

/-- The other bank is tried from the beginning. -/
def otherBank (s : State) : State :=
  if s.cnt.fallback then noBank s
  else s.updCnt fun c => { c with bank := 1 - c.bank, fallback := true, nextType := 0, measure := [], stage := 2 }

/-- The boot image: kept when it verifies and meets R412; start-up goes on without it otherwise. -/
def takeBootImage (s : State) : State :=
  let img := imageBytes s s.cnt.bank 4
  if !verifyImage s s.cnt.bank 4 then s
  else if bootPayloadOk (imagePayload img) then
    s.updCnt fun c => { c with bootImage := some (imagePayload img), measure := fset [] c.measure 4 (imageDigest img) }
  else s.updCnt fun c => { c with bootBad := true }

/-- IMAGE_VERIFY. -/
def imageVerify (s : State) (b t : Nat) : State :=
  let c := s.cnt
  if !decide (1 ≤ c.stage) || !decide (c.stage ≤ 4) || c.recovery || t != c.nextType || b != c.bank || decide (4 < t) then s
  else if t = 4 then (takeBootImage s).updCnt fun c => { c with nextType := 5 }
  else if verifyImage s b t then
    s.updCnt fun c =>
      { c with nextType := t + 1, stage := if t = 0 then 3 else 4,
               measure := fset [] c.measure t (imageDigest (imageBytes s b t)) }
  else otherBank s

/-! ### Stage 5 -/

/-- RGN_FENCE of region `r` from Cantle's record (Table 1-8, Table 14-4). -/
def fenceWord (f : Fences) (r : Nat) : Nat :=
  let blk (j : Nat) : Bool := natBit f (4 + 5 * r + j)
  let cell (i : Nat) : Bool := natBit f (48 + 40 * r + i) || blk (i / 8)
  ((List.range 40).map fun i => b2n (cell i) * 2 ^ i).sum + ((List.range 5).map fun j => b2n (blk j) * 2 ^ (40 + j)).sum
    + ((List.range 6).map fun j => b2n (natBit f (24 + 6 * r + j)) * 2 ^ (48 + j)).sum + b2n (natBit f r) * 2 ^ 63

/-- The recorded fences are applied, and the live regions released (R31, R401); four fenced regions are a device fault
(R404). -/
def applyFences (s : State) : State :=
  let s1 := (List.range 4).foldl
    (fun s r => s.updRegion r fun g =>
      { g with fence := BitVec.ofNat 64 (fenceWord s.store.fences r), released := !natBit s.store.fences r }) s
  let s2 := (List.range 24).foldl (fun s l => if fencedLink s l then s.updLink l fun k => { k with st := 4 } else s) s1
  let s3 := (List.range 12).foldl (fun s h => if fencedRegion s (h / 3) then s.updHbm h fun k => { k with st := 4 } else s) s2
  if (List.range 4).all (fencedRegion s3) then deviceFault s3 else s3

/-- What stage 5 takes from the boot image: device ID, node mode, link modes and management-port settings. -/
def applyBootImage (s : State) (b : List Byte) : State :=
  let s1 := if s.mbx.locked then s
    else s.updHub fun h => { h with deviceId := (fld b 4 2 + h.position) % 65536 }
  let s2 := s1.updHub fun h => { h with podMode := natBit (fld b 2 2) 0 }
  let s3 := (List.range 24).foldl (fun s l => s.updLink l fun k => { k with mode := b2n (natBit (fld b 8 4) l) }) s2
  { s3 with mgt := { s3.mgt with
      port := if fld b 0x22 2 = 0 then 50321 else fld b 0x22 2,
      addr := (b.drop 0x30).take 16, gateway := (b.drop 0x40).take 16, prefixLen := fld b 0x24 1 } }

/-- Links start to train (R313). -/
def trainLinks (s : State) : State :=
  (List.range 24).foldl (fun s l => if fencedLink s l then s else s.updLink l fun k => { k with st := 1 }) s

/-- Every stack is ready, or its region is out of service. -/
def stacksReady (s : State) : Bool := (List.range 12).all fun h => (s.hbm h).st == 3 || (s.hbm h).st == 4

/-- Stage 7 ends when every stack is ready. -/
def settleStage (s : State) : State :=
  if s.cnt.stage = 7 ∧ stacksReady s then s.updCnt fun c => { c with stage := 8 } else s

/-- The hold before link training (R404, R416). -/
def bootHold (s : State) : State :=
  if s.cnt.bootBad then (s.updCnt fun c => { c with stage := 0x14 }).updPins fun p => { p with fault := true }
  else s.updCnt fun c => { c with stage := if s.store.ownerHash.isNone then 0x11 else 0x12 }

/-- Stages 7 and 8 begin once the identity chunk is ready; without a boot image the links wait. -/
def afterIdentity (s : State) : State :=
  let s1 := (List.range 12).foldl (fun s h => if (s.hbm h).st = 0 then s.updHbm h fun k => { k with st := 1 } else s) s
  if s.cnt.bootImage.isSome then settleStage ((trainLinks s1).updCnt fun c => { c with stage := 7 }) else bootHold s1

/-- BOOT_FIRMWARE_START: stage 5. -/
def bootFirmwareStart (s : State) : State :=
  if s.cnt.stage ≠ 4 ∨ s.cnt.nextType ≠ 5 ∨ s.cnt.recovery then s
  else
    let s1 := applyFences (s.updCnt fun c => { c with stage := 6 })
    let s2 := match s1.cnt.bootImage with
      | some b => applyBootImage s1 b
      | none => s1
    let s3 := orderSteps s2
    if s3.cnt.ready ∨ s3.cnt.exhausted then afterIdentity s3 else s3

/-! ### Stage 6: the identity chunk (R414, R415) -/

/-- Cantle runs. -/
def cantleOn (s : State) : Bool := decide (3 ≤ s.cnt.stage) && s.cnt.stage != 0x13 || s.cnt.recovery

/-- IDENTITY_CHUNK_RESERVE: the chunk of a start-up, or the next one when at most 64 leaves remain. -/
def chunkReserve (s : State) : State :=
  let k := s.store.nextChunk
  if !cantleOn s || s.cnt.exhausted then s
  else if !s.cnt.ready then
    let s1 := if 2 ^ 20 ≤ k then s.updCnt fun c => { c with exhausted := true }
      else (s.updStore fun x => { x with nextChunk := k + 1 }).updCnt fun c => { c with ready := true, leaf := 1024 * k }
    if s1.cnt.stage = 6 then afterIdentity s1 else s1
  else if !s.cnt.spare ∧ 1024 - s.cnt.leaf % 1024 ≤ 64 ∧ k < 2 ^ 20 then
    (s.updStore fun x => { x with nextChunk := k + 1 }).updCnt fun c => { c with spare := true }
  else s

/-- One leaf is used; a spent chunk gives way to the one reserved. -/
def useLeaf (s : State) : State :=
  let n := s.cnt.leaf + 1
  if n % 1024 ≠ 0 then s.updCnt fun c => { c with leaf := n }
  else if s.cnt.spare then s.updCnt fun c => { c with leaf := 1024 * (s.store.nextChunk - 1), spare := false }
  else s.updCnt fun c => { c with leaf := n, ready := false, exhausted := decide (2 ^ 20 ≤ s.store.nextChunk) }

/-! ### Stage 7: stacks (R255, R263) -/

/-- STACK_TRAINING_DONE. -/
def stackTraining (s : State) (h : Nat) (ok : Bool) : State :=
  if (s.hbm h).st ≠ 1 then s
  else if ok then s.updHbm h fun k => { k with st := 2 }
  else settleStage (fenceRegionNow (s.updHbm h fun k => { k with trainFail := true }) (h / 3))

/-- HBM_INIT_DONE: every block of the stack is zero with a valid check value. -/
def hbmInit (s : State) (h : Nat) : State :=
  if (s.hbm h).st ≠ 2 then s
  else
    let out (a : Nat) : Bool := !(decide (a < hbmTop) && stackOf a == h)
    settleStage (({ s with mem := s.mem.filter (fun p => out p.1), poison := s.poison.filter fun p => out p.1 }).updHbm h
      fun k => { k with st := 3 })

/-! ### Stage 9 -/

/-- The shipped curves 0x0001 to 0x000C are in slots 0 to 11 (R178). -/
def bootCurves : FMap Curve := fsets {} [] 0 ((List.range 12).map fun i => Curve.ofShipped (i + 1))

/-- Registers that boot firmware writes from the boot image. -/
def bootRegisters (s : State) (b : List Byte) : State :=
  let word (o i : Nat) : DWord := BitVec.ofNat 64 (fld b (o + 8 * i) 8)
  let s1 := (s.updMbx fun m =>
    { m with bind := fsets 0 [] 0 ((List.range 256).map fun i => BitVec.ofNat 64 (bindWrite 0 (word 0x80 i).toNat)),
             notice := fsets 0 [] 0 ((List.range 256).map fun i => BitVec.ofNat 64 ((word 0x880 i).toNat % 2 ^ 48)) })
  s1.updHub fun h =>
    { h with proxy := fsets 0 [] 0 ((List.range 128).map fun i => BitVec.ofNat 64 (proxyWrite 0 (word 0x1080 i).toNat)) }

/-- Ring 0 (R379); one whose HBM is out of service is set up all the same. -/
def bootRing (s : State) (b : List Byte) : State :=
  let base := fld b 0x10 8
  let g : Ring := { valid := true, log2 := fld b 0x20 1, notify := fld b 0x21 1, base := base, headAddr := fld b 0x18 8 }
  if fencedAddr s base || fencedAddr s g.headAddr then s.updRing 0 fun _ => g
  else setRing s memWrite 0 g.log2 g.notify base g.headAddr

/-- BINDING_TABLE_SETUP: stage 9, once stages 7 and 8 are over. -/
def bindingSetup (s : State) : State :=
  match s.cnt.bootImage with
  | none => s
  | some b =>
    if !(s.cnt.stage == 7 || s.cnt.stage == 8) || !stacksReady s || ((List.range 24).any fun l => (s.link l).st == 1) then s
    else
      let s1 := if s.mbx.locked then s else bootRegisters s b
      let s2 := bootRing s1 b
      let s3 := (List.range 160).foldl
        (fun s n => if fencedCell s n then s else s.updCell n fun c => { c with curves := bootCurves }) s2
      s3.updCnt fun c => { c with stage := if s.mbx.locked then 0x10 else 9 }

/-- BOOT_STAGE_TIMEOUT. -/
def stageTimeout (s : State) : State :=
  if 1 ≤ s.cnt.stage ∧ s.cnt.stage ≤ 9 then
    (s.updCnt fun c => { c with bootTimeout := true }).updPins fun p => { p with fault := true }
  else s

/-- I2C_BOARD_REPORT: from power-good until the lock (R405, R419). -/
def boardReport (s : State) (domain : Option Nat) (serial : Option (List Byte)) : State :=
  if !s.hub.running || s.mbx.locked then s
  else
    let s1 := match domain with
      | some d => s.updHub fun h => { h with domain := some (d % 65536) }
      | none => s
    match serial with
    | some x => s1.updCnt fun c =>
        { c with serial := some (x.take 16),
                 relocated := c.relocated || (s.store.serial.isSome && s.store.serial != some (x.take 16)) }
    | none => s1

def execPowerGoodRise (p : PowerUp) (s : State) : Res := .next (powerGoodRise s p)
def execPowerGoodFall (s : State) : Res := .next (powerGoodFall s)
def execRailUndervoltage (rail millivolts : Nat) (s : State) : Res := .next (railUndervoltage s rail millivolts)
def execSysrefLoss (s : State) : Res := .next (sysrefLoss s)
def execLinkrefLoss (region : Nat) (s : State) : Res := .next (if region < 4 then linkrefLoss s region else s)
def execImageVerify (bank type : Nat) (s : State) : Res := .next (imageVerify s bank type)
def execBootFirmwareStart (s : State) : Res := .next (bootFirmwareStart s)
def execIdentityChunkReserve (s : State) : Res := .next (chunkReserve s)
def execStackTrainingDone (stack : Nat) (ok : Bool) (s : State) : Res :=
  .next (if stack < 12 then stackTraining s stack ok else s)
def execHbmInitDone (stack : Nat) (s : State) : Res := .next (if stack < 12 then hbmInit s stack else s)
def execBindingTableSetup (s : State) : Res := .next (bindingSetup s)
def execBootStageTimeout (s : State) : Res := .next (stageTimeout s)
def execI2cBoardReport (domain : Option Nat) (serial : Option (List Byte)) (s : State) : Res :=
  .next (boardReport s domain serial)

end Sys2Proof.Machine
end

