-- ==== Sys2Proof/Machine/InvRoot.lean ====
section
/-! DEFINITION. The damped inverse-root routine (R298 to R300).  What R299 decides (a non-finite G, dmax, δ, a first
pivot below its threshold) is computed; the rounding of the shipped kernel's further FP32 arithmetic is its own, so a
later failing step, the elements of the result and the counts of events are free values, held to what R299 and Table
10-8 say of them (log entry 41). -/

namespace Sys2Proof.Machine

def OpEntry.irN (e : OpEntry) : Nat := fld e.desc 0x38 4
def OpEntry.irG (e : OpEntry) : Nat := fld e.desc 0x10 8
def OpEntry.irIn (e : OpEntry) : Nat := fld e.desc 0x18 8
def OpEntry.irOut (e : OpEntry) : Nat := fld e.desc 0x20 8
def OpEntry.irStaging (e : OpEntry) : Nat := fld e.desc 0x28 8
def OpEntry.irResult (e : OpEntry) : Nat := fld e.desc 0x30 8
def OpEntry.irIters (e : OpEntry) : Nat := fld e.desc 0x3D 1
def OpEntry.irBlock (e : OpEntry) : Nat := 5 * e.region + fld e.desc 0x3E 1
/-- The cells of the named block, on which the routine runs (R298). -/
def OpEntry.irCells (e : OpEntry) : List Nat := (List.range 8).map (8 * e.irBlock + ·)
def OpEntry.irAbs (e : OpEntry) : Nat := fld e.desc 0x40 4
def OpEntry.irRel (e : OpEntry) : Nat := fld e.desc 0x44 4
def OpEntry.irTau (e : OpEntry) : Nat := fld e.desc 0x48 4

/-- Bytes of an N × N FP32 matrix in the blocked layout; N is a multiple of 32. -/
def OpEntry.irBytes (e : OpEntry) : Nat := e.irN * e.irN * 4

/-- Is an FP32 field finite and at least 0? -/
def nonneg32 (w : Nat) : Bool := finite32 (BitVec.ofNat 32 w) && Val.zero.le (f32 (BitVec.ofNat 32 w))

/-- The ranges of Table 10-7 (Table 13-9). -/
def invRootOk (e : OpEntry) : Bool :=
  let d := e.desc
  let tau := f32 (BitVec.ofNat 32 e.irTau)
  decide (32 ≤ e.irN) && decide (e.irN ≤ 2048) && decide (e.irN % 32 = 0) && [1, 2, 4].contains (fld d 0x3C 1)
    && decide (1 ≤ e.irIters) && decide (e.irIters ≤ 32) && decide (fld d 0x3E 1 < 5) && zeros d 0x3F 0x40
    && zeros d 0x4C 0x50 && nonneg32 e.irAbs && nonneg32 e.irRel && Val.zero.lt tau && tau.lt Val.one
    && decide (e.irG % 64 = 0) && decide (e.irIn % 64 = 0) && decide (e.irOut % 64 = 0) && decide (e.irResult % 64 = 0)

/-- Is a range in the named block's store or in HBM? -/
def blockOrHbm (b a n : Nat) : Bool := inMem .hbm a n || inMem (.blk b) a n

/-- The status of the body, 0 when the routine may run. -/
def invRootStatus (s : State) (e : OpEntry) : Nat :=
  let n := e.irBytes
  let sts := [(e.irG, n), (e.irIn, n), (e.irOut, n), (e.irStaging, 3 * n), (e.irResult, 32)].map fun x =>
    rangeStatus s e.resident x.1 x.2
  let named : Bool := decide (fld e.desc 0x3E 1 < 5)
  if sts.contains stFENCED || (named && (fencedBlock s e.irBlock || e.irCells.any (fencedCell s))) then stFENCED
  else if !invRootOk e then stBADDESC
  else if sts.contains stBOUNDS || !blockOrHbm e.irBlock e.irG n || !blockOrHbm e.irBlock e.irStaging (3 * n) then stBOUNDS
  else if !slotOk s clsUPD e.irOut n || !slotOk s clsUPD e.irStaging (3 * n) || !slotOk s clsUPD e.irResult 32 then stBOUNDS
  else stOK

/-- FP32 elements of a matrix, poisoned ones read as NaN (Table 9-4). -/
def readFp32s (s : State) (a n : Nat) : List Word :=
  (List.range (n / 4)).map fun i =>
    if bad s (a + 4 * i) then 0x7FC00000 else BitVec.ofNat 32 (rdNat s (a + 4 * i) 4)

def wordBytes (l : List Word) : List Byte := l.flatMap fun w => leBytes 4 w.toNat

/-- A free value as a finite FP32 image. -/
def finiteOf (v : Nat) : Word :=
  let w := BitVec.ofNat 32 v
  if finite32 w then w else w &&& 0xBFFFFFFF

/-- `n` free finite elements. -/
def freeFinite (s : State) (n : Nat) : List Word := (List.range n).map fun i => finiteOf (Config.free (s.fresh + i))

/-- `n` events of a class of the routine's FP32 arithmetic in one cell (R171, R66). -/
def cellEvents (s : State) (cell c n : Nat) : State :=
  if n = 0 then s
  else (s.updCell cell (Cell.bump (offVecEvt c) n)).updTlm (cell / 40) (tlmEvent fFP32 0 c n)

/-- A read of poison by the routine: an event for each element, in a free cell of the block, and the status (R264). -/
def readPoison (s : State) (e : OpEntry) (a n : Nat) : State :=
  let k := ((List.range (n / 4)).filter fun i => bad s (a + 4 * i)).length
  let s := countReads s a n
  if k = 0 then s
  else
    let (v, s1) := s.draw
    (cellEvents s1 (e.irCells.getD (v % 8) 0) evPoison k).addStat e.id stPOISON

/-- Events and values of the routine's own arithmetic: in each cell of the block a free number of those of each listed
class, and in the region a free number of FP32 results. -/
def freeEvents (s : State) (e : OpEntry) (classes : List Nat) : State :=
  let (v, s0) := s.draw
  e.irCells.foldl (fun s n => classes.foldl (fun s c => let (v, s1) := s.draw; cellEvents s1 n c v) s)
    (countValues s0 e.region fFP32 0 v)

/-- One overflow or invalid event in a cell of the block: step 5 of R299 found such a bit in a context's EVT. -/
def oneBadEvent (s : State) (e : OpEntry) : State :=
  let (v, s1) := s.draw
  cellEvents s1 (e.irCells.getD (v / 2 % 8) 0) (if v % 2 = 0 then evOver else evInv) 1

/-- The diagonal of the blocked N × N matrix at `a` (R205). -/
def diagonal (s : State) (a n : Nat) : List Val :=
  (List.range n).map fun i => f32 (BitVec.ofNat 32 (rdNat s (a + i / 32 * (n / 32 + 1) * 4096 + i % 32 * 132) 4))

/-- `x × y + z` in FP32, as a fused operation or as two; where they differ a free bit says which (log entry 41). -/
def mulAddFree (x y z : Val) (free : Nat) : Val :=
  let fused := (rounded fFP32 (x.fma y z)).1
  let two := (rounded fFP32 ((rounded fFP32 (x.mul y)).1.add z)).1
  if free % 2 = 0 then fused else two

/-- A free value as an FP32 image below a threshold that is at least 0. -/
def belowImage (t : Val) (free : Nat) : Word :=
  let w := BitVec.ofNat 32 free
  let v := f32 w
  if v.lt t then w
  else if v.isNan then 0xFF800000
  else if v.isZero then 0x80000001
  else w ||| 0x80000000

/-- FP32 image of 2⁻¹². -/
def residualLimit : Nat := 115 * 2 ^ 23

/-- How a run of the routine ends: REASON, PIVOT_INDEX, PIVOT_VALUE, ITERATIONS, RESIDUAL and DAMPING of Table 10-8. -/
structure IrEnd where
  reason : Nat
  pivot : Nat := 2 ^ 32 - 1
  value : Nat
  iters : Nat := 0
  residual : Nat
  damping : Nat
  deriving DecidableEq, Repr

/-- A failed pivot: one below its threshold (step 3). -/
def pivotEnd (index : Nat) (value : Word) (residual damping : Nat) : IrEnd :=
  { reason := 1, pivot := index, value := value.toNat, residual := residual % 2 ^ 32, damping := damping }

/-- The steps of R299 after step 1, for a G whose diagonal is `ds`: what its words decide is decided, and the free
values `v` pick the rest. -/
def laterSteps (e : OpEntry) (ds : List Val) (v : List Nat) : IrEnd :=
  let f (i : Nat) : Nat := v.getD i 0
  let dmax := ds.foldl Val.maxv (ds.headD .zero)
  let delta := mulAddFree (f32 (BitVec.ofNat 32 e.irRel)) dmax (f32 (BitVec.ofNat 32 e.irAbs)) (f 0)
  let damping := (toF32 delta).toNat
  let top := (rounded fFP32 (dmax.add delta)).1
  let tops := (List.range e.irN).filter fun i => (ds.getD i .zero).eqv dmax
  let limit := (rounded fFP32 ((f32 (BitVec.ofNat 32 e.irTau)).mul top)).1
  let open_ := if top.isFinite then f 1 % 4 else 1 + f 1 % 3
  -- G + Gᵀ itself may overflow on a diagonal this large
  let doubled := (rounded fFP32 (dmax.add dmax)).1.isFinite
  if top.lt .zero then
    pivotEnd (if doubled then tops.getD (f 2 % tops.length) 0 else f 2 % e.irN)
      (if doubled || f 4 % 2 == 0 then toF32 top else 0xFF800000) (f 3) damping
  else match open_ with
    | 1 => pivotEnd (f 2 % e.irN) (belowImage limit (f 4)) (f 3) damping
    | 2 => { reason := 2, value := f 4 % 2 ^ 32, iters := e.irIters, damping := damping,
             residual := residualLimit + f 3 % (2 ^ 31 - residualLimit) }
    | k => { reason := if k = 0 then 0 else 3, value := f 4 % 2 ^ 32, iters := f 5 % (e.irIters + 1), damping := damping,
             residual := f 3 % residualLimit }

/-- How the routine ends on G: step 1 is decided by its elements (R299). -/
def irEnd (s : State) (e : OpEntry) (v : List Nat) : IrEnd :=
  if (readFp32s s e.irG e.irBytes).all finite32 then laterSteps e (diagonal s e.irG e.irN) v
  else { reason := 3, value := v.getD 4 0 % 2 ^ 32, residual := v.getD 3 0 % 2 ^ 32, damping := v.getD 0 0 % 2 ^ 32 }

/-- Events of a run: an overflow or invalid operation ends a run that comes to step 5 with REASON 3. -/
def irEvents (s : State) (e : OpEntry) (finite : Bool) (x : IrEnd) : State :=
  if x.reason = 0 then freeEvents s e [evFlush, evVan]
  else if !finite then s
  else
    let s1 := freeEvents s e [evOver, evFlush, evVan, evInv]
    if x.reason = 3 then oneBadEvent s1 e else s1

/-- The result record (Table 10-8). -/
def irRecord (x : IrEnd) : List Byte :=
  leBytes 4 (if x.reason = 0 then stOK else stSINGULAR) ++ leBytes 4 x.reason ++ leBytes 4 x.pivot ++ leBytes 4 x.value
    ++ leBytes 4 x.iters ++ leBytes 4 x.residual ++ leBytes 4 x.damping ++ leBytes 4 0

/-- Step 6: the result, of finite elements (R300), or the previous preconditioner. -/
def irOutput (s : State) (e : OpEntry) (reason : Nat) : State :=
  let n := e.irBytes
  if reason = 0 then
    let s1 := opWrite s e.id clsUPD false e.irOut (wordBytes (freeFinite s (n / 4)))
    { s1 with fresh := s1.fresh + n / 4 }
  else if e.irIn = e.irOut then s
  else opWrite (readPoison s e e.irIn n) e.id clsUPD false e.irOut (wordBytes (readFp32s s e.irIn n))

/-- The end of a run. -/
def invRootRun (s : State) (e : OpEntry) : State :=
  let v := (List.range 6).map fun i => Config.free (s.fresh + i)
  let x := irEnd s e v
  let finite := (readFp32s s e.irG e.irBytes).all finite32
  let s1 := irEvents (readPoison { s with fresh := s.fresh + 6 } e e.irG e.irBytes) e finite x
  let s2 := irOutput s1 e x.reason
  ((opWrite s2 e.id clsUPD false e.irResult (irRecord x)).finishOp e.id (if x.reason = 0 then stOK else stSINGULAR)).updOp
    e.id fun y => { y with d0 := BitVec.ofNat 64 x.reason, d1 := BitVec.ofNat 64 x.iters }

/-- Has every cell of the block a context for the routine (R298)? -/
def irCtxsFree (s : State) (e : OpEntry) : Bool :=
  e.irCells.all fun n => cellRuns s n && (List.range 16).any fun k => (s.ctx ⟨n, k⟩).op.isNone

/-- The routine starts when no hold of UPDATE work keeps it and each cell has a context for it; what it leaves in its
working space is free. -/
def invRootStart (s : State) (e : OpEntry) : State :=
  if mayUpdate s e && irCtxsFree s e then
    let (stage, s1) := freeBytes (3 * e.irBytes) s
    (opWrite s1 e.id clsUPD false e.irStaging stage).updOp e.id fun e => { e with phase := .running, started := true }
  else s

/-- INV_ROOT: the body is checked at admission; the routine starts when no hold of UPDATE work keeps it and the cells of
the block have contexts for it, and then runs to its end, so that what stops work in between (Table 10-10) stops it. -/
def invRoot (s : State) (id : OpId) : State :=
  match s.op? id with
  | some e =>
    if e.opcode != opINVROOT then s
    else match e.phase with
      | .admitted =>
        let st := invRootStatus s e
        if st ≠ stOK then s.finishOp id st
        else
          let s1 := s.updOp id fun x => { x with phase := .held, released := updateFree s e, cells := e.irCells }
          if updateFree s e then invRootStart s1 e else s1
      | .held => if e.released then invRootStart s e else s
      | .running => if e.irCells.all (cellRuns s) then invRootRun s e else s
      | _ => s
  | none => s

def execInvRoot (o : OpId) (s : State) : Res := .next (invRoot s o)

end Sys2Proof.Machine
end

