-- ==== Sys2Proof/Machine/Mgt.lean ====
section
/-! DEFINITION. The management port (R417, R418, R420 to R425). -/

namespace Sys2Proof.Machine

def State.updMgt (s : State) (f : Mgt → Mgt) : State := { s with mgt := f s.mgt }

/-! ### Port status codes (Table 14-5) -/

def psOK : Nat := 0
def psPENDING : Nat := 1
def psAUTHFAILED : Nat := 2
def psREPLAY : Nat := 3
def psBUSY : Nat := 4
def psBADREQUEST : Nat := 5
def psNOTREADY : Nat := 6
def psDENIED : Nat := 7
def psEXHAUSTED : Nat := 8

/-! ### Requests -/

/-- The management controller runs: released in stage 3, or in recovery mode (R402, R409). -/
def mgtOn (s : State) : Bool :=
  s.pins.powerGood && !s.pins.heldReset
    && (s.cnt.recovery || decide (4 ≤ s.cnt.stage) && s.cnt.stage != 0x13)

/-- Requests that recovery mode answers (R409). -/
def inRecovery (typ : Nat) : Bool := [1, 3, 4, 0x13, 0x14, 0x15].contains typ

/-- Does the request reach the controller: not a reply, and one that its mode answers? -/
def reaches (s : State) (d : Datagram) : Bool :=
  mgtOn s && !natBit d.flags 0 && (!s.cnt.recovery || inRecovery d.typ)

/-- Types that Table 14-6 makes authenticated. -/
def authTypes : List Nat := [0x10, 0x11, 0x12, 0x13, 0x14, 0x15, 0x20]
def wantsAuth (d : Datagram) : Bool := authTypes.contains d.typ || natBit d.flags 1

/-- Zero bytes of an update request's body, and its length (Tables 14-6, 14-15); the layouts of ENROLL, RELEASE and
POWER_CAP are the model's. -/
def mgtBodyOk (typ : Nat) (b : List Byte) : Bool :=
  let n := b.length
  match typ with
  | 0x01 => n == 0
  | 0x02 => n == 0
  | 0x03 => n == 32
  | 0x04 => n == 0
  | 0x10 => n == 0
  | 0x11 => n == 32 && decide (leNat b < 2 ^ 208)
  | 0x12 => n == 2 && decide (1200 ≤ leNat b) && decide (leNat b ≤ 2200)
  | 0x13 => n == 8 && decide (fld b 0 1 ≤ 4) && zeros b 1 4 && decide (4097 ≤ fld b 4 4)
      && decide (fld b 4 4 ≤ payloadLimit (fld b 0 1) + 4096)
  | 0x14 => decide (16 ≤ n) && n == 16 + fld b 2 2 && decide (fld b 0 1 ≤ 4) && zeros b 1 2 && decide (1 ≤ fld b 2 2)
      && decide (fld b 2 2 ≤ 1024) && zeros b 8 16
  | 0x15 => n == 0
  | 0x18 => n == 64 || n == 64 + 1772 + 56
  | 0x19 => n == 32 + 1772 + 56
  | 0x20 => n == 224
  | _ => false

/-- A request is malformed, or names another device (R423, R425). -/
def malformed (d : Datagram) : Bool :=
  d.version != 1 || decide (4 ≤ d.flags) || d.length != d.body.length || d.reserved != 0
    || (d.target != 0 && d.target != leNat (fingerprint.take 8)) || !mgtBodyOk d.typ d.body

def macOk (s : State) (d : Datagram) : Bool :=
  natBit d.flags 1 && decide (d.mac = mgtMac s.store.mgtKey d)

/-- The last SEQ accepted from a source address. -/
def lastSeq (s : State) (src : Nat) : Option Nat := (s.mgt.seqs.find? fun p => p.1 == src).map Prod.snd

/-- The port status with which a request is turned away under R423, if any. -/
def refusal (s : State) (d : Datagram) : Option Nat :=
  if malformed d then some psBADREQUEST
  else if !wantsAuth d then none
  else if s.store.ownerHash.isNone then some psDENIED
  else if !macOk s d then some psAUTHFAILED
  else match lastSeq s d.source with
    | some k => if d.seq ≤ k then some psREPLAY else none
    | none => none

/-- The datagrams of a reply, in FRAG order: the request's header with the reply flag, and at most 1,200 body bytes in each
(R422, R425). -/
def replyParts (d : Datagram) (st : Nat) (body : List Byte) : List Datagram :=
  let n := max 1 (ceilDiv body.length 1200)
  (List.range n).map fun i =>
    let b := (body.drop (1200 * i)).take 1200
    { d with flags := 1, pstatus := st, length := b.length, body := b, mac := [], frag := 16 * i + (n - 1) }

/-- A reply; HUB_MGT_REFUSED counts the four codes of refusal, and HUB_MGT_RX the other requests. -/
def mgtReply (s : State) (d : Datagram) (st : Nat) (body : List Byte) : State :=
  let s1 := (replyParts d st body).foldl (fun s p => s.emit (.datagram p)) s
  if st = psAUTHFAILED ∨ st = psREPLAY ∨ st = psBADREQUEST ∨ st = psDENIED then
    s1.updMgt fun m => { m with refused := m.refused + 1 }
  else s1.updMgt fun m => { m with rx := m.rx + 1 }

/-- The SEQ of an accepted authenticated request is kept, for 64 sources (R423). -/
def mgtAccept (s : State) (d : Datagram) : State :=
  s.updMgt fun m =>
    { m with seqs := if wantsAuth d then ((d.source, d.seq) :: m.seqs.filter fun p => p.1 != d.source).take 64
                     else m.seqs }

/-- A request of type `typ`: turned away, or accepted and answered by `act`. -/
def mgtRequest (typ : Nat) (act : State → Datagram → State) (s : State) (d : Datagram) : State :=
  if !reaches s d || d.typ != typ then s
  else match refusal s d with
    | some st => mgtReply s d st []
    | none => act (mgtAccept s d) d

/-- MALFORMED_MANAGEMENT_DATAGRAM. -/
def malformedDatagram (s : State) (d : Datagram) : State :=
  if reaches s d && malformed d then mgtReply s d psBADREQUEST [] else s

/-! ### Reports (R418, R425) -/

def owned (s : State) : Bool := s.store.ownerHash.isSome

/-- Bits 0 to 4 of FLAGS in the report and in STATUS. -/
def mgtFlags (s : State) : Nat :=
  b2n (owned s) + 2 * b2n s.cnt.relocated + 4 * b2n s.cnt.fallback + 8 * b2n s.cnt.recovery + 16 * b2n s.cnt.bootTimeout

/-- Table 14-12. -/
def statusBody (s : State) : List Byte :=
  leBytes 1 s.cnt.stage ++ leBytes 1 s.cnt.bank
    ++ leBytes 2 (mgtFlags s + 32 * b2n s.cnt.exhausted + 64 * b2n s.mbx.locked + 128 * b2n s.mbx.quiesced)
    ++ leBytes 1 s.mgt.update ++ leBytes 1 s.mgt.updateFail ++ leBytes 2 s.pwr.cap ++ leBytes 8 s.mgt.pendSeq
    ++ leBytes 1 s.mgt.pendType ++ leBytes 1 s.mgt.pendResult ++ leBytes 2 (p10 s) ++ leBytes 2 (p100 s)
    ++ leBytes 1 ((List.range 4).map fun k => (s.region k).clkStep % 4 * 4 ^ k).sum ++ leBytes 1 s.pwr.hubTemp
    ++ (List.range 4).flatMap (fun k => leBytes 1 (fget 0 s.pwr.temps k))
    ++ (List.range 4).flatMap (fun k => leBytes 1 (fget 0 s.pwr.stackMax k)) ++ leBytes 32 s.store.fences

/-- Address of RGN_CELL_CLK of region `r`. -/
def cellClkAddr (r : Nat) : Nat := 0x300020000200 + r * 0x100000

/-- Table 14-13. -/
def telemetryBody (s : State) : List Byte :=
  leBytes 8 s.hub.cycle.toNat ++ leBytes 8 (pwrStatus s) ++ leBytes 8 (pwrSample s) ++ leBytes 8 (pwrConsumer s)
    ++ (List.range 4).flatMap (fun k => leBytes 8 (thmRegion s k)) ++ leBytes 8 (thmHub s) ++ leBytes 8 (thrCount s)
    ++ (List.range 4).flatMap fun k => leBytes 8 ((s.reg (cellClkAddr k)).getD 0)

def bytesTo (n : Nat) (b : List Byte) : List Byte := (b ++ List.replicate n 0).take n

/-- Table 14-4. -/
def reportBody (s : State) (nonce : List Byte) : List Byte :=
  leBytes 2 1 ++ leBytes 2 (mgtFlags s) ++ leBytes 1 s.hub.position ++ leBytes 1 s.cnt.stage ++ leBytes 2 0 ++ nonce
    ++ fingerprint ++ bytesTo 32 (s.store.ownerHash.getD [])
    ++ (List.range 5).flatMap (fun t => bytesTo 32 (fget [] s.cnt.measure t))
    ++ (List.range 5).flatMap (fun t => leBytes 1 (fget 0 s.store.svn t % 64)) ++ leBytes 3 0 ++ leBytes 8 s.cnt.leaf
    ++ bytesTo 16 (s.cnt.serial.getD []) ++ leBytes 2 s.hub.deviceId ++ leBytes 2 (s.hub.domain.getD 0) ++ leBytes 4 0
    ++ leBytes 32 s.store.fences

def statusAct (s : State) (d : Datagram) : State := mgtReply s d psOK (statusBody s)
def telemetryAct (s : State) (d : Datagram) : State := mgtReply s d psOK (telemetryBody s)
def certAct (s : State) (d : Datagram) : State := mgtReply s d psOK Config.certBytes

/-- ATTEST: the report and the signature of the next leaf over it. -/
def attestAct (s : State) (d : Datagram) : State :=
  if s.cnt.exhausted then mgtReply s d psEXHAUSTED []
  else if !s.cnt.ready then mgtReply s d psNOTREADY []
  else
    let b := reportBody s d.body
    useLeaf (mgtReply s d psOK (b ++ Config.identSign s.cnt.leaf b))

/-! ### RESET, FENCE_CLEAR, POWER_CAP -/

/-- RESET: OK leaves before the reset starts. -/
def resetAct (s : State) (d : Datagram) : State := beginStart (mgtReply s d psOK [])

/-- Units of `f` that `x` does not name. -/
def clearFences (f x : Fences) : Fences := f - (f &&& x)

def fenceClearAct (s : State) (d : Datagram) : State :=
  mgtReply (s.updStore fun c => { c with fences := clearFences c.fences (leNat d.body) }) d psOK []

def powerCapAct (s : State) (d : Datagram) : State := mgtReply (s.updPwr fun p => { p with cap := leNat d.body }) d psOK []

/-! ### Firmware update (R420, R421) -/

def updateRuns (s : State) : Bool := s.mgt.update == 1 || s.mgt.update == 2

/-- The bank that an update writes. -/
def updBank (s : State) : Nat := 1 - s.store.active

def updateBeginAct (s : State) (d : Datagram) : State :=
  if updateRuns s then mgtReply s d psBUSY []
  else
    let t := fld d.body 0 1
    let s1 := (s.updStore fun c => { c with images := fset [] c.images (5 * updBank s + t) [] }).updMgt fun m =>
      { m with update := 1, updType := t, updSize := fld d.body 4 4, buffered := 0 }
    mgtReply s1 d psOK []

/-- Bytes put at an offset of an image area; erased flash reads 0xFF. -/
def putImage (img : List Byte) (off : Nat) (bs : List Byte) : List Byte :=
  let x := img ++ List.replicate (off + bs.length - img.length) 0xFF
  x.take off ++ bs ++ x.drop (off + bs.length)

/-- UPDATE_DATA: how much of the buffer Cantle has written meanwhile is a free value. -/
def updateDataAct (s : State) (d : Datagram) : State :=
  let n := fld d.body 2 2
  let off := fld d.body 4 4
  if s.mgt.update ≠ 1 ∨ fld d.body 0 1 ≠ s.mgt.updType ∨ s.mgt.updSize < off + n then mgtReply s d psBADREQUEST []
  else
    let (v, s1) := s.draw
    let left := s.mgt.buffered - min s.mgt.buffered v
    if 65536 < left + n then mgtReply (s1.updMgt fun m => { m with buffered := left }) d psBUSY []
    else
      let k := 5 * updBank s + s.mgt.updType
      let s2 := (s1.updMgt fun m => { m with buffered := left + n }).updStore fun c =>
        { c with images := fset [] c.images k (putImage (fget [] c.images k) off (d.body.drop 16)) }
      mgtReply s2 d psOK []

def updateCommitAct (s : State) (d : Datagram) : State :=
  if s.mgt.update ≠ 1 then mgtReply s d psBADREQUEST []
  else
    mgtReply (s.updMgt fun m => { m with update := 2, pendSeq := d.seq, pendType := 0x15, pendResult := 0xFF }) d psPENDING []

/-- UPDATE_VERIFY_DONE: the bank is marked when all five images verify; the result code of a failure is a free
value. -/
def updateVerified (s : State) : State :=
  if s.mgt.update ≠ 2 then s
  else
    let b := updBank s
    match (List.range 5).find? fun t => !verifyImage s b t with
    | none => (s.updStore fun c => { c with nextBank := some b }).updMgt fun m =>
        { m with update := 3, updateFail := 0, pendResult := psOK }
    | some t =>
      let (v, s1) := s.draw
      s1.updMgt fun m => { m with update := 4, updateFail := t + 1, pendResult := v % 256 }

/-! ### Owners (R416, R417) -/

/-- Does a body that ends with signature and public key bear the owner's signature over `msg`? -/
def ownerSigned (s : State) (b msg : List Byte) : Bool :=
  let n := b.length - 1828
  let key := b.drop (n + 1772)
  s.store.ownerHash == some (sha256 key) && lmsVerify key msg ((b.drop n).take 1772)

/-- May the ENROLL be accepted? -/
def mayEnroll (s : State) (b : List Byte) : Bool :=
  if s.store.ownerHash.isNone then s.pins.enroll
  else decide (b.length = 64 + 1828) && ownerSigned s b (b.take 64 ++ fingerprint)

/-- Start-up goes on from link training with a boot image that now verifies (R404, R416). -/
def resumeStart (s : State) : State :=
  if !(s.cnt.nextType == 5) || s.cnt.bootImage.isSome || s.cnt.bootBad then s
  else
    let s1 := takeBootImage s
    let hold := s1.cnt.stage == 0x11 || s1.cnt.stage == 0x12
    match s1.cnt.bootImage with
    | some b =>
      let s2 := if 6 ≤ s1.cnt.stage then applyBootImage s1 b else s1
      if hold then settleStage ((trainLinks s2).updCnt fun c => { c with stage := 7 }) else s2
    | none => if hold then bootHold s1 else s1

def enrollAct (s : State) (d : Datagram) : State :=
  if !mayEnroll s d.body then mgtReply s d psDENIED []
  else
    let s1 := s.updStore fun c =>
      { c with ownerHash := some (d.body.take 32), mgtKey := (d.body.drop 32).take 32, releaseNext := false }
    resumeStart (mgtReply s1 d psOK [])

/-- RELEASE: the device is unowned from its next start-up. -/
def releaseAct (s : State) (d : Datagram) : State :=
  if d.body.take 32 = fingerprint ∧ ownerSigned s d.body (fingerprint ++ fingerprint) then
    mgtReply (s.updStore fun c => { c with releaseNext := true }) d psOK []
  else mgtReply s d psDENIED []

/-! ### BRIDLE_FORWARD (R424) -/

/-- The device whose management address a request came from; a free value when the table names none. -/
def portDevice (s : State) (src : Nat) : Nat × State :=
  match s.hub.peers.find? fun p => decide (p.2 = beBytes 16 src) with
  | some p => (p.1, s)
  | none => let (v, s1) := s.draw; (v % 65536, s1)

def forwardAct (s : State) (d : Datagram) : State :=
  let (dev, s1) := portDevice s d.source
  mgtReply (deliver s1 0 (.forwarded dev (fld d.body 0 2) (d.body.drop 2))) d psOK []

/-! ### The commands -/

def execStatus (d : Datagram) (s : State) : Res := .next (mgtRequest 0x01 statusAct s d)
def execTelemetry (d : Datagram) (s : State) : Res := .next (mgtRequest 0x02 telemetryAct s d)
def execAttest (d : Datagram) (s : State) : Res := .next (mgtRequest 0x03 attestAct s d)
def execCert (d : Datagram) (s : State) : Res := .next (mgtRequest 0x04 certAct s d)
def execMgtReset (d : Datagram) (s : State) : Res := .next (mgtRequest 0x10 resetAct s d)
def execFenceClear (d : Datagram) (s : State) : Res := .next (mgtRequest 0x11 fenceClearAct s d)
def execPowerCap (d : Datagram) (s : State) : Res := .next (mgtRequest 0x12 powerCapAct s d)
def execUpdateBegin (d : Datagram) (s : State) : Res := .next (mgtRequest 0x13 updateBeginAct s d)
def execUpdateData (d : Datagram) (s : State) : Res := .next (mgtRequest 0x14 updateDataAct s d)
def execUpdateCommit (d : Datagram) (s : State) : Res := .next (mgtRequest 0x15 updateCommitAct s d)
def execUpdateVerifyDone (s : State) : Res := .next (if mgtOn s then updateVerified s else s)
/-- ENROLL reads the ENROLL_ENABLE land as it is when the request arrives (R433). -/
def execEnroll (d : Datagram) (enable : Bool) (s : State) : Res :=
  .next (mgtRequest 0x18 enrollAct (s.updPins fun p => { p with enroll := enable }) d)
def execRelease (d : Datagram) (s : State) : Res := .next (mgtRequest 0x19 releaseAct s d)
def execBridleForward (d : Datagram) (s : State) : Res := .next (mgtRequest 0x20 forwardAct s d)
def execManagementPortBlockLock (up : Bool) (s : State) : Res :=
  .next (if mgtOn s then s.updMgt fun m => { m with linkUp := up } else s)
def execMalformedManagementDatagram (d : Datagram) (s : State) : Res := .next (malformedDatagram s d)

end Sys2Proof.Machine
end

