-- ==== Sys2Proof/Machine/Dispatch.lean ====
section
/-! DEFINITION. Dispatch: one arm for each command, a direct call of its meaning. -/

namespace Sys2Proof.Machine

/-- The effect of a command on everything but the queue. -/
def exec (i : Instr) (s : State) : Host.Outcome State Fault Refusal :=
  match i with
  | .vadd cx f => Sys2Proof.Machine.execVadd cx f s
  | .vsub cx f => Sys2Proof.Machine.execVsub cx f s
  | .vmul cx f => Sys2Proof.Machine.execVmul cx f s
  | .vfma cx f => Sys2Proof.Machine.execVfma cx f s
  | .vfnma cx f => Sys2Proof.Machine.execVfnma cx f s
  | .vdiv cx f => Sys2Proof.Machine.execVdiv cx f s
  | .vmin cx f => Sys2Proof.Machine.execVmin cx f s
  | .vmax cx f => Sys2Proof.Machine.execVmax cx f s
  | .vabs cx f => Sys2Proof.Machine.execVabs cx f s
  | .vneg cx f => Sys2Proof.Machine.execVneg cx f s
  | .vsqrt cx f => Sys2Proof.Machine.execVsqrt cx f s
  | .vand cx f => Sys2Proof.Machine.execVand cx f s
  | .vor cx f => Sys2Proof.Machine.execVor cx f s
  | .vxor cx f => Sys2Proof.Machine.execVxor cx f s
  | .vnot cx f => Sys2Proof.Machine.execVnot cx f s
  | .vshl cx f => Sys2Proof.Machine.execVshl cx f s
  | .vshr cx f => Sys2Proof.Machine.execVshr cx f s
  | .vsra cx f => Sys2Proof.Machine.execVsra cx f s
  | .vcmp cx f => Sys2Proof.Machine.execVcmp cx f s
  | .vsel cx f => Sys2Proof.Machine.execVsel cx f s
  | .vcvt cx f => Sys2Proof.Machine.execVcvt cx f s
  | .vmov cx f => Sys2Proof.Machine.execVmov cx f s
  | .vbcast cx f => Sys2Proof.Machine.execVbcast cx f s
  | .viota cx f => Sys2Proof.Machine.execViota cx f s
  | .vperm cx f => Sys2Proof.Machine.execVperm cx f s
  | .vrot cx f => Sys2Proof.Machine.execVrot cx f s
  | .vext cx f => Sys2Proof.Machine.execVext cx f s
  | .vins cx f => Sys2Proof.Machine.execVins cx f s
  | .vrsum cx f => Sys2Proof.Machine.execVrsum cx f s
  | .vrprod cx f => Sys2Proof.Machine.execVrprod cx f s
  | .vrmax cx f => Sys2Proof.Machine.execVrmax cx f s
  | .vrmin cx f => Sys2Proof.Machine.execVrmin cx f s
  | .vrmean cx f => Sys2Proof.Machine.execVrmean cx f s
  | .vrargmax cx f => Sys2Proof.Machine.execVrargmax cx f s
  | .vrargmin cx f => Sys2Proof.Machine.execVrargmin cx f s
  | .mand cx f => Sys2Proof.Machine.execMand cx f s
  | .mor cx f => Sys2Proof.Machine.execMor cx f s
  | .mxor cx f => Sys2Proof.Machine.execMxor cx f s
  | .mnot cx f => Sys2Proof.Machine.execMnot cx f s
  | .mpop cx f => Sys2Proof.Machine.execMpop cx f s
  | .mfirst cx f => Sys2Proof.Machine.execMfirst cx f s
  | .mld cx f => Sys2Proof.Machine.execMld cx f s
  | .mst cx f => Sys2Proof.Machine.execMst cx f s
  | .vld cx f => Sys2Proof.Machine.execVld cx f s
  | .vst cx f => Sys2Proof.Machine.execVst cx f s
  | .vrand cx f => Sys2Proof.Machine.execVrand cx f s
  | .vgath cx f => Sys2Proof.Machine.execVgath cx f s
  | .vscat cx f => Sys2Proof.Machine.execVscat cx f s
  | .vscadd cx f => Sys2Proof.Machine.execVscadd cx f s
  | .tadd cx f => Sys2Proof.Machine.execTadd cx f s
  | .tsub cx f => Sys2Proof.Machine.execTsub cx f s
  | .tmul cx f => Sys2Proof.Machine.execTmul cx f s
  | .tfma cx f => Sys2Proof.Machine.execTfma cx f s
  | .tfnma cx f => Sys2Proof.Machine.execTfnma cx f s
  | .tdiv cx f => Sys2Proof.Machine.execTdiv cx f s
  | .tmin cx f => Sys2Proof.Machine.execTmin cx f s
  | .tmax cx f => Sys2Proof.Machine.execTmax cx f s
  | .tabs cx f => Sys2Proof.Machine.execTabs cx f s
  | .tneg cx f => Sys2Proof.Machine.execTneg cx f s
  | .tsqrt cx f => Sys2Proof.Machine.execTsqrt cx f s
  | .tand cx f => Sys2Proof.Machine.execTand cx f s
  | .tor cx f => Sys2Proof.Machine.execTor cx f s
  | .txor cx f => Sys2Proof.Machine.execTxor cx f s
  | .tnot cx f => Sys2Proof.Machine.execTnot cx f s
  | .tshl cx f => Sys2Proof.Machine.execTshl cx f s
  | .tshr cx f => Sys2Proof.Machine.execTshr cx f s
  | .tsra cx f => Sys2Proof.Machine.execTsra cx f s
  | .tcmp cx f => Sys2Proof.Machine.execTcmp cx f s
  | .tsel cx f => Sys2Proof.Machine.execTsel cx f s
  | .tcvt cx f => Sys2Proof.Machine.execTcvt cx f s
  | .tcopy cx f => Sys2Proof.Machine.execTcopy cx f s
  | .tfill cx f => Sys2Proof.Machine.execTfill cx f s
  | .tiota cx f => Sys2Proof.Machine.execTiota cx f s
  | .trsum cx f => Sys2Proof.Machine.execTrsum cx f s
  | .trprod cx f => Sys2Proof.Machine.execTrprod cx f s
  | .trmax cx f => Sys2Proof.Machine.execTrmax cx f s
  | .trmin cx f => Sys2Proof.Machine.execTrmin cx f s
  | .trmean cx f => Sys2Proof.Machine.execTrmean cx f s
  | .trargmax cx f => Sys2Proof.Machine.execTrargmax cx f s
  | .trargmin cx f => Sys2Proof.Machine.execTrargmin cx f s
  | .trand cx f => Sys2Proof.Machine.execTrand cx f s
  | .sadd cx f => Sys2Proof.Machine.execSadd cx f s
  | .ssub cx f => Sys2Proof.Machine.execSsub cx f s
  | .smul cx f => Sys2Proof.Machine.execSmul cx f s
  | .sand cx f => Sys2Proof.Machine.execSand cx f s
  | .sor cx f => Sys2Proof.Machine.execSor cx f s
  | .sxor cx f => Sys2Proof.Machine.execSxor cx f s
  | .sshl cx f => Sys2Proof.Machine.execSshl cx f s
  | .sshr cx f => Sys2Proof.Machine.execSshr cx f s
  | .sli cx f => Sys2Proof.Machine.execSli cx f s
  | .slhi cx f => Sys2Proof.Machine.execSlhi cx f s
  | .srd cx f => Sys2Proof.Machine.execSrd cx f s
  | .swr cx f => Sys2Proof.Machine.execSwr cx f s
  | .sld cx f => Sys2Proof.Machine.execSld cx f s
  | .sst cx f => Sys2Proof.Machine.execSst cx f s
  | .br cx f => Sys2Proof.Machine.execBr cx f s
  | .beq cx f => Sys2Proof.Machine.execBeq cx f s
  | .bne cx f => Sys2Proof.Machine.execBne cx f s
  | .blt cx f => Sys2Proof.Machine.execBlt cx f s
  | .bge cx f => Sys2Proof.Machine.execBge cx f s
  | .loopCtx cx f => Sys2Proof.Machine.execLoopCtx cx f s
  | .aissue cx f => Sys2Proof.Machine.execAissue cx f s
  | .await cx f => Sys2Proof.Machine.execAwait cx f s
  | .dissue cx f => Sys2Proof.Machine.execDissue cx f s
  | .dwait cx f => Sys2Proof.Machine.execDwait cx f s
  | .fenceCtx cx f => Sys2Proof.Machine.execFenceCtx cx f s
  | .bar cx f => Sys2Proof.Machine.execBar cx f s
  | .endCtx cx f => Sys2Proof.Machine.execEndCtx cx f s
  | .feval cx f => Sys2Proof.Machine.execFeval cx f s
  | .fevalx cx f => Sys2Proof.Machine.execFevalx cx f s
  | .frefine cx f => Sys2Proof.Machine.execFrefine cx f s
  | .rstat cx f => Sys2Proof.Machine.execRstat cx f s
  | .rnorm cx f => Sys2Proof.Machine.execRnorm cx f s
  | .smax cx f => Sys2Proof.Machine.execSmax cx f s
  | .rscale cx f => Sys2Proof.Machine.execRscale cx f s
  | .scan cx f => Sys2Proof.Machine.execScan cx f s
  | .streamChunkIssue cx => Sys2Proof.Machine.execStreamChunkIssue cx s
  | .contextWaitEnd cx => Sys2Proof.Machine.execContextWaitEnd cx s
  | .kernelStart o => Sys2Proof.Machine.execKernelStart o s
  | .contextImageSaveDone o => Sys2Proof.Machine.execContextImageSaveDone o s
  | .contextRestoreDone o => Sys2Proof.Machine.execContextRestoreDone o s
  | .kernelAbortStop o => Sys2Proof.Machine.execKernelAbortStop o s
  | .productStart cell => Sys2Proof.Machine.execProductStart cell s
  | .passStart cell => Sys2Proof.Machine.execPassStart cell s
  | .rowResultAccept cell => Sys2Proof.Machine.execRowResultAccept cell s
  | .blockRowWrite cell => Sys2Proof.Machine.execBlockRowWrite cell s
  | .drainEncodeSweep cell => Sys2Proof.Machine.execDrainEncodeSweep cell s
  | .productComplete cell => Sys2Proof.Machine.execProductComplete cell s
  | .arrayPreemptEffect cell => Sys2Proof.Machine.execArrayPreemptEffect cell s
  | .tileContextSaveDone cell => Sys2Proof.Machine.execTileContextSaveDone cell s
  | .tileContextRestoreDone cell => Sys2Proof.Machine.execTileContextRestoreDone cell s
  | .arrayAbortStop cell => Sys2Proof.Machine.execArrayAbortStop cell s
  | .tableLoadTakeEffect cell => Sys2Proof.Machine.execTableLoadTakeEffect cell s
  | .cellReady region => Sys2Proof.Machine.execCellReady region s
  | .clockSwitchDone region => Sys2Proof.Machine.execClockSwitchDone region s
  | .hardwareError e => Sys2Proof.Machine.execHardwareError e s
  | .dmaDescriptorStart e => Sys2Proof.Machine.execDmaDescriptorStart e s
  | .dmaDescriptorComplete e => Sys2Proof.Machine.execDmaDescriptorComplete e s
  | .dmaAbortStop e => Sys2Proof.Machine.execDmaAbortStop e s
  | .sparseJobPlan block => Sys2Proof.Machine.execSparseJobPlan block s
  | .workUnitDispatch block cell => Sys2Proof.Machine.execWorkUnitDispatch block cell s
  | .workUnitFinish block cell => Sys2Proof.Machine.execWorkUnitFinish block cell s
  | .blockJobPreemptDone block => Sys2Proof.Machine.execBlockJobPreemptDone block s
  | .hbmReadReturn stack addr bad => Sys2Proof.Machine.execHbmReadReturn stack addr bad s
  | .hbmWriteAccept w => Sys2Proof.Machine.execHbmWriteAccept w s
  | .residencyTakeEffect => Sys2Proof.Machine.execResidencyTakeEffect s
  | .telemetryRecordWrite region => Sys2Proof.Machine.execTelemetryRecordWrite region s
  | .updateHoldRelease o => Sys2Proof.Machine.execUpdateHoldRelease o s
  | .deferredProductStart cell => Sys2Proof.Machine.execDeferredProductStart cell s
  | .deferredYield cell => Sys2Proof.Machine.execDeferredYield cell s
  | .deferredResume cell => Sys2Proof.Machine.execDeferredResume cell s
  | .deadlinePromotion o => Sys2Proof.Machine.execDeadlinePromotion o s
  | .freezeTakeEffect => Sys2Proof.Machine.execFreezeTakeEffect s
  | .linkTrainingDone link ok rtt => Sys2Proof.Machine.execLinkTrainingDone link ok rtt s
  | .linkControlFlit link peer => Sys2Proof.Machine.execLinkControlFlit link peer s
  | .linkSignalLoss link => Sys2Proof.Machine.execLinkSignalLoss link s
  | .flitReceive link flit => Sys2Proof.Machine.execFlitReceive link flit s
  | .nullFlitReceive link flit => Sys2Proof.Machine.execNullFlitReceive link flit s
  | .retryRequest link flit => Sys2Proof.Machine.execRetryRequest link flit s
  | .nullFlitTimer link => Sys2Proof.Machine.execNullFlitTimer link s
  | .flitTransmit link => Sys2Proof.Machine.execFlitTransmit link s
  | .remoteWrite region m => Sys2Proof.Machine.execRemoteWrite region m s
  | .readRequest region m => Sys2Proof.Machine.execReadRequest region m s
  | .readResponse region m => Sys2Proof.Machine.execReadResponse region m s
  | .atomicAdd region m => Sys2Proof.Machine.execAtomicAdd region m s
  | .collectiveContribution region c => Sys2Proof.Machine.execCollectiveContribution region c s
  | .collectiveResult region c => Sys2Proof.Machine.execCollectiveResult region c s
  | .heartbeat region link b => Sys2Proof.Machine.execHeartbeat region link b s
  | .lost region b => Sys2Proof.Machine.execLost region b s
  | .bridleQuiesce region src b => Sys2Proof.Machine.execBridleQuiesce region src b s
  | .bridleAbort region src b => Sys2Proof.Machine.execBridleAbort region src b s
  | .commitVote src b => Sys2Proof.Machine.execCommitVote src b s
  | .commitResult b => Sys2Proof.Machine.execCommitResult b s
  | .plcFinal region b => Sys2Proof.Machine.execPlcFinal region b s
  | .unreachable region b => Sys2Proof.Machine.execUnreachable region b s
  | .bridleEcho region src b => Sys2Proof.Machine.execBridleEcho region src b s
  | .bridleBad link typ b => Sys2Proof.Machine.execBridleBad link typ b s
  | .heartbeatTimer region => Sys2Proof.Machine.execHeartbeatTimer region s
  | .peerSilenceTimeout link => Sys2Proof.Machine.execPeerSilenceTimeout link s
  | .bridleDeliveryTimeout o oob => Sys2Proof.Machine.execBridleDeliveryTimeout o oob s
  | .ethernetFrameReceive link frame => Sys2Proof.Machine.execEthernetFrameReceive link frame s
  | .tunnelResendTimer link tunnel => Sys2Proof.Machine.execTunnelResendTimer link tunnel s
  | .tunnelFenceTimeout link tunnel => Sys2Proof.Machine.execTunnelFenceTimeout link tunnel s
  | .collectiveStart o => Sys2Proof.Machine.execCollectiveStart o s
  | .shardDeadline region cid shard => Sys2Proof.Machine.execShardDeadline region cid shard s
  | .mirrorCopyComplete region ok => Sys2Proof.Machine.execMirrorCopyComplete region ok s
  | .flashImageComplete ok => Sys2Proof.Machine.execFlashImageComplete ok s
  | .voteTimeout child => Sys2Proof.Machine.execVoteTimeout child s
  | .resultTimeout answer => Sys2Proof.Machine.execResultTimeout answer s
  | .pairHandshake peer domain forced => Sys2Proof.Machine.execPairHandshake peer domain forced s
  | .mailboxSlotWrite w => Sys2Proof.Machine.execMailboxSlotWrite w s
  | .mailboxSlotTake reader channel => Sys2Proof.Machine.execMailboxSlotTake reader channel s
  | .operationAdmit region => Sys2Proof.Machine.execOperationAdmit region s
  | .recordCommit o => Sys2Proof.Machine.execRecordCommit o s
  | .ringHeadPoll ring => Sys2Proof.Machine.execRingHeadPoll ring s
  | .remoteControlTimeout o oob => Sys2Proof.Machine.execRemoteControlTimeout o oob s
  | .bindingLock master => Sys2Proof.Machine.execBindingLock master s
  | .sampleStrobe master => Sys2Proof.Machine.execSampleStrobe master s
  | .sampleLatchDone => Sys2Proof.Machine.execSampleLatchDone s
  | .registerWrite master addr value => Sys2Proof.Machine.execRegisterWrite master addr value s
  | .dmaRegion o => Sys2Proof.Machine.execDmaRegion o s
  | .dmaBlock o => Sys2Proof.Machine.execDmaBlock o s
  | .dmaGather o => Sys2Proof.Machine.execDmaGather o s
  | .kernelLaunch o => Sys2Proof.Machine.execKernelLaunch o s
  | .blockJob o => Sys2Proof.Machine.execBlockJob o s
  | .invRoot o => Sys2Proof.Machine.execInvRoot o s
  | .codebookLoad o => Sys2Proof.Machine.execCodebookLoad o s
  | .fmtLoad o => Sys2Proof.Machine.execFmtLoad o s
  | .curveLoad o => Sys2Proof.Machine.execCurveLoad o s
  | .rescalePlace o => Sys2Proof.Machine.execRescalePlace o s
  | .scheduleLoad o => Sys2Proof.Machine.execScheduleLoad o s
  | .freezeLoad o => Sys2Proof.Machine.execFreezeLoad o s
  | .allReduce o => Sys2Proof.Machine.execAllReduce o s
  | .reduceScatter o => Sys2Proof.Machine.execReduceScatter o s
  | .allGather o => Sys2Proof.Machine.execAllGather o s
  | .allToAll o => Sys2Proof.Machine.execAllToAll o s
  | .broadcast o => Sys2Proof.Machine.execBroadcast o s
  | .snapConfig o => Sys2Proof.Machine.execSnapConfig o s
  | .snapCommit o => Sys2Proof.Machine.execSnapCommit o s
  | .snapPair o => Sys2Proof.Machine.execSnapPair o s
  | .snapRestore o => Sys2Proof.Machine.execSnapRestore o s
  | .snapRecover o => Sys2Proof.Machine.execSnapRecover o s
  | .snapRelease o => Sys2Proof.Machine.execSnapRelease o s
  | .privCopy o => Sys2Proof.Machine.execPrivCopy o s
  | .counterCopy o => Sys2Proof.Machine.execCounterCopy o s
  | .cycleSample o => Sys2Proof.Machine.execCycleSample o s
  | .abort o => Sys2Proof.Machine.execAbort o s
  | .preempt o => Sys2Proof.Machine.execPreempt o s
  | .resume o => Sys2Proof.Machine.execResume o s
  | .quiesce o => Sys2Proof.Machine.execQuiesce o s
  | .unquiesce o => Sys2Proof.Machine.execUnquiesce o s
  | .echo o => Sys2Proof.Machine.execEcho o s
  | .residencySet o => Sys2Proof.Machine.execResidencySet o s
  | .telemetrySet o => Sys2Proof.Machine.execTelemetrySet o s
  | .peerLoad o => Sys2Proof.Machine.execPeerLoad o s
  | .routeLoad o => Sys2Proof.Machine.execRouteLoad o s
  | .ethConfig o => Sys2Proof.Machine.execEthConfig o s
  | .ringSetup o => Sys2Proof.Machine.execRingSetup o s
  | .identityRead o => Sys2Proof.Machine.execIdentityRead o s
  | .powerGoodRise p => Sys2Proof.Machine.execPowerGoodRise p s
  | .imageVerify bank type => Sys2Proof.Machine.execImageVerify bank type s
  | .bootFirmwareStart => Sys2Proof.Machine.execBootFirmwareStart s
  | .stackTrainingDone stack ok => Sys2Proof.Machine.execStackTrainingDone stack ok s
  | .hbmInitDone stack => Sys2Proof.Machine.execHbmInitDone stack s
  | .bindingTableSetup => Sys2Proof.Machine.execBindingTableSetup s
  | .bootStageTimeout => Sys2Proof.Machine.execBootStageTimeout s
  | .identityChunkReserve => Sys2Proof.Machine.execIdentityChunkReserve s
  | .i2cBoardReport domain serial => Sys2Proof.Machine.execI2cBoardReport domain serial s
  | .status d => Sys2Proof.Machine.execStatus d s
  | .telemetry d => Sys2Proof.Machine.execTelemetry d s
  | .attest d => Sys2Proof.Machine.execAttest d s
  | .cert d => Sys2Proof.Machine.execCert d s
  | .mgtReset d => Sys2Proof.Machine.execMgtReset d s
  | .fenceClear d => Sys2Proof.Machine.execFenceClear d s
  | .powerCap d => Sys2Proof.Machine.execPowerCap d s
  | .updateBegin d => Sys2Proof.Machine.execUpdateBegin d s
  | .updateData d => Sys2Proof.Machine.execUpdateData d s
  | .updateCommit d => Sys2Proof.Machine.execUpdateCommit d s
  | .updateVerifyDone => Sys2Proof.Machine.execUpdateVerifyDone s
  | .enroll d enable => Sys2Proof.Machine.execEnroll d enable s
  | .release d => Sys2Proof.Machine.execRelease d s
  | .bridleForward d => Sys2Proof.Machine.execBridleForward d s
  | .powerSample w => Sys2Proof.Machine.execPowerSample w s
  | .temperatureSample t => Sys2Proof.Machine.execTemperatureSample t s
  | .arbiterTick => Sys2Proof.Machine.execArbiterTick s
  | .powerBrakeAssert => Sys2Proof.Machine.execPowerBrakeAssert s
  | .powerBrakeRelease => Sys2Proof.Machine.execPowerBrakeRelease s
  | .powerGoodFall => Sys2Proof.Machine.execPowerGoodFall s
  | .railUndervoltage rail millivolts => Sys2Proof.Machine.execRailUndervoltage rail millivolts s
  | .sysrefLoss => Sys2Proof.Machine.execSysrefLoss s
  | .linkrefLoss region => Sys2Proof.Machine.execLinkrefLoss region s
  | .managementPortBlockLock up => Sys2Proof.Machine.execManagementPortBlockLock up s
  | .malformedManagementDatagram d => Sys2Proof.Machine.execMalformedManagementDatagram d s
  | .commandProcessorWatchdog core => Sys2Proof.Machine.execCommandProcessorWatchdog core s

end Sys2Proof.Machine
end

