-- ==== Sys2Proof/Machine/Idle.lean ====
section
/-! DEFINITION. What a step does when no command waits (log entry 3): one fabric cycle passes, and what waits for nothing but
that cycle goes on. -/

namespace Sys2Proof.Machine

/-- What goes on by itself: collectives whose last contribution is accounted for complete (R346), pauses end (R336), and a
device that lost a region of its slots votes (R362). -/
def settle (s : State) : State := lossVote (settleColls ((List.range 24).foldl endPauses s))

/-- One fabric cycle in which no command waits. -/
def tick (s : State) : State := if s.hub.running then settle (tickCounters s) else s

end Sys2Proof.Machine
end

