-- ==== Sys2Proof/Safety.lean ====
section
/-! DEFINITION. What counts as a sound state, and the frames that claims use. -/

namespace Sys2Proof.Machine

/-! ### Sound states -/

/-- The canonical form of memory: addresses strictly rising, and no byte listed that reads 0 unlisted. -/
def Memory.wf (m : FMap Byte) : Bool := fwf 0 m

/-- Memory and the poison marks keep their canonical form. -/
def State.memWf (s : State) : Bool := Memory.wf s.mem && fwf false s.poison

/-- So do the tables of cells, blocks, regions, stacks and links. -/
def State.mapsWf (s : State) : Bool :=
  s.memWf && fwf {} s.cells && fwf {} s.blocks && fwf {} s.regions && fwf {} s.hbms && fwf {} s.links

/-! ### Issue by a context -/

/-- The context issues its next instruction: it is ready and granted its port, its program counter lies in the cell
store (R132), and the word there is not poisoned (Table 9-4) and holds no reserved opcode (R142). -/
def issues (s : State) (cx : Cx) : Bool :=
  ready s cx && decide ((s.ctx cx).pc + 8 ≤ cellSize) && !badRange s (cellAddr cx.cell + (s.ctx cx).pc) 8
    && !reservedWord (fetchWord s cx)

/-- Nothing outside a cell's contexts and counters has changed, and of those only the context `cx` and the count of
issued instructions, which is one more. -/
def OnlyCtx (cx : Cx) (s t : State) : Prop :=
  { t with cells := s.cells } = s
    ∧ (∀ n, n ≠ cx.cell → t.cell n = s.cell n)
    ∧ { t.cell cx.cell with ctxs := (s.cell cx.cell).ctxs, ctr := (s.cell cx.cell).ctr } = s.cell cx.cell
    ∧ (∀ k, k ≠ cx.ctx → t.ctx ⟨cx.cell, k⟩ = s.ctx ⟨cx.cell, k⟩)
    ∧ ∀ o, fget 0 (t.cell cx.cell).ctr o = fget 0 (s.cell cx.cell).ctr o + BitVec.ofNat 64 (b2n (o == offIssued))

/-- As `OnlyCtx`, and beside it the event counts of the cell, the telemetry of its region, and the status that a
poisoned source gives the kernel (R66, R154, R171, R302). -/
def OnlyLanes (cx : Cx) (s t : State) : Prop :=
  { t with cells := s.cells, regions := s.regions, ops := s.ops } = s
    ∧ (t.ops = s.ops ∨ t.ops = (kStat s cx stPOISON).ops)
    ∧ (∀ n, n ≠ cx.cell → t.cell n = s.cell n)
    ∧ { t.cell cx.cell with ctxs := (s.cell cx.cell).ctxs, ctr := (s.cell cx.cell).ctr } = s.cell cx.cell
    ∧ (∀ k, k ≠ cx.ctx → t.ctx ⟨cx.cell, k⟩ = s.ctx ⟨cx.cell, k⟩)
    ∧ (∀ r, r ≠ cx.cell / 40 → t.region r = s.region r)
    ∧ { t.region (cx.cell / 40) with tlm := (s.region (cx.cell / 40)).tlm } = s.region (cx.cell / 40)

/-- The registers of a context after an instruction that writes vector register `d` at most: lane by lane as `v`
says, and every other register and the context's other fields unchanged; EVT may gain bits (R171). -/
def WritesLanes (d : Nat) (v : Nat → Word) (c c' : Ctx) : Prop :=
  (∀ i, i < 512 → vget c' d i = v i)
    ∧ (∀ r i, r ≠ d → i < 512 → vget c' r i = vget c r i)
    ∧ c' = { c with vreg := c'.vreg, evt := c'.evt, pc := c.pc + 8 }

/-- The registers after an instruction that writes scalar register `d`: s0 reads zero (R130), and every other
register and field is unchanged. -/
def WritesScalar (d : Nat) (v : DWord) (c c' : Ctx) : Prop :=
  (∀ r, sget c' r = if r = 0 then 0 else if r = d then v else sget c r)
    ∧ c' = { c with sreg := c'.sreg, pc := c.pc + 8 }

/-- The masks after an instruction that writes mask register `d`. -/
def WritesMask (d : Nat) (v : Nat → Bool) (c c' : Ctx) : Prop :=
  (∀ i, i < 512 → (mget c' d).getLsbD i = v i)
    ∧ (∀ r, r ≠ d → mget c' r = mget c r)
    ∧ c' = { c with mask := c'.mask, pc := c.pc + 8 }

/-! ### Memory -/

/-- Every byte outside the ranges `l` of (address, length) reads as before, unless it lies in a poisoned block or
word that one of them writes in part (R262, R265). -/
def OnlyBytes (l : List (Nat × Nat)) (s t : State) : Prop :=
  ∀ x, (∀ p ∈ l, x < p.1 ∨ p.1 + p.2 ≤ x) → bad s x = false → rdByte t x = rdByte s x

/-- The retry areas of the Ethernet links (R338): a message that leaves through a tunnel is kept there. -/
def retryRanges (s : State) : List (Nat × Nat) :=
  (s.links.filter fun x => x.2.mode == 1 && !x.2.tunnels.isEmpty).map fun x => (x.2.retryArea, 2 ^ 28)

/-- No retry area comes within a block of `[a, a + n)`. -/
def farFromRetry (s : State) (a n : Nat) : Bool :=
  (retryRanges s).all fun p => decide (a + n + 64 ≤ p.1) || decide (p.1 + p.2 + 64 ≤ a)

/-! ### Commands that only act on part of the state -/

/-- Everything but the operations of the command processor is as before. -/
def OnlyOps (s t : State) : Prop := { t with ops := s.ops } = s

/-- An operation whose entry was `e` has its outcome: beside what it had met, status `st` (none more for OK). -/
def Ends (t : State) (e : OpEntry) (st : Nat) : Prop :=
  ∃ y, t.op? e.id = some y ∧ y.phase = .finished ∧ y.stats = (e.addStat st).stats

/-- `e` is the entry of an admitted operation of opcode `opc`. -/
def Admitted (s : State) (opc : Nat) (e : OpEntry) : Prop :=
  s.op? e.id = some e ∧ e.opcode = opc ∧ e.phase = .admitted

end Sys2Proof.Machine
end

