-- ==== Sys2Proof/WellFormed.lean ====
section
/-! DEFINITION. Well-formed commands: operands that name a unit, a channel or a value that the device has.
A command that is not well formed leaves the state unchanged (log entry 2). -/

namespace Sys2Proof

/-- 160 cells of 16 contexts (R3, R129). -/
def cxWf (cx : Cx) : Bool := decide (cx.cell < 160) && decide (cx.ctx < 16)

/-- 256 channels (R369); a tag has 32 bits. -/
def opWf (o : OpId) : Bool := decide (o.channel < 256) && decide (o.tag < 2 ^ 32)

/-- Engines of Table 7-3. -/
def engineWf : Engine → Bool
  | .cell n => decide (n < 160)
  | .gs b => decide (b < 20)
  | .block b => decide (b < 20)
  | .region r => decide (r < 4)

def hwWf : HwError → Bool
  | .correctedCellStore n => decide (n < 160)
  | .correctedBlockStore b => decide (b < 20)
  | .correctedOther r => decide (r < 4)
  | .sramWord a => decide (a < 2 ^ 48)
  | .curveMemory n k => decide (n < 160) && decide (k < 16)
  | .cellFault n => decide (n < 160)
  | .blockFault b => decide (b < 20)
  | .linkFault l => decide (l < 24)
  | .regionFault r => decide (r < 4)
  | .deviceFault => true

/-- A write within one 64-byte block (R258). -/
def hbmWriteWf (w : HbmWrite) : Bool :=
  decide (0 < w.data.length) && decide (w.addr % 64 + w.data.length ≤ 64) && decide (w.addr < 2 ^ 48)

def peerWf (p : PeerInfo) : Bool := decide (p.deviceId < 2 ^ 16) && decide (p.localLink < 24)

/-- A message carries at most 4,096 bytes (R315). -/
def msgWf (m : Msg) : Bool := decide (m.dest < 2 ^ 64) && decide (m.op < 16) && decide (m.data.length ≤ 4096)

def srcWf (s : Src) : Bool := decide (s.id < 2 ^ 16) && decide (s.region < 4)

def headerWf : Option (List Byte) → Bool
  | some h => decide (h.length = 64)
  | none => true

def slotWriteWf (w : SlotWrite) : Bool :=
  decide (w.master < 256) && decide (w.addr < 2 ^ 48) && decide (w.via < 4) && decide (w.data.length ≤ 4096)

def datagramWf (d : Datagram) : Bool := decide (d.mac.length ≤ 32)

def tempsWf (t : Temps) : Bool := decide (t.regions.length = 4) && decide (t.stackC.length = 12)

/-- Well-formedness of a command. -/
def Instr.wf : Instr → Bool
  | .vadd cx _ => cxWf cx
  | .vsub cx _ => cxWf cx
  | .vmul cx _ => cxWf cx
  | .vfma cx _ => cxWf cx
  | .vfnma cx _ => cxWf cx
  | .vdiv cx _ => cxWf cx
  | .vmin cx _ => cxWf cx
  | .vmax cx _ => cxWf cx
  | .vabs cx _ => cxWf cx
  | .vneg cx _ => cxWf cx
  | .vsqrt cx _ => cxWf cx
  | .vand cx _ => cxWf cx
  | .vor cx _ => cxWf cx
  | .vxor cx _ => cxWf cx
  | .vnot cx _ => cxWf cx
  | .vshl cx _ => cxWf cx
  | .vshr cx _ => cxWf cx
  | .vsra cx _ => cxWf cx
  | .vcmp cx _ => cxWf cx
  | .vsel cx _ => cxWf cx
  | .vcvt cx _ => cxWf cx
  | .vmov cx _ => cxWf cx
  | .vbcast cx _ => cxWf cx
  | .viota cx _ => cxWf cx
  | .vperm cx _ => cxWf cx
  | .vrot cx _ => cxWf cx
  | .vext cx _ => cxWf cx
  | .vins cx _ => cxWf cx
  | .vrsum cx _ => cxWf cx
  | .vrprod cx _ => cxWf cx
  | .vrmax cx _ => cxWf cx
  | .vrmin cx _ => cxWf cx
  | .vrmean cx _ => cxWf cx
  | .vrargmax cx _ => cxWf cx
  | .vrargmin cx _ => cxWf cx
  | .mand cx _ => cxWf cx
  | .mor cx _ => cxWf cx
  | .mxor cx _ => cxWf cx
  | .mnot cx _ => cxWf cx
  | .mpop cx _ => cxWf cx
  | .mfirst cx _ => cxWf cx
  | .mld cx _ => cxWf cx
  | .mst cx _ => cxWf cx
  | .vld cx _ => cxWf cx
  | .vst cx _ => cxWf cx
  | .vrand cx _ => cxWf cx
  | .vgath cx _ => cxWf cx
  | .vscat cx _ => cxWf cx
  | .vscadd cx _ => cxWf cx
  | .tadd cx _ => cxWf cx
  | .tsub cx _ => cxWf cx
  | .tmul cx _ => cxWf cx
  | .tfma cx _ => cxWf cx
  | .tfnma cx _ => cxWf cx
  | .tdiv cx _ => cxWf cx
  | .tmin cx _ => cxWf cx
  | .tmax cx _ => cxWf cx
  | .tabs cx _ => cxWf cx
  | .tneg cx _ => cxWf cx
  | .tsqrt cx _ => cxWf cx
  | .tand cx _ => cxWf cx
  | .tor cx _ => cxWf cx
  | .txor cx _ => cxWf cx
  | .tnot cx _ => cxWf cx
  | .tshl cx _ => cxWf cx
  | .tshr cx _ => cxWf cx
  | .tsra cx _ => cxWf cx
  | .tcmp cx _ => cxWf cx
  | .tsel cx _ => cxWf cx
  | .tcvt cx _ => cxWf cx
  | .tcopy cx _ => cxWf cx
  | .tfill cx _ => cxWf cx
  | .tiota cx _ => cxWf cx
  | .trsum cx _ => cxWf cx
  | .trprod cx _ => cxWf cx
  | .trmax cx _ => cxWf cx
  | .trmin cx _ => cxWf cx
  | .trmean cx _ => cxWf cx
  | .trargmax cx _ => cxWf cx
  | .trargmin cx _ => cxWf cx
  | .trand cx _ => cxWf cx
  | .sadd cx _ => cxWf cx
  | .ssub cx _ => cxWf cx
  | .smul cx _ => cxWf cx
  | .sand cx _ => cxWf cx
  | .sor cx _ => cxWf cx
  | .sxor cx _ => cxWf cx
  | .sshl cx _ => cxWf cx
  | .sshr cx _ => cxWf cx
  | .sli cx _ => cxWf cx
  | .slhi cx _ => cxWf cx
  | .srd cx _ => cxWf cx
  | .swr cx _ => cxWf cx
  | .sld cx _ => cxWf cx
  | .sst cx _ => cxWf cx
  | .br cx _ => cxWf cx
  | .beq cx _ => cxWf cx
  | .bne cx _ => cxWf cx
  | .blt cx _ => cxWf cx
  | .bge cx _ => cxWf cx
  | .loopCtx cx _ => cxWf cx
  | .aissue cx _ => cxWf cx
  | .await cx _ => cxWf cx
  | .dissue cx _ => cxWf cx
  | .dwait cx _ => cxWf cx
  | .fenceCtx cx _ => cxWf cx
  | .bar cx _ => cxWf cx
  | .endCtx cx _ => cxWf cx
  | .feval cx _ => cxWf cx
  | .fevalx cx _ => cxWf cx
  | .frefine cx _ => cxWf cx
  | .rstat cx _ => cxWf cx
  | .rnorm cx _ => cxWf cx
  | .smax cx _ => cxWf cx
  | .rscale cx _ => cxWf cx
  | .scan cx _ => cxWf cx
  | .streamChunkIssue cx => cxWf cx
  | .contextWaitEnd cx => cxWf cx
  | .kernelStart o => opWf o
  | .contextImageSaveDone o => opWf o
  | .contextRestoreDone o => opWf o
  | .kernelAbortStop o => opWf o
  | .productStart cell => decide (cell < 160)
  | .passStart cell => decide (cell < 160)
  | .rowResultAccept cell => decide (cell < 160)
  | .blockRowWrite cell => decide (cell < 160)
  | .drainEncodeSweep cell => decide (cell < 160)
  | .productComplete cell => decide (cell < 160)
  | .arrayPreemptEffect cell => decide (cell < 160)
  | .tileContextSaveDone cell => decide (cell < 160)
  | .tileContextRestoreDone cell => decide (cell < 160)
  | .arrayAbortStop cell => decide (cell < 160)
  | .tableLoadTakeEffect cell => decide (cell < 160)
  | .cellReady region => decide (region < 4)
  | .clockSwitchDone region => decide (region < 4)
  | .hardwareError e => hwWf e
  | .dmaDescriptorStart e => engineWf e
  | .dmaDescriptorComplete e => engineWf e
  | .dmaAbortStop e => engineWf e
  | .sparseJobPlan block => decide (block < 20)
  | .workUnitDispatch block cell => decide (block < 20) && decide (cell < 8)
  | .workUnitFinish block cell => decide (block < 20) && decide (cell < 8)
  | .blockJobPreemptDone block => decide (block < 20)
  | .hbmReadReturn stack addr _ => decide (stack < 12) && decide (addr < 2 ^ 48)
  | .hbmWriteAccept w => hbmWriteWf w
  | .residencyTakeEffect => true
  | .telemetryRecordWrite region => decide (region < 4)
  | .updateHoldRelease o => opWf o
  | .deferredProductStart cell => decide (cell < 160)
  | .deferredYield cell => decide (cell < 160)
  | .deferredResume cell => decide (cell < 160)
  | .deadlinePromotion o => opWf o
  | .freezeTakeEffect => true
  | .linkTrainingDone link _ _ => decide (link < 24)
  | .linkControlFlit link peer => decide (link < 24) && peerWf peer
  | .linkSignalLoss link => decide (link < 24)
  | .flitReceive link flit => decide (link < 24) && decide (flit.length = 256)
  | .nullFlitReceive link flit => decide (link < 24) && decide (flit.length = 256)
  | .retryRequest link flit => decide (link < 24) && decide (flit.length = 256)
  | .nullFlitTimer link => decide (link < 24)
  | .flitTransmit link => decide (link < 24)
  | .remoteWrite region m => decide (region < 4) && msgWf m
  | .readRequest region m => decide (region < 4) && msgWf m
  | .readResponse region m => decide (region < 4) && msgWf m
  | .atomicAdd region m => decide (region < 4) && msgWf m
  | .collectiveContribution region c => decide (region < 4) && decide (c.rank < 262144)
  | .collectiveResult region c => decide (region < 4) && headerWf c.header
  | .heartbeat region link _ => decide (region < 4) && decide (link < 24)
  | .lost region _ => decide (region < 4)
  | .bridleQuiesce region src _ => decide (region < 4) && srcWf src
  | .bridleAbort region src _ => decide (region < 4) && srcWf src
  | .commitVote src _ => srcWf src
  | .commitResult _ => true
  | .plcFinal region _ => decide (region < 4)
  | .unreachable region _ => decide (region < 4)
  | .bridleEcho region src _ => decide (region < 4) && srcWf src
  | .bridleBad link typ _ => decide (link < 24) && decide (typ < 65536)
  | .heartbeatTimer region => decide (region < 4)
  | .peerSilenceTimeout link => decide (link < 24)
  | .bridleDeliveryTimeout o _ => opWf o
  | .ethernetFrameReceive link _ => decide (link < 24)
  | .tunnelResendTimer link tunnel => decide (link < 24) && decide (tunnel < 256)
  | .tunnelFenceTimeout link tunnel => decide (link < 24) && decide (tunnel < 256)
  | .collectiveStart o => opWf o
  | .shardDeadline region cid _ => decide (region < 4) && decide (cid < 4294967296)
  | .mirrorCopyComplete region _ => decide (region < 4)
  | .flashImageComplete _ => true
  | .voteTimeout child => decide (child < 65536)
  | .resultTimeout _ => true
  | .pairHandshake peer _ _ => decide (peer < 65536)
  | .mailboxSlotWrite w => slotWriteWf w
  | .mailboxSlotTake reader channel => decide (reader < 256) && decide (channel < 256)
  | .operationAdmit region => decide (region < 4)
  | .recordCommit o => opWf o
  | .ringHeadPoll ring => decide (ring < 64)
  | .remoteControlTimeout o _ => opWf o
  | .bindingLock master => decide (master < 256)
  | .sampleStrobe master => decide (master < 256)
  | .sampleLatchDone => true
  | .registerWrite master addr value => decide (master < 256) && decide (addr < 2 ^ 48) && decide (value < 2 ^ 64)
  | .dmaRegion o => opWf o
  | .dmaBlock o => opWf o
  | .dmaGather o => opWf o
  | .kernelLaunch o => opWf o
  | .blockJob o => opWf o
  | .invRoot o => opWf o
  | .codebookLoad o => opWf o
  | .fmtLoad o => opWf o
  | .curveLoad o => opWf o
  | .rescalePlace o => opWf o
  | .scheduleLoad o => opWf o
  | .freezeLoad o => opWf o
  | .allReduce o => opWf o
  | .reduceScatter o => opWf o
  | .allGather o => opWf o
  | .allToAll o => opWf o
  | .broadcast o => opWf o
  | .snapConfig o => opWf o
  | .snapCommit o => opWf o
  | .snapPair o => opWf o
  | .snapRestore o => opWf o
  | .snapRecover o => opWf o
  | .snapRelease o => opWf o
  | .privCopy o => opWf o
  | .counterCopy o => opWf o
  | .cycleSample o => opWf o
  | .abort o => opWf o
  | .preempt o => opWf o
  | .resume o => opWf o
  | .quiesce o => opWf o
  | .unquiesce o => opWf o
  | .echo o => opWf o
  | .residencySet o => opWf o
  | .telemetrySet o => opWf o
  | .peerLoad o => opWf o
  | .routeLoad o => opWf o
  | .ethConfig o => opWf o
  | .ringSetup o => opWf o
  | .identityRead o => opWf o
  | .powerGoodRise p => decide (p.position < 4)
  | .imageVerify bank type => decide (bank < 2) && decide (type < 256)
  | .bootFirmwareStart => true
  | .stackTrainingDone stack _ => decide (stack < 12)
  | .hbmInitDone stack => decide (stack < 12)
  | .bindingTableSetup => true
  | .bootStageTimeout => true
  | .identityChunkReserve => true
  | .i2cBoardReport _ _ => true
  | .status d => datagramWf d
  | .telemetry d => datagramWf d
  | .attest d => datagramWf d
  | .cert d => datagramWf d
  | .mgtReset d => datagramWf d
  | .fenceClear d => datagramWf d
  | .powerCap d => datagramWf d
  | .updateBegin d => datagramWf d
  | .updateData d => datagramWf d
  | .updateCommit d => datagramWf d
  | .updateVerifyDone => true
  | .enroll d _ => datagramWf d
  | .release d => datagramWf d
  | .bridleForward d => datagramWf d
  | .powerSample w => decide (w.regions.length = 4)
  | .temperatureSample t => tempsWf t
  | .arbiterTick => true
  | .powerBrakeAssert => true
  | .powerBrakeRelease => true
  | .powerGoodFall => true
  | .railUndervoltage rail _ => decide (rail < 3)
  | .sysrefLoss => true
  | .linkrefLoss region => decide (region < 4)
  | .managementPortBlockLock _ => true
  | .malformedManagementDatagram d => datagramWf d
  | .commandProcessorWatchdog core => decide (core < 4)

end Sys2Proof
end

