-- ==== Sys2Proof/Certificates/Slice0/Obligations.lean ====
section
/-! DEFINITION. Statements about the model. -/

open Sys2Proof Sys2Proof.Machine

/-! ### The step and the reset state -/

/-- With a command at the front of the queue, a step is that command on the rest (the block's reading of a step). -/
def Obligations.StepRunsFront : Prop :=
  ∀ (c : Instr) (s : State), step { s with pending := c :: s.pending } = exec c s

/-- A step on an empty queue advances the counters of R38 by one fabric cycle, the model's choice of a tick (log entry 3). -/
def Obligations.IdleStepCounts : Prop :=
  ∀ s : State, s.pending = [] → s.hub.running = true →
    ∃ t, step s = .next t ∧ t.hub.cycle = s.hub.cycle + 1
      ∧ (∀ r, r < 4 → (t.region r).cycle = (s.region r).cycle + (if (s.region r).released then 1 else 0))
      ∧ t.pending = []
      ∧ ((∀ r, r < 4 → (s.region r).colls = []) → (∀ l, l < 24 → (s.link l).paused = []) → s.hrw.configured = false →
          t.mem = s.mem ∧ t.ops = s.ops)

/-- The reset values of Tables 13-16, 14-10, 1-11 and 11-12; stage 0 stands for the time before power-good (log entry 1). -/
def Obligations.ResetState : Prop :=
  State.reset.pending = [] ∧ State.reset.mem = [] ∧ State.reset.mbx.locked = false
    ∧ (∀ ch, (State.reset.slot ch).full = false) ∧ State.reset.ops = [] ∧ State.reset.hub.step = 0
    ∧ State.reset.pwr.cap = 2200 ∧ State.reset.hub.cycle = 0 ∧ (∀ r, (State.reset.region r).cycle = 0)
    ∧ State.reset.cnt.stage = 0

/-- The invariant of `StepKeepsCanonical` holds at reset. -/
def Obligations.ResetCanonical : Prop :=
  State.reset.mapsWf = true

/-- Every one of the commands, and the tick, keeps the canonical form of memory, of the poison marks, and of the tables of units. -/
def Obligations.StepKeepsCanonical : Prop :=
  ∀ s t : State, s.mapsWf = true → step s = .next t → t.mapsWf = true

/-- exec is the effect on everything but the queue, for every command. -/
def Obligations.CommandsLeaveQueue : Prop :=
  ∀ (c : Instr) (s t : State), exec c s = .next t → t.pending = s.pending

/-- R11 whole, for the lock of R370, the only RWL lock of the device: only the commands that reset the device can clear it. -/
def Obligations.LockStaysSet : Prop :=
  ∀ (c : Instr) (s t : State), s.mbx.locked = true → exec c s = .next t →
    t.mbx.locked = true ∨ (∃ p, c = .powerGoodRise p) ∨ c = .powerGoodFall ∨ (∃ r v, c = .railUndervoltage r v)
      ∨ c = .sysrefLoss ∨ ∃ d, c = .mgtReset d

/-! ### Register-form instructions -/

/-- Arithmetic of Table 5-5: constructor, types allowed, operation number. -/
def laneArith : List ((Cx → Vr → Instr) × List Nat × Nat) :=
  [(.vadd, [tyF, tyI, tyU], 0), (.vsub, [tyF, tyI, tyU], 1), (.vmul, [tyF, tyI, tyU], 2), (.vfma, [tyF, tyI], 3),
   (.vfnma, [tyF, tyI], 4), (.vdiv, [tyF], 5), (.vmin, [tyF, tyI, tyU], 6), (.vmax, [tyF, tyI, tyU], 7),
   (.vabs, [tyF, tyI], 8), (.vneg, [tyF, tyI], 9), (.vsqrt, [tyF], 10), (.vand, [tyU], 12), (.vor, [tyU], 13),
   (.vxor, [tyU], 14), (.vnot, [tyU], 15), (.vshl, [tyU], 16), (.vshr, [tyU], 17)]

/-- The lanes that R137 leaves: `g` where active, else the old lane or zero. -/
def laneAt (c : Ctx) (f : Vr) (g : Nat → Word) (i : Nat) : Word :=
  if vrActive c f i then g i else if f.mz then 0 else vget c f.d i

/-- Arithmetic by lanes (R136, R137, R144, Tables 5-5 and 5-11). -/
def Obligations.LaneArithmetic : Prop :=
  ∀ p ∈ laneArith, ∀ (s : State) (cx : Cx) (f : Vr), issues s cx = true → vrOk f p.2.1 0 = true →
    ∃ t, exec (p.1 cx f) s = .next t ∧ OnlyLanes cx s t
      ∧ WritesLanes f.d
          (laneAt (s.ctx cx) f fun i =>
            (laneOp f.t p.2.2 (vget (s.ctx cx) f.a i) (vrB (s.ctx cx) f i) (vget (s.ctx cx) f.c i)).1)
          (s.ctx cx) (t.ctx cx)

/-- The value in the range of INT32 nearest to `x`. -/
def clampI32 (x : Int) : Int := max (-2147483648) (min 2147483647 x)

/-- INT32 arithmetic saturates; UINT32 arithmetic is modulo 2^32 (R136). -/
def Obligations.IntegerLanes : Prop :=
  ∀ (s : State) (cx : Cx) (f : Vr) (i : Nat), issues s cx = true → vrOk f [tyI, tyU] 0 = true → i < 512 →
    vrActive (s.ctx cx) f i = true →
    let a := vget (s.ctx cx) f.a i
    let b := vrB (s.ctx cx) f i
    (∃ t, exec (.vadd cx f) s = .next t
      ∧ (f.t = tyI → (vget (t.ctx cx) f.d i).toInt = clampI32 (a.toInt + b.toInt))
      ∧ (f.t = tyU → (vget (t.ctx cx) f.d i).toNat = (a.toNat + b.toNat) % 2 ^ 32))
    ∧ (∃ t, exec (.vsub cx f) s = .next t
      ∧ (f.t = tyI → (vget (t.ctx cx) f.d i).toInt = clampI32 (a.toInt - b.toInt))
      ∧ (f.t = tyU → (vget (t.ctx cx) f.d i).toNat = (a.toNat + (2 ^ 32 - b.toNat)) % 2 ^ 32))
    ∧ (∃ t, exec (.vmul cx f) s = .next t
      ∧ (f.t = tyI → (vget (t.ctx cx) f.d i).toInt = clampI32 (a.toInt * b.toInt))
      ∧ (f.t = tyU → (vget (t.ctx cx) f.d i).toNat = a.toNat * b.toNat % 2 ^ 32))

/-- Moves, selections and the generator: constructor, fields allowed, and the value of an active lane. -/
def laneMoves : List ((Cx → Vr → Instr) × (Vr → Bool) × (Ctx → Vr → Nat → Word)) :=
  [(.vsra, fun f => vrOk f [tyI] 0, fun c f i => sraOp (vget c f.a i) (vrB c f i)),
   (.vsel, fun f => vrOk f [tyF, tyI, tyU] 7,
    fun c f i => if (mget c f.i).getLsbD i then vget c f.a i else vrB c f i),
   (.vcvt, fun f => vrOk f [tyF, tyI] 1, fun c f i => (cvtLane f.t f.i (vget c f.a i)).1),
   (.vmov, fun f => vrOk f [tyF, tyI, tyU] 0, fun c f i => vget c f.a i),
   (.vbcast, fun f => vrOk f [tyF, tyI, tyU] 0 && decide (f.a < 16), fun c f _ => (sget c f.a).setWidth 32),
   (.viota, fun f => vrOk f [tyI] 0 && decide (f.a < 16),
    fun c f i => ofI32 (satI32 ((i : Int) + ((sget c f.a).setWidth 32 : Word).toInt)).1),
   (.vperm, fun f => vrOk f [tyF, tyI, tyU] 0, fun c f i => vget c f.a ((vrB c f i).toNat % 512)),
   (.vrot, fun f => vrOk f [tyF, tyI, tyU] 0x1FF, fun c f i => vget c f.a ((i + f.i) % 512)),
   (.vrand, fun f => vrOk f [tyU, tyF] 0x1FFFF && decide (f.a < 16) && (!natBit f.i 16 || f.t == tyF),
    fun c f i =>
      let w := rngDraw c.seed c.step (f.i % 65536) (((sget c f.a).toNat + i) % 2 ^ 32)
      if natBit f.i 16 then toF32 (uniformVal w) else w)]

/-- Moves, selections, conversions and the generator by lanes (R144, R163, R165, R166). -/
def Obligations.LaneMovesResult : Prop :=
  ∀ p ∈ laneMoves, ∀ (s : State) (cx : Cx) (f : Vr), issues s cx = true → p.2.1 f = true →
    ∃ t, exec (p.1 cx f) s = .next t ∧ OnlyLanes cx s t
      ∧ WritesLanes f.d (laneAt (s.ctx cx) f (p.2.2 (s.ctx cx) f)) (s.ctx cx) (t.ctx cx)

/-- Mask operations: constructor, whether VB is read, the operation. -/
def maskOps : List ((Cx → Vr → Instr) × Bool × (Bool → Bool → Bool)) :=
  [(.mand, true, fun a b => a && b), (.mor, true, fun a b => a || b), (.mxor, true, fun a b => a != b),
   (.mnot, false, fun a _ => !a)]

/-- Compares and mask instructions of Table 5-5. -/
def Obligations.MaskResults : Prop :=
  ∀ (s : State) (cx : Cx) (f : Vr), issues s cx = true →
    (vrOk f [tyF, tyI, tyU] 7 = true → f.d < 8 →
      ∃ t, exec (.vcmp cx f) s = .next t ∧ OnlyCtx cx s t
        ∧ WritesMask f.d
            (fun i => if vrActive (s.ctx cx) f i then
                cmpVal f.i (laneVal f.t (vget (s.ctx cx) f.a i)) (laneVal f.t (vrB (s.ctx cx) f i))
              else !f.mz && (mget (s.ctx cx) f.d).getLsbD i) (s.ctx cx) (t.ctx cx))
    ∧ (∀ p ∈ maskOps, vrOk f [tyF] 0 = true → f.d < 8 → f.a < 8 → (p.2.1 = true → f.b < 8) →
      ∃ t, exec (p.1 cx f) s = .next t ∧ OnlyCtx cx s t
        ∧ WritesMask f.d
            (fun i => if vrActive (s.ctx cx) f i then
                p.2.2 ((mget (s.ctx cx) f.a).getLsbD i) ((mget (s.ctx cx) (f.b % 8)).getLsbD i)
              else !f.mz && (mget (s.ctx cx) f.d).getLsbD i) (s.ctx cx) (t.ctx cx))
    ∧ (vrOk f [tyF] 0 = true → f.d < 16 →
      (∃ t, exec (.mpop cx f) s = .next t ∧ OnlyCtx cx s t
        ∧ WritesScalar f.d (BitVec.ofNat 64 (popBits (mget (s.ctx cx) (f.a % 8)))) (s.ctx cx) (t.ctx cx))
      ∧ ∃ t, exec (.mfirst cx f) s = .next t ∧ OnlyCtx cx s t
        ∧ WritesScalar f.d
            (match firstBit (mget (s.ctx cx) (f.a % 8)) with
              | some i => BitVec.ofNat 64 i
              | none => BitVec.allOnes 64) (s.ctx cx) (t.ctx cx))

/-- Reductions: constructor, types, number. -/
def laneReds : List ((Cx → Vr → Instr) × List Nat × Nat) :=
  [(.vrsum, [tyF, tyI], 0), (.vrprod, [tyF, tyI], 1), (.vrmax, [tyF, tyI, tyU], 2), (.vrmin, [tyF, tyI, tyU], 3),
   (.vrmean, [tyF], 4), (.vrargmax, [tyF, tyI, tyU], 5), (.vrargmin, [tyF, tyI, tyU], 6)]

/-- Register-form reductions (R155, R158, R159). -/
def Obligations.LaneReductions : Prop :=
  ∀ p ∈ laneReds, ∀ (s : State) (cx : Cx) (f : Vr), issues s cx = true → vrOk f p.2.1 0 = true → f.d < 16 →
    ∃ t, exec (p.1 cx f) s = .next t ∧ OnlyLanes cx s t
      ∧ (∀ r, sget (t.ctx cx) r = if r = 0 then 0
          else if r = f.d then (reduceLanes f.t p.2.2 (vrLaneOpts (s.ctx cx) f f.a)).1 else sget (s.ctx cx) r)
      ∧ (vrActives (s.ctx cx) f = [] → f.d ≠ 0 → sget (t.ctx cx) f.d = redIdentity f.t p.2.2)
      ∧ (t.ctx cx).count = BitVec.ofNat 64 (vrActives (s.ctx cx) f).length
      ∧ t.ctx cx = { s.ctx cx with
          sreg := (t.ctx cx).sreg, count := (t.ctx cx).count, evt := (t.ctx cx).evt, pc := (s.ctx cx).pc + 8 }

/-- VEXT and VINS of Table 5-5. -/
def Obligations.LaneExtractInsert : Prop :=
  ∀ (s : State) (cx : Cx) (f : Vr), issues s cx = true → vrOk f [tyF, tyI, tyU] 0x1FF = true →
    (f.d < 16 → ∃ t, exec (.vext cx f) s = .next t ∧ OnlyLanes cx s t
      ∧ WritesScalar f.d
          (if vrActive (s.ctx cx) f f.i then
            (if f.t = tyI then (vget (s.ctx cx) f.a f.i).signExtend 64 else (vget (s.ctx cx) f.a f.i).setWidth 64)
          else if f.mz then 0 else sget (s.ctx cx) f.d) (s.ctx cx) (t.ctx cx))
    ∧ (f.a < 16 → ∃ t, exec (.vins cx f) s = .next t ∧ OnlyLanes cx s t
      ∧ WritesLanes f.d
          (fun i => if i = f.i then laneAt (s.ctx cx) f (fun _ => (sget (s.ctx cx) f.a).setWidth 32) i
            else vget (s.ctx cx) f.d i) (s.ctx cx) (t.ctx cx))

/-- Mask loads and stores (Table 5-5, Table 5-11). -/
def Obligations.MaskMemory : Prop :=
  ∀ (s : State) (cx : Cx) (f : Vr), issues s cx = true → vrOk f [tyF] 0 = true → f.a < 16 →
    let a := (sget (s.ctx cx) f.a).toNat
    reach s cx a 64 = true →
    (f.d < 8 → ∃ t, exec (.mld cx f) s = .next t ∧ OnlyLanes cx s t
      ∧ (∀ i, i < 512 → (mget (t.ctx cx) f.d).getLsbD i = (!bad s (a + i / 8) && (rdByte s (a + i / 8)).getLsbD (i % 8)))
      ∧ (∀ r, r ≠ f.d → mget (t.ctx cx) r = mget (s.ctx cx) r)
      ∧ t.ctx cx = { s.ctx cx with mask := (t.ctx cx).mask, evt := (t.ctx cx).evt, pc := (s.ctx cx).pc + 8 })
    ∧ ∃ t, exec (.mst cx f) s = .next t
      ∧ (∀ i, i < 512 → (rdByte t (a + i / 8)).getLsbD (i % 8) = (mget (s.ctx cx) (f.d % 8)).getLsbD i)
      ∧ OnlyBytes [(a, 64)] s t
      ∧ { t with cells := s.cells, mem := s.mem, poison := s.poison, ops := s.ops } = s
      ∧ t.ctx cx = { s.ctx cx with pc := (s.ctx cx).pc + 8 }

/-- The ranges that a VST writes: its elements, and the scale bytes of a scaled format. -/
def vstRanges (s : State) (cx : Cx) (f : Vr) : List (Nat × Nat) :=
  let a := (sget (s.ctx cx) f.a).toNat
  let fm := Fmt.ofDesc (s.cell cx.cell) (f.i % 16)
  if natBit f.i 4 then [(a, 2048)]
  else (a, elemBytes fm.bits 512) :: if fm.scaled then [((sget (s.ctx cx) (f.a + 1)).toNat % 2 ^ 48, 4)] else []

/-- Register-form loads and stores (R152, Table 5-10). -/
def Obligations.VectorMemory : Prop :=
  ∀ (s : State) (cx : Cx) (f : Vr), issues s cx = true →
    (vrMemOk s cx f false = none →
      ∃ t, exec (.vld cx f) s = .next t ∧ OnlyLanes cx s t
        ∧ WritesLanes f.d (laneAt (s.ctx cx) f fun i => (vldLane s cx f i).1) (s.ctx cx) (t.ctx cx))
    ∧ (vrMemOk s cx f true = none →
      let a := (sget (s.ctx cx) f.a).toNat
      ∃ t, exec (.vst cx f) s = .next t ∧ OnlyBytes (vstRanges s cx f) s t
        ∧ (natBit f.i 4 = true → ∀ i, i < 512 →
            (vrActive (s.ctx cx) f i = true → rdNat t (a + 4 * i) 4 = (vget (s.ctx cx) f.d i).toNat)
            ∧ (vrActive (s.ctx cx) f i = false → bad s (a + 4 * i) = false → rdNat t (a + 4 * i) 4 = rdNat s (a + 4 * i) 4))
        ∧ t.ctx cx = { s.ctx cx with evt := (t.ctx cx).evt, pc := (s.ctx cx).pc + 8 })

/-- Gather, scatter and scatter-add (R160, R162); which of several lanes lands, and the order of additions, are free values. -/
def Obligations.GatherScatter : Prop :=
  ∀ (s : State) (cx : Cx) (f : Vr), issues s cx = true → vrGsReach s cx f = true →
    let w := vrGsBytes s cx f
    let base := (sget (s.ctx cx) f.b).toNat
    let ranges := (vrTargets (s.ctx cx) f).map fun x => (base + w * x.1, w)
    (vrGsOk s cx f [tyF, tyI, tyU] false = none →
      (∃ t, exec (.vgath cx f) s = .next t ∧ OnlyLanes cx s t
        ∧ (∀ i, i < 512 → vget (t.ctx cx) f.d i = laneAt (s.ctx cx) f (fun i => (gathLane s cx f i).1) i)
        ∧ (∀ r i, r ≠ f.d → i < 512 → vget (t.ctx cx) r i = vget (s.ctx cx) r i)
        ∧ mget (t.ctx cx) (f.i % 8) = vrGsMask (s.ctx cx) f
        ∧ t.ctx cx = { s.ctx cx with
            vreg := (t.ctx cx).vreg, mask := (t.ctx cx).mask, evt := (t.ctx cx).evt, pc := (s.ctx cx).pc + 8 })
      ∧ ∃ t, exec (.vscat cx f) s = .next t ∧ OnlyBytes ranges s t
        ∧ (∀ x ∈ vrTargets (s.ctx cx) f, ∀ i, x.2 = [i] → bad s (base + w * x.1) = false →
            rdBytes t (base + w * x.1) w = leBytes w (scatLane s cx f i).1)
        ∧ mget (t.ctx cx) (f.i % 8) = vrGsMask (s.ctx cx) f
        ∧ t.ctx cx = { s.ctx cx with mask := (t.ctx cx).mask, evt := (t.ctx cx).evt, pc := (s.ctx cx).pc + 8 })
    ∧ (vrGsOk s cx f [tyF, tyI] true = none →
      ∃ t, exec (.vscadd cx f) s = .next t ∧ OnlyBytes ranges s t
        ∧ mget (t.ctx cx) (f.i % 8) = vrGsMask (s.ctx cx) f
        ∧ t.ctx cx = { s.ctx cx with mask := (t.ctx cx).mask, evt := (t.ctx cx).evt, pc := (s.ctx cx).pc + 8 })

/-! ### Scalar and control instructions -/

/-- R130 whole: reads of s0 give zero, and a write to s0 changes nothing. -/
def Obligations.ScalarZeroRegister : Prop :=
  ∀ (c : Ctx) (v : DWord), sget c 0 = 0 ∧ sset c 0 v = c

/-- Scalar arithmetic of Table 5-7: constructor, fields allowed, value. -/
def scalarAlu : List ((Cx → Sc → Instr) × (Sc → Bool) × (Ctx → Sc → DWord)) :=
  [(.sadd, fun f => scOk f true true true 40, fun c f => sget c f.a + sget c f.b + f.i),
   (.ssub, fun f => scOk f true true true 40, fun c f => sget c f.a - sget c f.b - f.i),
   (.smul, fun f => scOk f true true true 40, fun c f => sget c f.a * (sget c f.b + f.i)),
   (.sand, fun f => scOk f true true true 40, fun c f => sget c f.a &&& (sget c f.b ||| f.i)),
   (.sor, fun f => scOk f true true true 40, fun c f => sget c f.a ||| sget c f.b ||| f.i),
   (.sxor, fun f => scOk f true true true 40, fun c f => sget c f.a ^^^ sget c f.b ^^^ f.i),
   (.sshl, fun f => scOk f true true true 40, fun c f => sget c f.a <<< ((sget c f.b + f.i).toNat % 64)),
   (.sshr, fun f => scOk f true true true 40, fun c f => sget c f.a >>> ((sget c f.b + f.i).toNat % 64)),
   (.sli, fun f => scOk f true true true 40, fun _ f => f.i),
   (.slhi, fun f => scOk f true true false 24,
    fun c f => BitVec.ofNat 64 (f.imm.toNat % 2 ^ 24 * 2 ^ 40 + (sget c f.a).toNat % 2 ^ 40))]

/-- Scalar arithmetic (R147, Table 5-7) and SRD (R167). -/
def Obligations.ScalarResults : Prop :=
  ∀ (s : State) (cx : Cx) (f : Sc), issues s cx = true →
    (∀ p ∈ scalarAlu, p.2.1 f = true →
      ∃ t, exec (p.1 cx f) s = .next t ∧ OnlyCtx cx s t
        ∧ WritesScalar f.d (p.2.2 (s.ctx cx) f) (s.ctx cx) (t.ctx cx))
    ∧ ∀ v, scOk f true false false 8 = true → specialReg s cx f.imm.toNat = some v →
      ∃ t, exec (.srd cx f) s = .next t ∧ OnlyCtx cx s t ∧ WritesScalar f.d v (s.ctx cx) (t.ctx cx)

/-- Branches: constructor, fields allowed, condition. -/
def branches : List ((Cx → Sc → Instr) × (Sc → Bool) × (Ctx → Sc → Bool)) :=
  [(.br, fun f => scOk f false false false 40, fun _ _ => true),
   (.beq, fun f => scOk f false true true 40, fun c f => decide (sget c f.a = sget c f.b)),
   (.bne, fun f => scOk f false true true 40, fun c f => decide (sget c f.a ≠ sget c f.b)),
   (.blt, fun f => scOk f false true true 40, fun c f => decide ((sget c f.a).toInt < (sget c f.b).toInt)),
   (.bge, fun f => scOk f false true true 40, fun c f => decide ((sget c f.b).toInt ≤ (sget c f.a).toInt))]

/-- Branch offsets count instructions of 8 bytes from the branch itself (R147). -/
def Obligations.BranchTargets : Prop :=
  ∀ (s : State) (cx : Cx) (f : Sc), issues s cx = true →
    let c := s.ctx cx
    let target : Nat := (((c.pc : Int) + 8 * f.imm.toInt) % 2 ^ 64).toNat
    (∀ p ∈ branches, p.2.1 f = true →
      ∃ t, exec (p.1 cx f) s = .next t ∧ OnlyCtx cx s t
        ∧ t.ctx cx = { c with pc := if p.2.2 c f then target else c.pc + 8 })
    ∧ (scOk f false true false 40 = true →
      ∃ t, exec (.loopCtx cx f) s = .next t ∧ OnlyCtx cx s t
        ∧ (∀ r, sget (t.ctx cx) r = if r = 0 then 0 else if r = f.a then sget c f.a - 1 else sget c r)
        ∧ t.ctx cx = { c with
            sreg := (t.ctx cx).sreg, pc := if sget c f.a - 1 ≠ 0 then target else c.pc + 8 })

/-- Scalar loads and stores (Table 5-7) and SWR (R167). -/
def Obligations.ScalarMemory : Prop :=
  ∀ (s : State) (cx : Cx) (f : Sc), issues s cx = true →
    let c := s.ctx cx
    let a := scAddr s cx f
    (scOk f true true false 40 = true → a % 8 = 0 → reach s cx a 8 = true →
      ∃ t, exec (.sld cx f) s = .next t ∧ OnlyLanes cx s t
        ∧ (∀ r, sget (t.ctx cx) r = if r = 0 then 0
            else if r = f.d then (if bad s a then 0 else BitVec.ofNat 64 (rdNat s a 8)) else sget c r)
        ∧ t.ctx cx = { c with sreg := (t.ctx cx).sreg, evt := (t.ctx cx).evt, pc := c.pc + 8 })
    ∧ (scOk f false true true 40 = true → a % 8 = 0 → reach s cx a 8 = true →
      ∃ t, exec (.sst cx f) s = .next t ∧ rdBytes t a 8 = leBytes 8 (sget c f.b).toNat
        ∧ bad t a = false ∧ OnlyBytes [(a, 8)] s t
        ∧ { t with cells := s.cells, mem := s.mem, poison := s.poison } = s ∧ t.ctx cx = { c with pc := c.pc + 8 })
    ∧ (scOk f false true false 8 = true → f.imm.toNat = 3 →
      ∃ t, exec (.swr cx f) s = .next t ∧ OnlyCtx cx s t
        ∧ t.ctx cx = { c with evt := c.evt &&& ~~~(sget c f.a), pc := c.pc + 8 })

/-- The wait instructions of Table 5-7 (R134, R151). -/
def Obligations.WaitsAndBarriers : Prop :=
  ∀ (s : State) (cx : Cx) (f : Sc),
    let c := s.ctx cx
    (issues s cx = true → scOk f false false false 0 = true →
      (∃ t, exec (.await cx f) s = .next t ∧ OnlyCtx cx s t
        ∧ t.ctx cx = if (productsOf s cx).isEmpty then { c with pc := c.pc + 8 } else { c with st := .await })
      ∧ (∃ t, exec (.dwait cx f) s = .next t ∧ OnlyCtx cx s t
        ∧ t.ctx cx = if (dmaOf s cx).isEmpty then { c with pc := c.pc + 8 } else { c with st := .dwait })
      ∧ (∃ t, exec (.fenceCtx cx f) s = .next t ∧ OnlyCtx cx s t ∧ t.ctx cx = { c with pc := c.pc + 8 })
      ∧ (∃ t, exec (.bar cx f) s = .next t ∧ OnlyCtx cx s t ∧ t.ctx cx = { c with st := .bar })
      ∧ ((productsOf s cx ≠ [] ∨ dmaOf s cx ≠ []) →
        ∃ t, exec (.endCtx cx f) s = .next t ∧ OnlyCtx cx s t ∧ t.ctx cx = { c with st := .ended })
      ∧ (productsOf s cx = [] → dmaOf s cx = [] →
        ∃ t, exec (.endCtx cx f) s = .next t ∧ (t.ctx cx).st = .free ∧ (t.ctx cx).op = none ∧ t.mem = s.mem))
    ∧ (c.st = .await → productsOf s cx = [] →
      ∃ t, exec (.contextWaitEnd cx) s = .next t ∧ t.ctx cx = { c with st := .ready, pc := c.pc + 8 }
        ∧ { t with cells := s.cells } = s)
    ∧ (c.st = .dwait → dmaOf s cx = [] →
      ∃ t, exec (.contextWaitEnd cx) s = .next t ∧ t.ctx cx = { c with st := .ready, pc := c.pc + 8 }
        ∧ { t with cells := s.cells } = s)
    ∧ (c.st = .ended → productsOf s cx = [] → dmaOf s cx = [] →
      ∃ t, exec (.contextWaitEnd cx) s = .next t ∧ (t.ctx cx).st = .free ∧ (t.ctx cx).op = none)
    ∧ ∀ id, c.st = .bar → c.op = some id → barReady s cx.cell id = true →
      ∃ t, exec (.contextWaitEnd cx) s = .next t
        ∧ ∀ k ∈ ctxsOn s cx.cell id,
            t.ctx ⟨cx.cell, k⟩ = if (s.ctx ⟨cx.cell, k⟩).st = .bar then
                { s.ctx ⟨cx.cell, k⟩ with st := .ready, pc := (s.ctx ⟨cx.cell, k⟩).pc + 8 }
              else s.ctx ⟨cx.cell, k⟩

/-- AISSUE (R73, R277) and DISSUE (Table 7-3). -/
def Obligations.IssueToQueues : Prop :=
  ∀ (s : State) (cx : Cx) (f : Sc) (id : OpId), issues s cx = true → scOk f false true false 40 = true →
    (s.ctx cx).op = some id →
    let c := s.ctx cx
    let a := (s.cell cx.cell).arr
    let q := if issuesDeferred s id then a.dqueue else a.queue
    let p : Product :=
      { pid := a.nextPid, addr := cellAddr cx.cell + scAddr s cx f, issuer := some cx, pc := c.pc, op := id,
        deferred := issuesDeferred s id }
    let k := rdNat s (scAddr s cx f) 1 % 16
    let gs := (rangeMem (scAddr s cx f) 128).isSome && (k == 2 || k == 3)
    let item : DmaItem :=
      { addr := scAddr s cx f, op := id, issuer := some cx, pc := c.pc, seq := a.nextPid }
    (q.length < 4 → ∃ t, exec (.aissue cx f) s = .next t ∧ t.ctx cx = { c with pc := c.pc + 8 }
      ∧ (t.cell cx.cell).arr = (if issuesDeferred s id then
          { a with dqueue := a.dqueue ++ [p], nextPid := a.nextPid + 1 }
        else { a with queue := a.queue ++ [p], nextPid := a.nextPid + 1 })
      ∧ { t with cells := s.cells } = s)
    ∧ (4 ≤ q.length → exec (.aissue cx f) s = .next s)
    ∧ (gs = false → (s.cell cx.cell).dma.queue.length < 32 →
      ∃ t, exec (.dissue cx f) s = .next t ∧ t.ctx cx = { c with pc := c.pc + 8 }
        ∧ (t.cell cx.cell).dma.queue = (s.cell cx.cell).dma.queue ++ [item] ∧ { t with cells := s.cells } = s)
    ∧ (gs = true → (s.block (cx.cell / 8)).gs.queue.length < 16 →
      ∃ t, exec (.dissue cx f) s = .next t ∧ t.ctx cx = { c with pc := c.pc + 8 }
        ∧ (t.block (cx.cell / 8)).gs.queue = (s.block (cx.cell / 8)).gs.queue ++ [item]
        ∧ { t with cells := s.cells, blocks := s.blocks } = s)

/-- Ends of a kernel at its instruction: the operation's status, DETAIL0 of Table 13-3, and free contexts. -/
def kernelEnded (s : State) (cx : Cx) (st : Nat) : Prop :=
  ∀ id e, (s.ctx cx).op = some id → s.op? id = some e → e.phase = .running → e.stats = [] → st ≠ 0 →
    ∃ t e', t = kernelFault s cx st ∧ t.op? id = some e' ∧ e'.phase = .finished ∧ e'.stats = [st]
      ∧ e'.d0 = kernelDetail cx (s.ctx cx).pc

/-- Faults at issue (R132, R143, R146). -/
def Obligations.FaultsEndKernel : Prop :=
  ∀ (s : State) (cx : Cx) (f : Vr) (g : Sc), ready s cx = true →
    (cellSize < (s.ctx cx).pc + 8 → kernelEnded s cx 0x12
      ∧ exec (.vmov cx f) s = .next (kernelFault s cx 0x12) ∧ exec (.vld cx f) s = .next (kernelFault s cx 0x12)
      ∧ exec (.sadd cx g) s = .next (kernelFault s cx 0x12) ∧ exec (.br cx g) s = .next (kernelFault s cx 0x12))
    ∧ (issues s cx = true → vrOk f [tyF, tyI, tyU] 0 = false → kernelEnded s cx 0x10
      ∧ exec (.vmov cx f) s = .next (kernelFault s cx 0x10))

/-! ### Stream-form instructions -/

/-- Stream-form and special-function instructions: constructor, opcode, and the check at issue. -/
def streamOps : List ((Cx → Vs → Instr) × Nat × (State → Cx → Vs → Option Nat)) :=
  [(.tadd, 0x40, fun s cx f => ewCheck s cx f { useB := true } true true),
   (.tsub, 0x41, fun s cx f => ewCheck s cx f { useB := true } true true),
   (.tmul, 0x42, fun s cx f => ewCheck s cx f { useB := true } true true),
   (.tfma, 0x43, fun s cx f => ewCheck s cx f { useB := true, useC := true } true true),
   (.tfnma, 0x44, fun s cx f => ewCheck s cx f { useB := true, useC := true } true true),
   (.tdiv, 0x45, fun s cx f => ewCheck s cx f { useB := true } (decide (f.t < 3)) true),
   (.tmin, 0x46, fun s cx f => ewCheck s cx f { useB := true } true true),
   (.tmax, 0x47, fun s cx f => ewCheck s cx f { useB := true } true true),
   (.tabs, 0x48, fun s cx f => ewCheck s cx f {} true true),
   (.tneg, 0x49, fun s cx f => ewCheck s cx f {} true true),
   (.tsqrt, 0x4A, fun s cx f => ewCheck s cx f {} (decide (f.t < 3)) true),
   (.tand, 0x4C, fun s cx f => ewCheck s cx f { useB := true } (decide (f.t = 3)) true),
   (.tor, 0x4D, fun s cx f => ewCheck s cx f { useB := true } (decide (f.t = 3)) true),
   (.txor, 0x4E, fun s cx f => ewCheck s cx f { useB := true } (decide (f.t = 3)) true),
   (.tnot, 0x4F, fun s cx f => ewCheck s cx f {} (decide (f.t = 3)) true),
   (.tshl, 0x50, fun s cx f => ewCheck s cx f { useB := true } (decide (f.t = 3)) true),
   (.tshr, 0x51, fun s cx f => ewCheck s cx f { useB := true } (decide (f.t = 3)) true),
   (.tsra, 0x52, fun s cx f => ewCheck s cx f { useB := true } (decide (f.t = 3)) true),
   (.tcvt, 0x56, fun s cx f => ewCheck s cx f {} (decide (f.t = 0) || decide (f.t = 3)) true),
   (.tcopy, 0x58, fun s cx f => ewCheck s cx f {} (decide (f.fa = f.fd) && decide (f.t = 0)) true),
   (.tfill, 0x59, fun s cx f => ewCheck s cx f { useA := false, useB := true } f.bb true),
   (.tiota, 0x5A, fun s cx f => ewCheck s cx f { useA := false } (decide (f.t = 3)) true),
   (.trsum, 0x60, fun s cx f => redCheck s cx f false false), (.trprod, 0x61, fun s cx f => redCheck s cx f false false),
   (.trmax, 0x62, fun s cx f => redCheck s cx f false false), (.trmin, 0x63, fun s cx f => redCheck s cx f false false),
   (.trmean, 0x64, fun s cx f => redCheck s cx f false true),
   (.trargmax, 0x65, fun s cx f => redCheck s cx f true false),
   (.trargmin, 0x66, fun s cx f => redCheck s cx f true false),
   (.feval, 0xE0, fun s cx f => evalCheck s cx f false), (.fevalx, 0xE1, fun s cx f => evalCheck s cx f false),
   (.frefine, 0xE2, fun s cx f => evalCheck s cx f true), (.rstat, 0xE4, fun s cx f => rowCheck s cx 0xE4 f),
   (.rnorm, 0xE5, fun s cx f => rowCheck s cx 0xE5 f), (.smax, 0xE8, fun s cx f => rowCheck s cx 0xE8 f),
   (.rscale, 0xEA, fun s cx f => rowCheck s cx 0xEA f), (.scan, 0xEC, fun s cx f => rowCheck s cx 0xEC f)]

/-- A stream instruction has begun: the context holds it at its first chunk, and nothing else has changed but the count
of issued instructions. -/
def Begun (cx : Cx) (opc : Nat) (f : Vs) (s t : State) : Prop :=
  OnlyCtx cx s t ∧ t.ctx cx = { s.ctx cx with stream := some { opc := opc, f := f } }

/-- A stream instruction is checked whole at issue and then issues its chunks (R141, R145, R149, R176). -/
def Obligations.StreamsBegin : Prop :=
  ∀ p ∈ streamOps, ∀ (s : State) (cx : Cx) (f : Vs), issues s cx = true →
    (p.2.2 s cx f = none → ∃ t, exec (p.1 cx f) s = .next t ∧ Begun cx p.2.1 f s t)
    ∧ ∀ st, p.2.2 s cx f = some st → st ≠ stPOISON → exec (p.1 cx f) s = .next (kernelFault s cx st)

/-- The three stream instructions whose operands R145 and Table 5-6 treat apart. -/
def Obligations.SelectCompareStreamsBegin : Prop :=
  ∀ (s : State) (cx : Cx) (f : Vs), issues s cx = true →
    let d := (sget (s.ctx cx) f.d).toNat
    (ewCheck s cx f { useB := true } (decide (f.fd < 8) && decide (d % 64 = 0)) false = none →
      reach s cx d (ceilDiv f.n 8) = true → ∃ t, exec (.tcmp cx f) s = .next t ∧ Begun cx 0x54 f s t)
    ∧ (ewCheck s cx f { useB := true } (!f.ms && stAligned s cx f.c) true = none →
      reach s cx (sget (s.ctx cx) f.c).toNat (ceilDiv f.n 8) = true →
      ∃ t, exec (.tsel cx f) s = .next t ∧ Begun cx 0x55 f s t)
    ∧ (f.ms = false → f.t = 0 → ewCheck s cx f { useA := false } true true = none →
      ∃ t, exec (.trand cx f) s = .next t ∧ Begun cx 0x74 f s t)
    ∧ (f.ms = false → f.t = 3 → f.fd = 0 → d % 64 = 0 → ewCheck s cx f { useA := false } true false = none →
      reach s cx d (4 * f.n) = true → ∃ t, exec (.trand cx f) s = .next t ∧ Begun cx 0x74 f s t)

/-- The ranges that an elementwise stream instruction writes. -/
def streamRanges (s : State) (cx : Cx) (t : Stream) : List (Nat × Nat) :=
  let f := t.f
  let d := stOpnd s cx f.d f.fd
  if t.opc = 0x54 then [(d.base, ceilDiv f.n 8)]
  else if t.opc = 0x74 ∧ f.t = 3 then [(d.base, 4 * f.n)]
  else (d.base, elemBytes d.fmt.bits f.n)
    :: if d.fmt.scaled || (stOpnd s cx f.a f.fa).fmt.scaled then [(d.scale, ceilDiv f.n 128)] else []

/-- Chunks issue in order, one after another (R138, R149). -/
def Obligations.StreamChunks : Prop :=
  ∀ (s : State) (cx : Cx) (t : Stream), (s.ctx cx).st = .ready → (s.ctx cx).stream = some t →
    (s.region (cx.cell / 40)).clkSwitching = false → granted s cx = true →
    ((0x40 ≤ t.opc ∧ t.opc ≤ 0x5A) ∨ (t.opc = 0x74 ∧ t.f.ms = false)) →
    let len := if t.opc = 0x58 then 512 else if t.f.t = 1 ∨ t.f.t = 2 then 1024 else 512
    ∃ u, exec (.streamChunkIssue cx) s = .next u
      ∧ ((t.pos + 1) * len < t.f.n →
          u.ctx cx = { s.ctx cx with stream := some { t with pos := t.pos + 1 }, evt := (u.ctx cx).evt })
      ∧ (t.f.n ≤ (t.pos + 1) * len →
          u.ctx cx = { s.ctx cx with stream := none, evt := (u.ctx cx).evt, pc := (s.ctx cx).pc + 8 })
      ∧ (∀ k, k ≠ cx.ctx → u.ctx ⟨cx.cell, k⟩ = s.ctx ⟨cx.cell, k⟩)
      ∧ OnlyBytes (streamRanges s cx t) s u

/-! ### The matrix array and the drain -/

/-- Only the array and drain of cell `n` differ. -/
def OnlyArr (n : Nat) (s t : State) : Prop :=
  { t with cells := s.cells } = s ∧ (∀ m, m ≠ n → t.cell m = s.cell m)
    ∧ { t.cell n with arr := (s.cell n).arr } = s.cell n

/-- Product start, deferred start, yield and resume (R71, R73, R278, R279). -/
def Obligations.ProductQueues : Prop :=
  ∀ (s : State) (n : Nat) (p : Product) (rest : List Product), cellRuns s n = true →
    let a := (s.cell n).arr
    let d := PD.of (readPd s p.addr)
    let q : Product := { p with
      seed := (issuerRng s p).1, step := (issuerRng s p).2, desc := readPd s p.addr, drn := readDd s (homeCell n) d }
    (a.cur = none → a.st = .idle → a.queue = p :: rest → heldNext a false = false → p.saved = none →
      productStatus s (homeCell n) p.op p.addr = 0 →
      ∃ t, exec (.productStart n) s = .next t ∧ OnlyArr n s t
        ∧ (t.cell n).arr = { a with queue := rest, cur := some q, st := .firstLoad, feed := [], preReq := false })
    ∧ (a.cur = none → a.st = .idle → a.queue = [] → a.yielded = none → a.dqueue = p :: rest → heldNext a true = false →
      p.saved = none → productStatus s (homeCell n) p.op p.addr = 0 →
      ∃ t, exec (.deferredProductStart n) s = .next t ∧ OnlyArr n s t
        ∧ (t.cell n).arr = { a with dqueue := rest, cur := some q, st := .firstLoad, feed := [], preReq := false })
    ∧ (a.cur = none → a.st = .idle → a.queue = [] → a.yielded = some p →
      ∃ t, exec (.deferredResume n) s = .next t ∧ OnlyArr n s t
        ∧ (t.cell n).arr = { a with cur := some p, yielded := none, st := .restoring, preReq := false })
    ∧ (a.cur = some p → p.deferred = true → a.queue ≠ [] → (a.st = .streaming ∨ a.st = .firstLoad) →
      ∃ t, exec (.deferredYield n) s = .next t ∧ OnlyArr n s t ∧ (t.cell n).arr = { a with st := .emptying, back := (t.cell n).arr.back })

/-- The swap of R75 and the accumulation of R80 and R84. -/
def Obligations.PassesAndRows : Prop :=
  ∀ (s : State) (n : Nat) (p : Product), (s.cell n).arr.cur = some p → rowsFree s n p = true →
    (p.open_ = false → p.ended = false →
      (p.pd.sparse = true → badRange s (headSlot (s.cell n) p) 16 = true
        ∨ headOk (rdBytes s (headSlot (s.cell n) p) 16) (p.fa (s.cell n)).code (tilePos p.pd p.tile).1 p.ktile p.pd.m p.pd.k = true) →
      ∃ t q, exec (.passStart n) s = .next t ∧ t.mem = s.mem ∧ t.poison = s.poison
        ∧ (t.cell n).arr.active =
            { (if (s.cell n).arr.active.key = some p.statKey then (s.cell n).arr.active
              else if (s.cell n).arr.back.key = some p.statKey then (s.cell n).arr.back
              else loadStat s (s.cell n) p) with poison := 0 }
        ∧ (t.cell n).arr.cur = some q ∧ q = { p with open_ := true, slice := q.slice })
    ∧ (p.open_ = true → (lastPass (s.cell n) p = true → p.pd.drained = true → bufRoom (s.cell n).arr p = true) →
      let k := colsIn p.pd p.tile
      let old := fgetRow 0 (s.cell n).arr.acc (128 * p.row) k
      let new := (rowSums (s.cell n) p (headRow s (s.cell n) p) old).map Prod.fst
      ∃ t, exec (.rowResultAccept n) s = .next t ∧ t.mem = s.mem ∧ t.poison = s.poison
        ∧ (∀ j, j < k → fget 0 (t.cell n).arr.acc (128 * p.row + j) = new.getD j 0)
        ∧ (∀ x, x < 128 * p.row ∨ 128 * p.row + k ≤ x →
            fget 0 (t.cell n).arr.acc x = fget 0 (s.cell n).arr.acc x)
        ∧ (p.row + 1 < rowsIn p.pd p.tile → (t.cell n).arr.cur = some { p with row := p.row + 1 }))

/-- The ranges that unit `q` of a tile buffer writes: blocks, scale bytes, and after the last unit the head and the
bitmap. -/
def unitRanges (s : State) (n : Nat) (b : TileBuf) (q : Nat) : List (Nat × Nat) :=
  let c := s.cell n
  let u := encUnit c b q
  let last := q + 1 == unitCount c b.prod
  (unitWrites c b q u ++ unitScales c b q u ++ (if last && b.prod.dd.sparse then headWrites c b else [])
    ++ (if last && b.prod.dd.bitmap then bitmapWrites s c b else [])).map fun w => (w.1, w.2.length)

/-- The drain (R101, R114, R117, R123) and completion of a product (R122). -/
def Obligations.DrainWrites : Prop :=
  ∀ (s : State) (n : Nat) (b : TileBuf) (rest : List TileBuf), cellRuns s n = true →
    ((s.cell n).arr.bufs = b :: rest → unitReady (s.cell n) b b.units = true →
      ∃ t, exec (.blockRowWrite n) s = .next t ∧ OnlyBytes (unitRanges s n b b.units) s t
        ∧ (t.cell n).arr.bufs = if b.units + 1 = unitCount (s.cell n) b.prod then rest
            else b.wrote (s.cell n) :: rest)
    ∧ ((s.cell n).arr.bufs = b :: rest → wholeTile (s.cell n) b.prod.dd = true → b.swept = false →
      unitReady (s.cell n) { b with swept := true } 0 = true →
      ∃ t, exec (.drainEncodeSweep n) s = .next t ∧ OnlyArr n s t
        ∧ (t.cell n).arr = { (s.cell n).arr with bufs := { b with swept := true } :: rest })
    ∧ ∀ p l, (s.cell n).arr.draining = p :: l → ((s.cell n).arr.bufs.any fun b => b.prod.pid == p.pid) = false →
      p.unit = none →
      ∃ t, exec (.productComplete n) s = .next t ∧ OnlyArr n s t
        ∧ (t.cell n).arr = { (s.cell n).arr with draining := l }

/-- Preemption, save, restore and abort of the array (R90 to R92, R96). -/
def Obligations.TileContexts : Prop :=
  ∀ (s : State) (n : Nat) (p : Product), n < 160 →
    let a := (s.cell n).arr
    let at_ := cellAddr n + p.pd.ctxSave
    let img := tileImage (s.cell n) p
    (cellRuns s n = true → a.cur = some p →
      ((a.preReq = true ∨ a.st = .emptying) → atBoundary (s.cell n) p = true → (s.region (n / 40)).clkTarget = none →
        (a.st = .streaming ∨ a.st = .firstLoad ∨ a.st = .emptying) →
        ∃ t, exec (.arrayPreemptEffect n) s = .next t ∧ (t.cell n).arr.st = .saving ∧ (t.cell n).arr.bufs = [])
      ∧ (a.st = .saving →
        ∃ t, exec (.tileContextSaveDone n) s = .next t ∧ rdBytes t at_ img.length = img ∧ OnlyBytes [(at_, img.length)] s t
          ∧ (t.cell n).arr.cur = none ∧ (t.cell n).arr.st = .idle ∧ (t.cell n).arr.saves = a.saves + 1)
      ∧ (a.st = .restoring → a.bufs.length < 2 →
        ∃ t, exec (.tileContextRestoreDone n) s = .next t ∧ t.mem = s.mem ∧ (t.cell n).arr.st = .streaming
          ∧ (∀ i, i < 16384 →
              fget 0 (t.cell n).arr.acc i = BitVec.ofNat 32 (rdNat s (p.saved.getD 0 + 0x80 + 4 * i) 4))
          ∧ (t.cell n).arr.resumes = a.resumes + 1))
    ∧ (a.abortReq ≠ [] →
      ∃ t, exec (.arrayAbortStop n) s = .next t ∧ t.mem = s.mem ∧ (t.cell n).arr.abortReq = []
        ∧ ∀ x ∈ (t.cell n).arr.products, a.abortReq.contains x.op = false)

/-! ### DMA engines and the sparse-work scheduler -/

/-- Queues of the DMA engines (R218, R227, R228, R231); a transfer is made whole at its start (log entry 34). -/
def Obligations.DmaChains : Prop :=
  ∀ (s : State) (e : Engine) (it : DmaItem) (rest : List DmaItem), 
    let q := s.dma e
    let d := TD.of (rdBytes s it.addr 128)
    (q.queue = it :: rest → engineRuns s e = true → q.running.length < e.width → q.stopping = false →
      dmaStatus s e it = 0 → (d.order = true → q.running = []) → ownAddr s d.remS d.src = true →
      ∃ t r, exec (.dmaDescriptorStart e) s = .next t
        ∧ (t.dma e).queue = (if d.next = 0 then rest
            else { it with addr := d.next, pos := it.pos + 1, fetched := [], waits := [] } :: rest)
        ∧ (t.dma e).running = q.running ++ [r] ∧ r = { it with overlap := r.overlap })
    ∧ (q.running.find? (itemWhole s) = some it → engineRuns s e = true → s.mapsWf = true →
      ∃ t, exec (.dmaDescriptorComplete e) s = .next t ∧ (t.dma e).running = q.running.erase it
        ∧ (t.dma e).done = q.done + 1
        ∧ t.mem = s.mem
        ∧ ∀ x, s.op? it.op = some x → x.opcode / 256 = 1 → x.phase = .running → itemsOf s it.op = [it] →
            ∃ y, t.op? it.op = some y ∧ y.phase = .finished ∧ y.stats = x.stats)
    ∧ (q.stopping = true →
      ∃ t, exec (.dmaAbortStop e) s = .next t ∧ (t.dma e).stopping = false ∧ t.mem = s.mem
        ∧ (t.dma e).queue = q.queue.filter (fun i => !isAborting s i.op)
        ∧ (t.dma e).running = q.running.filter fun i => !isAborting s i.op)

/-- The sparse-work scheduler (R245 to R250). -/
def Obligations.BlockJobs : Prop :=
  ∀ (s : State) (b : Nat) (j : SpsJob), (s.block b).job = some j → schedRuns s b = true → j.aborting = false →
    let n0 := 8 * b + ((List.range 8).find? fun c => natBit j.cells c).getD 0
    let plan := planUnits s { j with preds := readPreds s j } (fmtOf (s.cell n0) j.pd.fmtA)
    let us := (plan.zip (List.range plan.length)).map fun u => { u.1 with done := decide (u.2 < j.next) }
    (j.planned = false → j.stopping = false →
      (us.all fun u => decide ((({ j with units := us } : SpsJob).tileOf u).length ≤ j.slots + 1)) = true →
      ∃ t, exec (.sparseJobPlan b) s = .next t ∧ rdBytes t (j.addr + 0x24) 4 = leBytes 4 us.length
        ∧ OnlyBytes [(j.addr + 0x24, 4)] s t)
    ∧ (∀ c ix u, c < 8 → j.planned = true → j.nextUnit = some (ix, u) → natBit j.cells c = true → j.mayStart u = true →
      cellRuns s (8 * b + c) = true → (s.cell (8 * b + c)).arr.cur = none → (s.cell (8 * b + c)).arr.st = .idle →
      heldNext (s.cell (8 * b + c)).arr false = false →
      ∃ t p, exec (.workUnitDispatch b c) s = .next t ∧ (t.cell (8 * b + c)).arr.cur = some p ∧ p.op = j.op
        ∧ p.tile = u.rt * j.pd.nt + u.ct ∧ p.ktile = u.a
        ∧ (t.block b).job = some { j with units := j.units.set ix { u with cell := some c } } ∧ t.mem = s.mem)
    ∧ (∀ c p u, c < 8 → (s.cell (8 * b + c)).arr.cur = some p → p.unit = some u → p.ended = true → p.op = j.op →
      u.split = false → cellRuns s (8 * b + c) = true →
      ∃ t, exec (.workUnitFinish b c) s = .next t ∧ (t.cell (8 * b + c)).arr.cur = none
        ∧ (t.cell (8 * b + c)).arr.st = .idle ∧ t.mem = s.mem
        ∧ (t.block b).job = some { j with units := j.units.modify u.ix fun v => { v with done := true } })
    ∧ (∀ ix u, j.stopping = true → j.planned = true → j.nextUnit = some (ix, u) → ix < j.units.length →
      ((List.range 8).any fun i => ((s.cell (8 * b + i)).arr.cur.toList ++ (s.cell (8 * b + i)).arr.draining).any
        fun p => p.op == j.op) = false →
      (j.units.all fun v => v.done || !(j.tileOf v).any WUnit.started) = true →
      ∃ t, exec (.blockJobPreemptDone b) s = .next t ∧ (t.block b).job = none
        ∧ rdBytes t (j.addr + 0x20) 4 = leBytes 4 ix ∧ OnlyBytes [(j.addr + 0x20, 4)] s t)

/-! ### The mailbox and the operation table -/

/-- Steps 1 to 4 of R371, with R370 before the lock. An answer over a link is a message (R372). -/
def Obligations.SlotWrites : Prop :=
  ∀ (s : State) (w : SlotWrite), inSlots w.addr = true → (w.remote.isSome || localId w.master) = true →
    let ch := (w.addr - slotBase) / 16
    let who : Nat := match w.remote with
      | some src => proxyId s src
      | none => w.master
    let may : Bool := w.addr % 16 == 0 && w.data.length == 16 && bindValid s ch && who == bindSend s ch
    let answered (t : State) (ok : Bool) : Prop := w.remote = none → t.out = .bus w.master ok [] :: s.out
    let still (t : State) : Prop :=
      OnlyBytes (retryRanges s) s t ∧ t.ops = s.ops ∧ (w.remote = none → t.mem = s.mem)
    let rest (t : State) : Prop := still t ∧ ∀ c, c ≠ ch → t.slot c = s.slot c
    (s.mbx.locked = true → may = true → (s.slot ch).full = false →
      ∃ t, exec (.mailboxSlotWrite w) s = .next t ∧ rest t ∧ answered t true
        ∧ t.slot ch = { full := true, notice := w.data, at_ := s.hub.cycle, remote := w.remote, via := w.via })
    ∧ (s.mbx.locked = true → may = true → (s.slot ch).full = true →
      ∃ t, exec (.mailboxSlotWrite w) s = .next t ∧ rest t ∧ answered t false ∧ t.slot ch = s.slot ch
        ∧ fget 0 t.mbx.ctr 0x20 = fget 0 s.mbx.ctr 0x20 + 1)
    ∧ (s.mbx.locked = true → may = false →
      ∃ t, exec (.mailboxSlotWrite w) s = .next t ∧ rest t ∧ answered t false ∧ t.slot ch = s.slot ch
        ∧ fget 0 t.mbx.ctr 0x28 = fget 0 s.mbx.ctr 0x28 + 1)
    ∧ (s.mbx.locked = false →
      ∃ t, exec (.mailboxSlotWrite w) s = .next t ∧ t.mbx = s.mbx ∧ still t ∧ answered t false)

/-- R373, and acceptance under R376 to R378. -/
def Obligations.SlotTakes : Prop :=
  ∀ (s : State) (reader ch : Nat), ch < 256 →
    let x := s.slot ch
    let s1 := (emptySlot s ch).emit (.bus reader true (x.notice.take 15 ++ [0x80]))
    let st := acceptStatus s1 ch x.notice
    let id : OpId := ⟨ch, fld x.notice 8 4⟩
    ((bindValid s ch = false ∨ reader ≠ bindRecv s ch) →
      exec (.mailboxSlotTake reader ch) s = .next (s.emit (.bus reader false [])))
    ∧ (bindValid s ch = true → reader = bindRecv s ch → x.full = false →
      exec (.mailboxSlotTake reader ch) s = .next (s.emit (.bus reader true (List.replicate 16 0))))
    ∧ (bindValid s ch = true → reader = bindRecv s ch → x.full = true → isCore reader = true → rolacTakes s ch = false →
      exec (.mailboxSlotTake reader ch) s = .next s)
    ∧ (bindValid s ch = true → reader = bindRecv s ch → x.full = true →
      (isCore reader = true → rolacTakes s ch = true) →
      ∃ t, exec (.mailboxSlotTake reader ch) s = .next t ∧ (t.slot ch).full = false ∧ OnlyBytes (retryRanges s) s t
        ∧ (x.remote = none → t.mem = s.mem)
        ∧ t.out.head? = some (.bus reader true (x.notice.take 15 ++ [0x80]))
        ∧ fget 0 t.mbx.ctr 0x30 = fget 0 s.mbx.ctr 0x30 + 1
        ∧ (isCore reader = true → st = stOK →
            ∃ y, t.op? id = some y ∧ y = { entryOf s1 ch x.notice with tooLate := y.tooLate })
        ∧ (isCore reader = true → st ≠ stOK →
            ∃ y, t.refused = s.refused ++ [y] ∧ y.id = id ∧ y.stats = [st] ∧ y.phase = .finished))

/-- R381 with R398, and records under R386 to R389. -/
def Obligations.AdmissionAndRecords : Prop :=
  ∀ (s : State),
    (∀ r e, s.ops.find? (fun e => e.region == r && admissible s e) = some e → s.op? e.id = some e →
      ∃ t, exec (.operationAdmit r) s = .next t ∧ OnlyOps s t ∧ (∀ x, x ≠ e.id → t.op? x = s.op? x)
        ∧ t.op? e.id = some { e with
            admitted := true, phase := if e.resumed && e.started && e.opcode == opKERNEL then .held else .admitted })
    ∧ (∀ r, (∀ e ∈ s.ops, e.region = r → admissible s e = false) → exec (.operationAdmit r) s = .next s)
    ∧ ∀ (id : OpId) (k : Nat) (e : OpEntry), id.channel < 256 → ringFor s e.ring = some k →
      let g := s.ring k
      let a := g.base + 64 * (g.tail.toNat % 2 ^ g.log2)
      let written (t : State) (told : Bool) : Prop :=
        (farFromRetry s a 64 = true →
          rdBytes t a 64 = recordBytes (entryRecord e told) s.hub.cycle (g.tail.toNat / 2 ^ g.log2 % 2 == 0))
          ∧ OnlyBytes ((a, 64) :: retryRanges s) s t ∧ (t.ring k).tail = g.tail + 1
      (s.refused.find? (fun x => x.id == id) = some e → g.free = true → fencedAddr s a = false →
        ∃ t, exec (.recordCommit id) s = .next t ∧ written t false
          ∧ t.refused = s.refused.eraseP (fun x => x.id == id))
      ∧ (∀ e0, s.refused.find? (fun x => x.id == id) = none → s.op? id = some e0 → outcomeOf s e0 = some e →
        g.free = true → fencedAddr s a = false →
        ∃ t, exec (.recordCommit id) s = .next t ∧ written t (s.ops.any (requests id))
          ∧ (e.preempt = false → t.op? id = none)
          ∧ (e.preempt = true → ∃ y, t.op? id = some y ∧ y.phase = .preempted))
      ∧ (∀ e0, s.refused.find? (fun x => x.id == id) = none → s.op? id = some e0 → outcomeOf s e0 = some e →
        g.free = false → exec (.recordCommit id) s = .next s)

/-- The sample of R40, and HEAD of R386. -/
def Obligations.RingsAndSamples : Prop :=
  ∀ (s : State),
    (∀ n, n < 64 → (s.ring n).valid = true → fencedAddr s (s.ring n).headAddr = false →
      ∃ t, exec (.ringHeadPoll n) s = .next t ∧ t.mem = s.mem
        ∧ t.ring n = { s.ring n with head := BitVec.ofNat 64 (rdNat s (s.ring n).headAddr 8) })
    ∧ (∀ m, localId m = true → s.hub.busy = false →
      ∃ t, exec (.sampleStrobe m) s = .next t ∧ t.hub = { s.hub with busy := true, seq := s.hub.seq + 1 }
        ∧ { t with hub := s.hub, out := s.out } = s)
    ∧ (∀ m, localId m = true → s.hub.busy = true → exec (.sampleStrobe m) s = .next (s.emit (.bus m true [])))
    ∧ (s.hub.busy = true →
      ∃ t, exec .sampleLatchDone s = .next t ∧ t.hub = { s.hub with latch := s.hub.cycle, busy := false }
        ∧ (∀ r, r < 4 → t.region r = { s.region r with latch := (s.region r).cycle, seq := (s.region r).seq + 1 })
        ∧ { t with hub := s.hub, regions := s.regions } = s)
    ∧ ∀ e, s.op? e.id = some e → e.opcode = 0x602 →
      let a := fld e.desc 0x10 8
      (e.phase = .admitted → rangeStatus s e.resident a 48 = stOK → zeros e.desc 0x18 0x20 = true → s.hub.busy = false →
        ∃ t y, exec (.cycleSample e.id) s = .next t ∧ t.op? e.id = some y ∧ y.phase = .running
          ∧ t.hub = { s.hub with busy := true, seq := s.hub.seq + 1 } ∧ t.mem = s.mem)
      ∧ (e.phase = .running → s.hub.busy = false → fencedRange s a 48 = false → e.cls ≠ clsUPD →
        ∃ t y, exec (.cycleSample e.id) s = .next t ∧ t.op? e.id = some y ∧ y.phase = .finished
          ∧ rdBytes t a 48 = sampleBytes s ∧ OnlyBytes [(a, 48)] s t)

/-! ### Kernels, jobs, transfers and their holds -/

/-- The bodies of groups 0x01xx and 0x02xx, and of PRIV_COPY. -/
def Obligations.WorkStarts : Prop :=
  ∀ (s : State) (e : OpEntry),
    (Admitted s 0x201 e →
      (declaresFirst s e = true → exec (.kernelLaunch e.id) s = .next s)
      ∧ (declaresFirst s e = false → kernelStatus s e = stOK →
        ∃ t y, exec (.kernelLaunch e.id) s = .next t ∧ t.op? e.id = some y ∧ y.phase = .held ∧ t.mem = s.mem
          ∧ y.cells = cellsOf e.region (fld e.desc 0x10 8)
          ∧ t.hub.grads = if fld e.desc 0x58 8 = 0 then s.hub.grads
              else s.hub.grads ++ [(fld e.desc 0x50 8, fld e.desc 0x58 8, fld e.desc 0x4C 4)])
      ∧ (declaresFirst s e = false → kernelStatus s e ≠ stOK →
        ∃ t, exec (.kernelLaunch e.id) s = .next t ∧ Ends t e (kernelStatus s e) ∧ t.mem = s.mem
          ∧ (kernelStatus s e ≠ stPOISON → OnlyOps s t)))
    ∧ (Admitted s 0x202 e → jobStatus s e = stOK → e.released = true → updateFree s e = true →
      let b := 5 * e.region + fld e.desc 0x18 1
      let a := fld e.desc 0x10 8
      (s.block b).job = none →
      ∃ t j y, exec (.blockJob e.id) s = .next t ∧ (t.block b).job = some j ∧ t.op? e.id = some y ∧ y.phase = .running
        ∧ j.op = e.id ∧ j.addr = a ∧ j.prod = rdBytes s (rdNat s a 8) 64 ∧ j.cells = rdNat s (a + 0x1C) 1
        ∧ j.planned = false ∧ t.mem = s.mem)
    ∧ ∀ p ∈ ([(.dmaRegion, 0x101), (.dmaBlock, 0x102), (.dmaGather, 0x103), (.privCopy, 0x507)] :
        List ((OpId → Instr) × Nat)), s.op? e.id = some e → e.opcode = p.2 → (e.phase = .admitted ∨ e.phase = .held) →
      let l := fld e.desc 0x18 1
      let g : Engine := if p.2 = 0x102 then .block (5 * e.region + l) else if p.2 = 0x103 then .gs (5 * e.region + l)
        else .region e.region
      zeros e.desc 0x19 0x20 = true →
      (if p.2 = 0x102 ∨ p.2 = 0x103 then l < 5 ∧ fencedBlock s (5 * e.region + l) = false else l = 0) →
      (s.dma g).queue.length < engineDepth g →
      ∃ t y, exec (p.1 e.id) s = .next t ∧ t.op? e.id = some y ∧ y.phase = .running ∧ t.mem = s.mem
        ∧ (t.dma g).queue = (s.dma g).queue ++ [{ addr := fld e.desc 0x10 8, op := e.id, priv := p.2 == 0x507 }]
        ∧ ∀ g', g' ≠ g → t.dma g' = s.dma g'

/-- The iteration's values are free values of the model; REASON 3 and the frame are the spec's (log entry 41). -/
def Obligations.InverseRootRuns : Prop :=
  ∀ (s : State) (e : OpEntry),
    let may : Bool := mayUpdate s e && irCtxsFree s e
    let starts : Prop := ∃ t y, exec (.invRoot e.id) s = .next t ∧ t.op? e.id = some y ∧ y.phase = .running
      ∧ y.started = true ∧ OnlyBytes [(e.irStaging, 3 * e.irBytes)] s t
    (Admitted s 0x203 e → invRootStatus s e = stOK →
      (updateFree s e = true → may = true → starts)
      ∧ ((updateFree s e = false ∨ may = false) →
        ∃ t y, exec (.invRoot e.id) s = .next t ∧ t.op? e.id = some y ∧ y.phase = .held ∧ y.released = updateFree s e
          ∧ y.cells = e.irCells ∧ t.mem = s.mem))
    ∧ (s.op? e.id = some e → e.opcode = 0x203 → e.phase = .held → e.released = true → may = true → starts)
    ∧ (s.op? e.id = some e → e.opcode = 0x203 → e.phase = .running → e.irCells.all (cellRuns s) = true →
      ∃ t y, exec (.invRoot e.id) s = .next t ∧ t.op? e.id = some y ∧ y.phase = .finished ∧ y.d0.toNat < 4
        ∧ (y.d0 ≠ 0 → stSINGULAR ∈ y.stats)
        ∧ ((readFp32s s e.irG e.irBytes).any (fun w => !finite32 w) = true → y.d0 = 3)
        ∧ ((∀ i, i < 32 → masked s clsUPD false (e.irResult + i) = false) →
            rdNat t e.irResult 4 = (if y.d0 = 0 then stOK else stSINGULAR) ∧ rdNat t (e.irResult + 4) 4 = y.d0.toNat)
        ∧ OnlyBytes [(e.irOut, e.irBytes), (e.irResult, 32)] s t)

/-- R131, R168, R169 and R170. PARTIAL of a reduction in progress is free, so its image is left out here. -/
def Obligations.KernelContexts : Prop :=
  ∀ (s : State) (e : OpEntry), s.op? e.id = some e → e.opcode = 0x201 →
    let place (i j : Nat) : Nat := e.saveBase + i * e.saveStride + j * ctxImageBytes
    (e.phase = .held → e.started = false → e.released = true → mayUpdate s e = true → ctxsFree s e = true →
      ∃ t y, exec (.kernelStart e.id) s = .next t ∧ t.op? e.id = some y ∧ y.phase = .running ∧ y.started = true
        ∧ t.mem = s.mem ∧ (∀ n ∈ e.cells, ∀ k ∈ e.contexts, t.ctx ⟨n, k⟩ = startCtx s e)
        ∧ ∀ n, n ∉ e.cells → t.cell n = s.cell n)
    ∧ (e.phase = .preempting → quietUnits s e = true → e.cells.all (cellRuns s) = true → outranKernel s e = true →
      ∃ t y, exec (.contextImageSaveDone e.id) s = .next t ∧ t.op? e.id = some y ∧ y.phase = .finished
        ∧ y.preempt = e.preempt ∧ y.stats = e.stats ∧ t.mem = s.mem)
    ∧ (e.phase = .preempting → quietUnits s e = true → e.cells.all (cellRuns s) = true → outranKernel s e = false →
      ∃ t y, exec (.contextImageSaveDone e.id) s = .next t ∧ t.op? e.id = some y ∧ y.phase = .finished
        ∧ y.preempt = true ∧ stPREEMPTED ∈ y.stats
        ∧ (∀ n ∈ e.cells, ∀ k ∈ e.contexts, (t.ctx ⟨n, k⟩).op ≠ some e.id)
        ∧ (e.cells.Nodup → ctxImageBytes * e.contexts.length ≤ e.saveStride →
          (∀ i j, i < e.cells.length → j < e.contexts.length → badRange s (place i j) ctxImageBytes = false) →
          ∀ i j n k, e.cells[i]? = some n → e.contexts[j]? = some k → (s.ctx ⟨n, k⟩).op = some e.id →
            ((s.ctx ⟨n, k⟩).stream.map Stream.isReduction).getD false = false →
            rdBytes t (place i j) ctxImageBytes = ctxImage (s.ctx ⟨n, k⟩) (List.replicate 64 0)))
    ∧ (e.phase = .held → e.started = true → e.resumed = true → e.released = true → mayUpdate s e = true → ctxsFree s e = true →
      e.saves ≠ [] → (e.saves.map fun v => (e.cells.getD v.index 0, v.ctx)).Nodup →
      (∀ v ∈ e.saves, v.ctx < 16 ∧ e.cells.getD v.index 0 ∈ e.cells) →
      ∃ t y, exec (.contextRestoreDone e.id) s = .next t ∧ t.op? e.id = some y ∧ y.phase = .running ∧ t.mem = s.mem
        ∧ ∀ v ∈ e.saves, t.ctx ⟨e.cells.getD v.index 0, v.ctx⟩ = ctxOfImage s v.addr e.id v)
    ∧ (e.phase = .aborting →
      ∃ t, exec (.kernelAbortStop e.id) s = .next t ∧ t.mem = s.mem ∧ t.op? e.id = some e
        ∧ ∀ n ∈ e.cells, ∀ k, k < 16 → (t.ctx ⟨n, k⟩).op ≠ some e.id)

/-- The holds of R270, R274, R281, R294, R307 and R360. -/
def Obligations.HoldsEnd : Prop :=
  ∀ (s : State) (e : OpEntry), s.op? e.id = some e →
    (e.phase = .held → e.released = false → updateFree s e = true →
      ∃ t, exec (.updateHoldRelease e.id) s = .next t ∧ OnlyOps s t ∧ t.op? e.id = some { e with released := true })
    ∧ (e.deferredKernel = true → e.deadline ≠ 0 → e.isTarget = true → e.phase ≠ .aborting →
      e.accepted.toNat + e.deadline * 1600 ≤ s.hub.cycle.toNat →
      ∃ t y, exec (.deadlinePromotion e.id) s = .next t ∧ t.op? e.id = some y ∧ y.promoted = true ∧ t.mem = s.mem
        ∧ ∀ n ∈ e.cells, (∀ p ∈ (t.cell n).arr.dqueue, p.op ≠ e.id)
            ∧ ∀ p ∈ (s.cell n).arr.dqueue, p.op = e.id → { p with deferred := false } ∈ (t.cell n).arr.queue)
    ∧ (e.opcode = 0x801 → e.phase = .admitted → fld e.desc 0x10 1 ≤ 16 → fld e.desc 0x11 1 ≤ 16 →
      zeros e.desc 0x12 0x20 = true →
      (residentLive s e.id = false →
        ∃ t, exec (.residencySet e.id) s = .next t ∧ Ends t e stOK ∧ t.mem = s.mem
          ∧ ∀ b, b < 20 → t.block b = { s.block b with
              resLayers := fld e.desc 0x11 1, resBase := blkSize - fld e.desc 0x10 1 * 0x100000 })
      ∧ (residentLive s e.id = true →
        ∃ t, exec (.residencySet e.id) s = .next t ∧ OnlyOps s t ∧ t.op? e.id = some { e with phase := .held }))
    ∧ (e.opcode = 0x801 → e.phase = .held → residentLive s e.id = false →
      (s.ops.filter fun x => x.opcode == 0x801 && x.phase == .held) = [e] →
      ∃ t, exec .residencyTakeEffect s = .next t ∧ Ends t e stOK ∧ t.mem = s.mem
        ∧ ∀ b, b < 20 → t.block b = { s.block b with
            resLayers := fld e.desc 0x11 1, resBase := blkSize - fld e.desc 0x10 1 * 0x100000 })
    ∧ (e.opcode = 0x306 → e.phase = .held → updateLive s e.id = false →
      (s.ops.filter fun x => x.opcode == 0x306 && x.phase == .held) = [e] →
      let img := rdBytes s e.tImage e.tSize
      ∃ t, exec .freezeTakeEffect s = .next t ∧ Ends t e stOK ∧ t.mem = s.mem
        ∧ ∀ p, fget false t.frozen p =
            if e.tArg0 ≤ p ∧ p < e.tArg0 + e.tArg1 then
              natBit (img.getD ((p - e.tArg0) / 8) 0).toNat ((p - e.tArg0) % 8)
            else fget false s.frozen p)

/-! ### Tables, schedules and telemetry -/

/-- R54, R56, R58 and R178, with the checks of the bodies named by the model's own function. -/
def Obligations.CellTableLoads : Prop :=
  ∀ (s : State),
    (∀ e, Admitted s 0x301 e → tableZeros e = true → cellsFieldOk e.tCells = true → e.tArg0 = 0 → e.tArg1 = 0 →
      (cellsOf e.region e.tCells).any (fencedCell s) = false →
      let size := if e.tKind = 0 then 16 else 512
      e.tKind ≤ 1 → e.tSize = size → (e.tSlot < if e.tKind = 0 then 4 else 2) →
      rangeStatus s e.resident e.tImage size = stOK → badRange s e.tImage size = false →
      let img := rdBytes s e.tImage size
      let load : TableLoad := if e.tKind = 0 then .cb16 e.tSlot img else .cb256 e.tSlot img
      ∃ t, exec (.codebookLoad e.id) s = .next t ∧ Ends t e stOK ∧ { t with ops := s.ops, cells := s.cells, hbms := s.hbms } = s
        ∧ ∀ n ∈ cellsOf e.region e.tCells, t.cell n = { s.cell n with held := (s.cell n).held ++ [load] })
    ∧ (∀ e, Admitted s 0x302 e → tableZeros e = true → cellsFieldOk e.tCells = true → e.tArg0 = 0 → e.tArg1 = 0 →
      (cellsOf e.region e.tCells).any (fencedCell s) = false → e.tKind = 0 → e.tSlot = 0 → e.tSize = 64 →
      rangeStatus s e.resident e.tImage 64 = stOK → badRange s e.tImage 64 = false →
      (∀ i, i < 16 → fmtDescOk (rdNat s (e.tImage + 4 * i) 4) = true) →
      let ws := (List.range 16).map fun i => BitVec.ofNat 32 (rdNat s (e.tImage + 4 * i) 4)
      ∃ t, exec (.fmtLoad e.id) s = .next t ∧ Ends t e stOK ∧ { t with ops := s.ops, cells := s.cells, hbms := s.hbms } = s
        ∧ ∀ n ∈ cellsOf e.region e.tCells, t.cell n = { s.cell n with held := (s.cell n).held ++ [.fmt ws] })
    ∧ (∀ e, Admitted s 0x303 e → tableZeros e = true → cellsFieldOk e.tCells = true → e.tArg1 = 0 →
      (cellsOf e.region e.tCells).any (fencedCell s) = false → e.tKind = 0 → e.tSlot < 16 → e.tArg0 ≠ 0 →
      shippedFuncs.contains e.tArg0 = true → e.tSize = 0 → e.tImage = 0 →
      ∃ t, exec (.curveLoad e.id) s = .next t ∧ Ends t e stOK ∧ { t with ops := s.ops, cells := s.cells, hbms := s.hbms } = s
        ∧ ∀ n ∈ cellsOf e.region e.tCells,
            t.cell n = { s.cell n with held := (s.cell n).held ++ [.curve e.tSlot (Curve.ofShipped e.tArg0)] })
    ∧ (∀ e, Admitted s 0x303 e → tableZeros e = true → cellsFieldOk e.tCells = true → e.tArg1 = 0 →
      (cellsOf e.region e.tCells).any (fencedCell s) = false → e.tKind = 0 → e.tSlot < 16 → e.tArg0 = 0 →
      64 ≤ e.tSize → e.tSize ≤ 64 + 256 * 40 → e.tSize % 256 = 64 →
      rangeStatus s e.resident e.tImage e.tSize = stOK → badRange s e.tImage e.tSize = false →
      let img := rdBytes s e.tImage e.tSize
      imageOk img = true →
      ∃ t, exec (.curveLoad e.id) s = .next t ∧ Ends t e stOK ∧ { t with ops := s.ops, cells := s.cells, hbms := s.hbms } = s
        ∧ ∀ n ∈ cellsOf e.region e.tCells,
            t.cell n = { s.cell n with held := (s.cell n).held ++ [.curve e.tSlot (Curve.ofImage img)] })
    ∧ ∀ n, n < 160 → fencedCell s n = false →
      (kernelBoundary (s.cell n) = false → ∃ t, exec (.tableLoadTakeEffect n) s = .next t ∧ t.cell n = s.cell n)
      ∧ (kernelBoundary (s.cell n) = true → ∀ l x, (s.cell n).held = l ++ [x] →
        ∃ t, exec (.tableLoadTakeEffect n) s = .next t ∧ (t.cell n).held = []
          ∧ { t with cells := s.cells } = s ∧ (∀ m, m ≠ n → t.cell m = s.cell m)
          ∧ match x with
            | .cb16 k codes => ∀ i (h : i < codes.length), fget 0 (t.cell n).cb16 (16 * k + i) = codes[i]
            | .cb256 k codes => ∀ i, i < 256 → fget 0 (t.cell n).cb256 (256 * k + i) = BitVec.ofNat 16 (fld codes (2 * i) 2)
            | .fmt ws => ∀ i (h : i < ws.length), fget 0 (t.cell n).fmt i = ws[i]
            | .curve k c => fget {} (t.cell n).curves k = c)

/-- R107, R290, R293, R294, R302 and R303. -/
def Obligations.OtherLoads : Prop :=
  ∀ (s : State) (e : OpEntry),
    (Admitted s 0x304 e → e.cls ≠ clsUPD → tableZeros e = true → e.tCells = 0 → e.tKind = 0 → e.tSlot = 0 →
      e.tArg1 = 0 → 0 < e.tSize → e.tSize % 8 = 0 → e.tArg0 % 8 = 0 → rangeStatus s e.resident e.tArg0 e.tSize = stOK →
      rangeStatus s e.resident e.tImage e.tSize = stOK → badRange s e.tImage e.tSize = false →
      ∃ t y, exec (.rescalePlace e.id) s = .next t ∧ t.op? e.id = some y ∧ y.phase = .finished
        ∧ rdBytes t e.tArg0 e.tSize = rdBytes s e.tImage e.tSize ∧ OnlyBytes [(e.tArg0, e.tSize)] s t)
    ∧ (Admitted s 0x305 e → tableZeros e = true → e.tCells = 0 → e.tKind = 0 → e.tSlot = 0 → e.tSize = gthImageBytes →
      e.tArg0 % 64 = 0 → e.tArg0 + 64 ≤ blkSize → e.tArg1 % 64 = 0 →
      (e.tArg1 ≠ 0 → e.tArg1 + 64 ≤ hbmTop ∧ rangeStatus s false e.tArg1 64 = stOK) →
      rangeStatus s e.resident e.tImage gthImageBytes = stOK → badRange s e.tImage gthImageBytes = false →
      gthImageOk (rdBytes s e.tImage gthImageBytes) = true →
      ∃ t, exec (.scheduleLoad e.id) s = .next t ∧ Ends t e stOK ∧ { t with ops := s.ops, gth := s.gth, hbms := s.hbms } = s
        ∧ t.gth = { s.gth with gen := s.gth.gen + 1, next := some (rdBytes s e.tImage gthImageBytes, e.tArg0, e.tArg1) })
    ∧ (Admitted s 0x306 e → tableZeros e = true → e.tCells = 0 → e.tKind = 0 → e.tSlot = 0 →
      e.tArg0 + e.tArg1 ≤ freezePages → e.tSize = ceilDiv e.tArg1 8 →
      (e.tSize ≠ 0 → rangeStatus s e.resident e.tImage e.tSize = stOK) → badRange s e.tImage e.tSize = false → updateLive s e.id = false →
      ∃ t, exec (.freezeLoad e.id) s = .next t ∧ Ends t e stOK ∧ { t with ops := s.ops, frozen := s.frozen, hbms := s.hbms } = s
        ∧ ∀ p, fget false t.frozen p =
            if e.tArg0 ≤ p ∧ p < e.tArg0 + e.tArg1 then
              natBit (rdByte s (e.tImage + (p - e.tArg0) / 8)).toNat ((p - e.tArg0) % 8)
            else fget false s.frozen p)
    ∧ (Admitted s 0x802 e → zeros e.desc 0x1A 0x20 = true → fld e.desc 0x19 1 < 16 → 1 ≤ fld e.desc 0x18 1 →
      fld e.desc 0x18 1 ≤ 64 → fld e.desc 0x10 8 % 4096 = 0 →
      (fld e.desc 0x10 8 ≠ 0 → rangeStatus s false (fld e.desc 0x10 8) (fld e.desc 0x18 1 * tlmStride) = stOK) →
      (∀ r, natBit (fld e.desc 0x19 1) r = true → fencedRegion s r = false) →
      ∃ t, exec (.telemetrySet e.id) s = .next t ∧ Ends t e stOK ∧ t.mem = s.mem
        ∧ ∀ r, r < 4 → (t.region r).tlm = if natBit (fld e.desc 0x19 1) r then
            { (s.region r).tlm with base := fld e.desc 0x10 8, ring := fld e.desc 0x18 1 - 1 } else (s.region r).tlm)
    ∧ ∀ r, r < 4 → (s.region r).tlm.writing = true →
      let m := (s.region r).tlm
      let a := m.base + m.closedStep.toNat % (m.ring + 1) * tlmStride
      (m.base ≠ 0 → fencedAddr s a = false → fencedRegion s r = false →
        ∃ t, exec (.telemetryRecordWrite r) s = .next t ∧ rdBytes t a tlmRecordBytes = tlmRecord s r
          ∧ OnlyBytes [(a, tlmRecordBytes)] s t
          ∧ (t.region r).tlm = { m with writing := false, closed := [], records := m.records + 1 })
      ∧ (m.base = 0 →
        ∃ t, exec (.telemetryRecordWrite r) s = .next t ∧ t.mem = s.mem
          ∧ (t.region r).tlm = { m with writing := false, closed := [] })

/-! ### Collectives -/

/-- R340 and R341 within the device; the messages to other devices are those of log entry 43. -/
def Obligations.CollectiveStarts : Prop :=
  ∀ (s : State) (e : OpEntry),
    (∀ p ∈ ([(.allReduce, 0x401), (.reduceScatter, 0x402), (.allGather, 0x403), (.allToAll, 0x404),
        (.broadcast, 0x405)] : List ((OpId → Instr) × Nat)), Admitted s p.2 e →
      (collStatus s e = stOK →
        ∃ t, exec (p.1 e.id) s = .next t ∧ OnlyOps s t ∧ t.op? e.id = some { e with phase := .held })
      ∧ (collStatus s e ≠ stOK →
        ∃ t, exec (p.1 e.id) s = .next t ∧ Ends t e (collStatus s e) ∧ t.mem = s.mem))
    ∧ (s.op? e.id = some e → e.group = 4 → e.phase = .held → bucketBusy s e = false →
      ((s.region e.region).colls.filter (liveColl s)).length < 64 →
      let d := e.desc
      farFromRetry s (cSrc d) (cMembers d * cCount d * elSize (cIn d)) = true →
      let own := s.hub.deviceId
      let g := groupOf s (cGroup d) (cMembers d)
      let rank := (g.findIdx? fun w => w == selfWord s e.region).getD 0
      let n := cCount d
      let gets (t : State) (w shard element : Nat) (bytes : List Byte) : Prop :=
        memberDev w = own → ringJoins s e.region (memberReg w) = true → Deliver.result { cid := cCid d, step := e.step.toNat, shard := shard, element := element, data := bytes }
          ∈ (t.region (memberReg w)).inbox
      ∃ t y, exec (.collectiveStart e.id) s = .next t ∧ t.op? e.id = some y ∧ OnlyBytes (retryRanges s) s t
        ∧ (y.phase = .running ∨ (y.phase = .finished ∧ stLINKDOWN ∈ y.stats ∧ cPolicy d = 0))
        ∧ ((∀ w ∈ g, memberDev w = own ∧ ringJoins s e.region (memberReg w) = true) → y.phase = .running)
        ∧ (∃ c ∈ (t.region e.region).colls,
            c.op = e.id ∧ c.body = d ∧ c.group = g ∧ c.rank = rank ∧ c.step = e.step.toNat)
        ∧ (cReduces d = true → ∀ k ∈ shardsOf d, memberDev (g.getD k 0) = own →
            ringJoins s e.region (memberReg (g.getD k 0)) = true → (s.region e.region).finals.contains (cCid d, e.step.toNat, k, 2) = false →
            Deliver.contribution
                { cid := cCid d, step := e.step.toNat, shard := k, rank := rank,
                  data := (srcBytes s d (shardLo d k) (shardLen d k)).1 }
              ∈ (t.region (memberReg (g.getD k 0))).inbox)
        ∧ (cIn d = cOut d → cOp d = 2 → ∀ w ∈ g, gets t w rank (rank * n) (srcBytes s d 0 n).1)
        ∧ (cIn d = cOut d → cOp d = 3 → ∀ j w, g[j]? = some w → gets t w rank (rank * n) (srcBytes s d (j * n) n).1)
        ∧ (cIn d = cOut d → cOp d = 4 → rank = cRoot d → ∀ w ∈ g, gets t w rank 0 (srcBytes s d 0 n).1))

/-- R341 to R346, for a shard, a member, and their region. -/
def Obligations.CollectiveTraffic : Prop :=
  ∀ (s : State) (r : Nat), r < 4 →
    let now := (s.region r).cycle
    (∀ c x, shardAt s r c.cid c.step c.shard = some x → x.ranks.contains c.rank = false → x.final = false →
      overdue x now = false →
      (x.ranks.length + 1 ≠ cMembers x.body →
        ∃ t, exec (.collectiveContribution r c) s = .next t ∧ t.mem = s.mem
          ∧ shardAt t r c.cid c.step c.shard = some { x with
              sums := (combineAll (cIn x.body == fINT32) (cRed x.body) x.sums (widenAll (cIn x.body) c.data)).1,
              ranks := x.ranks ++ [c.rank],
              first := if x.ranks.isEmpty then now else x.first })
      ∧ (x.ranks.length + 1 = cMembers x.body →
        ∃ t y, exec (.collectiveContribution r c) s = .next t ∧ OnlyBytes (retryRanges s) s t
          ∧ shardAt t r c.cid c.step c.shard = some y ∧ y.final = true ∧ y.ranks = x.ranks ++ [c.rank]
          ∧ ∀ w ∈ x.group, memberDev w = s.hub.deviceId → ringJoins s r (memberReg w) = true →
              ∃ q : CollResult, Deliver.result q ∈ (t.region (memberReg w)).inbox
                ∧ q.cid = x.cid ∧ q.step = x.step ∧ q.shard = x.shard ∧ q.header.isSome = true))
    ∧ (∀ x, ((s.region r).shards.find? fun y =>
        y.cid == x.cid && y.shard == x.shard && !y.final && overdue y now) = some x →
      ∃ t y, exec (.shardDeadline r x.cid x.shard) s = .next t ∧ shardAt t r x.cid x.step x.shard = some y
        ∧ y.final = true ∧ OnlyBytes (retryRanges s) s t)
    ∧ ∀ c x, ((s.region r).colls.find? fun x => cCid x.body == c.cid && x.step == c.step && liveColl s x) = some x →
      x.got.contains c.shard = false →
      let a := cDst x.body + c.element * elSize (cOut x.body)
      let ha := cHdr x.body + 64 * c.shard
      let h := c.header.getD []
      let ontime : Bool := x.late.isEmpty && (h.isEmpty || fld h 0x14 4 == 0)
      let all : Bool := (expected x.body).all (fun k => (x.got ++ [c.shard]).contains k) && x.unsettled.isEmpty
        && (ontime || !opInFlight s x.op)
      ∃ t, exec (.collectiveResult r c) s = .next t
        ∧ (c.data ≠ [] → fencedRange s a c.data.length = false → inMem ((memOf a).getD .hbm) a c.data.length = true →
            c.header = none → rdBytes t a c.data.length = c.data ∧ OnlyBytes [(a, c.data.length)] s t)
        ∧ (∀ h, c.header = some h → h.length = 64 → fencedRange s ha 64 = false → rdBytes t ha 64 = h)
        ∧ ∃ y, t.op? x.op = some y ∧ y.phase = if all then .finished else .running

/-! ### Snapshots -/

/-- The inputs of SNAP_CONFIG in order: ranges in mapped memory in service and clean, fields, slot table, group. -/
def configInOrder (s : State) (e : OpEntry) : Prop :=
  let d := e.desc
  let parts : List (Nat × Nat) :=
    [(fld d 0x10 8, 6144), (fld d 0x18 8, 4 * fld d 0x20 4), (fld d 0x40 8, 64), (fld d 0x48 8, 128)]
  (∀ x ∈ parts, rangeStatus s false x.1 x.2 = stOK ∧ badRange s x.1 x.2 = false)
    ∧ rangeStatus s false (fld d 0x38 8) 24 = stOK ∧ workLive s e.id = false ∧ configForm e = true
    ∧ slotsOk ((slotTable s (fld d 0x10 8)).map Prod.fst) = true ∧ groupOk s (groupOf s (fld d 0x18 8) (fld d 0x20 4)) = true
    ∧ ∀ r, r < 4 → rdNat s (fld d 0x48 8 + 32 * r + 24) 8 = 0

/-- The inputs of SNAP_COMMIT in order, with no round open, and the vote that they make YES. -/
def commitInOrder (s : State) (e : OpEntry) : Prop :=
  let d := e.desc
  fld d 0x10 8 = s.hub.step.toNat ∧ fld d 0x28 1 ≤ 1 ∧ zeros d 0x29 0x30 = true ∧ s.hrw.configured = true
    ∧ s.hrw.commit = none ∧ s.hrw.recoverWait = false ∧ s.hrw.undecided = false ∧ s.hrw.rounds = []

/-- R350, R352 and R358. -/
def Obligations.SnapshotConfigAndCommit : Prop :=
  ∀ (s : State) (e : OpEntry), let d := e.desc
    (Admitted s 0x501 e → configInOrder s e →
      ∃ t, exec (.snapConfig e.id) s = .next t ∧ Ends t e stOK ∧ OnlyBytes (retryRanges s) s t
        ∧ t.hrw.configured = true ∧ t.hrw.slots = (slotTable s (fld d 0x10 8)).map Prod.fst ∧ t.hrw.current = 0
        ∧ t.hrw.group = groupOf s (fld d 0x18 8) (fld d 0x20 4) ∧ t.hrw.cid = fld d 0x24 4
        ∧ t.hrw.fanout = fld d 0x28 1 ∧ t.hrw.flashEvery = fld d 0x2A 2 ∧ t.hrw.storeEvery = fld d 0x2C 4
        ∧ t.hrw.committed = 0 ∧ t.hrw.hasDurable = false)
    ∧ (Admitted s 0x502 e → commitInOrder s e →
      let yes : Prop := fld d 0x28 1 = 1
        ∧ (liveFor s e.id fun x => x.isWork && x.cls == clsUPD && x.step == s.hub.step) = false
        ∧ ∀ r ∈ slotRegions s, fencedRegion s r = true → r ∈ s.hrw.openFences
      let step := s.hub.step.toNat
      (yes → ownChildren s ≠ [] →
        ∃ t y, exec (.snapCommit e.id) s = .next t ∧ t.op? e.id = some y ∧ y.phase = .running ∧ t.mem = s.mem
          ∧ t.hrw.commit = some (e.id, fld d 0x18 8, fld d 0x20 8)
          ∧ (roundAt t step 0).own = some (true, 0) ∧ (roundAt t step 0).sent = false)
      ∧ (yes → ownRank s = some 0 → ownChildren s = [] →
        ∃ t y, exec (.snapCommit e.id) s = .next t ∧ t.op? e.id = some y ∧ y.phase = .finished
          ∧ t.hrw.current = 1 - s.hrw.current ∧ t.hrw.committed = step ∧ t.hub.step = s.hub.step + 1
          ∧ t.hrw.commit = none)
      ∧ (∀ k, fld d 0x28 1 = 0 → ownRank s = some k → 0 < k →
        ∃ t y, exec (.snapCommit e.id) s = .next t ∧ t.op? e.id = some y ∧ y.phase = .running
          ∧ OnlyBytes (retryRanges s) s t ∧ (roundAt t step 0).own = some (false, 1) ∧ (roundAt t step 0).sent = true))

/-- R358, R359 and R361. -/
def Obligations.CommitTree : Prop :=
  ∀ (s : State),
    (∀ src b rank, bridleBodyOk 5 b = true → fld b 0 4 = s.hrw.cid → fld b 4 1 = 0 → fld b 5 1 = 1 →
      fld b 8 8 = s.hub.step.toNat → s.hrw.configured = true → s.hrw.recoverWait = false → s.hrw.undecided = false →
      (s.hrw.group.findIdx? fun w => memberDev w == src.id) = some rank → (ownChildren s).contains rank = true →
      let x := roundAt s s.hub.step.toNat 0
      x.own = none → (x.votes.all fun v => v.2.1) = true → (x.votes.any fun v => v.1 == rank) = false →
      ∃ t, exec (.commitVote src b) s = .next t ∧ t.mem = s.mem ∧ t.ops = s.ops
        ∧ roundAt t s.hub.step.toNat 0 = { x with votes := x.votes ++ [(rank, true, fld b 6 2, fld b 0x10 4, fld b 0x14 4)] })
    ∧ (∀ b, bridleBodyOk 6 b = true → fld b 0 4 = s.hrw.cid → resultLive s (fld b 4 1) (fld b 8 8) = true →
      let step := fld b 8 8
      ∃ t, exec (.commitResult b) s = .next t
        ∧ (fld b 4 1 = 0 → t.hrw.current = 1 - s.hrw.current ∧ t.hrw.committed = step ∧ t.hub.step = s.hub.step + 1)
        ∧ (fld b 4 1 = 1 → t.hrw.current = s.hrw.current ∧ t.hrw.committed = s.hrw.committed ∧ t.hub.step = s.hub.step
            ∧ (fld b 5 1 ≠ 0 → t.hrw.recoverWait = true)
            ∧ ∀ id x, s.op? id = some x → abandoned s.hub.step x = true → ∃ y, t.op? id = some y ∧ y.phase = .aborting)
        ∧ (fld b 4 1 = 2 → t.hrw.durable = step ∧ t.hrw.hasDurable = true ∧ t.hrw.current = s.hrw.current
            ∧ t.hub.step = s.hub.step ∧ OnlyBytes (retryRanges s) s t)
        ∧ (fld b 4 1 = 3 → t.hrw.recoverWait = true ∧ t.hrw.committed = step - 1 ∧ t.hub.step = s.hub.step
            ∧ t.hrw.current = if step = 0 then s.hrw.current else 1 - s.hrw.current))
    ∧ (∀ rank k, s.hrw.configured = true → s.hrw.recoverWait = false → (ownChildren s).contains rank = true →
      (openRound s).2 = 0 → ownRank s = some k → 0 < k →
      let x := roundAt s s.hub.step.toNat 0
      (x.own ≠ none ∨ x.votes ≠ []) → x.sent = false → (x.votes.any fun v => v.1 == rank) = false →
      ∃ t, exec (.voteTimeout rank) s = .next t ∧ OnlyBytes (retryRanges s) s t ∧ t.ops = s.ops
        ∧ (roundAt t s.hub.step.toNat 0).votes = x.votes ++ [(rank, false, 4, 0, rank)]
        ∧ (roundAt t s.hub.step.toNat 0).sent = true)
    ∧ (s.hrw.configured = true → s.hrw.rounds.any Round.sent = true → s.hrw.undecided = false → s.hrw.recoverWait = false →
      ∃ t, exec (.resultTimeout none) s = .next t ∧ t.hrw.undecided = true ∧ t.hrw.current = s.hrw.current ∧ t.mem = s.mem
        ∧ ∀ e a b, s.hrw.commit = some (e.id, a, b) → s.op? e.id = some e → e.phase = .running →
            t.hrw.commit = none ∧ ∃ y, t.op? e.id = some y ∧ y.phase = .finished ∧ stTIMEOUT ∈ y.stats
              ∧ (s.hrw.correlated = true → stCORRELATED ∈ y.stats))

/-- R354, R355 and R365. -/
def Obligations.CopiesAndPairing : Prop :=
  ∀ (s : State),
    (∀ r, s.hrw.shipping.contains r = true →
      (∃ t, exec (.mirrorCopyComplete r true) s = .next t
        ∧ fget 0 t.hrw.copies r = fget 0 s.hrw.copies r + 1
        ∧ fget 0 t.hrw.shipBytes r = fget 0 s.hrw.shipBytes r + BitVec.ofNat 64 (hrwBytes s r))
      ∧ (∃ t, exec (.mirrorCopyComplete r false) s = .next t ∧ t.hrw.shipFailed = true))
    ∧ (∀ step, s.hrw.flashing = some step → s.hrw.flashNext = none →
      (∃ t, exec (.flashImageComplete true) s = .next t ∧ t.hrw.flashing = none ∧ t.hrw.lastFlash = step
        ∧ ∀ a ∈ s.hrw.areas, a.step = step → a.age ≠ 0 → (∀ b ∈ s.hrw.areas, b.age ≤ a.age) →
            ∃ a' ∈ t.hrw.areas, a'.step = step ∧ a'.complete = true ∧ a'.data = a.data)
      ∧ (∃ t, exec (.flashImageComplete false) s = .next t ∧ t.hrw.flashing = none
        ∧ t.hrw.flashErrors = (s.hrw.flashErrors + 1) % 65536))
    ∧ (∀ e, Admitted s 0x503 e → workLive s e.id = false → fld e.desc 0x12 1 ≤ 1 → zeros e.desc 0x13 0x20 = true →
      fld e.desc 0x10 2 ≠ s.hub.deviceId → routedAll s (fld e.desc 0x10 2) = true → s.hrw.pairing = none →
      ∃ t y, exec (.snapPair e.id) s = .next t ∧ t.op? e.id = some y ∧ y.phase = .running ∧ t.mem = s.mem
        ∧ t.hrw.pairing = some (e.id, fld e.desc 0x10 2, fld e.desc 0x12 1 == 1) ∧ t.hrw.paired = false
        ∧ t.out = .handshake (fld e.desc 0x10 2) s.hub.deviceId s.hub.domain (fld e.desc 0x12 1 == 1) :: s.out)
    ∧ (∀ e peer domain asked forced, s.op? e.id = some e → e.phase = .running → s.hrw.pairing = some (e.id, peer, forced) →
      ∃ t, exec (.pairHandshake peer domain asked) s = .next t ∧ OnlyBytes (retryRanges s) s t ∧ t.hrw.pairing = none
        ∧ (∀ own d, s.hub.domain = some own → domain = some d → own ≠ d →
            Ends t e stOK ∧ t.hrw.paired = true ∧ t.hrw.keeper = peer ∧ t.hrw.correlated = s.hrw.wardShares)
        ∧ ((s.hub.domain = none ∨ domain = none ∨ s.hub.domain = domain) →
            Ends t e stCORRELATED
            ∧ (forced = true → t.hrw.paired = true ∧ t.hrw.keeper = peer ∧ t.hrw.correlated = true)
            ∧ (forced = false → t.hrw.paired = s.hrw.paired)))
    ∧ ∀ peer domain asked, s.hrw.pairing = none → (s.hrw.hasWard = false ∨ s.hrw.ward = peer) →
      ∃ t, exec (.pairHandshake peer domain asked) s = .next t
        ∧ t.out = .handshake peer s.hub.deviceId s.hub.domain false :: s.out
        ∧ (∀ own d, s.hub.domain = some own → domain = some d → own ≠ d →
            t.hrw.ward = peer ∧ t.hrw.hasWard = true ∧ t.hrw.wardShares = false)
        ∧ ((s.hub.domain = none ∨ domain = none ∨ s.hub.domain = domain) →
            (asked = true → t.hrw.ward = peer ∧ t.hrw.hasWard = true ∧ t.hrw.wardShares = true)
            ∧ (asked = false → t.hrw = s.hrw))

/-- R356, R363 and R364; a restore brings back the operation's own region (log entry 45). -/
def Obligations.Restores : Prop :=
  ∀ (s : State) (e : OpEntry), let d := e.desc
    (Admitted s 0x504 e → zeros d 0x11 0x18 = true → fld d 0x38 1 ≤ 1 → zeros d 0x39 0x40 = true →
      s.hrw.configured = true → hrwBytes s e.region ≠ 0 →
      let a := fld d 0x18 8
      let n := hrwBytes s e.region
      let step := fld d 0x20 8
      let inOrder (data : List Byte) (explicit : Bool) : Bool :=
        fld data 0 2 == 1 && (fld data 8 8 == step || explicit)
      let done : Prop := ∃ t y, exec (.snapRestore e.id) s = .next t ∧ t.op? e.id = some y ∧ y.phase = .finished
        ∧ t.hrw.current = 0 ∧ ∀ x ∈ t.hrw.restoring, x.op ≠ e.id
      let ends (st : Nat) : Prop := ∃ t, exec (.snapRestore e.id) s = .next t ∧ Ends t e st ∧ t.mem = s.mem
      (fld d 0x10 1 = 1 → ∀ f, newestImage s.hrw step = some f →
        let data := fgets 0 f.data (regionOffset s e.region) n
        (inOrder data (fld d 0x38 1 == 1) = true → done) ∧ (inOrder data (fld d 0x38 1 == 1) = false → ends stMISMATCH))
      ∧ (fld d 0x10 1 = 1 → newestImage s.hrw step = none → ends stMISMATCH)
      ∧ (fld d 0x10 1 = 2 → rangeStatus s false (a + 4096 + regionOffset s e.region) n = stOK →
        let data := rdBytes s (a + 4096 + regionOffset s e.region) n
        (inOrder data (fld d 0x38 1 == 1) = true → done) ∧ (inOrder data (fld d 0x38 1 == 1) = false → ends stMISMATCH))
      ∧ (fld d 0x10 1 = 0 → devOf a = s.hub.deviceId → (rangeMem (localOf a) (64 + n)).isSome = true →
        fencedRange s (localOf a) (64 + n) = false →
        let h := rdBytes s (localOf a) (64 + n)
        let whole : Bool := fld h 0 2 == 1 && fld h 2 1 == 1 && fld h 8 8 == step
        (whole = true → inOrder (h.drop 64) false = true → done) ∧ (whole = false → ends stPARTNERLOST))
      ∧ (fld d 0x10 1 = 0 → devOf a ≠ s.hub.deviceId → (pathFrom 8 s e.region (devOf a) 0).isSome = true →
        ∃ t y, exec (.snapRestore e.id) s = .next t ∧ t.op? e.id = some y ∧ y.phase = .running
          ∧ OnlyBytes (retryRanges s) s t
          ∧ ∃ x ∈ t.hrw.restoring, x.op = e.id ∧ x.region = e.region ∧ x.src = a ∧ x.len = 64 + n ∧ x.got = [])
      ∧ (fld d 0x10 1 = 0 → devOf a ≠ s.hub.deviceId → (pathFrom 8 s e.region (devOf a) 0).isSome = false →
        ends stPARTNERLOST))
    ∧ (Admitted s 0x505 e → fld d 0x38 1 ≤ 1 → zeros d 0x39 0x40 = true → 0 < fld d 0x20 4 → s.hrw.configured = true →
      rangeStatus s false (fld d 0x18 8) (4 * fld d 0x20 4) = stOK → badRange s (fld d 0x18 8) (4 * fld d 0x20 4) = false →
      let g := groupOf s (fld d 0x18 8) (fld d 0x20 4)
      let held (k : Nat) : Bool := (slotRegions s).all (holdsStep s k (fld d 0x10 8))
      groupOk s g = true →
      (∀ k, [s.hrw.current, 1 - s.hrw.current].find? held = some k →
        ∃ t y, exec (.snapRecover e.id) s = .next t ∧ t.op? e.id = some y ∧ y.phase = .finished ∧ t.hrw.current = k
          ∧ t.hrw.group = g ∧ t.hrw.committed = fld d 0x10 8 ∧ t.hrw.recoverWait = false ∧ t.hrw.undecided = false
          ∧ t.hub.step = BitVec.ofNat 64 (fld d 0x10 8 + 1) ∧ t.mbx.quiesced = false)
      ∧ (held s.hrw.current = false → held (1 - s.hrw.current) = false →
        ∃ t, exec (.snapRecover e.id) s = .next t ∧ Ends t e stMISMATCH ∧ OnlyOps s t))
    ∧ (Admitted s 0x506 e →
      ∃ t, exec (.snapRelease e.id) s = .next t ∧ Ends t e stOK ∧ { t with ops := s.ops, hrw := s.hrw } = s
        ∧ t.hrw = { s.hrw with areas := s.hrw.areas.map fun a => { a with pinned := false } })

/-! ### Control operations -/

/-- `e` is a control operation of opcode `opc` that has not run, its body in order, for this device or another. -/
def Control (s : State) (opc : Nat) (far : Bool) (e : OpEntry) : Prop :=
  s.op? e.id = some e ∧ e.opcode = opc ∧ e.phase = .waiting ∧ ctrlBodyOk e = true ∧ e.remoteReq = far

/-- The control operation `e` runs on, until its wait is over. -/
def Waits (t : State) (e : OpEntry) : Prop := ∃ z, t.op? e.id = some z ∧ z.phase = .running

/-- The management address of a device in the peer-address table. -/
def peerOf (s : State) (dev : Nat) : Option (List Byte) := (s.hub.peers.find? fun p => p.1 == dev).map Prod.snd

/-- R393 to R398. A target that is a snapshot commit also votes NO and is left out here. -/
def Obligations.ControlOperations : Prop :=
  ∀ (s : State) (e : OpEntry),
    (Control s 0x701 false e → e.scope = 0 →
      (∀ x, x.id = e.target → s.op? x.id = some x → x.isTarget = true → x.opcode ≠ 0x502 → x.phase ≠ .preempted →
        ∃ t y, exec (.abort e.id) s = .next t ∧ t.op? x.id = some y ∧ y.phase = .aborting ∧ t.mem = s.mem
          ∧ (x.phase ≠ .aborting → stABORTED ∈ y.stats) ∧ ∃ z, t.op? e.id = some z ∧ z.phase = .running ∧ x.id ∈ z.targets)
      ∧ ((∀ x ∈ s.ops, x.isTarget = true → x.id ≠ e.target) →
        ∃ t, exec (.abort e.id) s = .next t ∧ Ends t e stALREADY ∧ OnlyOps s t))
    ∧ (Control s 0x702 false e → ∀ x, s.ops.find? (fun x => x.isTarget && x.id == e.target) = some x → s.op? x.id = some x →
      x.phase = .running → x.preempt = false → x.canPreempt = true → preemptedCount s x.region < 64 →
      ∃ t y z, exec (.preempt e.id) s = .next t ∧ t.op? x.id = some y ∧ y.phase = .preempting ∧ t.mem = s.mem
        ∧ t.op? e.id = some z ∧ z.phase = .running ∧ z.targets = [x.id])
    ∧ (Control s 0x703 false e → ∀ x, s.ops.find? (fun x => x.phase == .preempted && x.id == e.target) = some x →
      s.op? x.id = some x → x.cells.any (fencedCell s) = false →
      let mask := fld e.desc 0x20 8
      (mask = 0 →
        ∃ t, exec (.resume e.id) s = .next t ∧ OnlyOps s t ∧ Waits t e
          ∧ t.op? x.id = some { x with phase := .waiting, resumed := true, admitted := false })
      ∧ (0 < mask → mask < 2 ^ 40 → x.opcode = 0x201 → x.desc.length = 128 → (cellsOf x.region mask).any (fencedCell s) = false →
        (cellsOf x.region mask).length = (bitsOf 40 (fld x.desc 0x10 8)).length →
        ∃ t y, exec (.resume e.id) s = .next t ∧ Waits t e ∧ t.op? x.id = some y ∧ y.phase = .waiting ∧ y.resumed = true
          ∧ fld y.desc 0x10 8 = mask ∧ (x.started = true → y.cells = cellsOf x.region mask)))
    ∧ (Control s 0x704 false e →
      (e.scope = 0 → ∃ t, exec (.quiesce e.id) s = .next t ∧ t.mbx = { s.mbx with quiesced := true } ∧ Waits t e
        ∧ t.mem = s.mem ∧ ∀ i, i ≠ e.id → t.op? i = s.op? i)
      ∧ (e.scope = 1 → ∃ t, exec (.quiesce e.id) s = .next t ∧ t.mbx.quiesced = true
        ∧ ∀ x, s.op? x.id = some x → x.inFlight = true → x.exempt = false →
            ∃ y, t.op? x.id = some y ∧ y.phase = .aborting))
    ∧ (Control s 0x705 false e →
      ∃ t, exec (.unquiesce e.id) s = .next t ∧ Ends t e stOK ∧ t.mbx = { s.mbx with quiesced := false }
        ∧ { t with ops := s.ops, mbx := s.mbx } = s)
    ∧ (Control s 0x706 false e →
      ∃ t, exec (.echo e.id) s = .next t ∧ Ends t e stOK ∧ { t with ops := s.ops, fresh := s.fresh } = s)

/-- R399 and R329, the ECHO body of R325, and the watchdog of Table 13-5 (log entry 46). -/
def Obligations.RemoteControl : Prop :=
  ∀ (s : State),
    (∀ e, ∀ p ∈ ([(.abort, 0x701), (.quiesce, 0x704), (.unquiesce, 0x705), (.echo, 0x706)] : List ((OpId → Instr) × Nat)),
      Control s p.2 true e → e.targetId ≠ s.hub.deviceId → e.targetId < 65536 →
      let sent (t : State) : Prop :=
        ∃ z, t.op? e.id = some z ∧ z.phase = .running ∧ z.sent = some (s.hub.cycle, s.hub.ctlSeq)
      ∃ t, exec (p.1 e.id) s = .next t ∧ OnlyBytes (retryRanges s) s t
        ∧ (pathFrom 8 s e.region e.targetId 0 ≠ none → sent t)
        ∧ (pathFrom 8 s e.region e.targetId 0 = none → ∀ a, peerOf s e.targetId = some a →
            sent t ∧ ∃ d, t.out = .oob a d :: s.out ∧ d.typ = 0x20)
        ∧ (pathFrom 8 s e.region e.targetId 0 = none → peerOf s e.targetId = none → Ends t e stTIMEOUT))
    ∧ (∀ e sent, s.op? e.id = some e → e.isCtrl = true → e.phase = .running → e.sent = some sent →
      let again (c : Instr) : Prop := ∃ t, exec c s = .next t ∧ t.mem = s.mem
        ∧ (∀ a, peerOf s e.targetId = some a → t.ops = s.ops ∧ ∃ d, t.out = .oob a d :: s.out ∧ d.typ = 0x20)
        ∧ (peerOf s e.targetId = none → Ends t e stTIMEOUT)
      (160000 ≤ (s.hub.cycle - sent.1).toNat →
        (∃ t, exec (.remoteControlTimeout e.id false) s = .next t ∧ Ends t e stTIMEOUT ∧ OnlyOps s t)
        ∧ again (.remoteControlTimeout e.id true))
      ∧ ((s.hub.cycle - sent.1).toNat < 160000 → ∀ oob, exec (.remoteControlTimeout e.id oob) s = .next s)
      ∧ (∃ t, exec (.bridleDeliveryTimeout e.id false) s = .next t ∧ Ends t e stTIMEOUT ∧ OnlyOps s t)
      ∧ again (.bridleDeliveryTimeout e.id true))
    ∧ (∀ r src b, r < 4 → ctlBodyOk b = true → fld b 0 1 = 0 → tagUsed s ⟨65536 + 4 * src.id + src.region, fld b 8 4⟩ = false →
      let may : Bool := (List.range 256).any fun ch => bindValid s ch && bindCtrl s ch && bindSend s ch == proxyId s src
      (may = true → fld b 1 1 ≤ 2 → ∃ t, exec (.bridleQuiesce r src b) s = .next t ∧ t.mbx.quiesced = true)
      ∧ (may = true → fld b 1 1 = 3 → ∃ t, exec (.bridleQuiesce r src b) s = .next t ∧ t.mbx.quiesced = false)
      ∧ (may = false → ∃ t, exec (.bridleQuiesce r src b) s = .next t ∧ t.mbx = s.mbx ∧ t.ops = s.ops
          ∧ OnlyBytes (retryRanges s) s t)
      ∧ (∀ x, bindValid s (fld b 2 1) = true → bindSend s (fld b 2 1) = proxyId s src → fld b 1 1 = 0 →
          x.id = ⟨fld b 2 1, fld b 4 4⟩ → s.op? x.id = some x → x.isTarget = true → x.opcode ≠ 0x502 → x.phase = .running →
        ∃ t y, exec (.bridleAbort r src b) s = .next t ∧ t.op? x.id = some y ∧ y.phase = .aborting ∧ stABORTED ∈ y.stats))
    ∧ (∀ r src b e t0, r < 4 → s.op? e.id = some e → e.phase = .running → e.targetId = src.id → (∀ x ∈ s.ops, x ≠ e → x.sent = none) →
      fld b 0 1 = 1 →
      (ctlBodyOk b = true → e.sent = some (t0, fld b 8 4) → (e.opcode = 0x704 ∨ e.opcode = 0x705) →
        ∃ t, exec (.bridleQuiesce r src b) s = .next t ∧ Ends t e (fld b 0xC 2))
      ∧ (ctlBodyOk b = true → e.sent = some (t0, fld b 8 4) → e.opcode = 0x701 →
        ∃ t, exec (.bridleAbort r src b) s = .next t ∧ Ends t e (fld b 0xC 2))
      ∧ (zeros b 1 4 = true → e.sent = some (t0, fld b 4 4) → e.opcode = 0x706 →
        ∃ t z, exec (.bridleEcho r src b) s = .next t ∧ Ends t e stOK ∧ t.op? e.id = some z ∧ z.d0 = s.hub.cycle - t0))
    ∧ (∀ r src b, r < 4 → fld b 0 1 = 0 → zeros b 1 4 = true →
      ∃ t, exec (.bridleEcho r src b) s = .next t ∧ t.ops = s.ops ∧ OnlyBytes (retryRanges s) s t
        ∧ (cameByPort s r 9 b = true → ∀ a, peerOf s src.id = some a →
            ∃ d, t.out = .oob a d :: s.out ∧ d.body = leBytes 2 9 ++ ((1#8 :: b.drop 1) ++ List.replicate 222 0).take 222))
    ∧ ∀ core x, core < 4 → s.op? x.id = some x → x.region = core → x.phase ≠ .preempted → x.answer = none →
      ∃ t y, exec (.commandProcessorWatchdog core) s = .next t ∧ t.op? x.id = some y ∧ stINTERNAL ∈ y.stats
        ∧ y.reason = 1 ∧ (y.phase = .finished ∨ y.phase = .aborting) ∧ t.mem = s.mem

/-! ### Links -/

/-- R313, R317 and R319. State 3 for a round trip above 163.84 ns is the model's reading (log entry 31). -/
def Obligations.LinkTraining : Prop :=
  ∀ (s : State) (l : Nat), l < 24 →
    let k := s.link l
    let fenced (t : State) (l : Nat) : Prop :=
      (t.link l).st = 4 ∧ (t.region (l / 6)).fence.getLsbD (48 + l % 6) = true ∧ (t.link l).txq = [] ∧ (t.link l).retry = []
        ∧ OnlyBytes (retryRanges s) s t
    (k.st = 1 → k.trained = false → ∀ rtt,
      (∃ t, exec (.linkTrainingDone l false rtt) s = .next t ∧ fenced t l)
      ∧ (k.mode = 0 → rttMax < rtt → ∃ t, exec (.linkTrainingDone l true rtt) s = .next t ∧ fenced t l)
      ∧ (k.mode = 1 → ∃ t, exec (.linkTrainingDone l true rtt) s = .next t
          ∧ t.link l = { k with trained := true, rtt := 0, st := 2 } ∧ { t with links := s.links } = s)
      ∧ (k.mode = 0 → rtt ≤ rttMax → k.peer = none →
          let p : PeerInfo := { deviceId := s.hub.deviceId, localLink := l % 6, mode := 0, rtt := rtt }
          ∃ t, exec (.linkTrainingDone l true rtt) s = .next t ∧ t.out = .control l p :: s.out
          ∧ t.link l = { k.bump 0x08 1 with
              trained := true, rtt := rtt, retry := k.retry ++ [(k.txSeq, { typ := 3, control := some p })],
              txSeq := (k.txSeq + 1) % 4096 }
          ∧ { t with links := s.links, out := s.out } = s))
    ∧ (∀ p, k.st = 1 → k.mode = 0 →
      (k.trained = false → ∃ t, exec (.linkControlFlit l p) s = .next t
          ∧ t.link l = { k.bump 0x10 1 with peer := some p, rxLast := (k.rxLast + 1) % 4096 }
          ∧ { t with links := s.links } = s)
      ∧ (k.trained = true → p.mode = 0 → p.deviceId ≠ s.hub.deviceId → ∃ t, exec (.linkControlFlit l p) s = .next t
          ∧ (t.link l).st = (if rttFull < k.rtt then 3 else 2) ∧ (t.link l).peerId = p.deviceId
          ∧ (t.link l).resv = fullCredits ∧ (t.link l).shared = 780 ∧ { t with links := s.links } = s)
      ∧ (k.trained = true → (p.mode ≠ 0 ∨ p.deviceId = s.hub.deviceId) →
          ∃ t, exec (.linkControlFlit l p) s = .next t ∧ fenced t l))
    ∧ ((k.st = 2 ∨ k.st = 3) →
      (∃ t, exec (.linkSignalLoss l) s = .next t ∧ fenced t l)
      ∧ ∃ t, exec (.linkrefLoss (l / 6)) s = .next t ∧ fenced t l)
    ∧ (k.st ≠ 2 → k.st ≠ 3 → exec (.linkSignalLoss l) s = .next s)

/-- The message that payloads of flits carry (R316). -/
def joined (parts : List (List Byte)) : Msg :=
  let m := msgOf parts.flatten
  { m with data := m.data.take m.length }

/-- What leaves the device when the last flit of a message has left. -/
def noteOut (f : TxFlit) : List Out := match f.note with
  | some (.contribution dev r c) => [.contribution dev r c]
  | some (.result dev r c) => [.result dev r c]
  | some (.poison l) => [.poison l]
  | none => []

/-- R314 to R321 and R330, for a native link. -/
def Obligations.LinkFlits : Prop :=
  ∀ (s : State) (l : Nat) (flit : List Byte), l < 24 →
    let k := s.link l
    let h := LinkHead.of flit
    let key := 2 * h.vc + h.cls
    let parts := (if h.som then [] else fget [] k.rx key) ++ [((flit.drop 12).take 240).take h.valid]
    let m := joined parts
    let now := (s.region (l / 6)).cycle
    let sends (t : State) (after : List Out) (seq : Nat) (payload : List Byte) : Prop :=
      ∃ g : LinkHead, t.out = after ++ .flit l (flitBytes g payload) :: s.out ∧ g.seq = seq ∧ g.ack = k.rxLast
    (inService s l = true → flit.length = 256 →
      (flitCrcOk flit = true → h.typ = 0 → h.seq = (k.rxLast + 1) % 4096 →
        ∃ t, exec (.flitReceive l flit) s = .next t ∧ OnlyBytes (retryRanges s) s t ∧ (t.link l).rxLast = h.seq
          ∧ (t.link l).discarding = false ∧ fget 0 (t.link l).ctr 0x10 = fget 0 k.ctr 0x10 + 1
          ∧ (h.eom = false → fget [] (t.link l).rx key = parts ∧ fget 0 (t.link l).inbuf key = fget 0 k.inbuf key + 1
              ∧ t.mem = s.mem)
          ∧ (h.eom = true → devOf m.dest = s.hub.deviceId → m.op ≠ 4 → m.op ≠ 5 →
              let r := if m.op = 6 ∧ fld m.data 0 2 = 1 then l / 6 else homeOf (l / 6) (localOf m.dest)
              ringJoins s (l / 6) r = true → (t.region r).inbox = (s.region r).inbox ++ [.msg m])
          ∧ (h.eom = true → devOf m.dest ≠ s.hub.deviceId → ∀ q p c tn,
              pathFrom 8 s (l / 6) (devOf m.dest) h.cls = some (q, p, c, tn) → p < 6 →
              ((t.link (6 * q + p)).txq.drop (s.link (6 * q + p)).txq.length).map
                  (fun f => (f.payload, f.vc, f.cls, f.som, f.eom, f.src))
                = (parts.zip (List.range parts.length)).map fun x =>
                    (x.1, vcOf m.op, c, decide (x.2 = 0), decide (x.2 + 1 = parts.length), some (l, key))))
      ∧ ((flitCrcOk flit = false ∨ (h.typ ≠ 1 ∧ h.typ ≠ 2 ∧ h.seq ≠ (k.rxLast + 1) % 4096)) →
        ∃ t, exec (.flitReceive l flit) s = .next t ∧ t.mem = s.mem ∧ (t.link l).rxLast = k.rxLast
          ∧ (t.link l).discarding = true ∧ (t.link l).rx = k.rx ∧ fget 0 (t.link l).ctr 0x18 = fget 0 k.ctr 0x18 + 1
          ∧ (k.discarding = true → t.out = s.out)
          ∧ (k.discarding = false → ∃ g, t.out = .flit l (flitBytes g []) :: s.out ∧ g.typ = 2 ∧ g.ack = k.rxLast))
      ∧ (flitCrcOk flit = true → h.typ = 1 → ∀ i, (k.retry.findIdx? fun x => x.1 == h.ack) = some i →
        ∃ t, exec (.nullFlitReceive l flit) s = .next t ∧ (t.link l).retry = k.retry.drop (i + 1)
          ∧ (t.link l).lastRx = now ∧ { t with links := s.links } = s)
      ∧ (flitCrcOk flit = true → h.typ = 2 →
        let tired : Bool := (headerIn h k).retry.any fun x => decide (8 ≤ x.2.tries)
        (tired = false → ∃ t, exec (.retryRequest l flit) s = .next t ∧ (t.link l).resend = (t.link l).retry
          ∧ (t.link l).retry = (headerIn h k).retry ∧ { t with links := s.links } = s)
        ∧ (tired = true → ∃ t, exec (.retryRequest l flit) s = .next t ∧ (t.link l).st = 4)))
    ∧ (inService s l = true →
      ∃ t g, exec (.nullFlitTimer l) s = .next t ∧ t.out = .flit l (flitBytes g []) :: s.out ∧ g.typ = 1 ∧ g.ack = k.rxLast)
    ∧ (inService s l = false → exec (.nullFlitTimer l) s = .next s ∧ exec (.flitTransmit l) s = .next s)
    ∧ (inService s l = true →
      (∀ x rest, k.resend = x :: rest → k.resendAt.length < 1024 → (isBridleFlit x.2 = true → 15 ≤ k.sinceBridle) →
        ∃ t, exec (.flitTransmit l) s = .next t ∧ (t.link l).resend = rest
          ∧ (x.2.control = none → sends t [] x.1 x.2.payload)
          ∧ (∀ p, x.2.control = some p → t.out = .control l p :: s.out)
          ∧ fget 0 (t.link l).ctr 0x20 = fget 0 k.ctr 0x20 + 1)
      ∧ (∀ f turn left, k.resend = [] → k.retry.length < 128 → pickFlit (offerBridle now k) = some (f, turn, left) →
        ∃ t, exec (.flitTransmit l) s = .next t ∧ sends t (noteOut f) k.txSeq f.payload
          ∧ (t.link l).txq = (offerBridle now k).txq.erase f
          ∧ (t.link l).retry = k.retry ++ [(k.txSeq, f)] ∧ (t.link l).txSeq = (k.txSeq + 1) % 4096
          ∧ fget 0 (t.link l).ctr 0x08 = fget 0 k.ctr 0x08 + 1))

/-- R29 and R316; the refusal and the sum are the model's (log entry 42). -/
def Obligations.RemoteMemory : Prop :=
  ∀ (s : State) (r : Nat) (m : Msg), r < 4 → devOf m.dest = s.hub.deviceId →
    let a := localOf m.dest
    let n := m.data.length
    let answers (t : State) (bs : List Byte) : Prop :=
      m.srcId ≠ s.hub.deviceId → m.srcId < 65536 → m.srcRegion < 4 → ∀ k p c tn,
        pathFrom 8 s r m.srcId 0 = some (k, p, c, tn) → p < 6 →
        let q : Msg :=
          { dest := regionAddr m.srcId m.srcRegion, srcId := s.hub.deviceId, srcRegion := r, op := 2, length := bs.length,
            mtag := m.mtag, data := bs }
        (t.link (6 * k + p)).txq = (s.link (6 * k + p)).txq ++ flitsOf q c none
    (m.op = 0 → inSlots a = false → remoteReach s a n = true → fencedRange s a n = false →
      ∃ t, exec (.remoteWrite r m) s = .next t ∧ rdBytes t a n = m.data ∧ OnlyBytes [(a, n)] s t ∧ t.ops = s.ops)
    ∧ (m.op = 0 → inSlots a = false → remoteReach s a n = false →
      ∃ t, exec (.remoteWrite r m) s = .next t ∧ OnlyBytes (retryRanges s) s t ∧ t.ops = s.ops ∧ t.mbx = s.mbx
        ∧ answers t [2])
    ∧ (m.op = 0 → inSlots a = true → a % 16 = 0 → n = 16 → s.mbx.locked = true →
      let ch := (a - slotBase) / 16
      bindValid s ch = true → bindSend s ch = proxyId s ⟨m.srcId, m.srcRegion⟩ → (s.slot ch).full = false →
      ∃ t, exec (.remoteWrite r m) s = .next t ∧ (t.slot ch).full = true ∧ (t.slot ch).notice = m.data
        ∧ OnlyBytes (retryRanges s) s t ∧ answers t [0])
    ∧ (m.op = 1 → remoteReach s a m.length = true → fencedRange s a m.length = false → badRange s a m.length = false →
      ∃ t, exec (.readRequest r m) s = .next t ∧ OnlyBytes (retryRanges s) s t ∧ t.ops = s.ops
        ∧ answers t (rdBytes s a m.length))
    ∧ (m.op = 1 → remoteReach s a m.length = false →
      ∃ t, exec (.readRequest r m) s = .next t ∧ OnlyBytes (retryRanges s) s t ∧ t.ops = s.ops
        ∧ answers t (if m.length = 1 then [2, 2] else [2]))
    ∧ (m.op = 2 → restoreFor s r m.mtag = none →
      (∀ it w, ((s.region r).dma.running.find? fun i => i.waits.any fun w => w.1 == m.mtag) = some it →
        (it.waits.find? fun w => w.1 == m.mtag) = some w →
        (w.2.2 = n → (it.waits.any fun w => w.1 != m.mtag) = true →
          ∃ t it1, exec (.readResponse r m) s = .next t ∧ t.mem = s.mem ∧ it1 ∈ (t.region r).dma.running ∧ it1.op = it.op
            ∧ it1.waits = it.waits.filter (fun x => x.1 != m.mtag)
            ∧ ∀ i (h : i < n), fget 0 it1.fetched (w.2.1 + i) = m.data[i])
        ∧ (w.2.2 ≠ n → ∀ e, s.op? it.op = some e →
          ∃ t y, exec (.readResponse r m) s = .next t ∧ t.op? it.op = some y ∧ stBOUNDS ∈ y.stats ∧ t.mem = s.mem))
      ∧ (∀ p e, ((s.region r).dma.running.find? fun i => i.waits.any fun w => w.1 == m.mtag) = none →
        ((s.region r).wrote.find? fun p => p.1 == m.mtag) = some p → (m.data = [1] ∨ m.data = [2]) → s.op? p.2 = some e →
        ∃ t y, exec (.readResponse r m) s = .next t ∧ t.op? p.2 = some y ∧ stBOUNDS ∈ y.stats ∧ t.mem = s.mem))
    ∧ (m.op = 3 → remoteReach s a n = true → fencedRange s a n = false →
      ∃ t, exec (.atomicAdd r m) s = .next t ∧ t.poison = s.poison ∧ t.ops = s.ops
        ∧ (∀ x, (x < a ∨ a + n ≤ x) → rdByte t x = rdByte s x) ∧ ∀ x, bad s x = true → rdByte t x = rdByte s x)

/-- R324, R325, R327 to R329, R335 and R348. -/
def Obligations.FabricMessages : Prop :=
  ∀ (s : State) (r l : Nat) (b : List Byte), r < 4 → l < 24 →
    let now := (s.region r).cycle
    (fencedRegion s r = false → beatCycles ≤ (now - (s.region r).lastBeat).toNat →
      ∃ t, exec (.heartbeatTimer r) s = .next t ∧ (t.region r).lastBeat = now ∧ t.mem = s.mem
        ∧ ∀ j, j < 6 → inService s (6 * r + j) = true →
            ∃ f, t.link (6 * r + j) = enqueue now [f] (s.link (6 * r + j)) ∧ f.vc = 0 ∧ f.typ = 0 ∧ f.region = some r
              ∧ (f.payload.drop 16).take 2 = leBytes 2 1
              ∧ ((s.link (6 * r + j)).bridleWait = [] → mayOffer now (s.link (6 * r + j)) f = true →
                  (t.link (6 * r + j)).txq = (s.link (6 * r + j)).txq ++ [f]))
    ∧ (bridleBodyOk 1 b = true →
      ∃ t, exec (.heartbeat r l b) s = .next t ∧ (t.link l).unresponsive = false
        ∧ (t.link l).lastRx = (s.region (l / 6)).cycle ∧ t.mem = s.mem ∧ t.ops = s.ops)
    ∧ (linkUp s l 0 = true → (s.link l).unresponsive = false →
      silenceCycles ≤ ((s.region (l / 6)).cycle - (s.link l).lastRx).toNat →
      ∃ t, exec (.peerSilenceTimeout l) s = .next t ∧ (t.link l).unresponsive = true)
    ∧ (bridleBodyOk 2 b = true → ∀ c ∈ (s.region r).colls, liveColl s c = true → namesDev (fld b 0 2) c = true →
      cPolicy c.body = 0 → ∃ t y, exec (.lost r b) s = .next t ∧ t.op? c.op = some y ∧ stTIMEOUT ∈ y.stats)
    ∧ (bridleBodyOk 7 b = true →
      ((s.region r).colls.any fun c => cCid c.body == fld b 0 4 && c.step == fld b 8 8) = false →
      ∃ t, exec (.plcFinal r b) s = .next t ∧ t.mem = s.mem ∧ t.ops = s.ops
        ∧ (fld b 0 4, fld b 8 8, fld b 4 4, fld b 0x13 1) ∈ (t.region r).finals)
    ∧ (bridleBodyOk 8 b = true → fld b 8 2 = s.hub.deviceId → fld b 0x0A 1 = r →
      (fld b 0x0B 1 = 0 → ∀ p e, ((s.region r).wrote.find? fun p => p.1 == fld b 0x0C 2) = some p → s.op? p.2 = some e →
        ∃ t y, exec (.unreachable r b) s = .next t ∧ t.op? p.2 = some y ∧ stLINKDOWN ∈ y.stats ∧ t.mem = s.mem)
      ∧ (fld b 0x0B 1 = 6 → ∀ dev typ body a, fget (0, 0, []) (s.region r).bridles (fld b 0x0C 2) = (dev, typ, body) →
        typ ≠ 0 → peerOf s dev = some a →
        ∃ t d, exec (.unreachable r b) s = .next t ∧ t.out = .oob a d :: s.out ∧ d.typ = 0x20
          ∧ d.body = leBytes 2 typ ++ (body ++ List.replicate 222 0).take 222 ∧ t.mem = s.mem ∧ t.ops = s.ops))
    ∧ (∀ typ, bridleBodyOk typ b = false →
      ∃ t, exec (.bridleBad l typ b) s = .next t ∧ fget 0 (t.link l).ctr 0x48 = fget 0 (s.link l).ctr 0x48 + 1
        ∧ t.mem = s.mem ∧ t.ops = s.ops)

/-- R336 to R338; the frame of a pause and the numbering and the encapsulation of a tunnel are read in log entries 31 and 80. -/
def Obligations.EthernetLinks : Prop :=
  ∀ (s : State) (l : Nat), l < 24 → linkUp s l 1 = true →
    let k := s.link l
    let now := (s.region (l / 6)).cycle
    let frame (u : Tunnel) (seq ack : Nat) (fs : List (List Byte)) (f : List Byte) : Prop :=
      ∃ x y z, f = tunnelFrame k u x y z (tunnelHeader seq ack fs.length ++ fs.flatten)
    (∀ f, s.mbx.locked = true → 64 ≤ f.length → f.length ≤ 9216 →
      (isPfc f = true → ∃ t, exec (.ethernetFrameReceive l f) s = .next t ∧ t.ops = s.ops
        ∧ ((∀ x ∈ k.tunnels, x.1 < 256) → OnlyBytes (retryRanges s) s t)
        ∧ ∀ i, i < 8 →
            let q := beFld f (18 + 2 * i) 2
            fget 0 (t.link l).paused i =
              if natBit (beFld f 16 2) i then (if q = 0 then 0 else now + BitVec.ofNat 64 (pauseCycles q)) else fget 0 k.paused i)
      ∧ (isPfc f = false → (f.take 6 = k.mac ∨ isGroup (f.take 6) = true) → (f.take 6 = k.mac → udpTo f k.port = none) →
        ∃ t, exec (.ethernetFrameReceive l f) s = .next t ∧ t.link l = { k with frames := k.frames ++ [f] }
          ∧ { t with links := s.links } = s)
      ∧ (∀ addr b tn, isPfc f = false → f.take 6 = k.mac → udpTo f k.port = some (addr, b) → tunnelFrom k addr = some tn →
        tunnelOk b = true → fld b 0 4 = (k.tunnel tn).rxNext →
        ((flitsIn (b.drop 16)).all fun f => (LinkHead.of f).typ == 1) = false →
        ∃ t, exec (.ethernetFrameReceive l f) s = .next t ∧ OnlyBytes (retryRanges s) s t
          ∧ ((t.link l).tunnel tn).rxNext = (fld b 0 4 + 1) % 2 ^ 32
          ∧ (tunnelPaused now k (k.tunnel tn) = false → ∃ g seq, t.out.head? = some (.tunnel l tn g)
              ∧ frame (k.tunnel tn) seq (fld b 0 4) [flitBytes { typ := 1 } []] g)))
    ∧ ∀ tn, tn < 256 →
      let u := k.tunnel tn
      u.valid = true → u.window ≠ [] →
      (resendCycles ≤ (now - u.tried).toNat →
        (tunnelPaused now k u = true → exec (.tunnelResendTimer l tn) s = .next s)
        ∧ (tunnelPaused now k u = false →
          ∃ t, ∃ outs : List Out, exec (.tunnelResendTimer l tn) s = .next t ∧ ((t.link l).tunnel tn).tried = now
            ∧ ((t.link l).tunnel tn).window = u.window ∧ t.mem = s.mem ∧ t.out = outs.reverse ++ s.out
            ∧ outs.length = u.window.length
            ∧ ∀ p ∈ outs.zip u.window, ∃ g, p.1 = .tunnel l tn g
                ∧ frame u p.2.1 ((u.rxNext + 2 ^ 32 - 1) % 2 ^ 32) (p.2.2.map tunnelFlit) g))
      ∧ (fenceCycles ≤ (now - u.since).toNat →
        ∃ t, exec (.tunnelFenceTimeout l tn) s = .next t ∧ ((t.link l).tunnel tn).fenced = true
          ∧ ((t.link l).tunnel tn).window = [] ∧ t.mem = s.mem
          ∧ ∀ w ∈ u.window, ∀ f ∈ w.2, ∀ id e, f.op = some id → s.op? id = some e →
              ∃ y, t.op? id = some y ∧ stLINKDOWN ∈ y.stats)

/-! ### Hardware errors and the HBM controllers -/

/-- Table 1-7, R261 and R258. -/
def Obligations.ErrorsAndFences : Prop :=
  ∀ (s : State),
    (∀ n, n < 160 → ∃ t, exec (.hardwareError (.correctedCellStore n)) s = .next t ∧ { t with cells := s.cells } = s
      ∧ t.cell n = (s.cell n).bump 0x1800 1)
    ∧ (∀ b, b < 20 → ∃ t, exec (.hardwareError (.correctedBlockStore b)) s = .next t ∧ { t with blocks := s.blocks } = s
      ∧ t.block b = (s.block b).bump 0x600 1)
    ∧ (∀ r, r < 4 → ∃ t, exec (.hardwareError (.correctedOther r)) s = .next t ∧ { t with regions := s.regions } = s
      ∧ t.region r = { s.region r with corrected := (s.region r).corrected + 1 })
    ∧ (∀ a n, memOf a = some (.cell n) → fencedRegion s (n / 40) = false →
      ∃ t, exec (.hardwareError (.sramWord a)) s = .next t ∧ bad t a = true ∧ t.mem = s.mem
        ∧ ∀ x, unitBase x ≠ unitBase a → bad t x = bad s x)
    ∧ (∀ n k, n < 160 → k < 16 → ∃ t, exec (.hardwareError (.curveMemory n k)) s = .next t ∧ t.mem = s.mem
      ∧ fget {} (t.cell n).curves k = { fget {} (s.cell n).curves k with poisoned := true })
    ∧ (∀ n, n < 160 → fencedCell s n = false →
      ∃ t, exec (.hardwareError (.cellFault n)) s = .next t ∧ fencedCell t n = true ∧ t.store.fences.testBit (48 + n) = true
        ∧ (t.cell n).ctxs = [] ∧ t.mem = s.mem
        ∧ ∀ x, s.op? x.id = some x → x.isCtrl = false → (x.phase = .running ∨ x.phase = .finished) → usesCell s n x = true →
            ∃ y, t.op? x.id = some y ∧ y.phase = .aborting ∧ stFAULT ∈ y.stats ∧ y.d0 = faultUnit 8 n)
    ∧ (∀ b, b < 20 → fencedBlock s b = false →
      ∃ t, exec (.hardwareError (.blockFault b)) s = .next t ∧ fencedBlock t b = true ∧ t.store.fences.testBit (4 + b) = true
        ∧ (t.block b).job = none ∧ t.mem = s.mem ∧ ∀ i, i < 8 → fencedCell t (8 * b + i) = true)
    ∧ (∀ l, l < 24 → (s.link l).st ≠ 4 → ∃ t, exec (.hardwareError (.linkFault l)) s = .next t ∧ (t.link l).st = 4
      ∧ fencedLink t l = true ∧ t.store.fences.testBit (24 + l) = true ∧ OnlyBytes (retryRanges s) s t)
    ∧ (∀ r, r < 4 → fencedRegion s r = false → ∃ t, exec (.hardwareError (.regionFault r)) s = .next t
      ∧ fencedRegion t r = true ∧ t.store.fences.testBit r = true ∧ OnlyBytes (retryRanges s) s t)
    ∧ (∃ t, exec (.hardwareError .deviceFault) s = .next t ∧ t.mbx = { s.mbx with quiesced := true })
    ∧ (∀ h a n, h < 12 → a < hbmTop → stackOf a = h → fencedAddr s a = false →
      ∃ t, exec (.hbmReadReturn h a n) s = .next t ∧ t.mem = s.mem
        ∧ fget 0 (t.hbm h).ctr 0x08 = fget 0 (s.hbm h).ctr 0x08 + 64
        ∧ (n ≤ 3 → t.poison = s.poison) ∧ (4 ≤ n → bad t a = true))
    ∧ (∀ w : HbmWrite, idOk w.master = true → w.data ≠ [] → w.addr % 64 + w.data.length ≤ 64 →
      w.addr + w.data.length ≤ hbmTop → fencedAddr s w.addr = false →
      (w.op = none ∨ ∃ e, w.op = some e.id ∧ s.op? e.id = some e ∧ e.phase = .running ∧ e.cls ≠ clsUPD
          ∧ slotOk s e.cls w.addr w.data.length = true) →
      ∃ t, exec (.hbmWriteAccept w) s = .next t ∧ rdBytes t w.addr w.data.length = w.data
        ∧ OnlyBytes [(w.addr, w.data.length)] s t)
    ∧ (∀ w : HbmWrite, idOk w.master = true → w.data ≠ [] → w.addr % 64 + w.data.length ≤ 64 →
      w.addr + w.data.length ≤ hbmTop → fencedAddr s w.addr = true →
      ∃ t, exec (.hbmWriteAccept w) s = .next t ∧ t.mem = s.mem
        ∧ (w.op = none → w.master < 0x40 → t.out = .bus w.master false [] :: s.out))

/-! ### Clocks, power and start-up -/

/-- R94, Table 14-8 and R428. -/
def Obligations.ClocksAndPower : Prop :=
  ∀ (s : State),
    (∀ r, r < 4 → fencedRegion s r = false → (s.region r).clkSwitching = false → (s.region r).clkTarget ≠ none →
      (∀ i, i < 40 → clockReady s (40 * r + i) = true) →
      ∃ t, exec (.cellReady r) s = .next t ∧ t.region r = { s.region r with clkSwitching := true }
        ∧ { t with regions := s.regions } = s)
    ∧ (∀ r k, r < 4 → (s.region r).clkSwitching = true → (s.region r).clkTarget = some k →
      ∃ t, exec (.clockSwitchDone r) s = .next t ∧ (t.region r).clkStep = k ∧ (t.region r).clkSwitching = false
        ∧ (t.region r).clkSteps = (s.region r).clkSteps + 1 ∧ { t with regions := s.regions } = s)
    ∧ (arbiterOn s = true →
      (∀ w, ∃ t, exec (.powerSample w) s = .next t ∧ t.pwr.samples = (w :: s.pwr.samples).take 1000 ∧ t.mem = s.mem
        ∧ (meanAbove Watts.total ((w :: s.pwr.samples).take 10) 2600 = false → t.pwr.pwrHold = s.pwr.pwrHold)
        ∧ (meanAbove Watts.total ((w :: s.pwr.samples).take 10) 2600 = true → s.pwr.fastSkip ≤ 1 →
            ∀ r, r < 4 → liveRegion s r = true → requiredStep s r < 2 →
              fget 0 t.pwr.pwrHold r = requiredStep s r + 1))
      ∧ (∀ c : Temps, c.regions.length = 4 → c.stackC.length = 12 →
        let hot := (c.regions.any fun l => decide (105 ≤ hottest l)) || decide (105 ≤ hottest c.hub)
        ∃ t, exec (.temperatureSample c) s = .next t ∧ t.pwr.hubTemp = hottest c.hub ∧ t.mem = s.mem
          ∧ (∀ r (h : r < c.regions.length), fget 0 t.pwr.temps r = hottest c.regions[r])
          ∧ (hot = true → t.pins.thermTrip = true ∧ t.pwr.trip = true ∧ t.mbx.quiesced = true)
          ∧ (hot = false → t.pins = s.pins ∧ t.pwr.trip = s.pwr.trip ∧ t.mbx = s.mbx))
      ∧ (∀ r, meanAbove Watts.total (s.pwr.samples.take 1000) s.pwr.cap = true → highestPower s (aboveLowest s) = some r →
        ∃ t, exec .arbiterTick s = .next t ∧ fget 0 t.pwr.pwrHold r = requiredStep s r + 1 ∧ t.mem = s.mem
          ∧ t.pwr.sustained = (s.pwr.sustained + 1) % 65536)
      ∧ (∀ r, r < 4 → meanAbove Watts.total (s.pwr.samples.take 1000) s.pwr.cap = false → s.pwr.calm = false →
        regionHeat s r 95 = true → liveRegion s r = true → requiredStep s r < 2 →
        ∃ t, exec .arbiterTick s = .next t ∧ fget 0 t.pwr.heatHold r = requiredStep s r + 1 ∧ t.mem = s.mem))
    ∧ (s.pwr.brake = false → ∃ t, exec .powerBrakeAssert s = .next t ∧ t.pwr.brake = true ∧ t.mem = s.mem
        ∧ t.pwr.brakes = (s.pwr.brakes + 1) % 65536 ∧ (∀ r, r < 4 → requiredStep t r = 2)
        ∧ ∀ r, r < 4 → liveRegion s r = true → (s.region r).clkSwitching = false → (s.region r).clkStep ≠ 2 →
            (t.region r).clkTarget = some 2)
    ∧ ∃ t, exec .powerBrakeRelease s = .next t ∧ t.pwr = { s.pwr with brake := false } ∧ t.mem = s.mem

/-- R401, R405, R408 to R414, R419, R255 and R435. -/
def Obligations.StartUp : Prop :=
  ∀ (s : State),
    (∀ p, s.pins.powerGood = false →
      (railsOk p = true → ∃ t, exec (.powerGoodRise p) s = .next t ∧ t.cnt.stage = 1 ∧ t.pins.powerGood = true
        ∧ t.hub.running = true ∧ t.hub.position = p.position % 4 ∧ t.pins.enroll = p.enrollEnable ∧ t.mem = [])
      ∧ (railsOk p = false → ∃ t, exec (.powerGoodRise p) s = .next t ∧ t.pins.fault = true ∧ t.pins.heldReset = true
        ∧ t.cnt.stage = 0 ∧ t.store = s.store ∧ t.mem = []))
    ∧ (∃ t, exec .powerGoodFall s = .next t ∧ t.pins = {} ∧ t.store = s.store ∧ t.mem = [])
    ∧ (s.pins.powerGood = true →
      (∃ t, exec .sysrefLoss s = .next t ∧ t.pins.fault = true ∧ t.pins.heldReset = true ∧ t.store = s.store)
      ∧ ∀ rail mv, mv < railLimit rail → ∃ t, exec (.railUndervoltage rail mv) s = .next t ∧ t.pins.fault = true
          ∧ t.pins.heldReset = true ∧ t.store = s.store)
    ∧ (∀ ty, 1 ≤ s.cnt.stage → s.cnt.stage ≤ 4 → s.cnt.recovery = false → s.cnt.nextType = ty → ty < 4 →
      (verifyImage s s.cnt.bank ty = true → ∃ t, exec (.imageVerify s.cnt.bank ty) s = .next t
        ∧ t.cnt.nextType = ty + 1 ∧ t.cnt.bank = s.cnt.bank
        ∧ fget [] t.cnt.measure ty = imageDigest (imageBytes s s.cnt.bank ty))
      ∧ (verifyImage s s.cnt.bank ty = false → s.cnt.fallback = false → ∃ t, exec (.imageVerify s.cnt.bank ty) s = .next t
        ∧ t.cnt.bank = 1 - s.cnt.bank ∧ t.cnt.fallback = true ∧ t.cnt.nextType = 0))
    ∧ (s.cnt.stage = 4 → s.cnt.nextType = 5 → s.cnt.recovery = false →
      ∃ t, exec .bootFirmwareStart s = .next t ∧ t.mem = s.mem
        ∧ (s.cnt.ready = false → s.cnt.exhausted = false → t.cnt.stage = 6)
        ∧ ∀ r, r < 4 → (t.region r).released = !s.store.fences.testBit r)
    ∧ (cantleOn s = true → s.cnt.exhausted = false → s.cnt.ready = false → s.store.nextChunk < 2 ^ 20 →
      ∃ t, exec .identityChunkReserve s = .next t ∧ t.cnt.ready = true ∧ t.cnt.leaf = 1024 * s.store.nextChunk
        ∧ t.store.nextChunk = s.store.nextChunk + 1)
    ∧ (∀ h, h < 12 → (s.hbm h).st = 1 →
      (∃ t, exec (.stackTrainingDone h true) s = .next t ∧ t.hbm h = { s.hbm h with st := 2 } ∧ t.mem = s.mem)
      ∧ (fencedRegion s (h / 3) = false → ∃ t, exec (.stackTrainingDone h false) s = .next t ∧ (t.hbm h).trainFail = true
          ∧ fencedRegion t (h / 3) = true
          ∧ OnlyBytes (retryRanges s) s t))
    ∧ (∀ h, h < 12 → (s.hbm h).st = 2 → ∃ t, exec (.hbmInitDone h) s = .next t ∧ (t.hbm h).st = 3
        ∧ ∀ a, rdByte t a = if a < hbmTop ∧ stackOf a = h then 0 else rdByte s a)
    ∧ (∀ b, s.cnt.bootImage = some b → (s.cnt.stage = 7 ∨ s.cnt.stage = 8) → stacksReady s = true →
      (∀ l, l < 24 → (s.link l).st ≠ 1) → s.mbx.locked = false →
      ∃ t, exec .bindingTableSetup s = .next t ∧ t.cnt.stage = 9 ∧ (t.ring 0).valid = true ∧ (t.ring 0).tail = 0
        ∧ (t.ring 0).base = fld b 0x10 8 ∧ (t.ring 0).log2 = fld b 0x20 1
        ∧ (∀ n, n < 256 → (fget 0 t.mbx.bind n).toNat = bindWrite 0 (fld b (0x80 + 8 * n) 8) % 2 ^ 64)
        ∧ ∀ n k, n < 160 → fencedCell s n = false → k < 12 → fget {} (t.cell n).curves k = Curve.ofShipped (k + 1))
    ∧ (1 ≤ s.cnt.stage → s.cnt.stage ≤ 9 → ∃ t, exec .bootStageTimeout s = .next t ∧ t.cnt = { s.cnt with bootTimeout := true }
        ∧ t.pins = { s.pins with fault := true } ∧ t.mem = s.mem)
    ∧ ∀ d x, s.hub.running = true → s.mbx.locked = false →
      ∃ t, exec (.i2cBoardReport (some d) (some x)) s = .next t ∧ t.hub.domain = some (d % 65536)
        ∧ t.cnt.serial = some (x.take 16)
        ∧ (s.store.serial ≠ none → s.store.serial ≠ some (x.take 16) → t.cnt.relocated = true)

/-! ### The management port -/

/-- The datagrams with which request `d` is answered, the last one first: 1,200 body bytes in each but the last. -/
def replyTo (d : Datagram) (st : Nat) (body : List Byte) : List Out :=
  let n := max 1 (ceilDiv body.length 1200)
  ((List.range n).map fun i =>
    let part := (body.drop (1200 * i)).take 1200
    Out.datagram { d with
      flags := 1, pstatus := st, length := part.length, body := part, mac := [], frag := 16 * i + (n - 1) }).reverse

/-- R417 to R425; body layouts of the owner requests are the model's (log entry 47). -/
def Obligations.ManagementPort : Prop :=
  ∀ (s : State) (d : Datagram),
    let accepted (typ : Nat) : Prop := reaches s d = true ∧ d.typ = typ ∧ refusal s d = none
    let tells (t : State) (st : Nat) (body : List Byte) : Prop := t.out = replyTo d st body ++ s.out
    let c := s.mgt
    (∀ p ∈ ([(.status, 0x01), (.telemetry, 0x02), (.attest, 0x03), (.cert, 0x04), (.mgtReset, 0x10), (.fenceClear, 0x11),
        (.powerCap, 0x12), (.updateBegin, 0x13), (.updateData, 0x14), (.updateCommit, 0x15), (fun d => .enroll d s.pins.enroll, 0x18), (.release, 0x19),
        (.bridleForward, 0x20)] : List ((Datagram → Instr) × Nat)), ∀ st, reaches s d = true → d.typ = p.2 →
      refusal s d = some st →
      ∃ t, exec (p.1 d) s = .next t ∧ tells t st [] ∧ t.mgt = { c with refused := c.refused + 1 }
        ∧ { t with out := s.out, mgt := s.mgt } = s)
    ∧ (reaches s d = true → malformed d = true →
      ∃ t, exec (.malformedManagementDatagram d) s = .next t ∧ tells t psBADREQUEST []
        ∧ t.mgt = { c with refused := c.refused + 1 } ∧ { t with out := s.out, mgt := s.mgt } = s)
    ∧ (accepted 0x01 → ∃ t, exec (.status d) s = .next t ∧ { t with out := s.out, mgt := s.mgt } = s
        ∧ t.mgt.rx = c.rx + 1 ∧ tells t psOK (statusBody { s with mgt := t.mgt }))
    ∧ (accepted 0x02 → ∃ t, exec (.telemetry d) s = .next t ∧ { t with out := s.out, mgt := s.mgt } = s
        ∧ t.mgt.rx = c.rx + 1 ∧ tells t psOK (telemetryBody s))
    ∧ (accepted 0x04 → ∃ t, exec (.cert d) s = .next t ∧ { t with out := s.out, mgt := s.mgt } = s
        ∧ t.mgt.rx = c.rx + 1 ∧ tells t psOK Config.certBytes)
    ∧ (accepted 0x03 → s.cnt.exhausted = false → s.cnt.ready = true → (s.cnt.leaf + 1) % 1024 ≠ 0 →
      ∃ t, exec (.attest d) s = .next t ∧ t.cnt = { s.cnt with leaf := s.cnt.leaf + 1 }
        ∧ tells t psOK (reportBody s d.body ++ Config.identSign s.cnt.leaf (reportBody s d.body)))
    ∧ (accepted 0x10 → ∃ t, exec (.mgtReset d) s = .next t ∧ tells t psOK [] ∧ t.cnt.stage = 1 ∧ t.mem = []
        ∧ t.mbx.locked = false ∧ t.ops = [])
    ∧ (accepted 0x11 → ∃ t, exec (.fenceClear d) s = .next t ∧ tells t psOK [] ∧ t.regions = s.regions
        ∧ t.store = { s.store with fences := clearFences s.store.fences (leNat d.body) })
    ∧ (accepted 0x12 → ∃ t, exec (.powerCap d) s = .next t ∧ tells t psOK [] ∧ t.pwr = { s.pwr with cap := leNat d.body }
        ∧ 1200 ≤ t.pwr.cap ∧ t.pwr.cap ≤ 2200)
    ∧ (accepted 0x13 → updateRuns s = false → ∃ t, exec (.updateBegin d) s = .next t ∧ tells t psOK [] ∧ t.mgt.update = 1
        ∧ fget [] t.store.images (5 * (1 - s.store.active) + fld d.body 0 1) = []
        ∧ ∀ k, k ≠ 5 * (1 - s.store.active) + fld d.body 0 1 → fget [] t.store.images k = fget [] s.store.images k)
    ∧ (accepted 0x13 → updateRuns s = true → ∃ t, exec (.updateBegin d) s = .next t ∧ tells t psBUSY [] ∧ t.store = s.store)
    ∧ (accepted 0x14 → c.update = 1 → fld d.body 0 1 = c.updType → fld d.body 4 4 + fld d.body 2 2 ≤ c.updSize →
      c.buffered + fld d.body 2 2 ≤ 65536 →
      let k := 5 * (1 - s.store.active) + c.updType
      ∃ t, exec (.updateData d) s = .next t ∧ tells t psOK []
        ∧ fget [] t.store.images k = putImage (fget [] s.store.images k) (fld d.body 4 4) (d.body.drop 16)
        ∧ ∀ j, j ≠ k → fget [] t.store.images j = fget [] s.store.images j)
    ∧ (accepted 0x15 → c.update = 1 → ∃ t, exec (.updateCommit d) s = .next t ∧ tells t psPENDING [] ∧ t.mgt.update = 2
        ∧ t.mgt.pendSeq = d.seq ∧ t.store = s.store)
    ∧ (mgtOn s = true → c.update = 2 →
      let good := (List.range 5).all fun ty => verifyImage s (1 - s.store.active) ty
      ∃ t, exec .updateVerifyDone s = .next t
        ∧ (good = true → t.store = { s.store with nextBank := some (1 - s.store.active) } ∧ t.mgt.update = 3)
        ∧ (good = false → t.store = s.store ∧ t.mgt.update = 4))
    ∧ (accepted 0x18 →
      ∀ enable, let u := { s with pins := { s.pins with enroll := enable } }
      (mayEnroll u d.body = true → ∃ t, exec (.enroll d enable) s = .next t ∧ tells t psOK []
        ∧ t.store.ownerHash = some (d.body.take 32) ∧ t.store.mgtKey = (d.body.drop 32).take 32)
      ∧ (mayEnroll u d.body = false → ∃ t, exec (.enroll d enable) s = .next t ∧ tells t psDENIED [] ∧ t.store = s.store
          ∧ t.mgt.rx = c.rx ∧ t.mgt.refused = c.refused + 1))
    ∧ (accepted 0x19 →
      let good := decide (d.body.take 32 = fingerprint) && ownerSigned s d.body (fingerprint ++ fingerprint)
      (good = true → ∃ t, exec (.release d) s = .next t ∧ tells t psOK [] ∧ t.store = { s.store with releaseNext := true })
      ∧ (good = false → ∃ t, exec (.release d) s = .next t ∧ tells t psDENIED [] ∧ t.store = s.store
          ∧ t.mgt.rx = c.rx ∧ t.mgt.refused = c.refused + 1))
    ∧ (accepted 0x20 → ∃ t dev, exec (.bridleForward d) s = .next t ∧ tells t psOK []
        ∧ (t.region 0).inbox = (s.region 0).inbox ++ [.forwarded dev (fld d.body 0 2) (d.body.drop 2)]
        ∧ ∀ p, (s.hub.peers.find? fun p => decide (p.2 = beBytes 16 d.source)) = some p → dev = p.1)
    ∧ (mgtOn s = true → ∀ up, ∃ t, exec (.managementPortBlockLock up) s = .next t ∧ t.mgt = { c with linkUp := up }
        ∧ { t with mgt := s.mgt } = s)

/-! ### Registers and configuration operations -/

/-- R370 with R410, R13, R22, and the bodies of Table 13-12. -/
def Obligations.RegistersAndConfiguration : Prop :=
  ∀ (s : State),
    (∀ m, localId m = true → s.mbx.locked = false → ∃ t, exec (.bindingLock m) s = .next t
      ∧ t.mbx = { s.mbx with locked := true } ∧ t.store.active = s.cnt.bank ∧ t.store.nextBank = none
      ∧ t.out.head? = some (.bus m true [])
      ∧ t.hub.step = if s.hub.step = 0 then 1 else s.hub.step)
    ∧ (∀ m n v, localId m = true → n < 256 →
      let a := 0x3F0000101000 + 8 * n
      (s.mbx.locked = false → ∃ t, exec (.registerWrite m a v) s = .next t ∧ { t with mbx := s.mbx, out := s.out } = s
        ∧ (fget 0 t.mbx.bind n).toNat = bindWrite (fget 0 s.mbx.bind n).toNat (v % 2 ^ 64) % 2 ^ 64
        ∧ (∀ k, k ≠ n → fget 0 t.mbx.bind k = fget 0 s.mbx.bind k) ∧ t.out = .bus m true [] :: s.out)
      ∧ (s.mbx.locked = true → exec (.registerWrite m a v) s = .next (s.emit (.bus m true []))))
    ∧ (∀ m a v, localId m = true → inSlots a = false → s.reg a = none →
      exec (.registerWrite m a v) s = .next (s.emit (.bus m false [])))
    ∧ (∀ e, Admitted s 0x601 e → e.cls ≠ clsUPD →
      let d := e.desc
      let rs := copyRegs d
      1 ≤ fld d 0x18 1 → fld d 0x18 1 ≤ 8 → zeros d 0x19 0x20 = true → zeros d (0x20 + 8 * fld d 0x18 1) 0x60 = true →
      (∀ x ∈ copyEntries d, 1 ≤ x.2 ∧ x.2 ≤ 64 ∧ x.1 % 8 = 0) →
      (∀ i, i < fld d 0x18 1 → fldBits d (0x20 + 8 * i) 8 55 48 = 0) →
      rangeStatus s e.resident (fld d 0x10 8) (8 * rs.length) = stOK → (∀ a ∈ rs, (s.reg a).isSome = true) →
      ∃ t y, exec (.counterCopy e.id) s = .next t ∧ t.op? e.id = some y ∧ y.phase = .finished
        ∧ rdBytes t (fld d 0x10 8) (8 * rs.length) = rs.flatMap (fun a => leBytes 8 ((s.reg a).getD 0))
        ∧ OnlyBytes [(fld d 0x10 8, 8 * rs.length)] s t)
    ∧ (∀ e, Admitted s 0x803 e →
      let a := fld e.desc 0x10 8
      let n := fld e.desc 0x18 4
      0 < n → n ≤ 65536 → zeros e.desc 0x1C 0x20 = true → rangeStatus s false a (24 * n) = stOK →
      badRange s a (24 * n) = false → (∀ i, i < n → zeros (rdBytes s (a + 24 * i) 24) 2 8 = true) →
      ∃ t, exec (.peerLoad e.id) s = .next t ∧ Ends t e stOK ∧ { t with ops := s.ops, hub := s.hub, hbms := s.hbms } = s
        ∧ ∀ i, i < n → (∀ j, i < j → j < n → rdNat s (a + 24 * j) 2 ≠ rdNat s (a + 24 * i) 2) →
            fget [] t.hub.peers (rdNat s (a + 24 * i) 2) = rdBytes s (a + 24 * i + 8) 16)
    ∧ (∀ e, Admitted s 0x804 e →
      let d := e.desc
      let a := fld d 0x10 8
      let first := fld d 0x18 4
      let n := fld d 0x1C 4
      let w (i : Nat) : Nat := routeBits (rdNat s (a + 4 * i) 4)
      first < 65536 → 1 ≤ n → first + n ≤ 65536 → fld d 0x20 1 < 16 → zeros d 0x21 0x30 = true →
      rangeStatus s false a (4 * n) = stOK → badRange s a (4 * n) = false →
      (∀ r ∈ bitsOf 4 (fld d 0x20 1), fencedRegion s r = false
        ∧ ∀ i, i < n → portOk s r (natBits (w i) 3 0) = true ∧ portOk s r (natBits (w i) 7 4) = true) →
      (s.hub.podMode = true
        ∨ ∀ r ∈ bitsOf 4 (fld d 0x20 1), validRoutes (routesAfter s r first ((List.range n).map w)) ≤ 15) →
      ∃ t, exec (.routeLoad e.id) s = .next t ∧ Ends t e stOK ∧ { t with ops := s.ops, regions := s.regions, hbms := s.hbms } = s
        ∧ ∀ r, r < 4 → ∀ dev, routeWord t r dev =
            if natBit (fld d 0x20 1) r ∧ first ≤ dev ∧ dev < first + n then w (dev - first) else routeWord s r dev)
    ∧ (∀ e, Admitted s 0x805 e →
      let d := e.desc
      let l := 6 * e.region + fld d 0x10 1
      (fld d 0x10 1 = 4 ∨ fld d 0x10 1 = 5) → (s.link l).mode = 1 → fencedLink s l = false →
      let img := fld d 0x30 8
      let n := if img = 0 then 0 else fld d 0x11 1 + 1
      (img = 0 → fld d 0x11 1 = 0) → (img ≠ 0 → rangeStatus s false img (64 * n) = stOK) → badRange s img (64 * n) = false →
      (∀ i, i < n → tunnelEntryOk (rdBytes s (img + 64 * i) 64) = true) → isGroup ((d.drop 0x14).take 6) = false → zeros d 0x1A 0x20 = true → fld d 0x38 8 % 4096 = 0 →
      rangeStatus s false (fld d 0x38 8) 0x10000000 = stOK → rangeStatus s false (fld d 0x40 8) 8 = stOK →
      rangeStatus s false (fld d 0x48 8) 8 = stOK → fld d 0x38 8 + 0x10000000 ≤ hbmTop → fld d 0x40 8 < hbmTop →
      fld d 0x48 8 < hbmTop →
      ∃ t y, exec (.ethConfig e.id) s = .next t ∧ t.op? e.id = some y ∧ y.phase = .finished ∧ t.mem = s.mem
        ∧ (t.link l).mac = (d.drop 0x14).take 6 ∧ (t.link l).ipv6 = (d.drop 0x20).take 16
        ∧ (t.link l).port = fld d 0x12 2
        ∧ ∀ i, ((t.link l).tunnel i).entry = if i < n then rdBytes s (img + 64 * i) 64 else [])
    ∧ (∀ e, Admitted s 0x806 e →
      let d := e.desc
      let n := fld d 0x10 1
      let log2 := fld d 0x11 1
      let base := fld d 0x18 8
      let head := fld d 0x20 8
      1 ≤ n → n ≤ 63 → 6 ≤ log2 → log2 ≤ 16 → (fld d 0x12 1 = 0 ∨ localId (fld d 0x12 1) = true) →
      zeros d 0x13 0x18 = true → zeros d 0x28 0x30 = true → base % 4096 = 0 → head % 8 = 0 → ringInUse s n = false →
      rangeStatus s false base (64 * 2 ^ log2) = stOK → rangeStatus s false head 8 = stOK →
      base + 64 * 2 ^ log2 ≤ hbmTop → head + 8 ≤ hbmTop →
      ∃ t y, exec (.ringSetup e.id) s = .next t ∧ t.op? e.id = some y ∧ y.phase = .finished
        ∧ (bad s head = false → y.stats = e.stats)
        ∧ t.ring n = { valid := true, log2 := log2, notify := fld d 0x12 1, base := base, headAddr := head }
        ∧ rdBytes t base (64 * 2 ^ log2) = List.replicate (64 * 2 ^ log2) 0 ∧ rdBytes t head 8 = List.replicate 8 0
        ∧ OnlyBytes [(base, 64 * 2 ^ log2), (head, 8)] s t)
    ∧ ∀ e, Admitted s 0x807 e →
      ∃ t y, exec (.identityRead e.id) s = .next t ∧ Ends t e stOK ∧ OnlyOps s t ∧ t.op? e.id = some y
        ∧ y.d0 = BitVec.ofNat 64 (hubFabric s) ∧ y.d1 = BitVec.ofNat 64 (hubDomain s)
        ∧ y.d2 = BitVec.ofNat 64 (fencedUnits s)
end

