-- ==== Sys2Proof/Laws/Crypto.lean ====
section
/-! SUPPORT. Laws of the hashes and of the signature check: lengths, and that every message has a key and a signature
that verify (so the claims about signed images and requests are about something). -/

namespace Sys2Proof.Machine

@[simp] theorem length_leBytes (n v : Nat) : (leBytes n v).length = n := by
  induction n generalizing v with
  | zero => rfl
  | succ n ih => simp [leBytes, ih]

@[simp] theorem length_beBytes (n v : Nat) : (beBytes n v).length = n := by simp [beBytes]

/-- A round keeps the number of working variables. -/
theorem length_shaRound (v : List Word) (kw : Word) : (shaRound v kw).length = v.length := by
  unfold shaRound
  split <;> rfl

theorem length_shaRounds (l : List Word) (h : List Word) : (l.foldl shaRound h).length = h.length := by
  induction l generalizing h with
  | nil => rfl
  | cons x t ih => rw [List.foldl_cons, ih, length_shaRound]

theorem length_shaBlock (h : List Word) (b : List Byte) : (shaBlock h b).length = h.length := by
  simp only [shaBlock, List.length_zipWith, length_shaRounds, Nat.min_self]

theorem length_shaFold (l : List (List Byte)) (h : List Word) : (l.foldl shaBlock h).length = h.length := by
  induction l generalizing h with
  | nil => rfl
  | cons x t ih => rw [List.foldl_cons, ih, length_shaBlock]

theorem length_shaInit : shaInit.length = 8 := by decide +kernel

/-- A digest has 32 bytes. -/
@[simp] theorem length_sha256 (m : List Byte) : (sha256 m).length = 32 := by
  have h := length_shaFold (shaBlocks ((shaPad m).length / 64) (shaPad m)) shaInit
  rw [length_shaInit] at h
  simp only [sha256, List.length_flatMap, length_beBytes]
  simp [h]

theorem length_lmsRoot (id : List Byte) (path : List (List Byte)) (node : Nat) (x : List Byte) (hx : x.length = 32) :
    (lmsRoot id node x path).length = 32 := by
  induction path generalizing node x with
  | nil => exact hx
  | cons p ps ih => exact ih _ _ (length_sha256 _)

/-! ### A signature for every message -/

/-- A signature by leaf 0 whose chain values and path are zeros. -/
def zeroSig : List Byte :=
  [0, 0, 0, 0, 0, 0, 0, 4] ++ List.replicate 1120 0 ++ [0, 0, 0, 8] ++ List.replicate 640 0

/-- The root to which it leads from a message, for the identifier of zeros. -/
def zeroRoot (msg : List Byte) : List Byte :=
  let id := List.replicate 16 0
  let key := otsKey id 0 ((zeroSig.drop 8).take 32) (pieces32 34 (zeroSig.drop 40)) msg
  lmsRoot id (2 ^ 20 + 0) (sha256 (id ++ beBytes 4 (2 ^ 20 + 0) ++ beBytes 2 0x8282 ++ key)) (pieces32 20 (zeroSig.drop 1132))

/-- The public key under which `zeroSig` signs the message. -/
def zeroKey (msg : List Byte) : List Byte := ([0, 0, 0, 8, 0, 0, 0, 4] ++ List.replicate 16 0) ++ zeroRoot msg

@[simp] theorem length_zeroRoot (msg : List Byte) : (zeroRoot msg).length = 32 := length_lmsRoot _ _ _ _ (length_sha256 _)

@[simp] theorem length_zeroKey (msg : List Byte) : (zeroKey msg).length = 56 := by simp [zeroKey]

theorem lmsVerify_zero (msg : List Byte) : lmsVerify (zeroKey msg) msg zeroSig = true := by
  have hid : ((zeroKey msg).drop 8).take 16 = List.replicate 16 0 := rfl
  have hroot : (zeroKey msg).drop 24 = zeroRoot msg := rfl
  have hq : (wordBe ((zeroSig.drop 0).take 4)).toNat = 0 := by decide +kernel
  have h1 : (wordBe (((zeroKey msg).drop 0).take 4)).toNat = 8 := by
    rw [show ((zeroKey msg).drop 0).take 4 = [0, 0, 0, 8] from rfl]; decide +kernel
  have h2 : (wordBe (((zeroKey msg).drop 4).take 4)).toNat = 4 := by
    rw [show ((zeroKey msg).drop 4).take 4 = [0, 0, 0, 4] from rfl]; decide +kernel
  have h3 : (wordBe ((zeroSig.drop 4).take 4)).toNat = 4 := by decide +kernel
  have h4 : (wordBe ((zeroSig.drop 1128).take 4)).toNat = 8 := by decide +kernel
  have h5 : zeroSig.length = 1772 := by decide +kernel
  simp only [lmsVerify, hid, hroot, hq, h1, h2, h3, h4, h5, length_zeroKey]
  simp only [zeroRoot, decide_true, Bool.true_and, beq_self_eq_true, Bool.and_true]
  rfl

end Sys2Proof.Machine
end

