-- ==== Sys2Proof/Laws/FMap.lean ====
section
/-! SUPPORT. Laws of the sparse maps: read after write, and that every write keeps the canonical form. -/

namespace Sys2Proof.Machine

variable {α : Type}

theorem fabove_mono {k j : Nat} (hkj : k ≤ j) : ∀ {m : FMap α}, fabove j m = true → fabove k m = true
  | [], _ => rfl
  | (a, v) :: t, h => by
    simp only [fabove, Bool.and_eq_true, decide_eq_true_eq] at h ⊢
    exact ⟨by omega, fabove_mono hkj h.2⟩

@[simp] theorem length_fgets (d : α) (m : FMap α) (k n : Nat) : (fgets d m k n).length = n := by
  simp [fgets]

@[simp] theorem fget_nil (d : α) (k : Nat) : fget d [] k = d := rfl

variable [DecidableEq α] (d : α)

@[simp] theorem fget_fset_same (m : FMap α) (k : Nat) (v : α) : fget d (fset d m k v) k = v := by
  induction m with
  | nil => by_cases h : v = d <;> simp [fset, fget, h]
  | cons p t ih =>
    obtain ⟨a, w⟩ := p
    by_cases h : v = d
    · by_cases h1 : a = k <;> simp_all [fset, fget]
    · by_cases h1 : k < a
      · simp [fset, fget, h, h1]
      · by_cases h2 : a = k
        · subst h2; simp [fset, fget, h]
        · simp only [fset, if_neg h, if_neg h1, if_neg h2, fget]; exact ih

theorem fget_fset_ne (m : FMap α) {k j : Nat} (v : α) (hne : j ≠ k) :
    fget d (fset d m k v) j = fget d m j := by
  have hne' : ¬ k = j := fun e => hne e.symm
  induction m with
  | nil => by_cases h : v = d <;> simp [fset, fget, h, hne']
  | cons p t ih =>
    obtain ⟨a, w⟩ := p
    by_cases h : v = d
    · by_cases h1 : a = k
      · subst h1; simp_all [fset, fget]
      · by_cases h2 : a = j <;> simp_all [fset, fget]
    · by_cases h1 : k < a
      · simp [fset, fget, h, h1, hne']
      · by_cases h2 : a = k
        · subst h2; simp [fset, fget, h, hne']
        · simp only [fset, if_neg h, if_neg h1, if_neg h2, fget]
          by_cases h3 : a = j <;> simp [h3, ih]

theorem fget_fset (m : FMap α) (k j : Nat) (v : α) :
    fget d (fset d m k v) j = if j = k then v else fget d m j := by
  by_cases h : j = k
  · subst h; simp
  · simp [h, fget_fset_ne d m v h]

@[simp] theorem fget_fupd_same (m : FMap α) (k : Nat) (f : α → α) :
    fget d (fupd d m k f) k = f (fget d m k) := by simp [fupd]

theorem fget_fupd_ne (m : FMap α) {k j : Nat} (f : α → α) (h : j ≠ k) :
    fget d (fupd d m k f) j = fget d m j := fget_fset_ne d m _ h

theorem fabove_fset {m : FMap α} {k j : Nat} {v : α} (hm : fabove j m = true) (hk : j < k ∨ v = d) :
    fabove j (fset d m k v) = true := by
  induction m with
  | nil =>
    by_cases h : v = d
    · simp [fset, fabove, h]
    · simpa [fset, fabove, h] using hk
  | cons p t ih =>
    obtain ⟨a, w⟩ := p
    simp only [fabove, Bool.and_eq_true, decide_eq_true_eq] at hm
    have ih' := ih hm.2
    by_cases h : v = d
    · by_cases h1 : a = k
      · simp only [fset, if_pos h, if_pos h1]; exact ih'
      · simp only [fset, if_pos h, if_neg h1, fabove, Bool.and_eq_true, decide_eq_true_eq]
        exact ⟨hm.1, ih'⟩
    · have hk' : j < k := by simpa [h] using hk
      by_cases h1 : k < a
      · simp [fset, fabove, h, h1, hk', hm]
      · by_cases h2 : a = k
        · subst h2; simp [fset, fabove, h, hm]
        · simp only [fset, if_neg h, if_neg h1, if_neg h2, fabove, Bool.and_eq_true, decide_eq_true_eq]
          exact ⟨hm.1, ih'⟩

theorem fwf_fset {m : FMap α} (k : Nat) (v : α) (hm : fwf d m = true) : fwf d (fset d m k v) = true := by
  induction m with
  | nil => by_cases h : v = d <;> simp [fset, fwf, fabove, h]
  | cons p t ih =>
    obtain ⟨a, w⟩ := p
    simp only [fwf, Bool.and_eq_true, decide_eq_true_eq] at hm
    obtain ⟨⟨ha, hw⟩, ht⟩ := hm
    have ih' := ih ht
    by_cases h : v = d
    · by_cases h1 : a = k
      · simp only [fset, if_pos h, if_pos h1]; exact ih'
      · simp only [fset, if_pos h, if_neg h1, fwf, Bool.and_eq_true, decide_eq_true_eq]
        exact ⟨⟨fabove_fset d ha (Or.inr h), hw⟩, ih'⟩
    · by_cases h1 : k < a
      · simp [fset, fwf, fabove, h, h1, ha, hw, ht, fabove_mono (Nat.le_of_lt h1) ha]
      · by_cases h2 : a = k
        · subst h2; simp [fset, fwf, h, ha, ht]
        · simp only [fset, if_neg h, if_neg h1, if_neg h2, fwf, Bool.and_eq_true, decide_eq_true_eq]
          exact ⟨⟨fabove_fset d ha (Or.inl (by omega)), hw⟩, ih'⟩

theorem fwf_fupd {m : FMap α} (k : Nat) (f : α → α) (hm : fwf d m = true) :
    fwf d (fupd d m k f) = true := fwf_fset d k _ hm

theorem fwf_fsets : ∀ (vs : List α) (m : FMap α) (k : Nat), fwf d m = true → fwf d (fsets d m k vs) = true
  | [], _, _, h => h
  | v :: vs, _, k, h => fwf_fsets vs _ (k + 1) (fwf_fset d k v h)

theorem fget_fsets_out : ∀ (vs : List α) (m : FMap α) (k j : Nat), (j < k ∨ k + vs.length ≤ j) →
    fget d (fsets d m k vs) j = fget d m j
  | [], _, _, _, _ => rfl
  | v :: vs, m, k, j, h => by
    have hl : (v :: vs).length = vs.length + 1 := rfl
    rw [hl] at h
    rw [fsets, fget_fsets_out vs _ (k + 1) j (by omega), fget_fset_ne d m v (by omega)]

theorem fget_fsets_in : ∀ (vs : List α) (m : FMap α) (k i : Nat) (h : i < vs.length),
    fget d (fsets d m k vs) (k + i) = vs[i]
  | v :: vs, m, k, 0, _ => by
    have h0 := fget_fsets_out d vs (fset d m k v) (k + 1) k (by omega)
    rw [fget_fset_same] at h0
    simpa [fsets] using h0
  | v :: vs, m, k, i + 1, h => by
    have hi : i < vs.length := by simpa using h
    have := fget_fsets_in vs (fset d m k v) (k + 1) i hi
    rw [fsets, show k + (i + 1) = k + 1 + i by omega, this]; rfl

end Sys2Proof.Machine
end

