-- ==== Sys2Proof/Laws/State.lean ====
section
/-! SUPPORT. Laws of the state updates: what each leaves unchanged, and what a read after it gives. -/

namespace Sys2Proof.Machine

variable (s : State)

/-! ### `State.setCell` -/

@[simp] theorem State.setCell_pending (n : Nat) (c : Cell) : (s.setCell n c).pending = s.pending := rfl
@[simp] theorem State.setCell_mem (n : Nat) (c : Cell) : (s.setCell n c).mem = s.mem := rfl
@[simp] theorem State.setCell_poison (n : Nat) (c : Cell) : (s.setCell n c).poison = s.poison := rfl
@[simp] theorem State.setCell_blocks (n : Nat) (c : Cell) : (s.setCell n c).blocks = s.blocks := rfl
@[simp] theorem State.setCell_regions (n : Nat) (c : Cell) : (s.setCell n c).regions = s.regions := rfl
@[simp] theorem State.setCell_hbms (n : Nat) (c : Cell) : (s.setCell n c).hbms = s.hbms := rfl
@[simp] theorem State.setCell_links (n : Nat) (c : Cell) : (s.setCell n c).links = s.links := rfl
@[simp] theorem State.setCell_ringDown (n : Nat) (c : Cell) : (s.setCell n c).ringDown = s.ringDown := rfl
@[simp] theorem State.setCell_hub (n : Nat) (c : Cell) : (s.setCell n c).hub = s.hub := rfl
@[simp] theorem State.setCell_store (n : Nat) (c : Cell) : (s.setCell n c).store = s.store := rfl
@[simp] theorem State.setCell_cnt (n : Nat) (c : Cell) : (s.setCell n c).cnt = s.cnt := rfl
@[simp] theorem State.setCell_mgt (n : Nat) (c : Cell) : (s.setCell n c).mgt = s.mgt := rfl
@[simp] theorem State.setCell_pwr (n : Nat) (c : Cell) : (s.setCell n c).pwr = s.pwr := rfl
@[simp] theorem State.setCell_pins (n : Nat) (c : Cell) : (s.setCell n c).pins = s.pins := rfl
@[simp] theorem State.setCell_mbx (n : Nat) (c : Cell) : (s.setCell n c).mbx = s.mbx := rfl
@[simp] theorem State.setCell_gth (n : Nat) (c : Cell) : (s.setCell n c).gth = s.gth := rfl
@[simp] theorem State.setCell_hrw (n : Nat) (c : Cell) : (s.setCell n c).hrw = s.hrw := rfl
@[simp] theorem State.setCell_frozen (n : Nat) (c : Cell) : (s.setCell n c).frozen = s.frozen := rfl
@[simp] theorem State.setCell_ops (n : Nat) (c : Cell) : (s.setCell n c).ops = s.ops := rfl
@[simp] theorem State.setCell_refused (n : Nat) (c : Cell) : (s.setCell n c).refused = s.refused := rfl
@[simp] theorem State.setCell_out (n : Nat) (c : Cell) : (s.setCell n c).out = s.out := rfl
@[simp] theorem State.setCell_fresh (n : Nat) (c : Cell) : (s.setCell n c).fresh = s.fresh := rfl

/-! ### `State.updCell` -/

@[simp] theorem State.updCell_pending (n : Nat) (f : Cell → Cell) : (s.updCell n f).pending = s.pending := rfl
@[simp] theorem State.updCell_mem (n : Nat) (f : Cell → Cell) : (s.updCell n f).mem = s.mem := rfl
@[simp] theorem State.updCell_poison (n : Nat) (f : Cell → Cell) : (s.updCell n f).poison = s.poison := rfl
@[simp] theorem State.updCell_blocks (n : Nat) (f : Cell → Cell) : (s.updCell n f).blocks = s.blocks := rfl
@[simp] theorem State.updCell_regions (n : Nat) (f : Cell → Cell) : (s.updCell n f).regions = s.regions := rfl
@[simp] theorem State.updCell_hbms (n : Nat) (f : Cell → Cell) : (s.updCell n f).hbms = s.hbms := rfl
@[simp] theorem State.updCell_links (n : Nat) (f : Cell → Cell) : (s.updCell n f).links = s.links := rfl
@[simp] theorem State.updCell_ringDown (n : Nat) (f : Cell → Cell) : (s.updCell n f).ringDown = s.ringDown := rfl
@[simp] theorem State.updCell_hub (n : Nat) (f : Cell → Cell) : (s.updCell n f).hub = s.hub := rfl
@[simp] theorem State.updCell_store (n : Nat) (f : Cell → Cell) : (s.updCell n f).store = s.store := rfl
@[simp] theorem State.updCell_cnt (n : Nat) (f : Cell → Cell) : (s.updCell n f).cnt = s.cnt := rfl
@[simp] theorem State.updCell_mgt (n : Nat) (f : Cell → Cell) : (s.updCell n f).mgt = s.mgt := rfl
@[simp] theorem State.updCell_pwr (n : Nat) (f : Cell → Cell) : (s.updCell n f).pwr = s.pwr := rfl
@[simp] theorem State.updCell_pins (n : Nat) (f : Cell → Cell) : (s.updCell n f).pins = s.pins := rfl
@[simp] theorem State.updCell_mbx (n : Nat) (f : Cell → Cell) : (s.updCell n f).mbx = s.mbx := rfl
@[simp] theorem State.updCell_gth (n : Nat) (f : Cell → Cell) : (s.updCell n f).gth = s.gth := rfl
@[simp] theorem State.updCell_hrw (n : Nat) (f : Cell → Cell) : (s.updCell n f).hrw = s.hrw := rfl
@[simp] theorem State.updCell_frozen (n : Nat) (f : Cell → Cell) : (s.updCell n f).frozen = s.frozen := rfl
@[simp] theorem State.updCell_ops (n : Nat) (f : Cell → Cell) : (s.updCell n f).ops = s.ops := rfl
@[simp] theorem State.updCell_refused (n : Nat) (f : Cell → Cell) : (s.updCell n f).refused = s.refused := rfl
@[simp] theorem State.updCell_out (n : Nat) (f : Cell → Cell) : (s.updCell n f).out = s.out := rfl
@[simp] theorem State.updCell_fresh (n : Nat) (f : Cell → Cell) : (s.updCell n f).fresh = s.fresh := rfl

/-! ### `State.updBlock` -/

@[simp] theorem State.updBlock_pending (n : Nat) (f : Block → Block) : (s.updBlock n f).pending = s.pending := rfl
@[simp] theorem State.updBlock_mem (n : Nat) (f : Block → Block) : (s.updBlock n f).mem = s.mem := rfl
@[simp] theorem State.updBlock_poison (n : Nat) (f : Block → Block) : (s.updBlock n f).poison = s.poison := rfl
@[simp] theorem State.updBlock_cells (n : Nat) (f : Block → Block) : (s.updBlock n f).cells = s.cells := rfl
@[simp] theorem State.updBlock_regions (n : Nat) (f : Block → Block) : (s.updBlock n f).regions = s.regions := rfl
@[simp] theorem State.updBlock_hbms (n : Nat) (f : Block → Block) : (s.updBlock n f).hbms = s.hbms := rfl
@[simp] theorem State.updBlock_links (n : Nat) (f : Block → Block) : (s.updBlock n f).links = s.links := rfl
@[simp] theorem State.updBlock_ringDown (n : Nat) (f : Block → Block) : (s.updBlock n f).ringDown = s.ringDown := rfl
@[simp] theorem State.updBlock_hub (n : Nat) (f : Block → Block) : (s.updBlock n f).hub = s.hub := rfl
@[simp] theorem State.updBlock_store (n : Nat) (f : Block → Block) : (s.updBlock n f).store = s.store := rfl
@[simp] theorem State.updBlock_cnt (n : Nat) (f : Block → Block) : (s.updBlock n f).cnt = s.cnt := rfl
@[simp] theorem State.updBlock_mgt (n : Nat) (f : Block → Block) : (s.updBlock n f).mgt = s.mgt := rfl
@[simp] theorem State.updBlock_pwr (n : Nat) (f : Block → Block) : (s.updBlock n f).pwr = s.pwr := rfl
@[simp] theorem State.updBlock_pins (n : Nat) (f : Block → Block) : (s.updBlock n f).pins = s.pins := rfl
@[simp] theorem State.updBlock_mbx (n : Nat) (f : Block → Block) : (s.updBlock n f).mbx = s.mbx := rfl
@[simp] theorem State.updBlock_gth (n : Nat) (f : Block → Block) : (s.updBlock n f).gth = s.gth := rfl
@[simp] theorem State.updBlock_hrw (n : Nat) (f : Block → Block) : (s.updBlock n f).hrw = s.hrw := rfl
@[simp] theorem State.updBlock_frozen (n : Nat) (f : Block → Block) : (s.updBlock n f).frozen = s.frozen := rfl
@[simp] theorem State.updBlock_ops (n : Nat) (f : Block → Block) : (s.updBlock n f).ops = s.ops := rfl
@[simp] theorem State.updBlock_refused (n : Nat) (f : Block → Block) : (s.updBlock n f).refused = s.refused := rfl
@[simp] theorem State.updBlock_out (n : Nat) (f : Block → Block) : (s.updBlock n f).out = s.out := rfl
@[simp] theorem State.updBlock_fresh (n : Nat) (f : Block → Block) : (s.updBlock n f).fresh = s.fresh := rfl

/-! ### `State.updRegion` -/

@[simp] theorem State.updRegion_pending (n : Nat) (f : Region → Region) : (s.updRegion n f).pending = s.pending := rfl
@[simp] theorem State.updRegion_mem (n : Nat) (f : Region → Region) : (s.updRegion n f).mem = s.mem := rfl
@[simp] theorem State.updRegion_poison (n : Nat) (f : Region → Region) : (s.updRegion n f).poison = s.poison := rfl
@[simp] theorem State.updRegion_cells (n : Nat) (f : Region → Region) : (s.updRegion n f).cells = s.cells := rfl
@[simp] theorem State.updRegion_blocks (n : Nat) (f : Region → Region) : (s.updRegion n f).blocks = s.blocks := rfl
@[simp] theorem State.updRegion_hbms (n : Nat) (f : Region → Region) : (s.updRegion n f).hbms = s.hbms := rfl
@[simp] theorem State.updRegion_links (n : Nat) (f : Region → Region) : (s.updRegion n f).links = s.links := rfl
@[simp] theorem State.updRegion_ringDown (n : Nat) (f : Region → Region) : (s.updRegion n f).ringDown = s.ringDown := rfl
@[simp] theorem State.updRegion_hub (n : Nat) (f : Region → Region) : (s.updRegion n f).hub = s.hub := rfl
@[simp] theorem State.updRegion_store (n : Nat) (f : Region → Region) : (s.updRegion n f).store = s.store := rfl
@[simp] theorem State.updRegion_cnt (n : Nat) (f : Region → Region) : (s.updRegion n f).cnt = s.cnt := rfl
@[simp] theorem State.updRegion_mgt (n : Nat) (f : Region → Region) : (s.updRegion n f).mgt = s.mgt := rfl
@[simp] theorem State.updRegion_pwr (n : Nat) (f : Region → Region) : (s.updRegion n f).pwr = s.pwr := rfl
@[simp] theorem State.updRegion_pins (n : Nat) (f : Region → Region) : (s.updRegion n f).pins = s.pins := rfl
@[simp] theorem State.updRegion_mbx (n : Nat) (f : Region → Region) : (s.updRegion n f).mbx = s.mbx := rfl
@[simp] theorem State.updRegion_gth (n : Nat) (f : Region → Region) : (s.updRegion n f).gth = s.gth := rfl
@[simp] theorem State.updRegion_hrw (n : Nat) (f : Region → Region) : (s.updRegion n f).hrw = s.hrw := rfl
@[simp] theorem State.updRegion_frozen (n : Nat) (f : Region → Region) : (s.updRegion n f).frozen = s.frozen := rfl
@[simp] theorem State.updRegion_ops (n : Nat) (f : Region → Region) : (s.updRegion n f).ops = s.ops := rfl
@[simp] theorem State.updRegion_refused (n : Nat) (f : Region → Region) : (s.updRegion n f).refused = s.refused := rfl
@[simp] theorem State.updRegion_out (n : Nat) (f : Region → Region) : (s.updRegion n f).out = s.out := rfl
@[simp] theorem State.updRegion_fresh (n : Nat) (f : Region → Region) : (s.updRegion n f).fresh = s.fresh := rfl

/-! ### `State.setRegion` -/

@[simp] theorem State.setRegion_pending (n : Nat) (g : Region) : (s.setRegion n g).pending = s.pending := rfl
@[simp] theorem State.setRegion_mem (n : Nat) (g : Region) : (s.setRegion n g).mem = s.mem := rfl
@[simp] theorem State.setRegion_poison (n : Nat) (g : Region) : (s.setRegion n g).poison = s.poison := rfl
@[simp] theorem State.setRegion_cells (n : Nat) (g : Region) : (s.setRegion n g).cells = s.cells := rfl
@[simp] theorem State.setRegion_blocks (n : Nat) (g : Region) : (s.setRegion n g).blocks = s.blocks := rfl
@[simp] theorem State.setRegion_hbms (n : Nat) (g : Region) : (s.setRegion n g).hbms = s.hbms := rfl
@[simp] theorem State.setRegion_links (n : Nat) (g : Region) : (s.setRegion n g).links = s.links := rfl
@[simp] theorem State.setRegion_ringDown (n : Nat) (g : Region) : (s.setRegion n g).ringDown = s.ringDown := rfl
@[simp] theorem State.setRegion_hub (n : Nat) (g : Region) : (s.setRegion n g).hub = s.hub := rfl
@[simp] theorem State.setRegion_store (n : Nat) (g : Region) : (s.setRegion n g).store = s.store := rfl
@[simp] theorem State.setRegion_cnt (n : Nat) (g : Region) : (s.setRegion n g).cnt = s.cnt := rfl
@[simp] theorem State.setRegion_mgt (n : Nat) (g : Region) : (s.setRegion n g).mgt = s.mgt := rfl
@[simp] theorem State.setRegion_pwr (n : Nat) (g : Region) : (s.setRegion n g).pwr = s.pwr := rfl
@[simp] theorem State.setRegion_pins (n : Nat) (g : Region) : (s.setRegion n g).pins = s.pins := rfl
@[simp] theorem State.setRegion_mbx (n : Nat) (g : Region) : (s.setRegion n g).mbx = s.mbx := rfl
@[simp] theorem State.setRegion_gth (n : Nat) (g : Region) : (s.setRegion n g).gth = s.gth := rfl
@[simp] theorem State.setRegion_hrw (n : Nat) (g : Region) : (s.setRegion n g).hrw = s.hrw := rfl
@[simp] theorem State.setRegion_frozen (n : Nat) (g : Region) : (s.setRegion n g).frozen = s.frozen := rfl
@[simp] theorem State.setRegion_ops (n : Nat) (g : Region) : (s.setRegion n g).ops = s.ops := rfl
@[simp] theorem State.setRegion_refused (n : Nat) (g : Region) : (s.setRegion n g).refused = s.refused := rfl
@[simp] theorem State.setRegion_out (n : Nat) (g : Region) : (s.setRegion n g).out = s.out := rfl
@[simp] theorem State.setRegion_fresh (n : Nat) (g : Region) : (s.setRegion n g).fresh = s.fresh := rfl

/-! ### `State.updHbm` -/

@[simp] theorem State.updHbm_pending (n : Nat) (f : Hbm → Hbm) : (s.updHbm n f).pending = s.pending := rfl
@[simp] theorem State.updHbm_mem (n : Nat) (f : Hbm → Hbm) : (s.updHbm n f).mem = s.mem := rfl
@[simp] theorem State.updHbm_poison (n : Nat) (f : Hbm → Hbm) : (s.updHbm n f).poison = s.poison := rfl
@[simp] theorem State.updHbm_cells (n : Nat) (f : Hbm → Hbm) : (s.updHbm n f).cells = s.cells := rfl
@[simp] theorem State.updHbm_blocks (n : Nat) (f : Hbm → Hbm) : (s.updHbm n f).blocks = s.blocks := rfl
@[simp] theorem State.updHbm_regions (n : Nat) (f : Hbm → Hbm) : (s.updHbm n f).regions = s.regions := rfl
@[simp] theorem State.updHbm_links (n : Nat) (f : Hbm → Hbm) : (s.updHbm n f).links = s.links := rfl
@[simp] theorem State.updHbm_ringDown (n : Nat) (f : Hbm → Hbm) : (s.updHbm n f).ringDown = s.ringDown := rfl
@[simp] theorem State.updHbm_hub (n : Nat) (f : Hbm → Hbm) : (s.updHbm n f).hub = s.hub := rfl
@[simp] theorem State.updHbm_store (n : Nat) (f : Hbm → Hbm) : (s.updHbm n f).store = s.store := rfl
@[simp] theorem State.updHbm_cnt (n : Nat) (f : Hbm → Hbm) : (s.updHbm n f).cnt = s.cnt := rfl
@[simp] theorem State.updHbm_mgt (n : Nat) (f : Hbm → Hbm) : (s.updHbm n f).mgt = s.mgt := rfl
@[simp] theorem State.updHbm_pwr (n : Nat) (f : Hbm → Hbm) : (s.updHbm n f).pwr = s.pwr := rfl
@[simp] theorem State.updHbm_pins (n : Nat) (f : Hbm → Hbm) : (s.updHbm n f).pins = s.pins := rfl
@[simp] theorem State.updHbm_mbx (n : Nat) (f : Hbm → Hbm) : (s.updHbm n f).mbx = s.mbx := rfl
@[simp] theorem State.updHbm_gth (n : Nat) (f : Hbm → Hbm) : (s.updHbm n f).gth = s.gth := rfl
@[simp] theorem State.updHbm_hrw (n : Nat) (f : Hbm → Hbm) : (s.updHbm n f).hrw = s.hrw := rfl
@[simp] theorem State.updHbm_frozen (n : Nat) (f : Hbm → Hbm) : (s.updHbm n f).frozen = s.frozen := rfl
@[simp] theorem State.updHbm_ops (n : Nat) (f : Hbm → Hbm) : (s.updHbm n f).ops = s.ops := rfl
@[simp] theorem State.updHbm_refused (n : Nat) (f : Hbm → Hbm) : (s.updHbm n f).refused = s.refused := rfl
@[simp] theorem State.updHbm_out (n : Nat) (f : Hbm → Hbm) : (s.updHbm n f).out = s.out := rfl
@[simp] theorem State.updHbm_fresh (n : Nat) (f : Hbm → Hbm) : (s.updHbm n f).fresh = s.fresh := rfl

/-! ### `State.updLink` -/

@[simp] theorem State.updLink_pending (n : Nat) (f : Link → Link) : (s.updLink n f).pending = s.pending := rfl
@[simp] theorem State.updLink_mem (n : Nat) (f : Link → Link) : (s.updLink n f).mem = s.mem := rfl
@[simp] theorem State.updLink_poison (n : Nat) (f : Link → Link) : (s.updLink n f).poison = s.poison := rfl
@[simp] theorem State.updLink_cells (n : Nat) (f : Link → Link) : (s.updLink n f).cells = s.cells := rfl
@[simp] theorem State.updLink_blocks (n : Nat) (f : Link → Link) : (s.updLink n f).blocks = s.blocks := rfl
@[simp] theorem State.updLink_regions (n : Nat) (f : Link → Link) : (s.updLink n f).regions = s.regions := rfl
@[simp] theorem State.updLink_hbms (n : Nat) (f : Link → Link) : (s.updLink n f).hbms = s.hbms := rfl
@[simp] theorem State.updLink_ringDown (n : Nat) (f : Link → Link) : (s.updLink n f).ringDown = s.ringDown := rfl
@[simp] theorem State.updLink_hub (n : Nat) (f : Link → Link) : (s.updLink n f).hub = s.hub := rfl
@[simp] theorem State.updLink_store (n : Nat) (f : Link → Link) : (s.updLink n f).store = s.store := rfl
@[simp] theorem State.updLink_cnt (n : Nat) (f : Link → Link) : (s.updLink n f).cnt = s.cnt := rfl
@[simp] theorem State.updLink_mgt (n : Nat) (f : Link → Link) : (s.updLink n f).mgt = s.mgt := rfl
@[simp] theorem State.updLink_pwr (n : Nat) (f : Link → Link) : (s.updLink n f).pwr = s.pwr := rfl
@[simp] theorem State.updLink_pins (n : Nat) (f : Link → Link) : (s.updLink n f).pins = s.pins := rfl
@[simp] theorem State.updLink_mbx (n : Nat) (f : Link → Link) : (s.updLink n f).mbx = s.mbx := rfl
@[simp] theorem State.updLink_gth (n : Nat) (f : Link → Link) : (s.updLink n f).gth = s.gth := rfl
@[simp] theorem State.updLink_hrw (n : Nat) (f : Link → Link) : (s.updLink n f).hrw = s.hrw := rfl
@[simp] theorem State.updLink_frozen (n : Nat) (f : Link → Link) : (s.updLink n f).frozen = s.frozen := rfl
@[simp] theorem State.updLink_ops (n : Nat) (f : Link → Link) : (s.updLink n f).ops = s.ops := rfl
@[simp] theorem State.updLink_refused (n : Nat) (f : Link → Link) : (s.updLink n f).refused = s.refused := rfl
@[simp] theorem State.updLink_out (n : Nat) (f : Link → Link) : (s.updLink n f).out = s.out := rfl
@[simp] theorem State.updLink_fresh (n : Nat) (f : Link → Link) : (s.updLink n f).fresh = s.fresh := rfl

/-! ### `State.updHub` -/

@[simp] theorem State.updHub_pending (f : Hub → Hub) : (s.updHub f).pending = s.pending := rfl
@[simp] theorem State.updHub_mem (f : Hub → Hub) : (s.updHub f).mem = s.mem := rfl
@[simp] theorem State.updHub_poison (f : Hub → Hub) : (s.updHub f).poison = s.poison := rfl
@[simp] theorem State.updHub_cells (f : Hub → Hub) : (s.updHub f).cells = s.cells := rfl
@[simp] theorem State.updHub_blocks (f : Hub → Hub) : (s.updHub f).blocks = s.blocks := rfl
@[simp] theorem State.updHub_regions (f : Hub → Hub) : (s.updHub f).regions = s.regions := rfl
@[simp] theorem State.updHub_hbms (f : Hub → Hub) : (s.updHub f).hbms = s.hbms := rfl
@[simp] theorem State.updHub_links (f : Hub → Hub) : (s.updHub f).links = s.links := rfl
@[simp] theorem State.updHub_ringDown (f : Hub → Hub) : (s.updHub f).ringDown = s.ringDown := rfl
@[simp] theorem State.updHub_store (f : Hub → Hub) : (s.updHub f).store = s.store := rfl
@[simp] theorem State.updHub_cnt (f : Hub → Hub) : (s.updHub f).cnt = s.cnt := rfl
@[simp] theorem State.updHub_mgt (f : Hub → Hub) : (s.updHub f).mgt = s.mgt := rfl
@[simp] theorem State.updHub_pwr (f : Hub → Hub) : (s.updHub f).pwr = s.pwr := rfl
@[simp] theorem State.updHub_pins (f : Hub → Hub) : (s.updHub f).pins = s.pins := rfl
@[simp] theorem State.updHub_mbx (f : Hub → Hub) : (s.updHub f).mbx = s.mbx := rfl
@[simp] theorem State.updHub_gth (f : Hub → Hub) : (s.updHub f).gth = s.gth := rfl
@[simp] theorem State.updHub_hrw (f : Hub → Hub) : (s.updHub f).hrw = s.hrw := rfl
@[simp] theorem State.updHub_frozen (f : Hub → Hub) : (s.updHub f).frozen = s.frozen := rfl
@[simp] theorem State.updHub_ops (f : Hub → Hub) : (s.updHub f).ops = s.ops := rfl
@[simp] theorem State.updHub_refused (f : Hub → Hub) : (s.updHub f).refused = s.refused := rfl
@[simp] theorem State.updHub_out (f : Hub → Hub) : (s.updHub f).out = s.out := rfl
@[simp] theorem State.updHub_fresh (f : Hub → Hub) : (s.updHub f).fresh = s.fresh := rfl

/-! ### `State.updMbx` -/

@[simp] theorem State.updMbx_pending (f : Mbx → Mbx) : (s.updMbx f).pending = s.pending := rfl
@[simp] theorem State.updMbx_mem (f : Mbx → Mbx) : (s.updMbx f).mem = s.mem := rfl
@[simp] theorem State.updMbx_poison (f : Mbx → Mbx) : (s.updMbx f).poison = s.poison := rfl
@[simp] theorem State.updMbx_cells (f : Mbx → Mbx) : (s.updMbx f).cells = s.cells := rfl
@[simp] theorem State.updMbx_blocks (f : Mbx → Mbx) : (s.updMbx f).blocks = s.blocks := rfl
@[simp] theorem State.updMbx_regions (f : Mbx → Mbx) : (s.updMbx f).regions = s.regions := rfl
@[simp] theorem State.updMbx_hbms (f : Mbx → Mbx) : (s.updMbx f).hbms = s.hbms := rfl
@[simp] theorem State.updMbx_links (f : Mbx → Mbx) : (s.updMbx f).links = s.links := rfl
@[simp] theorem State.updMbx_ringDown (f : Mbx → Mbx) : (s.updMbx f).ringDown = s.ringDown := rfl
@[simp] theorem State.updMbx_hub (f : Mbx → Mbx) : (s.updMbx f).hub = s.hub := rfl
@[simp] theorem State.updMbx_store (f : Mbx → Mbx) : (s.updMbx f).store = s.store := rfl
@[simp] theorem State.updMbx_cnt (f : Mbx → Mbx) : (s.updMbx f).cnt = s.cnt := rfl
@[simp] theorem State.updMbx_mgt (f : Mbx → Mbx) : (s.updMbx f).mgt = s.mgt := rfl
@[simp] theorem State.updMbx_pwr (f : Mbx → Mbx) : (s.updMbx f).pwr = s.pwr := rfl
@[simp] theorem State.updMbx_pins (f : Mbx → Mbx) : (s.updMbx f).pins = s.pins := rfl
@[simp] theorem State.updMbx_gth (f : Mbx → Mbx) : (s.updMbx f).gth = s.gth := rfl
@[simp] theorem State.updMbx_hrw (f : Mbx → Mbx) : (s.updMbx f).hrw = s.hrw := rfl
@[simp] theorem State.updMbx_frozen (f : Mbx → Mbx) : (s.updMbx f).frozen = s.frozen := rfl
@[simp] theorem State.updMbx_ops (f : Mbx → Mbx) : (s.updMbx f).ops = s.ops := rfl
@[simp] theorem State.updMbx_refused (f : Mbx → Mbx) : (s.updMbx f).refused = s.refused := rfl
@[simp] theorem State.updMbx_out (f : Mbx → Mbx) : (s.updMbx f).out = s.out := rfl
@[simp] theorem State.updMbx_fresh (f : Mbx → Mbx) : (s.updMbx f).fresh = s.fresh := rfl

/-! ### `State.updGth` -/

@[simp] theorem State.updGth_pending (f : Girth → Girth) : (s.updGth f).pending = s.pending := rfl
@[simp] theorem State.updGth_mem (f : Girth → Girth) : (s.updGth f).mem = s.mem := rfl
@[simp] theorem State.updGth_poison (f : Girth → Girth) : (s.updGth f).poison = s.poison := rfl
@[simp] theorem State.updGth_cells (f : Girth → Girth) : (s.updGth f).cells = s.cells := rfl
@[simp] theorem State.updGth_blocks (f : Girth → Girth) : (s.updGth f).blocks = s.blocks := rfl
@[simp] theorem State.updGth_regions (f : Girth → Girth) : (s.updGth f).regions = s.regions := rfl
@[simp] theorem State.updGth_hbms (f : Girth → Girth) : (s.updGth f).hbms = s.hbms := rfl
@[simp] theorem State.updGth_links (f : Girth → Girth) : (s.updGth f).links = s.links := rfl
@[simp] theorem State.updGth_ringDown (f : Girth → Girth) : (s.updGth f).ringDown = s.ringDown := rfl
@[simp] theorem State.updGth_hub (f : Girth → Girth) : (s.updGth f).hub = s.hub := rfl
@[simp] theorem State.updGth_store (f : Girth → Girth) : (s.updGth f).store = s.store := rfl
@[simp] theorem State.updGth_cnt (f : Girth → Girth) : (s.updGth f).cnt = s.cnt := rfl
@[simp] theorem State.updGth_mgt (f : Girth → Girth) : (s.updGth f).mgt = s.mgt := rfl
@[simp] theorem State.updGth_pwr (f : Girth → Girth) : (s.updGth f).pwr = s.pwr := rfl
@[simp] theorem State.updGth_pins (f : Girth → Girth) : (s.updGth f).pins = s.pins := rfl
@[simp] theorem State.updGth_mbx (f : Girth → Girth) : (s.updGth f).mbx = s.mbx := rfl
@[simp] theorem State.updGth_hrw (f : Girth → Girth) : (s.updGth f).hrw = s.hrw := rfl
@[simp] theorem State.updGth_frozen (f : Girth → Girth) : (s.updGth f).frozen = s.frozen := rfl
@[simp] theorem State.updGth_ops (f : Girth → Girth) : (s.updGth f).ops = s.ops := rfl
@[simp] theorem State.updGth_refused (f : Girth → Girth) : (s.updGth f).refused = s.refused := rfl
@[simp] theorem State.updGth_out (f : Girth → Girth) : (s.updGth f).out = s.out := rfl
@[simp] theorem State.updGth_fresh (f : Girth → Girth) : (s.updGth f).fresh = s.fresh := rfl

/-! ### `State.updHrw` -/

@[simp] theorem State.updHrw_pending (f : Hrw → Hrw) : (s.updHrw f).pending = s.pending := rfl
@[simp] theorem State.updHrw_mem (f : Hrw → Hrw) : (s.updHrw f).mem = s.mem := rfl
@[simp] theorem State.updHrw_poison (f : Hrw → Hrw) : (s.updHrw f).poison = s.poison := rfl
@[simp] theorem State.updHrw_cells (f : Hrw → Hrw) : (s.updHrw f).cells = s.cells := rfl
@[simp] theorem State.updHrw_blocks (f : Hrw → Hrw) : (s.updHrw f).blocks = s.blocks := rfl
@[simp] theorem State.updHrw_regions (f : Hrw → Hrw) : (s.updHrw f).regions = s.regions := rfl
@[simp] theorem State.updHrw_hbms (f : Hrw → Hrw) : (s.updHrw f).hbms = s.hbms := rfl
@[simp] theorem State.updHrw_links (f : Hrw → Hrw) : (s.updHrw f).links = s.links := rfl
@[simp] theorem State.updHrw_ringDown (f : Hrw → Hrw) : (s.updHrw f).ringDown = s.ringDown := rfl
@[simp] theorem State.updHrw_hub (f : Hrw → Hrw) : (s.updHrw f).hub = s.hub := rfl
@[simp] theorem State.updHrw_store (f : Hrw → Hrw) : (s.updHrw f).store = s.store := rfl
@[simp] theorem State.updHrw_cnt (f : Hrw → Hrw) : (s.updHrw f).cnt = s.cnt := rfl
@[simp] theorem State.updHrw_mgt (f : Hrw → Hrw) : (s.updHrw f).mgt = s.mgt := rfl
@[simp] theorem State.updHrw_pwr (f : Hrw → Hrw) : (s.updHrw f).pwr = s.pwr := rfl
@[simp] theorem State.updHrw_pins (f : Hrw → Hrw) : (s.updHrw f).pins = s.pins := rfl
@[simp] theorem State.updHrw_mbx (f : Hrw → Hrw) : (s.updHrw f).mbx = s.mbx := rfl
@[simp] theorem State.updHrw_gth (f : Hrw → Hrw) : (s.updHrw f).gth = s.gth := rfl
@[simp] theorem State.updHrw_frozen (f : Hrw → Hrw) : (s.updHrw f).frozen = s.frozen := rfl
@[simp] theorem State.updHrw_ops (f : Hrw → Hrw) : (s.updHrw f).ops = s.ops := rfl
@[simp] theorem State.updHrw_refused (f : Hrw → Hrw) : (s.updHrw f).refused = s.refused := rfl
@[simp] theorem State.updHrw_out (f : Hrw → Hrw) : (s.updHrw f).out = s.out := rfl
@[simp] theorem State.updHrw_fresh (f : Hrw → Hrw) : (s.updHrw f).fresh = s.fresh := rfl

/-! ### `State.updPwr` -/

@[simp] theorem State.updPwr_pending (f : Power → Power) : (s.updPwr f).pending = s.pending := rfl
@[simp] theorem State.updPwr_mem (f : Power → Power) : (s.updPwr f).mem = s.mem := rfl
@[simp] theorem State.updPwr_poison (f : Power → Power) : (s.updPwr f).poison = s.poison := rfl
@[simp] theorem State.updPwr_cells (f : Power → Power) : (s.updPwr f).cells = s.cells := rfl
@[simp] theorem State.updPwr_blocks (f : Power → Power) : (s.updPwr f).blocks = s.blocks := rfl
@[simp] theorem State.updPwr_regions (f : Power → Power) : (s.updPwr f).regions = s.regions := rfl
@[simp] theorem State.updPwr_hbms (f : Power → Power) : (s.updPwr f).hbms = s.hbms := rfl
@[simp] theorem State.updPwr_links (f : Power → Power) : (s.updPwr f).links = s.links := rfl
@[simp] theorem State.updPwr_ringDown (f : Power → Power) : (s.updPwr f).ringDown = s.ringDown := rfl
@[simp] theorem State.updPwr_hub (f : Power → Power) : (s.updPwr f).hub = s.hub := rfl
@[simp] theorem State.updPwr_store (f : Power → Power) : (s.updPwr f).store = s.store := rfl
@[simp] theorem State.updPwr_cnt (f : Power → Power) : (s.updPwr f).cnt = s.cnt := rfl
@[simp] theorem State.updPwr_mgt (f : Power → Power) : (s.updPwr f).mgt = s.mgt := rfl
@[simp] theorem State.updPwr_pins (f : Power → Power) : (s.updPwr f).pins = s.pins := rfl
@[simp] theorem State.updPwr_mbx (f : Power → Power) : (s.updPwr f).mbx = s.mbx := rfl
@[simp] theorem State.updPwr_gth (f : Power → Power) : (s.updPwr f).gth = s.gth := rfl
@[simp] theorem State.updPwr_hrw (f : Power → Power) : (s.updPwr f).hrw = s.hrw := rfl
@[simp] theorem State.updPwr_frozen (f : Power → Power) : (s.updPwr f).frozen = s.frozen := rfl
@[simp] theorem State.updPwr_ops (f : Power → Power) : (s.updPwr f).ops = s.ops := rfl
@[simp] theorem State.updPwr_refused (f : Power → Power) : (s.updPwr f).refused = s.refused := rfl
@[simp] theorem State.updPwr_out (f : Power → Power) : (s.updPwr f).out = s.out := rfl
@[simp] theorem State.updPwr_fresh (f : Power → Power) : (s.updPwr f).fresh = s.fresh := rfl

/-! ### `State.updCnt` -/

@[simp] theorem State.updCnt_pending (f : Cantle → Cantle) : (s.updCnt f).pending = s.pending := rfl
@[simp] theorem State.updCnt_mem (f : Cantle → Cantle) : (s.updCnt f).mem = s.mem := rfl
@[simp] theorem State.updCnt_poison (f : Cantle → Cantle) : (s.updCnt f).poison = s.poison := rfl
@[simp] theorem State.updCnt_cells (f : Cantle → Cantle) : (s.updCnt f).cells = s.cells := rfl
@[simp] theorem State.updCnt_blocks (f : Cantle → Cantle) : (s.updCnt f).blocks = s.blocks := rfl
@[simp] theorem State.updCnt_regions (f : Cantle → Cantle) : (s.updCnt f).regions = s.regions := rfl
@[simp] theorem State.updCnt_hbms (f : Cantle → Cantle) : (s.updCnt f).hbms = s.hbms := rfl
@[simp] theorem State.updCnt_links (f : Cantle → Cantle) : (s.updCnt f).links = s.links := rfl
@[simp] theorem State.updCnt_ringDown (f : Cantle → Cantle) : (s.updCnt f).ringDown = s.ringDown := rfl
@[simp] theorem State.updCnt_hub (f : Cantle → Cantle) : (s.updCnt f).hub = s.hub := rfl
@[simp] theorem State.updCnt_store (f : Cantle → Cantle) : (s.updCnt f).store = s.store := rfl
@[simp] theorem State.updCnt_mgt (f : Cantle → Cantle) : (s.updCnt f).mgt = s.mgt := rfl
@[simp] theorem State.updCnt_pwr (f : Cantle → Cantle) : (s.updCnt f).pwr = s.pwr := rfl
@[simp] theorem State.updCnt_pins (f : Cantle → Cantle) : (s.updCnt f).pins = s.pins := rfl
@[simp] theorem State.updCnt_mbx (f : Cantle → Cantle) : (s.updCnt f).mbx = s.mbx := rfl
@[simp] theorem State.updCnt_gth (f : Cantle → Cantle) : (s.updCnt f).gth = s.gth := rfl
@[simp] theorem State.updCnt_hrw (f : Cantle → Cantle) : (s.updCnt f).hrw = s.hrw := rfl
@[simp] theorem State.updCnt_frozen (f : Cantle → Cantle) : (s.updCnt f).frozen = s.frozen := rfl
@[simp] theorem State.updCnt_ops (f : Cantle → Cantle) : (s.updCnt f).ops = s.ops := rfl
@[simp] theorem State.updCnt_refused (f : Cantle → Cantle) : (s.updCnt f).refused = s.refused := rfl
@[simp] theorem State.updCnt_out (f : Cantle → Cantle) : (s.updCnt f).out = s.out := rfl
@[simp] theorem State.updCnt_fresh (f : Cantle → Cantle) : (s.updCnt f).fresh = s.fresh := rfl

/-! ### `State.updStore` -/

@[simp] theorem State.updStore_pending (f : Store → Store) : (s.updStore f).pending = s.pending := rfl
@[simp] theorem State.updStore_mem (f : Store → Store) : (s.updStore f).mem = s.mem := rfl
@[simp] theorem State.updStore_poison (f : Store → Store) : (s.updStore f).poison = s.poison := rfl
@[simp] theorem State.updStore_cells (f : Store → Store) : (s.updStore f).cells = s.cells := rfl
@[simp] theorem State.updStore_blocks (f : Store → Store) : (s.updStore f).blocks = s.blocks := rfl
@[simp] theorem State.updStore_regions (f : Store → Store) : (s.updStore f).regions = s.regions := rfl
@[simp] theorem State.updStore_hbms (f : Store → Store) : (s.updStore f).hbms = s.hbms := rfl
@[simp] theorem State.updStore_links (f : Store → Store) : (s.updStore f).links = s.links := rfl
@[simp] theorem State.updStore_ringDown (f : Store → Store) : (s.updStore f).ringDown = s.ringDown := rfl
@[simp] theorem State.updStore_hub (f : Store → Store) : (s.updStore f).hub = s.hub := rfl
@[simp] theorem State.updStore_cnt (f : Store → Store) : (s.updStore f).cnt = s.cnt := rfl
@[simp] theorem State.updStore_mgt (f : Store → Store) : (s.updStore f).mgt = s.mgt := rfl
@[simp] theorem State.updStore_pwr (f : Store → Store) : (s.updStore f).pwr = s.pwr := rfl
@[simp] theorem State.updStore_pins (f : Store → Store) : (s.updStore f).pins = s.pins := rfl
@[simp] theorem State.updStore_mbx (f : Store → Store) : (s.updStore f).mbx = s.mbx := rfl
@[simp] theorem State.updStore_gth (f : Store → Store) : (s.updStore f).gth = s.gth := rfl
@[simp] theorem State.updStore_hrw (f : Store → Store) : (s.updStore f).hrw = s.hrw := rfl
@[simp] theorem State.updStore_frozen (f : Store → Store) : (s.updStore f).frozen = s.frozen := rfl
@[simp] theorem State.updStore_ops (f : Store → Store) : (s.updStore f).ops = s.ops := rfl
@[simp] theorem State.updStore_refused (f : Store → Store) : (s.updStore f).refused = s.refused := rfl
@[simp] theorem State.updStore_out (f : Store → Store) : (s.updStore f).out = s.out := rfl
@[simp] theorem State.updStore_fresh (f : Store → Store) : (s.updStore f).fresh = s.fresh := rfl

/-! ### `State.updPins` -/

@[simp] theorem State.updPins_pending (f : Pins → Pins) : (s.updPins f).pending = s.pending := rfl
@[simp] theorem State.updPins_mem (f : Pins → Pins) : (s.updPins f).mem = s.mem := rfl
@[simp] theorem State.updPins_poison (f : Pins → Pins) : (s.updPins f).poison = s.poison := rfl
@[simp] theorem State.updPins_cells (f : Pins → Pins) : (s.updPins f).cells = s.cells := rfl
@[simp] theorem State.updPins_blocks (f : Pins → Pins) : (s.updPins f).blocks = s.blocks := rfl
@[simp] theorem State.updPins_regions (f : Pins → Pins) : (s.updPins f).regions = s.regions := rfl
@[simp] theorem State.updPins_hbms (f : Pins → Pins) : (s.updPins f).hbms = s.hbms := rfl
@[simp] theorem State.updPins_links (f : Pins → Pins) : (s.updPins f).links = s.links := rfl
@[simp] theorem State.updPins_ringDown (f : Pins → Pins) : (s.updPins f).ringDown = s.ringDown := rfl
@[simp] theorem State.updPins_hub (f : Pins → Pins) : (s.updPins f).hub = s.hub := rfl
@[simp] theorem State.updPins_store (f : Pins → Pins) : (s.updPins f).store = s.store := rfl
@[simp] theorem State.updPins_cnt (f : Pins → Pins) : (s.updPins f).cnt = s.cnt := rfl
@[simp] theorem State.updPins_mgt (f : Pins → Pins) : (s.updPins f).mgt = s.mgt := rfl
@[simp] theorem State.updPins_pwr (f : Pins → Pins) : (s.updPins f).pwr = s.pwr := rfl
@[simp] theorem State.updPins_mbx (f : Pins → Pins) : (s.updPins f).mbx = s.mbx := rfl
@[simp] theorem State.updPins_gth (f : Pins → Pins) : (s.updPins f).gth = s.gth := rfl
@[simp] theorem State.updPins_hrw (f : Pins → Pins) : (s.updPins f).hrw = s.hrw := rfl
@[simp] theorem State.updPins_frozen (f : Pins → Pins) : (s.updPins f).frozen = s.frozen := rfl
@[simp] theorem State.updPins_ops (f : Pins → Pins) : (s.updPins f).ops = s.ops := rfl
@[simp] theorem State.updPins_refused (f : Pins → Pins) : (s.updPins f).refused = s.refused := rfl
@[simp] theorem State.updPins_out (f : Pins → Pins) : (s.updPins f).out = s.out := rfl
@[simp] theorem State.updPins_fresh (f : Pins → Pins) : (s.updPins f).fresh = s.fresh := rfl

/-! ### `State.updMgt` -/

@[simp] theorem State.updMgt_pending (f : Mgt → Mgt) : (s.updMgt f).pending = s.pending := rfl
@[simp] theorem State.updMgt_mem (f : Mgt → Mgt) : (s.updMgt f).mem = s.mem := rfl
@[simp] theorem State.updMgt_poison (f : Mgt → Mgt) : (s.updMgt f).poison = s.poison := rfl
@[simp] theorem State.updMgt_cells (f : Mgt → Mgt) : (s.updMgt f).cells = s.cells := rfl
@[simp] theorem State.updMgt_blocks (f : Mgt → Mgt) : (s.updMgt f).blocks = s.blocks := rfl
@[simp] theorem State.updMgt_regions (f : Mgt → Mgt) : (s.updMgt f).regions = s.regions := rfl
@[simp] theorem State.updMgt_hbms (f : Mgt → Mgt) : (s.updMgt f).hbms = s.hbms := rfl
@[simp] theorem State.updMgt_links (f : Mgt → Mgt) : (s.updMgt f).links = s.links := rfl
@[simp] theorem State.updMgt_ringDown (f : Mgt → Mgt) : (s.updMgt f).ringDown = s.ringDown := rfl
@[simp] theorem State.updMgt_hub (f : Mgt → Mgt) : (s.updMgt f).hub = s.hub := rfl
@[simp] theorem State.updMgt_store (f : Mgt → Mgt) : (s.updMgt f).store = s.store := rfl
@[simp] theorem State.updMgt_cnt (f : Mgt → Mgt) : (s.updMgt f).cnt = s.cnt := rfl
@[simp] theorem State.updMgt_pwr (f : Mgt → Mgt) : (s.updMgt f).pwr = s.pwr := rfl
@[simp] theorem State.updMgt_pins (f : Mgt → Mgt) : (s.updMgt f).pins = s.pins := rfl
@[simp] theorem State.updMgt_mbx (f : Mgt → Mgt) : (s.updMgt f).mbx = s.mbx := rfl
@[simp] theorem State.updMgt_gth (f : Mgt → Mgt) : (s.updMgt f).gth = s.gth := rfl
@[simp] theorem State.updMgt_hrw (f : Mgt → Mgt) : (s.updMgt f).hrw = s.hrw := rfl
@[simp] theorem State.updMgt_frozen (f : Mgt → Mgt) : (s.updMgt f).frozen = s.frozen := rfl
@[simp] theorem State.updMgt_ops (f : Mgt → Mgt) : (s.updMgt f).ops = s.ops := rfl
@[simp] theorem State.updMgt_refused (f : Mgt → Mgt) : (s.updMgt f).refused = s.refused := rfl
@[simp] theorem State.updMgt_out (f : Mgt → Mgt) : (s.updMgt f).out = s.out := rfl
@[simp] theorem State.updMgt_fresh (f : Mgt → Mgt) : (s.updMgt f).fresh = s.fresh := rfl

/-! ### `State.emit` -/

@[simp] theorem State.emit_pending (o : Out) : (s.emit o).pending = s.pending := rfl
@[simp] theorem State.emit_mem (o : Out) : (s.emit o).mem = s.mem := rfl
@[simp] theorem State.emit_poison (o : Out) : (s.emit o).poison = s.poison := rfl
@[simp] theorem State.emit_cells (o : Out) : (s.emit o).cells = s.cells := rfl
@[simp] theorem State.emit_blocks (o : Out) : (s.emit o).blocks = s.blocks := rfl
@[simp] theorem State.emit_regions (o : Out) : (s.emit o).regions = s.regions := rfl
@[simp] theorem State.emit_hbms (o : Out) : (s.emit o).hbms = s.hbms := rfl
@[simp] theorem State.emit_links (o : Out) : (s.emit o).links = s.links := rfl
@[simp] theorem State.emit_ringDown (o : Out) : (s.emit o).ringDown = s.ringDown := rfl
@[simp] theorem State.emit_hub (o : Out) : (s.emit o).hub = s.hub := rfl
@[simp] theorem State.emit_store (o : Out) : (s.emit o).store = s.store := rfl
@[simp] theorem State.emit_cnt (o : Out) : (s.emit o).cnt = s.cnt := rfl
@[simp] theorem State.emit_mgt (o : Out) : (s.emit o).mgt = s.mgt := rfl
@[simp] theorem State.emit_pwr (o : Out) : (s.emit o).pwr = s.pwr := rfl
@[simp] theorem State.emit_pins (o : Out) : (s.emit o).pins = s.pins := rfl
@[simp] theorem State.emit_mbx (o : Out) : (s.emit o).mbx = s.mbx := rfl
@[simp] theorem State.emit_gth (o : Out) : (s.emit o).gth = s.gth := rfl
@[simp] theorem State.emit_hrw (o : Out) : (s.emit o).hrw = s.hrw := rfl
@[simp] theorem State.emit_frozen (o : Out) : (s.emit o).frozen = s.frozen := rfl
@[simp] theorem State.emit_ops (o : Out) : (s.emit o).ops = s.ops := rfl
@[simp] theorem State.emit_refused (o : Out) : (s.emit o).refused = s.refused := rfl
@[simp] theorem State.emit_fresh (o : Out) : (s.emit o).fresh = s.fresh := rfl

/-! ### `State.updOp` -/

@[simp] theorem State.updOp_pending (i : OpId) (f : OpEntry → OpEntry) : (s.updOp i f).pending = s.pending := rfl
@[simp] theorem State.updOp_mem (i : OpId) (f : OpEntry → OpEntry) : (s.updOp i f).mem = s.mem := rfl
@[simp] theorem State.updOp_poison (i : OpId) (f : OpEntry → OpEntry) : (s.updOp i f).poison = s.poison := rfl
@[simp] theorem State.updOp_cells (i : OpId) (f : OpEntry → OpEntry) : (s.updOp i f).cells = s.cells := rfl
@[simp] theorem State.updOp_blocks (i : OpId) (f : OpEntry → OpEntry) : (s.updOp i f).blocks = s.blocks := rfl
@[simp] theorem State.updOp_regions (i : OpId) (f : OpEntry → OpEntry) : (s.updOp i f).regions = s.regions := rfl
@[simp] theorem State.updOp_hbms (i : OpId) (f : OpEntry → OpEntry) : (s.updOp i f).hbms = s.hbms := rfl
@[simp] theorem State.updOp_links (i : OpId) (f : OpEntry → OpEntry) : (s.updOp i f).links = s.links := rfl
@[simp] theorem State.updOp_ringDown (i : OpId) (f : OpEntry → OpEntry) : (s.updOp i f).ringDown = s.ringDown := rfl
@[simp] theorem State.updOp_hub (i : OpId) (f : OpEntry → OpEntry) : (s.updOp i f).hub = s.hub := rfl
@[simp] theorem State.updOp_store (i : OpId) (f : OpEntry → OpEntry) : (s.updOp i f).store = s.store := rfl
@[simp] theorem State.updOp_cnt (i : OpId) (f : OpEntry → OpEntry) : (s.updOp i f).cnt = s.cnt := rfl
@[simp] theorem State.updOp_mgt (i : OpId) (f : OpEntry → OpEntry) : (s.updOp i f).mgt = s.mgt := rfl
@[simp] theorem State.updOp_pwr (i : OpId) (f : OpEntry → OpEntry) : (s.updOp i f).pwr = s.pwr := rfl
@[simp] theorem State.updOp_pins (i : OpId) (f : OpEntry → OpEntry) : (s.updOp i f).pins = s.pins := rfl
@[simp] theorem State.updOp_mbx (i : OpId) (f : OpEntry → OpEntry) : (s.updOp i f).mbx = s.mbx := rfl
@[simp] theorem State.updOp_gth (i : OpId) (f : OpEntry → OpEntry) : (s.updOp i f).gth = s.gth := rfl
@[simp] theorem State.updOp_hrw (i : OpId) (f : OpEntry → OpEntry) : (s.updOp i f).hrw = s.hrw := rfl
@[simp] theorem State.updOp_frozen (i : OpId) (f : OpEntry → OpEntry) : (s.updOp i f).frozen = s.frozen := rfl
@[simp] theorem State.updOp_refused (i : OpId) (f : OpEntry → OpEntry) : (s.updOp i f).refused = s.refused := rfl
@[simp] theorem State.updOp_out (i : OpId) (f : OpEntry → OpEntry) : (s.updOp i f).out = s.out := rfl
@[simp] theorem State.updOp_fresh (i : OpId) (f : OpEntry → OpEntry) : (s.updOp i f).fresh = s.fresh := rfl

/-! ### `State.dropOp` -/

@[simp] theorem State.dropOp_pending (i : OpId) : (s.dropOp i).pending = s.pending := rfl
@[simp] theorem State.dropOp_mem (i : OpId) : (s.dropOp i).mem = s.mem := rfl
@[simp] theorem State.dropOp_poison (i : OpId) : (s.dropOp i).poison = s.poison := rfl
@[simp] theorem State.dropOp_cells (i : OpId) : (s.dropOp i).cells = s.cells := rfl
@[simp] theorem State.dropOp_blocks (i : OpId) : (s.dropOp i).blocks = s.blocks := rfl
@[simp] theorem State.dropOp_regions (i : OpId) : (s.dropOp i).regions = s.regions := rfl
@[simp] theorem State.dropOp_hbms (i : OpId) : (s.dropOp i).hbms = s.hbms := rfl
@[simp] theorem State.dropOp_links (i : OpId) : (s.dropOp i).links = s.links := rfl
@[simp] theorem State.dropOp_ringDown (i : OpId) : (s.dropOp i).ringDown = s.ringDown := rfl
@[simp] theorem State.dropOp_hub (i : OpId) : (s.dropOp i).hub = s.hub := rfl
@[simp] theorem State.dropOp_store (i : OpId) : (s.dropOp i).store = s.store := rfl
@[simp] theorem State.dropOp_cnt (i : OpId) : (s.dropOp i).cnt = s.cnt := rfl
@[simp] theorem State.dropOp_mgt (i : OpId) : (s.dropOp i).mgt = s.mgt := rfl
@[simp] theorem State.dropOp_pwr (i : OpId) : (s.dropOp i).pwr = s.pwr := rfl
@[simp] theorem State.dropOp_pins (i : OpId) : (s.dropOp i).pins = s.pins := rfl
@[simp] theorem State.dropOp_mbx (i : OpId) : (s.dropOp i).mbx = s.mbx := rfl
@[simp] theorem State.dropOp_gth (i : OpId) : (s.dropOp i).gth = s.gth := rfl
@[simp] theorem State.dropOp_hrw (i : OpId) : (s.dropOp i).hrw = s.hrw := rfl
@[simp] theorem State.dropOp_frozen (i : OpId) : (s.dropOp i).frozen = s.frozen := rfl
@[simp] theorem State.dropOp_refused (i : OpId) : (s.dropOp i).refused = s.refused := rfl
@[simp] theorem State.dropOp_out (i : OpId) : (s.dropOp i).out = s.out := rfl
@[simp] theorem State.dropOp_fresh (i : OpId) : (s.dropOp i).fresh = s.fresh := rfl

/-! ### `State.addStat` -/

@[simp] theorem State.addStat_pending (i : OpId) (st : Nat) : (s.addStat i st).pending = s.pending := rfl
@[simp] theorem State.addStat_mem (i : OpId) (st : Nat) : (s.addStat i st).mem = s.mem := rfl
@[simp] theorem State.addStat_poison (i : OpId) (st : Nat) : (s.addStat i st).poison = s.poison := rfl
@[simp] theorem State.addStat_cells (i : OpId) (st : Nat) : (s.addStat i st).cells = s.cells := rfl
@[simp] theorem State.addStat_blocks (i : OpId) (st : Nat) : (s.addStat i st).blocks = s.blocks := rfl
@[simp] theorem State.addStat_regions (i : OpId) (st : Nat) : (s.addStat i st).regions = s.regions := rfl
@[simp] theorem State.addStat_hbms (i : OpId) (st : Nat) : (s.addStat i st).hbms = s.hbms := rfl
@[simp] theorem State.addStat_links (i : OpId) (st : Nat) : (s.addStat i st).links = s.links := rfl
@[simp] theorem State.addStat_ringDown (i : OpId) (st : Nat) : (s.addStat i st).ringDown = s.ringDown := rfl
@[simp] theorem State.addStat_hub (i : OpId) (st : Nat) : (s.addStat i st).hub = s.hub := rfl
@[simp] theorem State.addStat_store (i : OpId) (st : Nat) : (s.addStat i st).store = s.store := rfl
@[simp] theorem State.addStat_cnt (i : OpId) (st : Nat) : (s.addStat i st).cnt = s.cnt := rfl
@[simp] theorem State.addStat_mgt (i : OpId) (st : Nat) : (s.addStat i st).mgt = s.mgt := rfl
@[simp] theorem State.addStat_pwr (i : OpId) (st : Nat) : (s.addStat i st).pwr = s.pwr := rfl
@[simp] theorem State.addStat_pins (i : OpId) (st : Nat) : (s.addStat i st).pins = s.pins := rfl
@[simp] theorem State.addStat_mbx (i : OpId) (st : Nat) : (s.addStat i st).mbx = s.mbx := rfl
@[simp] theorem State.addStat_gth (i : OpId) (st : Nat) : (s.addStat i st).gth = s.gth := rfl
@[simp] theorem State.addStat_hrw (i : OpId) (st : Nat) : (s.addStat i st).hrw = s.hrw := rfl
@[simp] theorem State.addStat_frozen (i : OpId) (st : Nat) : (s.addStat i st).frozen = s.frozen := rfl
@[simp] theorem State.addStat_refused (i : OpId) (st : Nat) : (s.addStat i st).refused = s.refused := rfl
@[simp] theorem State.addStat_out (i : OpId) (st : Nat) : (s.addStat i st).out = s.out := rfl
@[simp] theorem State.addStat_fresh (i : OpId) (st : Nat) : (s.addStat i st).fresh = s.fresh := rfl

/-! ### `State.finishOp` -/

@[simp] theorem State.finishOp_pending (i : OpId) (st : Nat) : (s.finishOp i st).pending = s.pending := rfl
@[simp] theorem State.finishOp_mem (i : OpId) (st : Nat) : (s.finishOp i st).mem = s.mem := rfl
@[simp] theorem State.finishOp_poison (i : OpId) (st : Nat) : (s.finishOp i st).poison = s.poison := rfl
@[simp] theorem State.finishOp_cells (i : OpId) (st : Nat) : (s.finishOp i st).cells = s.cells := rfl
@[simp] theorem State.finishOp_blocks (i : OpId) (st : Nat) : (s.finishOp i st).blocks = s.blocks := rfl
@[simp] theorem State.finishOp_regions (i : OpId) (st : Nat) : (s.finishOp i st).regions = s.regions := rfl
@[simp] theorem State.finishOp_hbms (i : OpId) (st : Nat) : (s.finishOp i st).hbms = s.hbms := rfl
@[simp] theorem State.finishOp_links (i : OpId) (st : Nat) : (s.finishOp i st).links = s.links := rfl
@[simp] theorem State.finishOp_ringDown (i : OpId) (st : Nat) : (s.finishOp i st).ringDown = s.ringDown := rfl
@[simp] theorem State.finishOp_hub (i : OpId) (st : Nat) : (s.finishOp i st).hub = s.hub := rfl
@[simp] theorem State.finishOp_store (i : OpId) (st : Nat) : (s.finishOp i st).store = s.store := rfl
@[simp] theorem State.finishOp_cnt (i : OpId) (st : Nat) : (s.finishOp i st).cnt = s.cnt := rfl
@[simp] theorem State.finishOp_mgt (i : OpId) (st : Nat) : (s.finishOp i st).mgt = s.mgt := rfl
@[simp] theorem State.finishOp_pwr (i : OpId) (st : Nat) : (s.finishOp i st).pwr = s.pwr := rfl
@[simp] theorem State.finishOp_pins (i : OpId) (st : Nat) : (s.finishOp i st).pins = s.pins := rfl
@[simp] theorem State.finishOp_mbx (i : OpId) (st : Nat) : (s.finishOp i st).mbx = s.mbx := rfl
@[simp] theorem State.finishOp_gth (i : OpId) (st : Nat) : (s.finishOp i st).gth = s.gth := rfl
@[simp] theorem State.finishOp_hrw (i : OpId) (st : Nat) : (s.finishOp i st).hrw = s.hrw := rfl
@[simp] theorem State.finishOp_frozen (i : OpId) (st : Nat) : (s.finishOp i st).frozen = s.frozen := rfl
@[simp] theorem State.finishOp_refused (i : OpId) (st : Nat) : (s.finishOp i st).refused = s.refused := rfl
@[simp] theorem State.finishOp_out (i : OpId) (st : Nat) : (s.finishOp i st).out = s.out := rfl
@[simp] theorem State.finishOp_fresh (i : OpId) (st : Nat) : (s.finishOp i st).fresh = s.fresh := rfl

/-! ### `State.updCtx` -/

@[simp] theorem State.updCtx_pending (cx : Cx) (f : Ctx → Ctx) : (s.updCtx cx f).pending = s.pending := rfl
@[simp] theorem State.updCtx_mem (cx : Cx) (f : Ctx → Ctx) : (s.updCtx cx f).mem = s.mem := rfl
@[simp] theorem State.updCtx_poison (cx : Cx) (f : Ctx → Ctx) : (s.updCtx cx f).poison = s.poison := rfl
@[simp] theorem State.updCtx_blocks (cx : Cx) (f : Ctx → Ctx) : (s.updCtx cx f).blocks = s.blocks := rfl
@[simp] theorem State.updCtx_regions (cx : Cx) (f : Ctx → Ctx) : (s.updCtx cx f).regions = s.regions := rfl
@[simp] theorem State.updCtx_hbms (cx : Cx) (f : Ctx → Ctx) : (s.updCtx cx f).hbms = s.hbms := rfl
@[simp] theorem State.updCtx_links (cx : Cx) (f : Ctx → Ctx) : (s.updCtx cx f).links = s.links := rfl
@[simp] theorem State.updCtx_ringDown (cx : Cx) (f : Ctx → Ctx) : (s.updCtx cx f).ringDown = s.ringDown := rfl
@[simp] theorem State.updCtx_hub (cx : Cx) (f : Ctx → Ctx) : (s.updCtx cx f).hub = s.hub := rfl
@[simp] theorem State.updCtx_store (cx : Cx) (f : Ctx → Ctx) : (s.updCtx cx f).store = s.store := rfl
@[simp] theorem State.updCtx_cnt (cx : Cx) (f : Ctx → Ctx) : (s.updCtx cx f).cnt = s.cnt := rfl
@[simp] theorem State.updCtx_mgt (cx : Cx) (f : Ctx → Ctx) : (s.updCtx cx f).mgt = s.mgt := rfl
@[simp] theorem State.updCtx_pwr (cx : Cx) (f : Ctx → Ctx) : (s.updCtx cx f).pwr = s.pwr := rfl
@[simp] theorem State.updCtx_pins (cx : Cx) (f : Ctx → Ctx) : (s.updCtx cx f).pins = s.pins := rfl
@[simp] theorem State.updCtx_mbx (cx : Cx) (f : Ctx → Ctx) : (s.updCtx cx f).mbx = s.mbx := rfl
@[simp] theorem State.updCtx_gth (cx : Cx) (f : Ctx → Ctx) : (s.updCtx cx f).gth = s.gth := rfl
@[simp] theorem State.updCtx_hrw (cx : Cx) (f : Ctx → Ctx) : (s.updCtx cx f).hrw = s.hrw := rfl
@[simp] theorem State.updCtx_frozen (cx : Cx) (f : Ctx → Ctx) : (s.updCtx cx f).frozen = s.frozen := rfl
@[simp] theorem State.updCtx_ops (cx : Cx) (f : Ctx → Ctx) : (s.updCtx cx f).ops = s.ops := rfl
@[simp] theorem State.updCtx_refused (cx : Cx) (f : Ctx → Ctx) : (s.updCtx cx f).refused = s.refused := rfl
@[simp] theorem State.updCtx_out (cx : Cx) (f : Ctx → Ctx) : (s.updCtx cx f).out = s.out := rfl
@[simp] theorem State.updCtx_fresh (cx : Cx) (f : Ctx → Ctx) : (s.updCtx cx f).fresh = s.fresh := rfl

/-! ### `State.updArr` -/

@[simp] theorem State.updArr_pending (n : Nat) (f : Arr → Arr) : (s.updArr n f).pending = s.pending := rfl
@[simp] theorem State.updArr_mem (n : Nat) (f : Arr → Arr) : (s.updArr n f).mem = s.mem := rfl
@[simp] theorem State.updArr_poison (n : Nat) (f : Arr → Arr) : (s.updArr n f).poison = s.poison := rfl
@[simp] theorem State.updArr_blocks (n : Nat) (f : Arr → Arr) : (s.updArr n f).blocks = s.blocks := rfl
@[simp] theorem State.updArr_regions (n : Nat) (f : Arr → Arr) : (s.updArr n f).regions = s.regions := rfl
@[simp] theorem State.updArr_hbms (n : Nat) (f : Arr → Arr) : (s.updArr n f).hbms = s.hbms := rfl
@[simp] theorem State.updArr_links (n : Nat) (f : Arr → Arr) : (s.updArr n f).links = s.links := rfl
@[simp] theorem State.updArr_ringDown (n : Nat) (f : Arr → Arr) : (s.updArr n f).ringDown = s.ringDown := rfl
@[simp] theorem State.updArr_hub (n : Nat) (f : Arr → Arr) : (s.updArr n f).hub = s.hub := rfl
@[simp] theorem State.updArr_store (n : Nat) (f : Arr → Arr) : (s.updArr n f).store = s.store := rfl
@[simp] theorem State.updArr_cnt (n : Nat) (f : Arr → Arr) : (s.updArr n f).cnt = s.cnt := rfl
@[simp] theorem State.updArr_mgt (n : Nat) (f : Arr → Arr) : (s.updArr n f).mgt = s.mgt := rfl
@[simp] theorem State.updArr_pwr (n : Nat) (f : Arr → Arr) : (s.updArr n f).pwr = s.pwr := rfl
@[simp] theorem State.updArr_pins (n : Nat) (f : Arr → Arr) : (s.updArr n f).pins = s.pins := rfl
@[simp] theorem State.updArr_mbx (n : Nat) (f : Arr → Arr) : (s.updArr n f).mbx = s.mbx := rfl
@[simp] theorem State.updArr_gth (n : Nat) (f : Arr → Arr) : (s.updArr n f).gth = s.gth := rfl
@[simp] theorem State.updArr_hrw (n : Nat) (f : Arr → Arr) : (s.updArr n f).hrw = s.hrw := rfl
@[simp] theorem State.updArr_frozen (n : Nat) (f : Arr → Arr) : (s.updArr n f).frozen = s.frozen := rfl
@[simp] theorem State.updArr_ops (n : Nat) (f : Arr → Arr) : (s.updArr n f).ops = s.ops := rfl
@[simp] theorem State.updArr_refused (n : Nat) (f : Arr → Arr) : (s.updArr n f).refused = s.refused := rfl
@[simp] theorem State.updArr_out (n : Nat) (f : Arr → Arr) : (s.updArr n f).out = s.out := rfl
@[simp] theorem State.updArr_fresh (n : Nat) (f : Arr → Arr) : (s.updArr n f).fresh = s.fresh := rfl

/-! ### `State.updTlm` -/

@[simp] theorem State.updTlm_pending (n : Nat) (f : Tlm → Tlm) : (s.updTlm n f).pending = s.pending := rfl
@[simp] theorem State.updTlm_mem (n : Nat) (f : Tlm → Tlm) : (s.updTlm n f).mem = s.mem := rfl
@[simp] theorem State.updTlm_poison (n : Nat) (f : Tlm → Tlm) : (s.updTlm n f).poison = s.poison := rfl
@[simp] theorem State.updTlm_cells (n : Nat) (f : Tlm → Tlm) : (s.updTlm n f).cells = s.cells := rfl
@[simp] theorem State.updTlm_blocks (n : Nat) (f : Tlm → Tlm) : (s.updTlm n f).blocks = s.blocks := rfl
@[simp] theorem State.updTlm_hbms (n : Nat) (f : Tlm → Tlm) : (s.updTlm n f).hbms = s.hbms := rfl
@[simp] theorem State.updTlm_links (n : Nat) (f : Tlm → Tlm) : (s.updTlm n f).links = s.links := rfl
@[simp] theorem State.updTlm_ringDown (n : Nat) (f : Tlm → Tlm) : (s.updTlm n f).ringDown = s.ringDown := rfl
@[simp] theorem State.updTlm_hub (n : Nat) (f : Tlm → Tlm) : (s.updTlm n f).hub = s.hub := rfl
@[simp] theorem State.updTlm_store (n : Nat) (f : Tlm → Tlm) : (s.updTlm n f).store = s.store := rfl
@[simp] theorem State.updTlm_cnt (n : Nat) (f : Tlm → Tlm) : (s.updTlm n f).cnt = s.cnt := rfl
@[simp] theorem State.updTlm_mgt (n : Nat) (f : Tlm → Tlm) : (s.updTlm n f).mgt = s.mgt := rfl
@[simp] theorem State.updTlm_pwr (n : Nat) (f : Tlm → Tlm) : (s.updTlm n f).pwr = s.pwr := rfl
@[simp] theorem State.updTlm_pins (n : Nat) (f : Tlm → Tlm) : (s.updTlm n f).pins = s.pins := rfl
@[simp] theorem State.updTlm_mbx (n : Nat) (f : Tlm → Tlm) : (s.updTlm n f).mbx = s.mbx := rfl
@[simp] theorem State.updTlm_gth (n : Nat) (f : Tlm → Tlm) : (s.updTlm n f).gth = s.gth := rfl
@[simp] theorem State.updTlm_hrw (n : Nat) (f : Tlm → Tlm) : (s.updTlm n f).hrw = s.hrw := rfl
@[simp] theorem State.updTlm_frozen (n : Nat) (f : Tlm → Tlm) : (s.updTlm n f).frozen = s.frozen := rfl
@[simp] theorem State.updTlm_ops (n : Nat) (f : Tlm → Tlm) : (s.updTlm n f).ops = s.ops := rfl
@[simp] theorem State.updTlm_refused (n : Nat) (f : Tlm → Tlm) : (s.updTlm n f).refused = s.refused := rfl
@[simp] theorem State.updTlm_out (n : Nat) (f : Tlm → Tlm) : (s.updTlm n f).out = s.out := rfl
@[simp] theorem State.updTlm_fresh (n : Nat) (f : Tlm → Tlm) : (s.updTlm n f).fresh = s.fresh := rfl

/-! ### `State.updJob` -/

@[simp] theorem State.updJob_pending (n : Nat) (f : SpsJob → SpsJob) : (s.updJob n f).pending = s.pending := rfl
@[simp] theorem State.updJob_mem (n : Nat) (f : SpsJob → SpsJob) : (s.updJob n f).mem = s.mem := rfl
@[simp] theorem State.updJob_poison (n : Nat) (f : SpsJob → SpsJob) : (s.updJob n f).poison = s.poison := rfl
@[simp] theorem State.updJob_cells (n : Nat) (f : SpsJob → SpsJob) : (s.updJob n f).cells = s.cells := rfl
@[simp] theorem State.updJob_regions (n : Nat) (f : SpsJob → SpsJob) : (s.updJob n f).regions = s.regions := rfl
@[simp] theorem State.updJob_hbms (n : Nat) (f : SpsJob → SpsJob) : (s.updJob n f).hbms = s.hbms := rfl
@[simp] theorem State.updJob_links (n : Nat) (f : SpsJob → SpsJob) : (s.updJob n f).links = s.links := rfl
@[simp] theorem State.updJob_ringDown (n : Nat) (f : SpsJob → SpsJob) : (s.updJob n f).ringDown = s.ringDown := rfl
@[simp] theorem State.updJob_hub (n : Nat) (f : SpsJob → SpsJob) : (s.updJob n f).hub = s.hub := rfl
@[simp] theorem State.updJob_store (n : Nat) (f : SpsJob → SpsJob) : (s.updJob n f).store = s.store := rfl
@[simp] theorem State.updJob_cnt (n : Nat) (f : SpsJob → SpsJob) : (s.updJob n f).cnt = s.cnt := rfl
@[simp] theorem State.updJob_mgt (n : Nat) (f : SpsJob → SpsJob) : (s.updJob n f).mgt = s.mgt := rfl
@[simp] theorem State.updJob_pwr (n : Nat) (f : SpsJob → SpsJob) : (s.updJob n f).pwr = s.pwr := rfl
@[simp] theorem State.updJob_pins (n : Nat) (f : SpsJob → SpsJob) : (s.updJob n f).pins = s.pins := rfl
@[simp] theorem State.updJob_mbx (n : Nat) (f : SpsJob → SpsJob) : (s.updJob n f).mbx = s.mbx := rfl
@[simp] theorem State.updJob_gth (n : Nat) (f : SpsJob → SpsJob) : (s.updJob n f).gth = s.gth := rfl
@[simp] theorem State.updJob_hrw (n : Nat) (f : SpsJob → SpsJob) : (s.updJob n f).hrw = s.hrw := rfl
@[simp] theorem State.updJob_frozen (n : Nat) (f : SpsJob → SpsJob) : (s.updJob n f).frozen = s.frozen := rfl
@[simp] theorem State.updJob_ops (n : Nat) (f : SpsJob → SpsJob) : (s.updJob n f).ops = s.ops := rfl
@[simp] theorem State.updJob_refused (n : Nat) (f : SpsJob → SpsJob) : (s.updJob n f).refused = s.refused := rfl
@[simp] theorem State.updJob_out (n : Nat) (f : SpsJob → SpsJob) : (s.updJob n f).out = s.out := rfl
@[simp] theorem State.updJob_fresh (n : Nat) (f : SpsJob → SpsJob) : (s.updJob n f).fresh = s.fresh := rfl

/-! ### Reads after updates -/

@[simp] theorem State.cell_updCell (n m : Nat) (f : Cell → Cell) :
    (s.updCell n f).cell m = if m = n then f (s.cell n) else s.cell m := fget_fset _ _ _ _ _

@[simp] theorem State.cell_setCell (n m : Nat) (c : Cell) :
    (s.setCell n c).cell m = if m = n then c else s.cell m := fget_fset _ _ _ _ _

@[simp] theorem State.block_updBlock (n m : Nat) (f : Block → Block) :
    (s.updBlock n f).block m = if m = n then f (s.block n) else s.block m := fget_fset _ _ _ _ _

@[simp] theorem State.region_updRegion (n m : Nat) (f : Region → Region) :
    (s.updRegion n f).region m = if m = n then f (s.region n) else s.region m := fget_fset _ _ _ _ _

@[simp] theorem State.hbm_updHbm (n m : Nat) (f : Hbm → Hbm) :
    (s.updHbm n f).hbm m = if m = n then f (s.hbm n) else s.hbm m := fget_fset _ _ _ _ _

@[simp] theorem State.link_updLink (n m : Nat) (f : Link → Link) :
    (s.updLink n f).link m = if m = n then f (s.link n) else s.link m := fget_fset _ _ _ _ _

@[simp] theorem State.updHub_hub (f : Hub → Hub) : (s.updHub f).hub = f s.hub := rfl
@[simp] theorem State.updMbx_mbx (f : Mbx → Mbx) : (s.updMbx f).mbx = f s.mbx := rfl
@[simp] theorem State.updGth_gth (f : Girth → Girth) : (s.updGth f).gth = f s.gth := rfl
@[simp] theorem State.updHrw_hrw (f : Hrw → Hrw) : (s.updHrw f).hrw = f s.hrw := rfl
@[simp] theorem State.updPwr_pwr (f : Power → Power) : (s.updPwr f).pwr = f s.pwr := rfl
@[simp] theorem State.updCnt_cnt (f : Cantle → Cantle) : (s.updCnt f).cnt = f s.cnt := rfl
@[simp] theorem State.updStore_store (f : Store → Store) : (s.updStore f).store = f s.store := rfl
@[simp] theorem State.updPins_pins (f : Pins → Pins) : (s.updPins f).pins = f s.pins := rfl
@[simp] theorem State.updMgt_mgt (f : Mgt → Mgt) : (s.updMgt f).mgt = f s.mgt := rfl
@[simp] theorem State.emit_out (o : Out) : (s.emit o).out = o :: s.out := rfl

/-- The entry found after an update of an operation that keeps its identity. -/
theorem State.op?_updOp (i j : OpId) (f : OpEntry → OpEntry) (hf : ∀ e, (f e).id = e.id) :
    (s.updOp i f).op? j = if j = i then (s.op? i).map f else s.op? j := by
  have hg : ((fun e : OpEntry => e.id == j) ∘ fun e => if e.id == i then f e else e) = fun e => e.id == j := by
    funext e
    simp only [Function.comp]
    split <;> simp [hf]
  simp only [State.op?, State.updOp, List.find?_map, hg]
  split
  · next h =>
    subst h
    cases hc : s.ops.find? fun e => e.id == j with
    | none => rfl
    | some e =>
      have h2 : (fun e : OpEntry => e.id == j) e = true :=
        List.find?_some (p := fun e : OpEntry => e.id == j) hc
      simp only [Option.map_some, if_pos h2]
  · next h =>
    cases hc : s.ops.find? fun e => e.id == j with
    | none => rfl
    | some e =>
      have h2 : e.id = j := by simpa using List.find?_some (p := fun e : OpEntry => e.id == j) hc
      simp [h2, h]

theorem State.op?_addStat (i j : OpId) (st : Nat) :
    (s.addStat i st).op? j = if j = i then (s.op? i).map (OpEntry.addStat st) else s.op? j :=
  State.op?_updOp s i j _ fun e => by unfold OpEntry.addStat; split <;> rfl

theorem State.op?_finishOp (i j : OpId) (st : Nat) :
    (s.finishOp i st).op? j = if j = i then (s.op? i).map (OpEntry.finish st) else s.op? j :=
  State.op?_updOp s i j _ fun e => by
    unfold OpEntry.finish OpEntry.addStat; split <;> (try split) <;> rfl

end Sys2Proof.Machine
end

