-- ==== Sys2Proof/Laws/Memory.lean ====
section
/-! SUPPORT. Laws of memory and of its poison marks: what one write does (R260, R262, R265), that it keeps the
canonical forms, and read after write. -/

namespace Sys2Proof.Machine

/-! ### Blocks and words -/

theorem unitSize_pos (a : Nat) : 0 < unitSize a := by unfold unitSize; split <;> decide

theorem unitBase_le (a : Nat) : unitBase a ≤ a := Nat.div_mul_le_self _ _

theorem lt_unitBase_add (a : Nat) : a < unitBase a + unitSize a := by
  have := Nat.lt_div_mul_add (a := a) (unitSize_pos a)
  simpa [unitBase] using this

/-- The bytes of one block or word share its base and its size. -/
theorem unit_same {a x : Nat} (h1 : unitBase a ≤ x) (h2 : x < unitBase a + unitSize a) :
    unitSize x = unitSize a ∧ unitBase x = unitBase a := by
  have hs : unitSize x = unitSize a := by
    unfold unitBase at h1 h2
    unfold unitSize hbmTop at *
    split at h2 <;> split <;> simp_all <;> omega
  refine ⟨hs, ?_⟩
  unfold unitBase at *
  rw [hs]
  congr 1
  apply Nat.div_eq_of_lt_le
  · exact h1
  · rw [Nat.add_mul, Nat.one_mul]; exact h2

theorem unit_base (a : Nat) : unitSize (unitBase a) = unitSize a ∧ unitBase (unitBase a) = unitBase a :=
  unit_same (Nat.le_refl _) (Nat.lt_add_of_pos_right (unitSize_pos a))

/-- The next block or word begins where this one ends. -/
theorem unit_next (a : Nat) : unitBase (unitBase a + unitSize a) = unitBase a + unitSize a := by
  unfold unitBase unitSize hbmTop
  split <;> split <;> omega

theorem bad_congr (s : State) {a x : Nat} (h : unitBase x = unitBase a) : bad s x = bad s a := by
  simp [bad, h]

/-! ### Counting reads -/

/-- A read is counted by the HBM controllers, and changes nothing else. -/
theorem countBlocks_frame (s : State) (l : List Nat) : { countBlocks s l with hbms := s.hbms } = s := by
  unfold countBlocks
  induction l generalizing s with
  | nil => rfl
  | cons b t ih =>
    rw [List.foldl_cons]
    exact congrArg (fun x : State => { x with hbms := s.hbms }) (ih _)

theorem countReads_frame (s : State) (a n : Nat) : { countReads s a n with hbms := s.hbms } = s := countBlocks_frame s _

@[simp] theorem rdByte_countReads (s : State) (a n x : Nat) : rdByte (countReads s a n) x = rdByte s x := by
  have h : ({ countReads s a n with hbms := s.hbms } : State).mem = s.mem := by rw [countReads_frame]
  change (countReads s a n).mem = s.mem at h
  simp only [rdByte, h]

@[simp] theorem bad_countReads (s : State) (a n x : Nat) : bad (countReads s a n) x = bad s x := by
  have h : ({ countReads s a n with hbms := s.hbms } : State).poison = s.poison := by rw [countReads_frame]
  change (countReads s a n).poison = s.poison at h
  simp only [bad, h]

/-! ### One write within a block or word -/

@[simp] theorem rdByte_setBad (s : State) (a x : Nat) (b : Bool) : rdByte (setBad s a b) x = rdByte s x := rfl

@[simp] theorem bad_setBad (s : State) (a x : Nat) (b : Bool) :
    bad (setBad s a b) x = if unitBase x = unitBase a then b else bad s x := fget_fset _ _ _ _ _

/-- What the memory of `writeUnit` is. -/
theorem writeUnit_mem (s : State) (a : Nat) (bs : List Byte) :
    (writeUnit s a bs).mem =
      fsets 0 (if bad s a && !decide (bs.length = unitSize a) then
        fsets 0 s.mem (unitBase a) (List.replicate (unitSize a) 0) else s.mem) a bs := by
  unfold writeUnit setBad
  dsimp only
  split <;> split <;> rfl

/-- What its poison marks are. -/
theorem writeUnit_poison (s : State) (a : Nat) (bs : List Byte) :
    (writeUnit s a bs).poison =
      if bad s a && decide (bs.length = unitSize a) then fset false s.poison (unitBase a) false else s.poison := by
  unfold writeUnit setBad
  dsimp only
  split <;> split <;> rfl

theorem rdByte_writeUnit_in (s : State) (a : Nat) (bs : List Byte) (i : Nat) (h : i < bs.length) :
    rdByte (writeUnit s a bs) (a + i) = bs[i] := by
  simp only [rdByte, writeUnit_mem]
  exact fget_fsets_in 0 bs _ a i h

theorem rdByte_writeUnit_out (s : State) (a : Nat) (bs : List Byte) (x : Nat) (h : x < a ∨ a + bs.length ≤ x)
    (hb : bad s x = false) : rdByte (writeUnit s a bs) x = rdByte s x := by
  simp only [rdByte, writeUnit_mem]
  rw [fget_fsets_out 0 bs _ a x h]
  split
  · next hc =>
    apply fget_fsets_out
    rw [List.length_replicate]
    by_contra hn
    have := unit_same (a := a) (x := x) (by omega) (by omega)
    rw [bad_congr s this.2] at hb
    simp [hb] at hc
  · rfl

/-- A write never poisons: a byte that was sound stays so. -/
theorem bad_writeUnit (s : State) (a : Nat) (bs : List Byte) (x : Nat) (h : bad s x = false) :
    bad (writeUnit s a bs) x = false := by
  unfold bad at *
  rw [writeUnit_poison]
  split
  · rw [fget_fset]; split <;> simp [h]
  · exact h

theorem memWf_iff (s : State) : s.memWf = true ↔ fwf 0 s.mem = true ∧ fwf false s.poison = true := by
  simp [State.memWf, Memory.wf]

theorem memWf_writeUnit (s : State) (a : Nat) (bs : List Byte) (h : s.memWf = true) :
    (writeUnit s a bs).memWf = true := by
  rw [memWf_iff] at *
  rw [writeUnit_mem, writeUnit_poison]
  refine ⟨fwf_fsets _ _ _ _ ?_, ?_⟩
  · split
    · exact fwf_fsets _ _ _ _ h.1
    · exact h.1
  · split
    · exact fwf_fset _ _ _ h.2
    · exact h.2

theorem memWf_setBad (s : State) (a : Nat) (b : Bool) (h : s.memWf = true) : (setBad s a b).memWf = true := by
  rw [memWf_iff] at *
  exact ⟨h.1, fwf_fset _ _ _ h.2⟩

/-- A write within one block or word touches memory, poison marks and the counters of a stack, and nothing else. -/
theorem writeUnit_frame (s : State) (a : Nat) (bs : List Byte) :
    { writeUnit s a bs with mem := s.mem, poison := s.poison, hbms := s.hbms } = s := by
  unfold writeUnit setBad
  dsimp only
  split <;> split <;> rfl

/-! ### A write at any addresses -/

theorem memWrite_eq (s : State) (a : Nat) (bs : List Byte) :
    memWrite s a bs = (pieces bs.length a bs).foldl (fun s p => writeUnit s p.1 p.2) s := rfl

/-- An invariant of one write within a block or word is one of every write. -/
theorem memWrite_keeps {P : State → Prop} (hp : ∀ s a bs, P s → P (writeUnit s a bs)) (s : State) (a : Nat)
    (bs : List Byte) (h : P s) : P (memWrite s a bs) := by
  rw [memWrite_eq]
  generalize pieces bs.length a bs = l
  induction l generalizing s with
  | nil => exact h
  | cons p t ih => exact ih _ (hp _ _ _ h)

theorem memWf_memWrite (s : State) (a : Nat) (bs : List Byte) (h : s.memWf = true) :
    (memWrite s a bs).memWf = true := memWrite_keeps (fun s a bs => memWf_writeUnit s a bs) s a bs h

theorem bad_memWrite (s : State) (a : Nat) (bs : List Byte) (x : Nat) (h : bad s x = false) :
    bad (memWrite s a bs) x = false :=
  memWrite_keeps (P := fun s => bad s x = false) (fun s a bs => bad_writeUnit s a bs x) s a bs h

theorem memWrite_frame (s : State) (a : Nat) (bs : List Byte) :
    { memWrite s a bs with mem := s.mem, poison := s.poison, hbms := s.hbms } = s := by
  refine memWrite_keeps (P := fun t => { t with mem := s.mem, poison := s.poison, hbms := s.hbms } = s) ?_ s a bs rfl
  intro t b cs ht
  have := writeUnit_frame t b cs
  generalize writeUnit t b cs = u at *
  cases u; cases t; cases s
  simp_all

/-- The cut of a byte list into blocks and words: its first piece, and the rest. -/
theorem pieces_cons (k a : Nat) (b : Byte) (bs : List Byte) :
    pieces (k + 1) a (b :: bs) =
      (a, (b :: bs).take (unitSize a - (a - unitBase a)))
        :: pieces k (a + (unitSize a - (a - unitBase a))) ((b :: bs).drop (unitSize a - (a - unitBase a))) := rfl

/-- Outside the written range a sound byte reads as before. -/
theorem rdByte_pieces_out (x : Nat) : ∀ (k : Nat) (a : Nat) (bs : List Byte) (s : State), bs.length ≤ k →
    (x < a ∨ a + bs.length ≤ x) → bad s x = false →
    rdByte ((pieces k a bs).foldl (fun s p => writeUnit s p.1 p.2) s) x = rdByte s x
  | 0, _, _, _, _, _, _ => rfl
  | _ + 1, _, [], _, _, _, _ => rfl
  | k + 1, a, b :: bs, s, hk, hx, hb => by
    have hu := lt_unitBase_add a
    have hv := unitBase_le a
    rw [pieces_cons, List.foldl_cons]
    generalize hn : unitSize a - (a - unitBase a) = n
    have hn0 : 0 < n := by omega
    have hl : (b :: bs).length = bs.length + 1 := rfl
    have hd : ((b :: bs).drop n).length = bs.length + 1 - n := by simp
    have ht : ((b :: bs).take n).length = min n (bs.length + 1) := by simp
    by_cases hlt : n ≤ bs.length + 1
    · rw [rdByte_pieces_out x k _ _ _ (by omega) (by omega) (bad_writeUnit _ _ _ _ hb)]
      exact rdByte_writeUnit_out _ _ _ _ (by dsimp only; omega) hb
    · have : (b :: bs).drop n = [] := List.drop_eq_nil_of_le (by omega)
      rw [this]
      have h2 : ∀ m, pieces k m [] = [] := by intro m; cases k <;> rfl
      rw [h2]
      exact rdByte_writeUnit_out _ _ _ _ (by dsimp only; omega) hb

theorem rdByte_memWrite_out (s : State) (a : Nat) (bs : List Byte) (x : Nat) (h : x < a ∨ a + bs.length ≤ x)
    (hb : bad s x = false) : rdByte (memWrite s a bs) x = rdByte s x :=
  rdByte_pieces_out x _ a bs s (Nat.le_refl _) h hb

/-- A write within one block or word leaves every other block and word as it was. -/
theorem rdByte_writeUnit_other (s : State) (a : Nat) (bs : List Byte) (x : Nat)
    (h : a + bs.length ≤ unitBase a + unitSize a) (hx : x < unitBase a ∨ unitBase a + unitSize a ≤ x) :
    rdByte (writeUnit s a bs) x = rdByte s x := by
  have hv := unitBase_le a
  simp only [rdByte, writeUnit_mem]
  rw [fget_fsets_out 0 bs _ a x (by omega)]
  split
  · apply fget_fsets_out; rw [List.length_replicate]; exact hx
  · rfl

/-- Bytes before the unit in which a write begins read as before, poisoned or not. -/
theorem rdByte_pieces_before (x : Nat) : ∀ (k : Nat) (a : Nat) (bs : List Byte) (s : State),
    x < unitBase a → rdByte ((pieces k a bs).foldl (fun s p => writeUnit s p.1 p.2) s) x = rdByte s x
  | 0, _, _, _, _ => rfl
  | _ + 1, _, [], _, _ => rfl
  | k + 1, a, b :: bs, s, hx => by
    have hu := lt_unitBase_add a
    have hv := unitBase_le a
    rw [pieces_cons, List.foldl_cons]
    have hb : a + (unitSize a - (a - unitBase a)) = unitBase a + unitSize a := by omega
    rw [hb, rdByte_pieces_before x k _ _ _ (by have := unit_next a; omega)]
    exact rdByte_writeUnit_other _ _ _ _ (by simp only [List.length_take]; omega) (Or.inl hx)

theorem pieces_nil (k a : Nat) : pieces k a [] = [] := by cases k <;> rfl

/-- Every byte written reads as written. -/
theorem rdByte_pieces_in (k a : Nat) (bs : List Byte) (s : State) (i : Nat) (hk : bs.length ≤ k)
    (h : i < bs.length) : rdByte ((pieces k a bs).foldl (fun s p => writeUnit s p.1 p.2) s) (a + i) = bs[i] := by
  induction k generalizing a bs s i with
  | zero => omega
  | succ k ih =>
    cases bs with
    | nil => exact absurd h (Nat.not_lt_zero _)
    | cons b bs =>
      have hu := lt_unitBase_add a
      have hv := unitBase_le a
      have hw := unit_next a
      rw [pieces_cons, List.foldl_cons]
      have he : a + (unitSize a - (a - unitBase a)) = unitBase a + unitSize a := by omega
      generalize unitSize a - (a - unitBase a) = n at he ⊢
      have hl : (b :: bs).length = bs.length + 1 := rfl
      by_cases hi : i < n
      · rw [rdByte_pieces_before (a + i) k _ _ _ (by rw [he, hw]; omega)]
        have hi' : i < ((b :: bs).take n).length := by rw [List.length_take]; omega
        rw [rdByte_writeUnit_in s a _ i hi', List.getElem_take]
      · have hd : i - n < ((b :: bs).drop n).length := by rw [List.length_drop]; omega
        have := ih (a + n) ((b :: bs).drop n) (writeUnit s a ((b :: bs).take n)) (i - n)
          (by rw [List.length_drop]; omega) hd
        rw [show a + i = a + n + (i - n) by omega, this, List.getElem_drop]
        congr 1; omega

theorem rdByte_memWrite_in (s : State) (a : Nat) (bs : List Byte) (i : Nat) (h : i < bs.length) :
    rdByte (memWrite s a bs) (a + i) = bs[i] :=
  rdByte_pieces_in _ a bs s i (Nat.le_refl _) h

/-! ### The tables of units -/

theorem mapsWf_iff (s : State) : s.mapsWf = true ↔
    s.memWf = true ∧ fwf {} s.cells = true ∧ fwf {} s.blocks = true ∧ fwf {} s.regions = true
      ∧ fwf {} s.hbms = true ∧ fwf {} s.links = true := by
  simp only [State.mapsWf, Bool.and_eq_true, and_assoc]

/-- The canonical forms depend on seven fields only. -/
theorem mapsWf_congr {s t : State} (h : t.mem = s.mem ∧ t.poison = s.poison ∧ t.cells = s.cells
    ∧ t.blocks = s.blocks ∧ t.regions = s.regions ∧ t.hbms = s.hbms ∧ t.links = s.links) :
    t.mapsWf = s.mapsWf := by
  obtain ⟨h1, h2, h3, h4, h5, h6, h7⟩ := h
  simp only [State.mapsWf, State.memWf, h1, h2, h3, h4, h5, h6, h7]

theorem mapsWf_setCell {s : State} (n : Nat) (c : Cell) (h : s.mapsWf = true) : (s.setCell n c).mapsWf = true := by
  rw [mapsWf_iff] at *
  exact ⟨h.1, fwf_fset _ _ _ h.2.1, h.2.2⟩

theorem mapsWf_updCell {s : State} (n : Nat) (f : Cell → Cell) (h : s.mapsWf = true) :
    (s.updCell n f).mapsWf = true := mapsWf_setCell n _ h

theorem mapsWf_updCtx {s : State} (cx : Cx) (f : Ctx → Ctx) (h : s.mapsWf = true) :
    (s.updCtx cx f).mapsWf = true := mapsWf_updCell _ _ h

theorem mapsWf_updArr {s : State} (n : Nat) (f : Arr → Arr) (h : s.mapsWf = true) :
    (s.updArr n f).mapsWf = true := mapsWf_updCell _ _ h

theorem mapsWf_setBlock {s : State} (n : Nat) (b : Block) (h : s.mapsWf = true) :
    (s.setBlock n b).mapsWf = true := by
  rw [mapsWf_iff] at *
  exact ⟨h.1, h.2.1, fwf_fset _ _ _ h.2.2.1, h.2.2.2⟩

theorem mapsWf_updBlock {s : State} (n : Nat) (f : Block → Block) (h : s.mapsWf = true) :
    (s.updBlock n f).mapsWf = true := mapsWf_setBlock n _ h

theorem mapsWf_setRegion {s : State} (n : Nat) (r : Region) (h : s.mapsWf = true) :
    (s.setRegion n r).mapsWf = true := by
  rw [mapsWf_iff] at *
  exact ⟨h.1, h.2.1, h.2.2.1, fwf_fset _ _ _ h.2.2.2.1, h.2.2.2.2⟩

theorem mapsWf_updRegion {s : State} (n : Nat) (f : Region → Region) (h : s.mapsWf = true) :
    (s.updRegion n f).mapsWf = true := mapsWf_setRegion n _ h

theorem mapsWf_updHbm {s : State} (n : Nat) (f : Hbm → Hbm) (h : s.mapsWf = true) :
    (s.updHbm n f).mapsWf = true := by
  rw [mapsWf_iff] at *
  exact ⟨h.1, h.2.1, h.2.2.1, h.2.2.2.1, fwf_fset _ _ _ h.2.2.2.2.1, h.2.2.2.2.2⟩

theorem mapsWf_updLink {s : State} (n : Nat) (f : Link → Link) (h : s.mapsWf = true) :
    (s.updLink n f).mapsWf = true := by
  rw [mapsWf_iff] at *
  exact ⟨h.1, h.2.1, h.2.2.1, h.2.2.2.1, h.2.2.2.2.1, fwf_fset _ _ _ h.2.2.2.2.2⟩

theorem mapsWf_setBad {s : State} (a : Nat) (b : Bool) (h : s.mapsWf = true) : (setBad s a b).mapsWf = true := by
  rw [mapsWf_iff] at *
  exact ⟨memWf_setBad s a b h.1, h.2⟩

theorem mapsWf_writeUnit {s : State} (a : Nat) (bs : List Byte) (h : s.mapsWf = true) :
    (writeUnit s a bs).mapsWf = true := by
  rw [mapsWf_iff] at *
  refine ⟨memWf_writeUnit s a bs h.1, ?_⟩
  unfold writeUnit setBad
  dsimp only
  split
  · split <;> exact ⟨h.2.1, h.2.2.1, h.2.2.2.1, fwf_fset _ _ _ h.2.2.2.2.1, h.2.2.2.2.2⟩
  · split <;> exact h.2

theorem mapsWf_memWrite {s : State} (a : Nat) (bs : List Byte) (h : s.mapsWf = true) :
    (memWrite s a bs).mapsWf = true :=
  memWrite_keeps (P := fun s => s.mapsWf = true) (fun _ a bs h => mapsWf_writeUnit a bs h) s a bs h

/-! ### The frame of a write -/

/-- Writing `bs` at `a` leaves every sound byte outside `[a, a + length)` as it was. -/
theorem onlyBytes_memWrite (s : State) (a : Nat) (bs : List Byte) : OnlyBytes [(a, bs.length)] s (memWrite s a bs) :=
  fun x hx hb => rdByte_memWrite_out s a bs x (hx (a, bs.length) (by simp)) hb

theorem onlyBytes_refl (l : List (Nat × Nat)) (s : State) : OnlyBytes l s s := fun _ _ _ => rfl

/-- Frames add up, when the first step poisons nothing. -/
theorem onlyBytes_trans {l k : List (Nat × Nat)} {s t u : State} (h1 : OnlyBytes l s t) (h2 : OnlyBytes k t u)
    (hb : ∀ x, bad s x = false → bad t x = false) : OnlyBytes (l ++ k) s u := by
  intro x hx hs
  rw [h2 x (fun p hp => hx p (List.mem_append_right _ hp)) (hb x hs),
    h1 x (fun p hp => hx p (List.mem_append_left _ hp)) hs]

end Sys2Proof.Machine
end

