-- ==== Sys2Proof/Laws/PerInstr.lean ====
section
/-! SUPPORT. One lemma for each command: its well-formedness, as a condition on its operands. -/

namespace Sys2Proof.Laws.Wf

/-- What well-formedness says of a command's operands. -/
def Statement (i : Instr) : Prop :=
  match i with
  | .vadd cx f => (Instr.vadd cx f).wf = (cxWf cx)
  | .vsub cx f => (Instr.vsub cx f).wf = (cxWf cx)
  | .vmul cx f => (Instr.vmul cx f).wf = (cxWf cx)
  | .vfma cx f => (Instr.vfma cx f).wf = (cxWf cx)
  | .vfnma cx f => (Instr.vfnma cx f).wf = (cxWf cx)
  | .vdiv cx f => (Instr.vdiv cx f).wf = (cxWf cx)
  | .vmin cx f => (Instr.vmin cx f).wf = (cxWf cx)
  | .vmax cx f => (Instr.vmax cx f).wf = (cxWf cx)
  | .vabs cx f => (Instr.vabs cx f).wf = (cxWf cx)
  | .vneg cx f => (Instr.vneg cx f).wf = (cxWf cx)
  | .vsqrt cx f => (Instr.vsqrt cx f).wf = (cxWf cx)
  | .vand cx f => (Instr.vand cx f).wf = (cxWf cx)
  | .vor cx f => (Instr.vor cx f).wf = (cxWf cx)
  | .vxor cx f => (Instr.vxor cx f).wf = (cxWf cx)
  | .vnot cx f => (Instr.vnot cx f).wf = (cxWf cx)
  | .vshl cx f => (Instr.vshl cx f).wf = (cxWf cx)
  | .vshr cx f => (Instr.vshr cx f).wf = (cxWf cx)
  | .vsra cx f => (Instr.vsra cx f).wf = (cxWf cx)
  | .vcmp cx f => (Instr.vcmp cx f).wf = (cxWf cx)
  | .vsel cx f => (Instr.vsel cx f).wf = (cxWf cx)
  | .vcvt cx f => (Instr.vcvt cx f).wf = (cxWf cx)
  | .vmov cx f => (Instr.vmov cx f).wf = (cxWf cx)
  | .vbcast cx f => (Instr.vbcast cx f).wf = (cxWf cx)
  | .viota cx f => (Instr.viota cx f).wf = (cxWf cx)
  | .vperm cx f => (Instr.vperm cx f).wf = (cxWf cx)
  | .vrot cx f => (Instr.vrot cx f).wf = (cxWf cx)
  | .vext cx f => (Instr.vext cx f).wf = (cxWf cx)
  | .vins cx f => (Instr.vins cx f).wf = (cxWf cx)
  | .vrsum cx f => (Instr.vrsum cx f).wf = (cxWf cx)
  | .vrprod cx f => (Instr.vrprod cx f).wf = (cxWf cx)
  | .vrmax cx f => (Instr.vrmax cx f).wf = (cxWf cx)
  | .vrmin cx f => (Instr.vrmin cx f).wf = (cxWf cx)
  | .vrmean cx f => (Instr.vrmean cx f).wf = (cxWf cx)
  | .vrargmax cx f => (Instr.vrargmax cx f).wf = (cxWf cx)
  | .vrargmin cx f => (Instr.vrargmin cx f).wf = (cxWf cx)
  | .mand cx f => (Instr.mand cx f).wf = (cxWf cx)
  | .mor cx f => (Instr.mor cx f).wf = (cxWf cx)
  | .mxor cx f => (Instr.mxor cx f).wf = (cxWf cx)
  | .mnot cx f => (Instr.mnot cx f).wf = (cxWf cx)
  | .mpop cx f => (Instr.mpop cx f).wf = (cxWf cx)
  | .mfirst cx f => (Instr.mfirst cx f).wf = (cxWf cx)
  | .mld cx f => (Instr.mld cx f).wf = (cxWf cx)
  | .mst cx f => (Instr.mst cx f).wf = (cxWf cx)
  | .vld cx f => (Instr.vld cx f).wf = (cxWf cx)
  | .vst cx f => (Instr.vst cx f).wf = (cxWf cx)
  | .vrand cx f => (Instr.vrand cx f).wf = (cxWf cx)
  | .vgath cx f => (Instr.vgath cx f).wf = (cxWf cx)
  | .vscat cx f => (Instr.vscat cx f).wf = (cxWf cx)
  | .vscadd cx f => (Instr.vscadd cx f).wf = (cxWf cx)
  | .tadd cx f => (Instr.tadd cx f).wf = (cxWf cx)
  | .tsub cx f => (Instr.tsub cx f).wf = (cxWf cx)
  | .tmul cx f => (Instr.tmul cx f).wf = (cxWf cx)
  | .tfma cx f => (Instr.tfma cx f).wf = (cxWf cx)
  | .tfnma cx f => (Instr.tfnma cx f).wf = (cxWf cx)
  | .tdiv cx f => (Instr.tdiv cx f).wf = (cxWf cx)
  | .tmin cx f => (Instr.tmin cx f).wf = (cxWf cx)
  | .tmax cx f => (Instr.tmax cx f).wf = (cxWf cx)
  | .tabs cx f => (Instr.tabs cx f).wf = (cxWf cx)
  | .tneg cx f => (Instr.tneg cx f).wf = (cxWf cx)
  | .tsqrt cx f => (Instr.tsqrt cx f).wf = (cxWf cx)
  | .tand cx f => (Instr.tand cx f).wf = (cxWf cx)
  | .tor cx f => (Instr.tor cx f).wf = (cxWf cx)
  | .txor cx f => (Instr.txor cx f).wf = (cxWf cx)
  | .tnot cx f => (Instr.tnot cx f).wf = (cxWf cx)
  | .tshl cx f => (Instr.tshl cx f).wf = (cxWf cx)
  | .tshr cx f => (Instr.tshr cx f).wf = (cxWf cx)
  | .tsra cx f => (Instr.tsra cx f).wf = (cxWf cx)
  | .tcmp cx f => (Instr.tcmp cx f).wf = (cxWf cx)
  | .tsel cx f => (Instr.tsel cx f).wf = (cxWf cx)
  | .tcvt cx f => (Instr.tcvt cx f).wf = (cxWf cx)
  | .tcopy cx f => (Instr.tcopy cx f).wf = (cxWf cx)
  | .tfill cx f => (Instr.tfill cx f).wf = (cxWf cx)
  | .tiota cx f => (Instr.tiota cx f).wf = (cxWf cx)
  | .trsum cx f => (Instr.trsum cx f).wf = (cxWf cx)
  | .trprod cx f => (Instr.trprod cx f).wf = (cxWf cx)
  | .trmax cx f => (Instr.trmax cx f).wf = (cxWf cx)
  | .trmin cx f => (Instr.trmin cx f).wf = (cxWf cx)
  | .trmean cx f => (Instr.trmean cx f).wf = (cxWf cx)
  | .trargmax cx f => (Instr.trargmax cx f).wf = (cxWf cx)
  | .trargmin cx f => (Instr.trargmin cx f).wf = (cxWf cx)
  | .trand cx f => (Instr.trand cx f).wf = (cxWf cx)
  | .sadd cx f => (Instr.sadd cx f).wf = (cxWf cx)
  | .ssub cx f => (Instr.ssub cx f).wf = (cxWf cx)
  | .smul cx f => (Instr.smul cx f).wf = (cxWf cx)
  | .sand cx f => (Instr.sand cx f).wf = (cxWf cx)
  | .sor cx f => (Instr.sor cx f).wf = (cxWf cx)
  | .sxor cx f => (Instr.sxor cx f).wf = (cxWf cx)
  | .sshl cx f => (Instr.sshl cx f).wf = (cxWf cx)
  | .sshr cx f => (Instr.sshr cx f).wf = (cxWf cx)
  | .sli cx f => (Instr.sli cx f).wf = (cxWf cx)
  | .slhi cx f => (Instr.slhi cx f).wf = (cxWf cx)
  | .srd cx f => (Instr.srd cx f).wf = (cxWf cx)
  | .swr cx f => (Instr.swr cx f).wf = (cxWf cx)
  | .sld cx f => (Instr.sld cx f).wf = (cxWf cx)
  | .sst cx f => (Instr.sst cx f).wf = (cxWf cx)
  | .br cx f => (Instr.br cx f).wf = (cxWf cx)
  | .beq cx f => (Instr.beq cx f).wf = (cxWf cx)
  | .bne cx f => (Instr.bne cx f).wf = (cxWf cx)
  | .blt cx f => (Instr.blt cx f).wf = (cxWf cx)
  | .bge cx f => (Instr.bge cx f).wf = (cxWf cx)
  | .loopCtx cx f => (Instr.loopCtx cx f).wf = (cxWf cx)
  | .aissue cx f => (Instr.aissue cx f).wf = (cxWf cx)
  | .await cx f => (Instr.await cx f).wf = (cxWf cx)
  | .dissue cx f => (Instr.dissue cx f).wf = (cxWf cx)
  | .dwait cx f => (Instr.dwait cx f).wf = (cxWf cx)
  | .fenceCtx cx f => (Instr.fenceCtx cx f).wf = (cxWf cx)
  | .bar cx f => (Instr.bar cx f).wf = (cxWf cx)
  | .endCtx cx f => (Instr.endCtx cx f).wf = (cxWf cx)
  | .feval cx f => (Instr.feval cx f).wf = (cxWf cx)
  | .fevalx cx f => (Instr.fevalx cx f).wf = (cxWf cx)
  | .frefine cx f => (Instr.frefine cx f).wf = (cxWf cx)
  | .rstat cx f => (Instr.rstat cx f).wf = (cxWf cx)
  | .rnorm cx f => (Instr.rnorm cx f).wf = (cxWf cx)
  | .smax cx f => (Instr.smax cx f).wf = (cxWf cx)
  | .rscale cx f => (Instr.rscale cx f).wf = (cxWf cx)
  | .scan cx f => (Instr.scan cx f).wf = (cxWf cx)
  | .streamChunkIssue cx => (Instr.streamChunkIssue cx).wf = (cxWf cx)
  | .contextWaitEnd cx => (Instr.contextWaitEnd cx).wf = (cxWf cx)
  | .kernelStart o => (Instr.kernelStart o).wf = (opWf o)
  | .contextImageSaveDone o => (Instr.contextImageSaveDone o).wf = (opWf o)
  | .contextRestoreDone o => (Instr.contextRestoreDone o).wf = (opWf o)
  | .kernelAbortStop o => (Instr.kernelAbortStop o).wf = (opWf o)
  | .productStart cell => (Instr.productStart cell).wf = (decide (cell < 160))
  | .passStart cell => (Instr.passStart cell).wf = (decide (cell < 160))
  | .rowResultAccept cell => (Instr.rowResultAccept cell).wf = (decide (cell < 160))
  | .blockRowWrite cell => (Instr.blockRowWrite cell).wf = (decide (cell < 160))
  | .drainEncodeSweep cell => (Instr.drainEncodeSweep cell).wf = (decide (cell < 160))
  | .productComplete cell => (Instr.productComplete cell).wf = (decide (cell < 160))
  | .arrayPreemptEffect cell => (Instr.arrayPreemptEffect cell).wf = (decide (cell < 160))
  | .tileContextSaveDone cell => (Instr.tileContextSaveDone cell).wf = (decide (cell < 160))
  | .tileContextRestoreDone cell => (Instr.tileContextRestoreDone cell).wf = (decide (cell < 160))
  | .arrayAbortStop cell => (Instr.arrayAbortStop cell).wf = (decide (cell < 160))
  | .tableLoadTakeEffect cell => (Instr.tableLoadTakeEffect cell).wf = (decide (cell < 160))
  | .cellReady region => (Instr.cellReady region).wf = (decide (region < 4))
  | .clockSwitchDone region => (Instr.clockSwitchDone region).wf = (decide (region < 4))
  | .hardwareError e => (Instr.hardwareError e).wf = (hwWf e)
  | .dmaDescriptorStart e => (Instr.dmaDescriptorStart e).wf = (engineWf e)
  | .dmaDescriptorComplete e => (Instr.dmaDescriptorComplete e).wf = (engineWf e)
  | .dmaAbortStop e => (Instr.dmaAbortStop e).wf = (engineWf e)
  | .sparseJobPlan block => (Instr.sparseJobPlan block).wf = (decide (block < 20))
  | .workUnitDispatch block cell => (Instr.workUnitDispatch block cell).wf = (decide (block < 20) && decide (cell < 8))
  | .workUnitFinish block cell => (Instr.workUnitFinish block cell).wf = (decide (block < 20) && decide (cell < 8))
  | .blockJobPreemptDone block => (Instr.blockJobPreemptDone block).wf = (decide (block < 20))
  | .hbmReadReturn stack addr bad => (Instr.hbmReadReturn stack addr bad).wf = (decide (stack < 12) && decide (addr < 2 ^ 48))
  | .hbmWriteAccept w => (Instr.hbmWriteAccept w).wf = (hbmWriteWf w)
  | .residencyTakeEffect => (Instr.residencyTakeEffect).wf = (true)
  | .telemetryRecordWrite region => (Instr.telemetryRecordWrite region).wf = (decide (region < 4))
  | .updateHoldRelease o => (Instr.updateHoldRelease o).wf = (opWf o)
  | .deferredProductStart cell => (Instr.deferredProductStart cell).wf = (decide (cell < 160))
  | .deferredYield cell => (Instr.deferredYield cell).wf = (decide (cell < 160))
  | .deferredResume cell => (Instr.deferredResume cell).wf = (decide (cell < 160))
  | .deadlinePromotion o => (Instr.deadlinePromotion o).wf = (opWf o)
  | .freezeTakeEffect => (Instr.freezeTakeEffect).wf = (true)
  | .linkTrainingDone link ok rtt => (Instr.linkTrainingDone link ok rtt).wf = (decide (link < 24))
  | .linkControlFlit link peer => (Instr.linkControlFlit link peer).wf = (decide (link < 24) && peerWf peer)
  | .linkSignalLoss link => (Instr.linkSignalLoss link).wf = (decide (link < 24))
  | .flitReceive link flit => (Instr.flitReceive link flit).wf = (decide (link < 24) && decide (flit.length = 256))
  | .nullFlitReceive link flit => (Instr.nullFlitReceive link flit).wf = (decide (link < 24) && decide (flit.length = 256))
  | .retryRequest link flit => (Instr.retryRequest link flit).wf = (decide (link < 24) && decide (flit.length = 256))
  | .nullFlitTimer link => (Instr.nullFlitTimer link).wf = (decide (link < 24))
  | .flitTransmit link => (Instr.flitTransmit link).wf = (decide (link < 24))
  | .remoteWrite region m => (Instr.remoteWrite region m).wf = (decide (region < 4) && msgWf m)
  | .readRequest region m => (Instr.readRequest region m).wf = (decide (region < 4) && msgWf m)
  | .readResponse region m => (Instr.readResponse region m).wf = (decide (region < 4) && msgWf m)
  | .atomicAdd region m => (Instr.atomicAdd region m).wf = (decide (region < 4) && msgWf m)
  | .collectiveContribution region c => (Instr.collectiveContribution region c).wf = (decide (region < 4) && decide (c.rank < 262144))
  | .collectiveResult region c => (Instr.collectiveResult region c).wf = (decide (region < 4) && headerWf c.header)
  | .heartbeat region link b => (Instr.heartbeat region link b).wf = (decide (region < 4) && decide (link < 24))
  | .lost region b => (Instr.lost region b).wf = (decide (region < 4))
  | .bridleQuiesce region src b => (Instr.bridleQuiesce region src b).wf = (decide (region < 4) && srcWf src)
  | .bridleAbort region src b => (Instr.bridleAbort region src b).wf = (decide (region < 4) && srcWf src)
  | .commitVote src b => (Instr.commitVote src b).wf = (srcWf src)
  | .commitResult b => (Instr.commitResult b).wf = (true)
  | .plcFinal region b => (Instr.plcFinal region b).wf = (decide (region < 4))
  | .unreachable region b => (Instr.unreachable region b).wf = (decide (region < 4))
  | .bridleEcho region src b => (Instr.bridleEcho region src b).wf = (decide (region < 4) && srcWf src)
  | .bridleBad link typ b => (Instr.bridleBad link typ b).wf = (decide (link < 24) && decide (typ < 65536))
  | .heartbeatTimer region => (Instr.heartbeatTimer region).wf = (decide (region < 4))
  | .peerSilenceTimeout link => (Instr.peerSilenceTimeout link).wf = (decide (link < 24))
  | .bridleDeliveryTimeout o oob => (Instr.bridleDeliveryTimeout o oob).wf = (opWf o)
  | .ethernetFrameReceive link frame => (Instr.ethernetFrameReceive link frame).wf = (decide (link < 24))
  | .tunnelResendTimer link tunnel => (Instr.tunnelResendTimer link tunnel).wf = (decide (link < 24) && decide (tunnel < 256))
  | .tunnelFenceTimeout link tunnel => (Instr.tunnelFenceTimeout link tunnel).wf = (decide (link < 24) && decide (tunnel < 256))
  | .collectiveStart o => (Instr.collectiveStart o).wf = (opWf o)
  | .shardDeadline region cid shard => (Instr.shardDeadline region cid shard).wf = (decide (region < 4) && decide (cid < 4294967296))
  | .mirrorCopyComplete region ok => (Instr.mirrorCopyComplete region ok).wf = (decide (region < 4))
  | .flashImageComplete ok => (Instr.flashImageComplete ok).wf = (true)
  | .voteTimeout child => (Instr.voteTimeout child).wf = (decide (child < 65536))
  | .resultTimeout answer => (Instr.resultTimeout answer).wf = (true)
  | .pairHandshake peer domain forced => (Instr.pairHandshake peer domain forced).wf = (decide (peer < 65536))
  | .mailboxSlotWrite w => (Instr.mailboxSlotWrite w).wf = (slotWriteWf w)
  | .mailboxSlotTake reader channel => (Instr.mailboxSlotTake reader channel).wf = (decide (reader < 256) && decide (channel < 256))
  | .operationAdmit region => (Instr.operationAdmit region).wf = (decide (region < 4))
  | .recordCommit o => (Instr.recordCommit o).wf = (opWf o)
  | .ringHeadPoll ring => (Instr.ringHeadPoll ring).wf = (decide (ring < 64))
  | .remoteControlTimeout o oob => (Instr.remoteControlTimeout o oob).wf = (opWf o)
  | .bindingLock master => (Instr.bindingLock master).wf = (decide (master < 256))
  | .sampleStrobe master => (Instr.sampleStrobe master).wf = (decide (master < 256))
  | .sampleLatchDone => (Instr.sampleLatchDone).wf = (true)
  | .registerWrite master addr value => (Instr.registerWrite master addr value).wf = (decide (master < 256) && decide (addr < 2 ^ 48) && decide (value < 2 ^ 64))
  | .dmaRegion o => (Instr.dmaRegion o).wf = (opWf o)
  | .dmaBlock o => (Instr.dmaBlock o).wf = (opWf o)
  | .dmaGather o => (Instr.dmaGather o).wf = (opWf o)
  | .kernelLaunch o => (Instr.kernelLaunch o).wf = (opWf o)
  | .blockJob o => (Instr.blockJob o).wf = (opWf o)
  | .invRoot o => (Instr.invRoot o).wf = (opWf o)
  | .codebookLoad o => (Instr.codebookLoad o).wf = (opWf o)
  | .fmtLoad o => (Instr.fmtLoad o).wf = (opWf o)
  | .curveLoad o => (Instr.curveLoad o).wf = (opWf o)
  | .rescalePlace o => (Instr.rescalePlace o).wf = (opWf o)
  | .scheduleLoad o => (Instr.scheduleLoad o).wf = (opWf o)
  | .freezeLoad o => (Instr.freezeLoad o).wf = (opWf o)
  | .allReduce o => (Instr.allReduce o).wf = (opWf o)
  | .reduceScatter o => (Instr.reduceScatter o).wf = (opWf o)
  | .allGather o => (Instr.allGather o).wf = (opWf o)
  | .allToAll o => (Instr.allToAll o).wf = (opWf o)
  | .broadcast o => (Instr.broadcast o).wf = (opWf o)
  | .snapConfig o => (Instr.snapConfig o).wf = (opWf o)
  | .snapCommit o => (Instr.snapCommit o).wf = (opWf o)
  | .snapPair o => (Instr.snapPair o).wf = (opWf o)
  | .snapRestore o => (Instr.snapRestore o).wf = (opWf o)
  | .snapRecover o => (Instr.snapRecover o).wf = (opWf o)
  | .snapRelease o => (Instr.snapRelease o).wf = (opWf o)
  | .privCopy o => (Instr.privCopy o).wf = (opWf o)
  | .counterCopy o => (Instr.counterCopy o).wf = (opWf o)
  | .cycleSample o => (Instr.cycleSample o).wf = (opWf o)
  | .abort o => (Instr.abort o).wf = (opWf o)
  | .preempt o => (Instr.preempt o).wf = (opWf o)
  | .resume o => (Instr.resume o).wf = (opWf o)
  | .quiesce o => (Instr.quiesce o).wf = (opWf o)
  | .unquiesce o => (Instr.unquiesce o).wf = (opWf o)
  | .echo o => (Instr.echo o).wf = (opWf o)
  | .residencySet o => (Instr.residencySet o).wf = (opWf o)
  | .telemetrySet o => (Instr.telemetrySet o).wf = (opWf o)
  | .peerLoad o => (Instr.peerLoad o).wf = (opWf o)
  | .routeLoad o => (Instr.routeLoad o).wf = (opWf o)
  | .ethConfig o => (Instr.ethConfig o).wf = (opWf o)
  | .ringSetup o => (Instr.ringSetup o).wf = (opWf o)
  | .identityRead o => (Instr.identityRead o).wf = (opWf o)
  | .powerGoodRise p => (Instr.powerGoodRise p).wf = (decide (p.position < 4))
  | .imageVerify bank type => (Instr.imageVerify bank type).wf = (decide (bank < 2) && decide (type < 256))
  | .bootFirmwareStart => (Instr.bootFirmwareStart).wf = (true)
  | .stackTrainingDone stack ok => (Instr.stackTrainingDone stack ok).wf = (decide (stack < 12))
  | .hbmInitDone stack => (Instr.hbmInitDone stack).wf = (decide (stack < 12))
  | .bindingTableSetup => (Instr.bindingTableSetup).wf = (true)
  | .bootStageTimeout => (Instr.bootStageTimeout).wf = (true)
  | .identityChunkReserve => (Instr.identityChunkReserve).wf = (true)
  | .i2cBoardReport domain serial => (Instr.i2cBoardReport domain serial).wf = (true)
  | .status d => (Instr.status d).wf = (datagramWf d)
  | .telemetry d => (Instr.telemetry d).wf = (datagramWf d)
  | .attest d => (Instr.attest d).wf = (datagramWf d)
  | .cert d => (Instr.cert d).wf = (datagramWf d)
  | .mgtReset d => (Instr.mgtReset d).wf = (datagramWf d)
  | .fenceClear d => (Instr.fenceClear d).wf = (datagramWf d)
  | .powerCap d => (Instr.powerCap d).wf = (datagramWf d)
  | .updateBegin d => (Instr.updateBegin d).wf = (datagramWf d)
  | .updateData d => (Instr.updateData d).wf = (datagramWf d)
  | .updateCommit d => (Instr.updateCommit d).wf = (datagramWf d)
  | .updateVerifyDone => (Instr.updateVerifyDone).wf = (true)
  | .enroll d enable => (Instr.enroll d enable).wf = (datagramWf d)
  | .release d => (Instr.release d).wf = (datagramWf d)
  | .bridleForward d => (Instr.bridleForward d).wf = (datagramWf d)
  | .powerSample w => (Instr.powerSample w).wf = (decide (w.regions.length = 4))
  | .temperatureSample t => (Instr.temperatureSample t).wf = (tempsWf t)
  | .arbiterTick => (Instr.arbiterTick).wf = (true)
  | .powerBrakeAssert => (Instr.powerBrakeAssert).wf = (true)
  | .powerBrakeRelease => (Instr.powerBrakeRelease).wf = (true)
  | .powerGoodFall => (Instr.powerGoodFall).wf = (true)
  | .railUndervoltage rail millivolts => (Instr.railUndervoltage rail millivolts).wf = (decide (rail < 3))
  | .sysrefLoss => (Instr.sysrefLoss).wf = (true)
  | .linkrefLoss region => (Instr.linkrefLoss region).wf = (decide (region < 4))
  | .managementPortBlockLock up => (Instr.managementPortBlockLock up).wf = (true)
  | .malformedManagementDatagram d => (Instr.malformedManagementDatagram d).wf = (datagramWf d)
  | .commandProcessorWatchdog core => (Instr.commandProcessorWatchdog core).wf = (decide (core < 4))

theorem vadd (cx : Cx) (f : Vr) : Statement (.vadd cx f) := rfl
theorem vsub (cx : Cx) (f : Vr) : Statement (.vsub cx f) := rfl
theorem vmul (cx : Cx) (f : Vr) : Statement (.vmul cx f) := rfl
theorem vfma (cx : Cx) (f : Vr) : Statement (.vfma cx f) := rfl
theorem vfnma (cx : Cx) (f : Vr) : Statement (.vfnma cx f) := rfl
theorem vdiv (cx : Cx) (f : Vr) : Statement (.vdiv cx f) := rfl
theorem vmin (cx : Cx) (f : Vr) : Statement (.vmin cx f) := rfl
theorem vmax (cx : Cx) (f : Vr) : Statement (.vmax cx f) := rfl
theorem vabs (cx : Cx) (f : Vr) : Statement (.vabs cx f) := rfl
theorem vneg (cx : Cx) (f : Vr) : Statement (.vneg cx f) := rfl
theorem vsqrt (cx : Cx) (f : Vr) : Statement (.vsqrt cx f) := rfl
theorem vand (cx : Cx) (f : Vr) : Statement (.vand cx f) := rfl
theorem vor (cx : Cx) (f : Vr) : Statement (.vor cx f) := rfl
theorem vxor (cx : Cx) (f : Vr) : Statement (.vxor cx f) := rfl
theorem vnot (cx : Cx) (f : Vr) : Statement (.vnot cx f) := rfl
theorem vshl (cx : Cx) (f : Vr) : Statement (.vshl cx f) := rfl
theorem vshr (cx : Cx) (f : Vr) : Statement (.vshr cx f) := rfl
theorem vsra (cx : Cx) (f : Vr) : Statement (.vsra cx f) := rfl
theorem vcmp (cx : Cx) (f : Vr) : Statement (.vcmp cx f) := rfl
theorem vsel (cx : Cx) (f : Vr) : Statement (.vsel cx f) := rfl
theorem vcvt (cx : Cx) (f : Vr) : Statement (.vcvt cx f) := rfl
theorem vmov (cx : Cx) (f : Vr) : Statement (.vmov cx f) := rfl
theorem vbcast (cx : Cx) (f : Vr) : Statement (.vbcast cx f) := rfl
theorem viota (cx : Cx) (f : Vr) : Statement (.viota cx f) := rfl
theorem vperm (cx : Cx) (f : Vr) : Statement (.vperm cx f) := rfl
theorem vrot (cx : Cx) (f : Vr) : Statement (.vrot cx f) := rfl
theorem vext (cx : Cx) (f : Vr) : Statement (.vext cx f) := rfl
theorem vins (cx : Cx) (f : Vr) : Statement (.vins cx f) := rfl
theorem vrsum (cx : Cx) (f : Vr) : Statement (.vrsum cx f) := rfl
theorem vrprod (cx : Cx) (f : Vr) : Statement (.vrprod cx f) := rfl
theorem vrmax (cx : Cx) (f : Vr) : Statement (.vrmax cx f) := rfl
theorem vrmin (cx : Cx) (f : Vr) : Statement (.vrmin cx f) := rfl
theorem vrmean (cx : Cx) (f : Vr) : Statement (.vrmean cx f) := rfl
theorem vrargmax (cx : Cx) (f : Vr) : Statement (.vrargmax cx f) := rfl
theorem vrargmin (cx : Cx) (f : Vr) : Statement (.vrargmin cx f) := rfl
theorem mand (cx : Cx) (f : Vr) : Statement (.mand cx f) := rfl
theorem mor (cx : Cx) (f : Vr) : Statement (.mor cx f) := rfl
theorem mxor (cx : Cx) (f : Vr) : Statement (.mxor cx f) := rfl
theorem mnot (cx : Cx) (f : Vr) : Statement (.mnot cx f) := rfl
theorem mpop (cx : Cx) (f : Vr) : Statement (.mpop cx f) := rfl
theorem mfirst (cx : Cx) (f : Vr) : Statement (.mfirst cx f) := rfl
theorem mld (cx : Cx) (f : Vr) : Statement (.mld cx f) := rfl
theorem mst (cx : Cx) (f : Vr) : Statement (.mst cx f) := rfl
theorem vld (cx : Cx) (f : Vr) : Statement (.vld cx f) := rfl
theorem vst (cx : Cx) (f : Vr) : Statement (.vst cx f) := rfl
theorem vrand (cx : Cx) (f : Vr) : Statement (.vrand cx f) := rfl
theorem vgath (cx : Cx) (f : Vr) : Statement (.vgath cx f) := rfl
theorem vscat (cx : Cx) (f : Vr) : Statement (.vscat cx f) := rfl
theorem vscadd (cx : Cx) (f : Vr) : Statement (.vscadd cx f) := rfl
theorem tadd (cx : Cx) (f : Vs) : Statement (.tadd cx f) := rfl
theorem tsub (cx : Cx) (f : Vs) : Statement (.tsub cx f) := rfl
theorem tmul (cx : Cx) (f : Vs) : Statement (.tmul cx f) := rfl
theorem tfma (cx : Cx) (f : Vs) : Statement (.tfma cx f) := rfl
theorem tfnma (cx : Cx) (f : Vs) : Statement (.tfnma cx f) := rfl
theorem tdiv (cx : Cx) (f : Vs) : Statement (.tdiv cx f) := rfl
theorem tmin (cx : Cx) (f : Vs) : Statement (.tmin cx f) := rfl
theorem tmax (cx : Cx) (f : Vs) : Statement (.tmax cx f) := rfl
theorem tabs (cx : Cx) (f : Vs) : Statement (.tabs cx f) := rfl
theorem tneg (cx : Cx) (f : Vs) : Statement (.tneg cx f) := rfl
theorem tsqrt (cx : Cx) (f : Vs) : Statement (.tsqrt cx f) := rfl
theorem tand (cx : Cx) (f : Vs) : Statement (.tand cx f) := rfl
theorem tor (cx : Cx) (f : Vs) : Statement (.tor cx f) := rfl
theorem txor (cx : Cx) (f : Vs) : Statement (.txor cx f) := rfl
theorem tnot (cx : Cx) (f : Vs) : Statement (.tnot cx f) := rfl
theorem tshl (cx : Cx) (f : Vs) : Statement (.tshl cx f) := rfl
theorem tshr (cx : Cx) (f : Vs) : Statement (.tshr cx f) := rfl
theorem tsra (cx : Cx) (f : Vs) : Statement (.tsra cx f) := rfl
theorem tcmp (cx : Cx) (f : Vs) : Statement (.tcmp cx f) := rfl
theorem tsel (cx : Cx) (f : Vs) : Statement (.tsel cx f) := rfl
theorem tcvt (cx : Cx) (f : Vs) : Statement (.tcvt cx f) := rfl
theorem tcopy (cx : Cx) (f : Vs) : Statement (.tcopy cx f) := rfl
theorem tfill (cx : Cx) (f : Vs) : Statement (.tfill cx f) := rfl
theorem tiota (cx : Cx) (f : Vs) : Statement (.tiota cx f) := rfl
theorem trsum (cx : Cx) (f : Vs) : Statement (.trsum cx f) := rfl
theorem trprod (cx : Cx) (f : Vs) : Statement (.trprod cx f) := rfl
theorem trmax (cx : Cx) (f : Vs) : Statement (.trmax cx f) := rfl
theorem trmin (cx : Cx) (f : Vs) : Statement (.trmin cx f) := rfl
theorem trmean (cx : Cx) (f : Vs) : Statement (.trmean cx f) := rfl
theorem trargmax (cx : Cx) (f : Vs) : Statement (.trargmax cx f) := rfl
theorem trargmin (cx : Cx) (f : Vs) : Statement (.trargmin cx f) := rfl
theorem trand (cx : Cx) (f : Vs) : Statement (.trand cx f) := rfl
theorem sadd (cx : Cx) (f : Sc) : Statement (.sadd cx f) := rfl
theorem ssub (cx : Cx) (f : Sc) : Statement (.ssub cx f) := rfl
theorem smul (cx : Cx) (f : Sc) : Statement (.smul cx f) := rfl
theorem sand (cx : Cx) (f : Sc) : Statement (.sand cx f) := rfl
theorem sor (cx : Cx) (f : Sc) : Statement (.sor cx f) := rfl
theorem sxor (cx : Cx) (f : Sc) : Statement (.sxor cx f) := rfl
theorem sshl (cx : Cx) (f : Sc) : Statement (.sshl cx f) := rfl
theorem sshr (cx : Cx) (f : Sc) : Statement (.sshr cx f) := rfl
theorem sli (cx : Cx) (f : Sc) : Statement (.sli cx f) := rfl
theorem slhi (cx : Cx) (f : Sc) : Statement (.slhi cx f) := rfl
theorem srd (cx : Cx) (f : Sc) : Statement (.srd cx f) := rfl
theorem swr (cx : Cx) (f : Sc) : Statement (.swr cx f) := rfl
theorem sld (cx : Cx) (f : Sc) : Statement (.sld cx f) := rfl
theorem sst (cx : Cx) (f : Sc) : Statement (.sst cx f) := rfl
theorem br (cx : Cx) (f : Sc) : Statement (.br cx f) := rfl
theorem beq (cx : Cx) (f : Sc) : Statement (.beq cx f) := rfl
theorem bne (cx : Cx) (f : Sc) : Statement (.bne cx f) := rfl
theorem blt (cx : Cx) (f : Sc) : Statement (.blt cx f) := rfl
theorem bge (cx : Cx) (f : Sc) : Statement (.bge cx f) := rfl
theorem loopCtx (cx : Cx) (f : Sc) : Statement (.loopCtx cx f) := rfl
theorem aissue (cx : Cx) (f : Sc) : Statement (.aissue cx f) := rfl
theorem await (cx : Cx) (f : Sc) : Statement (.await cx f) := rfl
theorem dissue (cx : Cx) (f : Sc) : Statement (.dissue cx f) := rfl
theorem dwait (cx : Cx) (f : Sc) : Statement (.dwait cx f) := rfl
theorem fenceCtx (cx : Cx) (f : Sc) : Statement (.fenceCtx cx f) := rfl
theorem bar (cx : Cx) (f : Sc) : Statement (.bar cx f) := rfl
theorem endCtx (cx : Cx) (f : Sc) : Statement (.endCtx cx f) := rfl
theorem feval (cx : Cx) (f : Vs) : Statement (.feval cx f) := rfl
theorem fevalx (cx : Cx) (f : Vs) : Statement (.fevalx cx f) := rfl
theorem frefine (cx : Cx) (f : Vs) : Statement (.frefine cx f) := rfl
theorem rstat (cx : Cx) (f : Vs) : Statement (.rstat cx f) := rfl
theorem rnorm (cx : Cx) (f : Vs) : Statement (.rnorm cx f) := rfl
theorem smax (cx : Cx) (f : Vs) : Statement (.smax cx f) := rfl
theorem rscale (cx : Cx) (f : Vs) : Statement (.rscale cx f) := rfl
theorem scan (cx : Cx) (f : Vs) : Statement (.scan cx f) := rfl
theorem streamChunkIssue (cx : Cx) : Statement (.streamChunkIssue cx) := rfl
theorem contextWaitEnd (cx : Cx) : Statement (.contextWaitEnd cx) := rfl
theorem kernelStart (o : OpId) : Statement (.kernelStart o) := rfl
theorem contextImageSaveDone (o : OpId) : Statement (.contextImageSaveDone o) := rfl
theorem contextRestoreDone (o : OpId) : Statement (.contextRestoreDone o) := rfl
theorem kernelAbortStop (o : OpId) : Statement (.kernelAbortStop o) := rfl
theorem productStart (cell : Nat) : Statement (.productStart cell) := rfl
theorem passStart (cell : Nat) : Statement (.passStart cell) := rfl
theorem rowResultAccept (cell : Nat) : Statement (.rowResultAccept cell) := rfl
theorem blockRowWrite (cell : Nat) : Statement (.blockRowWrite cell) := rfl
theorem drainEncodeSweep (cell : Nat) : Statement (.drainEncodeSweep cell) := rfl
theorem productComplete (cell : Nat) : Statement (.productComplete cell) := rfl
theorem arrayPreemptEffect (cell : Nat) : Statement (.arrayPreemptEffect cell) := rfl
theorem tileContextSaveDone (cell : Nat) : Statement (.tileContextSaveDone cell) := rfl
theorem tileContextRestoreDone (cell : Nat) : Statement (.tileContextRestoreDone cell) := rfl
theorem arrayAbortStop (cell : Nat) : Statement (.arrayAbortStop cell) := rfl
theorem tableLoadTakeEffect (cell : Nat) : Statement (.tableLoadTakeEffect cell) := rfl
theorem cellReady (region : Nat) : Statement (.cellReady region) := rfl
theorem clockSwitchDone (region : Nat) : Statement (.clockSwitchDone region) := rfl
theorem hardwareError (e : HwError) : Statement (.hardwareError e) := rfl
theorem dmaDescriptorStart (e : Engine) : Statement (.dmaDescriptorStart e) := rfl
theorem dmaDescriptorComplete (e : Engine) : Statement (.dmaDescriptorComplete e) := rfl
theorem dmaAbortStop (e : Engine) : Statement (.dmaAbortStop e) := rfl
theorem sparseJobPlan (block : Nat) : Statement (.sparseJobPlan block) := rfl
theorem workUnitDispatch (block : Nat) (cell : Nat) : Statement (.workUnitDispatch block cell) := rfl
theorem workUnitFinish (block : Nat) (cell : Nat) : Statement (.workUnitFinish block cell) := rfl
theorem blockJobPreemptDone (block : Nat) : Statement (.blockJobPreemptDone block) := rfl
theorem hbmReadReturn (stack : Nat) (addr : Nat) (bad : Nat) : Statement (.hbmReadReturn stack addr bad) := rfl
theorem hbmWriteAccept (w : HbmWrite) : Statement (.hbmWriteAccept w) := rfl
theorem residencyTakeEffect : Statement (.residencyTakeEffect) := rfl
theorem telemetryRecordWrite (region : Nat) : Statement (.telemetryRecordWrite region) := rfl
theorem updateHoldRelease (o : OpId) : Statement (.updateHoldRelease o) := rfl
theorem deferredProductStart (cell : Nat) : Statement (.deferredProductStart cell) := rfl
theorem deferredYield (cell : Nat) : Statement (.deferredYield cell) := rfl
theorem deferredResume (cell : Nat) : Statement (.deferredResume cell) := rfl
theorem deadlinePromotion (o : OpId) : Statement (.deadlinePromotion o) := rfl
theorem freezeTakeEffect : Statement (.freezeTakeEffect) := rfl
theorem linkTrainingDone (link : Nat) (ok : Bool) (rtt : Nat) : Statement (.linkTrainingDone link ok rtt) := rfl
theorem linkControlFlit (link : Nat) (peer : PeerInfo) : Statement (.linkControlFlit link peer) := rfl
theorem linkSignalLoss (link : Nat) : Statement (.linkSignalLoss link) := rfl
theorem flitReceive (link : Nat) (flit : List Byte) : Statement (.flitReceive link flit) := rfl
theorem nullFlitReceive (link : Nat) (flit : List Byte) : Statement (.nullFlitReceive link flit) := rfl
theorem retryRequest (link : Nat) (flit : List Byte) : Statement (.retryRequest link flit) := rfl
theorem nullFlitTimer (link : Nat) : Statement (.nullFlitTimer link) := rfl
theorem flitTransmit (link : Nat) : Statement (.flitTransmit link) := rfl
theorem remoteWrite (region : Nat) (m : Msg) : Statement (.remoteWrite region m) := rfl
theorem readRequest (region : Nat) (m : Msg) : Statement (.readRequest region m) := rfl
theorem readResponse (region : Nat) (m : Msg) : Statement (.readResponse region m) := rfl
theorem atomicAdd (region : Nat) (m : Msg) : Statement (.atomicAdd region m) := rfl
theorem collectiveContribution (region : Nat) (c : Contribution) : Statement (.collectiveContribution region c) := rfl
theorem collectiveResult (region : Nat) (c : CollResult) : Statement (.collectiveResult region c) := rfl
theorem heartbeat (region : Nat) (link : Nat) (b : List Byte) : Statement (.heartbeat region link b) := rfl
theorem lost (region : Nat) (b : List Byte) : Statement (.lost region b) := rfl
theorem bridleQuiesce (region : Nat) (src : Src) (b : List Byte) : Statement (.bridleQuiesce region src b) := rfl
theorem bridleAbort (region : Nat) (src : Src) (b : List Byte) : Statement (.bridleAbort region src b) := rfl
theorem commitVote (src : Src) (b : List Byte) : Statement (.commitVote src b) := rfl
theorem commitResult (b : List Byte) : Statement (.commitResult b) := rfl
theorem plcFinal (region : Nat) (b : List Byte) : Statement (.plcFinal region b) := rfl
theorem unreachable (region : Nat) (b : List Byte) : Statement (.unreachable region b) := rfl
theorem bridleEcho (region : Nat) (src : Src) (b : List Byte) : Statement (.bridleEcho region src b) := rfl
theorem bridleBad (link : Nat) (typ : Nat) (b : List Byte) : Statement (.bridleBad link typ b) := rfl
theorem heartbeatTimer (region : Nat) : Statement (.heartbeatTimer region) := rfl
theorem peerSilenceTimeout (link : Nat) : Statement (.peerSilenceTimeout link) := rfl
theorem bridleDeliveryTimeout (o : OpId) (oob : Bool) : Statement (.bridleDeliveryTimeout o oob) := rfl
theorem ethernetFrameReceive (link : Nat) (frame : List Byte) : Statement (.ethernetFrameReceive link frame) := rfl
theorem tunnelResendTimer (link : Nat) (tunnel : Nat) : Statement (.tunnelResendTimer link tunnel) := rfl
theorem tunnelFenceTimeout (link : Nat) (tunnel : Nat) : Statement (.tunnelFenceTimeout link tunnel) := rfl
theorem collectiveStart (o : OpId) : Statement (.collectiveStart o) := rfl
theorem shardDeadline (region : Nat) (cid : Nat) (shard : Nat) : Statement (.shardDeadline region cid shard) := rfl
theorem mirrorCopyComplete (region : Nat) (ok : Bool) : Statement (.mirrorCopyComplete region ok) := rfl
theorem flashImageComplete (ok : Bool) : Statement (.flashImageComplete ok) := rfl
theorem voteTimeout (child : Nat) : Statement (.voteTimeout child) := rfl
theorem resultTimeout (answer : Option (List Byte)) : Statement (.resultTimeout answer) := rfl
theorem pairHandshake (peer : Nat) (domain : Option Nat) (forced : Bool) : Statement (.pairHandshake peer domain forced) := rfl
theorem mailboxSlotWrite (w : SlotWrite) : Statement (.mailboxSlotWrite w) := rfl
theorem mailboxSlotTake (reader : Nat) (channel : Nat) : Statement (.mailboxSlotTake reader channel) := rfl
theorem operationAdmit (region : Nat) : Statement (.operationAdmit region) := rfl
theorem recordCommit (o : OpId) : Statement (.recordCommit o) := rfl
theorem ringHeadPoll (ring : Nat) : Statement (.ringHeadPoll ring) := rfl
theorem remoteControlTimeout (o : OpId) (oob : Bool) : Statement (.remoteControlTimeout o oob) := rfl
theorem bindingLock (master : Nat) : Statement (.bindingLock master) := rfl
theorem sampleStrobe (master : Nat) : Statement (.sampleStrobe master) := rfl
theorem sampleLatchDone : Statement (.sampleLatchDone) := rfl
theorem registerWrite (master : Nat) (addr : Nat) (value : Nat) : Statement (.registerWrite master addr value) := rfl
theorem dmaRegion (o : OpId) : Statement (.dmaRegion o) := rfl
theorem dmaBlock (o : OpId) : Statement (.dmaBlock o) := rfl
theorem dmaGather (o : OpId) : Statement (.dmaGather o) := rfl
theorem kernelLaunch (o : OpId) : Statement (.kernelLaunch o) := rfl
theorem blockJob (o : OpId) : Statement (.blockJob o) := rfl
theorem invRoot (o : OpId) : Statement (.invRoot o) := rfl
theorem codebookLoad (o : OpId) : Statement (.codebookLoad o) := rfl
theorem fmtLoad (o : OpId) : Statement (.fmtLoad o) := rfl
theorem curveLoad (o : OpId) : Statement (.curveLoad o) := rfl
theorem rescalePlace (o : OpId) : Statement (.rescalePlace o) := rfl
theorem scheduleLoad (o : OpId) : Statement (.scheduleLoad o) := rfl
theorem freezeLoad (o : OpId) : Statement (.freezeLoad o) := rfl
theorem allReduce (o : OpId) : Statement (.allReduce o) := rfl
theorem reduceScatter (o : OpId) : Statement (.reduceScatter o) := rfl
theorem allGather (o : OpId) : Statement (.allGather o) := rfl
theorem allToAll (o : OpId) : Statement (.allToAll o) := rfl
theorem broadcast (o : OpId) : Statement (.broadcast o) := rfl
theorem snapConfig (o : OpId) : Statement (.snapConfig o) := rfl
theorem snapCommit (o : OpId) : Statement (.snapCommit o) := rfl
theorem snapPair (o : OpId) : Statement (.snapPair o) := rfl
theorem snapRestore (o : OpId) : Statement (.snapRestore o) := rfl
theorem snapRecover (o : OpId) : Statement (.snapRecover o) := rfl
theorem snapRelease (o : OpId) : Statement (.snapRelease o) := rfl
theorem privCopy (o : OpId) : Statement (.privCopy o) := rfl
theorem counterCopy (o : OpId) : Statement (.counterCopy o) := rfl
theorem cycleSample (o : OpId) : Statement (.cycleSample o) := rfl
theorem abort (o : OpId) : Statement (.abort o) := rfl
theorem preempt (o : OpId) : Statement (.preempt o) := rfl
theorem resume (o : OpId) : Statement (.resume o) := rfl
theorem quiesce (o : OpId) : Statement (.quiesce o) := rfl
theorem unquiesce (o : OpId) : Statement (.unquiesce o) := rfl
theorem echo (o : OpId) : Statement (.echo o) := rfl
theorem residencySet (o : OpId) : Statement (.residencySet o) := rfl
theorem telemetrySet (o : OpId) : Statement (.telemetrySet o) := rfl
theorem peerLoad (o : OpId) : Statement (.peerLoad o) := rfl
theorem routeLoad (o : OpId) : Statement (.routeLoad o) := rfl
theorem ethConfig (o : OpId) : Statement (.ethConfig o) := rfl
theorem ringSetup (o : OpId) : Statement (.ringSetup o) := rfl
theorem identityRead (o : OpId) : Statement (.identityRead o) := rfl
theorem powerGoodRise (p : PowerUp) : Statement (.powerGoodRise p) := rfl
theorem imageVerify (bank : Nat) (type : Nat) : Statement (.imageVerify bank type) := rfl
theorem bootFirmwareStart : Statement (.bootFirmwareStart) := rfl
theorem stackTrainingDone (stack : Nat) (ok : Bool) : Statement (.stackTrainingDone stack ok) := rfl
theorem hbmInitDone (stack : Nat) : Statement (.hbmInitDone stack) := rfl
theorem bindingTableSetup : Statement (.bindingTableSetup) := rfl
theorem bootStageTimeout : Statement (.bootStageTimeout) := rfl
theorem identityChunkReserve : Statement (.identityChunkReserve) := rfl
theorem i2cBoardReport (domain : Option Nat) (serial : Option (List Byte)) : Statement (.i2cBoardReport domain serial) := rfl
theorem status (d : Datagram) : Statement (.status d) := rfl
theorem telemetry (d : Datagram) : Statement (.telemetry d) := rfl
theorem attest (d : Datagram) : Statement (.attest d) := rfl
theorem cert (d : Datagram) : Statement (.cert d) := rfl
theorem mgtReset (d : Datagram) : Statement (.mgtReset d) := rfl
theorem fenceClear (d : Datagram) : Statement (.fenceClear d) := rfl
theorem powerCap (d : Datagram) : Statement (.powerCap d) := rfl
theorem updateBegin (d : Datagram) : Statement (.updateBegin d) := rfl
theorem updateData (d : Datagram) : Statement (.updateData d) := rfl
theorem updateCommit (d : Datagram) : Statement (.updateCommit d) := rfl
theorem updateVerifyDone : Statement (.updateVerifyDone) := rfl
theorem enroll (d : Datagram) (enable : Bool) : Statement (.enroll d enable) := rfl
theorem release (d : Datagram) : Statement (.release d) := rfl
theorem bridleForward (d : Datagram) : Statement (.bridleForward d) := rfl
theorem powerSample (w : Watts) : Statement (.powerSample w) := rfl
theorem temperatureSample (t : Temps) : Statement (.temperatureSample t) := rfl
theorem arbiterTick : Statement (.arbiterTick) := rfl
theorem powerBrakeAssert : Statement (.powerBrakeAssert) := rfl
theorem powerBrakeRelease : Statement (.powerBrakeRelease) := rfl
theorem powerGoodFall : Statement (.powerGoodFall) := rfl
theorem railUndervoltage (rail : Nat) (millivolts : Nat) : Statement (.railUndervoltage rail millivolts) := rfl
theorem sysrefLoss : Statement (.sysrefLoss) := rfl
theorem linkrefLoss (region : Nat) : Statement (.linkrefLoss region) := rfl
theorem managementPortBlockLock (up : Bool) : Statement (.managementPortBlockLock up) := rfl
theorem malformedManagementDatagram (d : Datagram) : Statement (.malformedManagementDatagram d) := rfl
theorem commandProcessorWatchdog (core : Nat) : Statement (.commandProcessorWatchdog core) := rfl

end Sys2Proof.Laws.Wf
end

