-- ==== Sys2Proof/Tests/Slice0.lean ====
section
/-! SUPPORT. Smoke tests: one ill-formed command for each check of well-formedness, and the worked
examples of the spec whose numbers it prints. The witnesses of the statements stand in Tests/Witnesses. -/

namespace Sys2Proof.Tests
open Sys2Proof.Machine

/-! ### Well-formedness -/

theorem test_wf_ctx : (Instr.streamChunkIssue ⟨160, 0⟩).wf = false ∧ (Instr.streamChunkIssue ⟨0, 16⟩).wf = false
    ∧ (Instr.streamChunkIssue ⟨159, 15⟩).wf = true := by decide
theorem test_wf_op : (Instr.kernelLaunch ⟨256, 0⟩).wf = false ∧ (Instr.kernelLaunch ⟨0, 2 ^ 32⟩).wf = false
    ∧ (Instr.kernelLaunch ⟨255, 2 ^ 32 - 1⟩).wf = true := by decide
theorem test_wf_engine :
    ([.cell 160, .gs 20, .block 20, .region 4].all fun e => !(Instr.dmaDescriptorStart e).wf) = true
      ∧ ([.cell 159, .gs 19, .block 19, .region 3].all fun e => (Instr.dmaDescriptorStart e).wf) = true := by decide
theorem test_wf_hw :
    ([.correctedCellStore 160, .correctedBlockStore 20, .correctedOther 4, .sramWord (2 ^ 48), .curveMemory 160 0, .curveMemory 0 16,
      .cellFault 160, .blockFault 20, .linkFault 24, .regionFault 4].all fun e => !(Instr.hardwareError e).wf) = true := by decide
theorem test_wf_hbmWrite :
    ([⟨0, 0, [], none, false⟩, ⟨0, 63, [1, 2], none, false⟩, ⟨0, 2 ^ 48, [1], none, false⟩].all fun w : HbmWrite =>
      !(Instr.hbmWriteAccept w).wf) = true := by decide
theorem test_wf_peer :
    (Instr.linkControlFlit 24 ⟨0, 0, 0, 0⟩).wf = false ∧ (Instr.linkControlFlit 0 ⟨0, 24, 0, 0⟩).wf = false
      ∧ (Instr.linkControlFlit 0 ⟨2 ^ 16, 0, 0, 0⟩).wf = false := by decide
theorem test_wf_flit : (Instr.flitReceive 0 [1]).wf = false ∧ (Instr.flitReceive 24 (List.replicate 256 0)).wf = false := by
  decide +kernel
theorem test_wf_msg :
    (Instr.remoteWrite 4 {}).wf = false ∧ (Instr.remoteWrite 0 { op := 16 }).wf = false
      ∧ (Instr.remoteWrite 0 { dest := 2 ^ 64 }).wf = false ∧ (Instr.remoteWrite 0 { data := List.replicate 4097 0 }).wf = false := by
  decide +kernel
theorem test_wf_src : (Instr.commitVote ⟨2 ^ 16, 0⟩ []).wf = false ∧ (Instr.commitVote ⟨0, 4⟩ []).wf = false := by decide
theorem test_wf_header : (Instr.collectiveResult 0 ⟨0, 0, 0, 0, [], some []⟩).wf = false
    ∧ (Instr.collectiveResult 0 ⟨0, 0, 0, 0, [], none⟩).wf = true := by decide
theorem test_wf_slotWrite :
    (Instr.mailboxSlotWrite ⟨256, 0, [], none, 0, 0⟩).wf = false ∧ (Instr.mailboxSlotWrite ⟨0, 0, [], none, 0, 4⟩).wf = false
      ∧ (Instr.mailboxSlotWrite ⟨0, 2 ^ 48, [], none, 0, 0⟩).wf = false := by decide
theorem test_wf_datagram : (Instr.status ⟨0, 0, 0, 0, 0, 0, 0, 0, 0, 0, [], List.replicate 33 0⟩).wf = false := by decide
theorem test_wf_temps : (Instr.temperatureSample ⟨[], [], []⟩).wf = false := by decide
theorem test_wf_ranges :
    ([.productStart 160, .cellReady 4, .sparseJobPlan 20, .workUnitDispatch 0 8, .hbmReadReturn 12 0 0, .tunnelResendTimer 0 256,
      .shardDeadline 0 (2 ^ 32) 0, .mailboxSlotTake 256 0, .ringHeadPoll 64, .registerWrite 0 0 (2 ^ 64), .imageVerify 2 0,
      .railUndervoltage 3 0, .commandProcessorWatchdog 4].all fun i : Instr => !i.wf) = true := by decide

/-! ### Words of the vector engine (Tables 5-3, 5-5 to 5-7 and 6-1), written out field by field -/

theorem test_word_vfma :
    instrOfWord ⟨7, 3⟩ (0x03 * 2 ^ 56 + 1 * 2 ^ 50 + 2 * 2 ^ 45 + 3 * 2 ^ 40 + 31 * 2 ^ 35 + 5 * 2 ^ 32 + 1 * 2 ^ 31 + 1 * 2 ^ 28 + 9)
      = some (.vfma ⟨7, 3⟩ { vd := 1, va := 2, vb := 3, vc := 31, msk := 5, men := true, ty := 1, tag := 9 }) := by decide +kernel
theorem test_word_tadd :
    instrOfWord ⟨7, 3⟩ (0x40 * 2 ^ 56 + 1 * 2 ^ 52 + 2 * 2 ^ 48 + 3 * 2 ^ 44 + 4 * 2 ^ 40 + 5 * 2 ^ 36 + 6 * 2 ^ 32 + 7 * 2 ^ 28 + 2 * 2 ^ 26
        + 8191 * 2 ^ 13 + 2 ^ 11 + 1023)
      = some (.tadd ⟨7, 3⟩ { sd := 1, sa := 2, sb := 3, sc := 4, fmtD := 5, fmtA := 6, fmtB := 7, ct := 2, cnt := 8191, ms := true, tag := 1023 })
    := by decide +kernel
theorem test_word_sld :
    instrOfWord ⟨7, 3⟩ (0x8C * 2 ^ 56 + 4 * 2 ^ 52 + 2 * 2 ^ 48 + (2 ^ 40 - 8)) = some (.sld ⟨7, 3⟩ { sd := 4, sa := 2, imm := 0xFFFFFFFFF8 }) := by
  decide +kernel
/-- The reserved opcodes of R174. -/
theorem test_word_reserved : ([0x0B, 0xE3, 0xE6, 0xE7, 0xE9, 0xEB, 0xED, 0xEE, 0xEF].all fun o => reservedWord (o * 2 ^ 56)) = true := by
  decide +kernel

/-! ### Worked examples of the spec -/

/-- Table 2-8: inputs as FP32 words, E4M3 codes and events under scale code 0x7A. -/
theorem test_row_to_e4m3 :
    [(0x3F333333, 0x5B, []), (0xC1380000, 0xFC, []), (0x3F840000, 0x60, []), (0x3C800000, 0x30, []), (0xBA6BEDFA, 0x8F, []),
      (0x38D1B717, 0x02, []), (0x37A7C5AC, 0x00, [evVan]), (0x40BCCCCD, 0x74, [])].all
      (fun p : Nat × Nat × List Nat => decide (encodeFp fE4M3 .ne ((f32 (BitVec.ofNat 32 p.1)).scale 5) = p.2)) = true := by
  decide +kernel

/-- The scale codes of the same row: 11.5 against 448 and against 6. -/
theorem test_row_scales : scaleCode 23 (-1) 448 0 = 0x7A ∧ scaleCode 23 (-1) 6 0 = 0x80 := by decide +kernel

/-- Chapter 6: σ(1.3) by the shipped curve 0x0008 rounds to 201 × 2⁻⁸ in BF16. -/
theorem test_sigmoid : (encodeFp fBF16 .ne (evalSlot (Curve.ofShipped 8) (f32 0x3FA66666)).exact).1 = 0x3F49 := by decide +kernel

/-- Chapter 10: the learning rate of the worked example, and the bias correction of β₂ at step 1. -/
theorem test_girth :
    segScalar { start := 1, len := 2000, v0 := 0, v1 := 0x399D4952, p := 0, kind := 1, raw := 0 } 1001 = 0x391D4952 ∧
    segScalar { start := 2001, len := 98000, v0 := 0x399D4952, v1 := 0x37FBA882, p := 0, kind := 3, raw := 0 } 51001 = 0x392D03DA ∧
    segScalar { start := 2001, len := 98000, v0 := 0x399D4952, v1 := 0x37FBA882, p := 0, kind := 3, raw := 0 } 100001 = 0x37FBA882 ∧
    biasCorrect 0x3F7FBE77 1 = 0x447A00D3 := by
  decide +kernel

end Sys2Proof.Tests
end

