-- ==== Sys2Proof/Tests/Witnesses.lean ====
section
/-! SUPPORT. Witnesses: for every statement with hypotheses a state and operands that meet them, clause by
clause, at boundary values. A witness is named wit_, the statement's name, and the clause. -/

namespace Sys2Proof.Tests
open Sys2Proof Sys2Proof.Machine

section Witnesses
set_option Elab.async false

/-! ### States and operands -/

/-- A device in service: locked, channel 5 bound from master 0x10 to core 0 with control rights, ring 0 set up. -/
def base : State :=
  { hub := { running := true, step := 3, deviceId := 8, scalars := true },
    pins := { powerGood := true },
    cnt := { stage := 0x10 },
    regions := [(0, { released := true })],
    mbx := { locked := true, bind := [(5, BitVec.ofNat 64 (2 ^ 63 + 2 ^ 34 + 0x20 * 256 + 0x10))],
             rings := [(0, { valid := true, log2 := 6, base := 0x100000, headAddr := 0x90000 })] } }

def cx : Cx := ⟨0, 0⟩

/-- Context 0 of cell 0 holds `c`. -/
def withCtx (c : Ctx) : State := base.updCtx cx fun _ => c

/-- It is ready, at the start of the store, with s1 = 1 and s2 and s3 in the cell's store. -/
def vec : State :=
  withCtx { st := .ready, sreg := [(1, 1), (2, BitVec.ofNat 64 (cellBase + 0x4000)), (3, BitVec.ofNat 64 (cellBase + 0x8000))] }

/-- Register-form fields: type, destination, operands, immediate. -/
def vr (t d a b c i : Nat) : Vr :=
  { vd := BitVec.ofNat 5 d, va := BitVec.ofNat 5 a, vb := BitVec.ofNat 5 b, vc := BitVec.ofNat 5 c, ty := BitVec.ofNat 2 t,
    imm := BitVec.ofNat 17 i }

def sc (d a b i : Nat) : Sc :=
  { sd := BitVec.ofNat 4 d, sa := BitVec.ofNat 4 a, sb := BitVec.ofNat 4 b, imm := BitVec.ofNat 40 i }

/-- Stream-form fields: format of D and of A and B, type, scalar registers, elements. -/
def vs (fd fa t d a b c n : Nat) : Vs :=
  { sd := BitVec.ofNat 4 d, sa := BitVec.ofNat 4 a, sb := BitVec.ofNat 4 b, sc := BitVec.ofNat 4 c, fmtD := BitVec.ofNat 4 fd,
    fmtA := BitVec.ofNat 4 fa, fmtB := BitVec.ofNat 4 fa, ct := BitVec.ofNat 2 t, cnt := BitVec.ofNat 13 (n - 1) }

/-! ### Witnesses of the statements: vector and scalar instructions -/

theorem wit_StepRunsFront_idle : base.pending = [] ∧ base.hub.running = true := by decide +kernel

theorem wit_IdleStepCounts :
    (∀ r, r < 4 → (base.region r).colls = []) ∧ (∀ l, l < 24 → (base.link l).paused = []) ∧ base.hrw.configured = false := by
  decide +kernel

theorem wit_StepKeepsCanonical : vec.mapsWf = true := by decide +kernel

theorem wit_LockStaysSet : base.mbx.locked = true := by decide +kernel

theorem wit_LaneArithmetic :
    issues vec cx = true
      ∧ (laneArith.all fun p => p.2.1.all fun t => vrOk (vr t 31 31 31 31 0) p.2.1 0 && vrOk (vr t 0 0 0 0 0) p.2.1 0) = true := by
  decide +kernel

theorem wit_IntegerLanes :
    issues vec cx = true ∧ ∀ t ∈ [tyI, tyU], vrOk (vr t 1 2 3 0 0) [tyI, tyU] 0 = true
      ∧ vrActive (vec.ctx cx) (vr t 1 2 3 0 0) 0 = true ∧ vrActive (vec.ctx cx) (vr t 1 2 3 0 0) 511 = true := by
  decide +kernel

theorem wit_LaneMovesResult :
    issues vec cx = true
      ∧ (laneMoves.all fun p => [tyF, tyI, tyU].any fun t => p.2.1 (vr t 1 15 3 0 0) && p.2.1 (vr t 31 0 31 0 0)) = true := by
  decide +kernel

theorem wit_MaskResults :
    issues vec cx = true ∧ vrOk (vr tyI 7 2 3 0 5) [tyF, tyI, tyU] 7 = true ∧ vrOk (vr tyF 7 7 7 0 0) [tyF] 0 = true
      ∧ (vr tyI 7 2 3 0 5).d < 8 ∧ (vr tyF 7 7 7 0 0).d < 8 ∧ (vr tyF 7 7 7 0 0).a < 8 ∧ (vr tyF 7 7 7 0 0).b < 8 := by
  decide +kernel

theorem wit_LaneReductions :
    issues vec cx = true
      ∧ (laneReds.all fun p => p.2.1.all fun t => vrOk (vr t 15 31 0 0 0) p.2.1 0) = true
      ∧ (vr tyF 15 31 0 0 0).d < 16
      ∧ vrActives (vec.ctx cx) { vr tyF 1 2 0 0 0 with men := true } = [] ∧ (vr tyF 1 2 0 0 0).d ≠ 0 := by
  decide +kernel

theorem wit_LaneExtractInsert :
    issues vec cx = true ∧ vrOk (vr tyI 15 15 0 0 511) [tyF, tyI, tyU] 0x1FF = true
      ∧ (vr tyI 15 15 0 0 511).d < 16 ∧ (vr tyI 15 15 0 0 511).a < 16 := by
  decide +kernel

theorem wit_MaskMemory :
    issues vec cx = true ∧ vrOk (vr tyF 7 2 0 0 0) [tyF] 0 = true ∧ (vr tyF 7 2 0 0 0).a < 16
      ∧ reach vec cx (sget (vec.ctx cx) 2).toNat 64 = true ∧ (vr tyF 7 2 0 0 0).d < 8 := by
  decide +kernel

theorem wit_VectorMemory :
    issues vec cx = true ∧ vrMemOk vec cx (vr tyF 1 2 0 0 0) false = none ∧ vrMemOk vec cx (vr tyF 1 2 0 0 0x10) true = none
      ∧ natBit (vr tyF 1 2 0 0 0x10).i 4 = true := by
  decide +kernel

/-- Indices 0: every lane names one element. -/
theorem wit_GatherScatter :
    issues vec cx = true ∧ vrGsReach vec cx (vr tyF 1 4 2 3 0) = true
      ∧ vrGsOk vec cx (vr tyF 1 4 2 3 0) [tyF, tyI, tyU] false = none
      ∧ vrGsReach vec cx (vr tyI 1 4 2 3 0x1000) = true ∧ vrGsOk vec cx (vr tyI 1 4 2 3 0x1000) [tyF, tyI] true = none := by
  decide +kernel

theorem wit_ScalarResults :
    issues vec cx = true ∧ (scalarAlu.all fun p => p.2.1 (sc 15 1 0 5)) = true
      ∧ scOk (sc 2 0 0 0) true false false 8 = true ∧ specialReg vec cx 0 ≠ none := by
  decide +kernel

theorem wit_BranchTargets :
    issues vec cx = true ∧ (branches.all fun p => p.2.1 (sc 0 0 0 (2 ^ 40 - 1))) = true
      ∧ scOk (sc 0 1 0 4) false true false 40 = true := by
  decide +kernel

theorem wit_ScalarMemory :
    issues vec cx = true ∧ scOk (sc 4 2 0 8) true true false 40 = true ∧ scOk (sc 0 2 1 8) false true true 40 = true
      ∧ scAddr vec cx (sc 4 2 0 8) % 8 = 0 ∧ reach vec cx (scAddr vec cx (sc 4 2 0 8)) 8 = true
      ∧ scAddr vec cx (sc 0 2 1 8) % 8 = 0 ∧ reach vec cx (scAddr vec cx (sc 0 2 1 8)) 8 = true
      ∧ scOk (sc 0 1 0 3) false true false 8 = true ∧ (sc 0 1 0 3).imm.toNat = 3 := by
  decide +kernel

/-- An operation of a kernel that runs on cell 0. -/
def kid : OpId := ⟨5, 77⟩
def kernelEntry : OpEntry := { id := kid, opcode := 0x201, phase := .running, cells := [0], admitted := true, started := true }
/-- As `vec`, the context being that operation's, in wait state `w`. -/
def kctx (w : CtxState) : State := { withCtx { (vec.ctx cx) with st := w, op := some kid } with ops := [kernelEntry] }
/-- Beside it, a product and a transfer that the context issued. -/
def kbusy (w : CtxState) : State :=
  (kctx w).updCell 0 fun c => { c with
    arr := { c.arr with queue := [{ pid := 1, issuer := some cx, op := kid }] },
    dma := { c.dma with queue := [{ issuer := some cx, op := kid }] } }

theorem wit_WaitsAndBarriers :
    issues (kctx .ready) cx = true ∧ issues (kbusy .ready) cx = true ∧ scOk (sc 0 0 0 0) false false false 0 = true
      ∧ productsOf (kctx .ready) cx = [] ∧ dmaOf (kctx .ready) cx = [] ∧ productsOf (kbusy .ready) cx ≠ []
      ∧ dmaOf (kbusy .ready) cx ≠ []
      ∧ (∀ w ∈ [CtxState.await, .dwait, .ended], ((kctx w).ctx cx).st = w ∧ productsOf (kctx w) cx = [] ∧ dmaOf (kctx w) cx = [])
      ∧ ((kctx .bar).ctx cx).st = .bar ∧ ((kctx .bar).ctx cx).op = some kid ∧ barReady (kctx .bar) 0 kid = true := by
  decide +kernel

/-- Four products wait in the queue. -/
def kfull : State :=
  (kctx .ready).updCell 0 fun c => { c with arr := { c.arr with queue := List.replicate 4 {} } }

/-- The kernel's class is DEFERRED. -/
def kdeferred : State := { kctx .ready with ops := [{ kernelEntry with cls := clsDEF }] }

/-- A descriptor of KIND 2 stands at s2. -/
def kgather : State := memWrite (kctx .ready) (cellBase + 0x4000) [2]

theorem wit_IssueToQueues :
    issues (kctx .ready) cx = true ∧ scOk (sc 0 1 0 0x3F) false true false 40 = true ∧ ((kctx .ready).ctx cx).op = some kid
      ∧ ((kctx .ready).cell 0).arr.queue.length < 4 ∧ 4 ≤ (kfull.cell 0).arr.queue.length ∧ issues kfull cx = true
      ∧ issuesDeferred (kctx .ready) kid = false ∧ issuesDeferred kdeferred kid = true ∧ (kdeferred.ctx cx).op = some kid
      ∧ issues kdeferred cx = true ∧ (kdeferred.cell 0).arr.dqueue.length < 4
      ∧ rdNat kgather (scAddr kgather cx (sc 0 2 0 0)) 1 % 16 = 2
      ∧ (rangeMem (scAddr kgather cx (sc 0 2 0 0)) 128).isSome = true ∧ issues kgather cx = true
      ∧ ((kctx .ready).cell 0).dma.queue.length < 32 ∧ (kgather.block 0).gs.queue.length < 16 := by
  decide +kernel

/-- The program counter is the last word of the store, and the word after it. -/
def atPc (n : Nat) : State := (kctx .ready).updCtx cx fun c => { c with pc := n }

theorem wit_FaultsEndKernel :
    ready (atPc cellSize) cx = true ∧ cellSize < ((atPc cellSize).ctx cx).pc + 8 ∧ issues (atPc (cellSize - 8)) cx = true
      ∧ vrOk { vr tyF 1 2 3 0 0 with b55 := true } [tyF, tyI, tyU] 0 = false
      ∧ ((atPc cellSize).ctx cx).op = some kid ∧ (atPc cellSize).op? kid = some kernelEntry
      ∧ kernelEntry.phase = .running ∧ kernelEntry.stats = [] := by
  decide +kernel

/-- Parameter blocks of one row stand at s4, with P0 = 0, and at s6, with P0 = 1. -/
def rows : State :=
  let s := (kctx .ready).updCtx cx fun c =>
    sset (sset (sset c 4 (BitVec.ofNat 64 (cellBase + 0xC000))) 5 1) 6 (BitVec.ofNat 64 (cellBase + 0xC040))
  memWrite (memWrite s (cellBase + 0xC000) [1]) (cellBase + 0xC040) (1 :: List.replicate 33 0 ++ [0x80, 0x3F])

def streamFields : List Vs :=
  [vs 0 0 0 2 3 2 3 8192, { vs 0 0 0 2 3 2 3 8192 with bb := true }, vs 0 0 3 2 3 2 3 1, vs 0 0 0 2 3 5 3 512,
    vs 0 0 0 2 3 2 4 512, vs 0 0 0 2 3 2 6 512]

theorem wit_StreamsBegin :
    issues rows cx = true
      ∧ (streamOps.all fun p => streamFields.any fun f => p.2.2 rows cx f == none) = true
      ∧ (streamOps.all fun p =>
          p.2.2 rows cx { vs 0 0 0 0 0 0 0 512 with bb := true, blk := true, ms := true } == some stBADDESC) = true
      ∧ stBADDESC ≠ stPOISON := by
  decide +kernel

theorem wit_SelectCompareStreamsBegin :
    issues rows cx = true
      ∧ ewCheck rows cx (vs 5 0 0 2 3 2 3 512) { useB := true } (decide ((vs 5 0 0 2 3 2 3 512).fd < 8)
          && decide ((sget (rows.ctx cx) 2).toNat % 64 = 0)) false = none
      ∧ reach rows cx (sget (rows.ctx cx) 2).toNat (ceilDiv 512 8) = true
      ∧ ewCheck rows cx (vs 0 0 0 2 3 2 3 512) { useB := true } (!(vs 0 0 0 2 3 2 3 512).ms && stAligned rows cx (vs 0 0 0 2 3 2 3 512).c) true = none
      ∧ reach rows cx (sget (rows.ctx cx) 3).toNat (ceilDiv 512 8) = true
      ∧ (vs 0 0 3 2 3 2 3 512).t = 3 ∧ (vs 0 0 3 2 3 2 3 512).fd = 0 ∧ (vs 0 0 0 2 3 2 3 512).t = 0
      ∧ ewCheck rows cx (vs 0 0 0 2 3 2 3 512) { useA := false } true true = none
      ∧ ewCheck rows cx (vs 0 0 3 2 3 2 3 512) { useA := false } true false = none
      ∧ reach rows cx (sget (rows.ctx cx) 2).toNat (4 * 512) = true := by
  decide +kernel

/-- A stream instruction of 513 elements in progress, at chunk `n`. -/
def streaming (opc n : Nat) : State :=
  rows.updCtx cx fun c => { c with stream := some { opc := opc, f := vs 0 0 0 2 3 2 3 513, pos := n } }

theorem wit_StreamChunks :
    ∀ opc ∈ [0x40, 0x5A, 0x74], ∀ n ∈ [0, 1],
      ((streaming opc n).ctx cx).st = .ready
        ∧ ((streaming opc n).ctx cx).stream = some { opc := opc, f := vs 0 0 0 2 3 2 3 513, pos := n }
        ∧ ((streaming opc n).region (cx.cell / 40)).clkSwitching = false ∧ granted (streaming opc n) cx = true
        ∧ (if n = 0 then (n + 1) * 512 < 513 else 513 ≤ (n + 1) * 512) := by
  decide +kernel

/-! ### Witnesses: the array, the drain, the DMA engines and block jobs -/

/-- `n` bytes with the given (offset, length, value) fields. -/
def fields (n : Nat) (l : List (Nat × Nat × Nat)) : List Byte :=
  l.foldl (fun m x => m.take x.1 ++ leBytes x.2.1 x.2.2 ++ m.drop (x.1 + x.2.1)) (List.replicate n 0)

/-- A product descriptor: 130 × 129 × 1, BF16 (formats index 1), in the cell's store; with `drain` its one drain. -/
def pdBytes (drain : Bool) : List Byte :=
  fields 64 [(0, 4, 0x11 + (if drain then 2 ^ 16 else 0)), (4, 4, 130), (8, 4, 129), (0xC, 4, 1),
    (0x10, 8, cellBase + 0x20000), (0x18, 8, cellBase + 0x40000), (0x30, 4, if drain then 0x8000 else 0),
    (0x34, 4, 0x100000), (0x38, 2, 1)]
def ddBytes : List Byte := fields 128 [(0, 4, 1), (0x20, 8, cellBase + 0x60000)]

/-- Cell 0 with BF16 at index 1, the descriptors in memory at offsets 0x4000 and 0x8000. -/
def arrBase : State :=
  let s := memWrite (memWrite base (cellBase + 0x4000) (pdBytes true)) (cellBase + 0x8000) ddBytes
  s.updCell 0 fun c => { c with fmt := [(1, 1)] }

def prod : Product :=
  { pid := 1, addr := cellBase + 0x4000, op := kid, desc := pdBytes true, drn := ddBytes }

def arrWith (f : Arr → Arr) : State := arrBase.updArr 0 f

theorem wit_ProductQueues :
    let q : Product := { pid := 1, addr := cellBase + 0x4000, op := kid }
    let s := arrWith fun a => { a with queue := [q] }
    let d := arrWith fun a => { a with dqueue := [{ q with deferred := true }] }
    let y := arrWith fun a => { a with yielded := some prod }
    let z := arrWith fun a => { a with cur := some { prod with deferred := true }, queue := [q], st := .streaming }
    cellRuns s 0 = true ∧ (s.cell 0).arr.cur = none ∧ (s.cell 0).arr.st = .idle ∧ (s.cell 0).arr.queue = [q]
      ∧ heldNext (s.cell 0).arr false = false ∧ q.saved = none ∧ productStatus s (homeCell 0) q.op q.addr = 0
      ∧ (d.cell 0).arr.dqueue = [{ q with deferred := true }] ∧ (d.cell 0).arr.queue = [] ∧ heldNext (d.cell 0).arr true = false
      ∧ productStatus d (homeCell 0) q.op q.addr = 0 ∧ cellRuns d 0 = true
      ∧ (y.cell 0).arr.cur = none ∧ (y.cell 0).arr.yielded = some prod ∧ (y.cell 0).arr.queue = [] ∧ cellRuns y 0 = true
      ∧ (z.cell 0).arr.cur = some { prod with deferred := true } ∧ (z.cell 0).arr.queue ≠ [] ∧ cellRuns z 0 = true := by
  decide +kernel

theorem wit_PassesAndRows :
    let s := arrWith fun a => { a with cur := some prod, st := .firstLoad }
    let p : Product := { prod with open_ := true, row := 127 }
    let t := arrWith fun a => { a with cur := some p, st := .streaming }
    let sp : Product := { prod with desc := fields 64 [(0, 4, 0x30011), (4, 4, 1), (8, 4, 1), (0xC, 4, 1),
      (0x10, 8, cellBase + 0x20000), (0x34, 4, 0x100000), (0x38, 2, 1)] }
    let u := memWrite (arrWith fun a => { a with cur := some sp, st := .firstLoad }) (cellBase + 0x20000) [0, 1, 1, 0, 1]
    (s.cell 0).arr.cur = some prod ∧ rowsFree s 0 prod = true ∧ prod.open_ = false ∧ prod.ended = false ∧ prod.pd.sparse = false
      ∧ sp.pd.sparse = true ∧ rowsFree u 0 sp = true
      ∧ headOk (rdBytes u (headSlot (u.cell 0) sp) 16) (sp.fa (u.cell 0)).code (tilePos sp.pd sp.tile).1 sp.ktile sp.pd.m sp.pd.k = true
      ∧ (t.cell 0).arr.cur = some p ∧ rowsFree t 0 p = true ∧ p.open_ = true ∧ lastPass (t.cell 0) p = true ∧ p.pd.drained = true
      ∧ bufRoom (t.cell 0).arr p = true := by
  decide +kernel

/-- The tile's rows are all in its buffer. -/
def buf : TileBuf := { prod := prod, rows := (List.range 128).map fun i => (i, ({ vals := [] } : DrnRow)) }
/-- The same product with a transposed drain into E4M3 with its own scales. -/
def swept : Product :=
  { prod with drn := fields 128 [(0, 4, 2 + 64), (0x20, 8, cellBase + 0x60000), (0x28, 8, cellBase + 0xF0000)] }

theorem wit_DrainWrites :
    let s := arrWith fun a => { a with bufs := [buf] }
    let b : TileBuf := { buf with prod := swept }
    let t := (arrWith fun a => { a with bufs := [b] }).updCell 0 fun c => { c with fmt := [(1, 1), (2, 3)] }
    let u := arrWith fun a => { a with draining := [prod] }
    cellRuns s 0 = true ∧ (s.cell 0).arr.bufs = [buf] ∧ unitReady (s.cell 0) buf buf.units = true ∧ buf.units < unitCount (s.cell 0) prod
      ∧ cellRuns t 0 = true ∧ (t.cell 0).arr.bufs = [b] ∧ wholeTile (t.cell 0) b.prod.dd = true ∧ b.swept = false
      ∧ unitReady (t.cell 0) { b with swept := true } 0 = true
      ∧ (u.cell 0).arr.draining = [prod] ∧ ((u.cell 0).arr.bufs.any fun b => b.prod.pid == prod.pid) = false ∧ prod.unit = none := by
  decide +kernel

theorem wit_TileContexts :
    let p : Product := { prod with saved := some (cellBase + 0x100000) }
    let s := arrWith fun a => { a with cur := some prod, st := .streaming, preReq := true }
    let e := arrWith fun a => { a with cur := some prod, st := .emptying }
    let v := arrWith fun a => { a with cur := some prod, st := .saving }
    let r := arrWith fun a => { a with cur := some p, st := .restoring }
    let b := arrWith fun a => { a with cur := some prod, st := .streaming, abortReq := [kid] }
    cellRuns s 0 = true ∧ (s.cell 0).arr.cur = some prod ∧ (s.cell 0).arr.preReq = true ∧ atBoundary (s.cell 0) prod = true
      ∧ (s.cell 0).arr.st = .streaming ∧ atBoundary (e.cell 0) prod = true ∧ (e.cell 0).arr.st = .emptying ∧ cellRuns e 0 = true
      ∧ (v.cell 0).arr.st = .saving ∧ (v.cell 0).arr.cur = some prod ∧ cellRuns v 0 = true
      ∧ (r.cell 0).arr.st = .restoring ∧ (r.cell 0).arr.bufs.length < 2 ∧ (r.cell 0).arr.cur = some p ∧ cellRuns r 0 = true
      ∧ (b.cell 0).arr.abortReq ≠ [] ∧ (s.region 0).clkTarget = none := by
  decide +kernel

/-- A copy of one element within cell 0's store. -/
def tdBytes : List Byte := fields 128 [(8, 8, cellBase + 0x20000), (16, 8, cellBase + 0x30000)]
def tdItem : DmaItem := { addr := cellBase + 0x4000, op := kid }
def dmaWith (f : Dma → Dma) : State := (memWrite base (cellBase + 0x4000) tdBytes).updCell 0 fun c => { c with dma := f c.dma }
/-- An operation of group 0x01xx with one running descriptor on region engine 0. -/
def dmaOp : OpEntry := { id := kid, opcode := 0x101, phase := .running }
def dmaRuns : State :=
  { base.updRegion 0 fun g => { g with dma := { g.dma with running := [tdItem] } } with ops := [dmaOp] }

theorem wit_DmaChains :
    let s := dmaWith fun q => { q with queue := [tdItem] }
    let d := TD.of (rdBytes s tdItem.addr 128)
    let x := dmaWith fun q => { q with queue := [tdItem], running := [tdItem], stopping := true }
    (s.dma (.cell 0)).queue = [tdItem] ∧ engineRuns s (.cell 0) = true ∧ (s.dma (.cell 0)).running.length < (Engine.cell 0).width
      ∧ (s.dma (.cell 0)).stopping = false ∧ dmaStatus s (.cell 0) tdItem = 0 ∧ d.order = false ∧ ownAddr s d.remS d.src = true
      ∧ (dmaRuns.dma (.region 0)).running.find? (itemWhole dmaRuns) = some tdItem ∧ engineRuns dmaRuns (.region 0) = true
      ∧ dmaRuns.mapsWf = true ∧ dmaRuns.op? kid = some dmaOp ∧ dmaOp.opcode / 256 = 1 ∧ itemsOf dmaRuns kid = [tdItem]
      ∧ (x.dma (.cell 0)).stopping = true := by
  decide +kernel

/-- A job on block 0 of one output tile and two K-tiles, from empty blocks, on cell 3. -/
def jobProd : List Byte :=
  fields 64 [(0, 4, 0x30011), (4, 4, 128), (8, 4, 128), (0xC, 4, 256), (0x10, 8, blkBase + 0x100000), (0x18, 8, blkBase + 0x200000),
    (0x30, 4, 0x8000), (0x34, 4, 0x100000), (0x38, 2, 1)]
def job : SpsJob := { op := kid, addr := blkBase + 0x4000, prod := jobProd, drn := ddBytes, cells := 8 }
def wunit : WUnit := { a := 0, b := 1 }
def planned : SpsJob := { job with units := [wunit], planned := true }
def jobWith (j : SpsJob) : State := (base.updBlock 0 fun b => { b with job := some j }).updCell 3 fun c => { c with fmt := [(1, 1)] }
def unitProd : Product :=
  { prod with unit := some { ix := 0, a := 0, b := 1 }, ended := true, desc := jobProd }
def jobRuns : State :=
  (jobWith { planned with units := [{ wunit with cell := some 3 }] }).updArr 3 fun a => { a with cur := some unitProd, st := .streaming }

theorem wit_BlockJobs :
    let s := jobWith job
    let plan := planUnits s { job with preds := readPreds s job } (fmtOf (s.cell 3) job.pd.fmtA)
    let us := (plan.zip (List.range plan.length)).map fun u => { u.1 with done := decide (u.2 < job.next) }
    let d := jobWith planned
    let x := jobWith { planned with stopping := true }
    (s.block 0).job = some job ∧ schedRuns s 0 = true ∧ job.aborting = false ∧ job.planned = false ∧ job.stopping = false
      ∧ us = [wunit] ∧ (us.all fun u => decide ((({ job with units := us } : SpsJob).tileOf u).length ≤ job.slots + 1)) = true
      ∧ (d.block 0).job = some planned ∧ planned.nextUnit = some (0, wunit) ∧ natBit planned.cells 3 = true
      ∧ planned.mayStart wunit = true ∧ cellRuns d 3 = true ∧ (d.cell 3).arr.cur = none ∧ (d.cell 3).arr.st = .idle
      ∧ heldNext (d.cell 3).arr false = false
      ∧ (jobRuns.cell 3).arr.cur = some unitProd ∧ unitProd.op = job.op ∧ cellRuns jobRuns 3 = true ∧ schedRuns jobRuns 0 = true
      ∧ (x.block 0).job = some { planned with stopping := true } ∧ schedRuns x 0 = true
      ∧ ({ planned with stopping := true } : SpsJob).nextUnit = some (0, wunit)
      ∧ ((List.range 8).any fun i => ((x.cell i).arr.cur.toList ++ (x.cell i).arr.draining).any fun p => p.op == kid) = false
      ∧ (planned.units.all fun v => v.done || !(planned.tileOf v).any WUnit.started) = true := by
  decide +kernel

/-! ### Witnesses: the mailbox, kernels and tables -/

/-- A notice of 16 bytes for the descriptor at `a` with tag 77. -/
def notice (a : Nat) : List Byte := fields 16 [(0, 8, a), (8, 4, 77)]
def slotW : SlotWrite := { master := 0x10, addr := slotBase + 80, data := notice 0x4000 }
/-- A proxy entry maps device 9 to identity 0x81, to which channel 6 is bound. -/
def proxied : State :=
  let s := base
  { s with
    hub := { s.hub with proxy := [(0, BitVec.ofNat 64 (2 ^ 63 + 2 ^ 40 + 2 ^ 32 + 9 * 65536 + 9))] }
    mbx := { s.mbx with bind := [(6, BitVec.ofNat 64 (2 ^ 63 + 2 ^ 33 + 0x20 * 256 + 0x81))] } }
def remoteW : SlotWrite := { master := 0x81, addr := slotBase + 96, data := notice 0x4000, remote := some ⟨9, 0⟩ }

theorem wit_SlotWrites :
    let full := { base with mbx := { base.mbx with slots := [(5, { full := true })] } }
    let early := { base with mbx := { base.mbx with locked := false } }
    inSlots slotW.addr = true ∧ localId slotW.master = true ∧ base.mbx.locked = true
      ∧ slotW.addr % 16 = 0 ∧ slotW.data.length = 16 ∧ bindValid base 5 = true ∧ bindSend base 5 = slotW.master
      ∧ (base.slot 5).full = false ∧ (full.slot 5).full = true ∧ full.mbx.locked = true
      ∧ bindValid base 6 = false ∧ early.mbx.locked = false
      ∧ inSlots remoteW.addr = true ∧ bindValid proxied 6 = true ∧ bindSend proxied 6 = proxyId proxied ⟨9, 0⟩ := by
  decide +kernel

/-- A launch of one context on cell 0 with its arguments at 0x5000. -/
def launch : List Byte := fields 128 [(0, 2, 0x201), (0x10, 8, 1), (0x18, 2, 1), (0x1C, 4, 0x100), (0x20, 8, 0x5000), (0x30, 8, 3)]
/-- Its notice waits in channel 5. -/
def noticed (n : List Byte) : State :=
  let s := memWrite base 0x4000 launch
  { s with mbx := { s.mbx with slots := [(5, { full := true, notice := n })] } }

theorem wit_SlotTakes :
    bindValid base 5 = true ∧ bindRecv base 5 = 0x20 ∧ bindValid base 4 = false ∧ (base.slot 5).full = false
      ∧ ((noticed (notice 0x4000)).slot 5).full = true ∧ isCore 0x20 = true ∧ rolacTakes (noticed (notice 0x4000)) 5 = true
      ∧ acceptStatus (noticed (notice 0x4000)) 5 (notice 0x4000) = stOK
      ∧ acceptStatus (noticed (notice 0x4040)) 5 (notice 0x4040) ≠ stOK := by
  decide +kernel

/-- 1,024 operations wait, so that core 0 takes no more. -/
theorem wit_SlotTakes_full :
    rolacTakes { noticed (notice 0x4000) with ops := List.replicate 1024 {} } 5 = false := by
  decide +kernel

/-- An admitted operation. -/
def adm (opc : Nat) (d : List Byte) : OpEntry := { id := kid, opcode := opc, phase := .admitted, admitted := true, desc := d }
def withOp (s : State) (e : OpEntry) : State := { s with ops := [e] }

theorem wit_AdmissionAndRecords :
    let w : OpEntry := { adm 0x201 launch with phase := .waiting, admitted := false }
    let far := base.updLink 4 fun k => { k with mode := 1, tunnels := [(0, { txSeq := 1 })] }
    let f : OpEntry := { adm 0x201 launch with phase := .finished }
    let p : OpEntry := { f with preempt := true, stats := [stPREEMPTED] }
    let full := { withOp base f with mbx := { base.mbx with rings := [(0, { valid := true, log2 := 6, base := 0x100000, tail := 64 })] } }
    (withOp base w).ops.find? (fun e => e.region == 0 && admissible (withOp base w) e) = some w ∧ (withOp base w).op? w.id = some w
      ∧ base.ops = []
      ∧ kid.channel < 256 ∧ ringFor base 0 = some 0 ∧ ringFor base 63 = some 0 ∧ (base.ring 0).free = true ∧ fencedAddr base 0x100000 = false
      ∧ farFromRetry base 0x100000 64 = true ∧ farFromRetry far 0x100000 64 = false ∧ farFromRetry far 0x10000040 64 = true
      ∧ ({ base with refused := [f] }).refused.find? (fun x => x.id == kid) = some f
      ∧ (withOp base f).refused = [] ∧ (withOp base f).op? kid = some f ∧ outcomeOf (withOp base f) f = some f ∧ f.preempt = false
      ∧ outcomeOf (withOp base p) p = some p ∧ p.preempt = true
      ∧ (full.ring 0).free = false ∧ outcomeOf full f = some f := by
  decide +kernel

theorem wit_RingsAndSamples :
    let b := { base with hub := { base.hub with busy := true } }
    let e := adm 0x602 (fields 32 [(0, 2, 0x602), (0x10, 8, 0x6000)])
    let r : OpEntry := { e with phase := .running }
    (base.ring 0).valid = true ∧ fencedAddr base (base.ring 0).headAddr = false ∧ localId 0x20 = true ∧ base.hub.busy = false
      ∧ b.hub.busy = true
      ∧ (withOp base e).op? e.id = some e ∧ rangeStatus (withOp base e) e.resident (fld e.desc 0x10 8) 48 = stOK
      ∧ zeros e.desc 0x18 0x20 = true ∧ (withOp base r).op? r.id = some r ∧ fencedRange (withOp base r) (fld r.desc 0x10 8) 48 = false
      ∧ r.cls ≠ clsUPD := by
  decide +kernel

/-- A block job's descriptors lie in block 0's store. -/
def jobDesc : List Byte := fields 64 [(0, 8, blkBase + 0x5000), (0x1C, 1, 8)]
def jobMem : State :=
  let s := memWrite base (blkBase + 0x4000) jobDesc
  let s := memWrite s (blkBase + 0x5000) (fields 64 [(0, 4, 0x21511), (4, 4, 128), (8, 4, 128), (0xC, 4, 256),
    (0x10, 8, blkBase + 0x100000), (0x18, 8, blkBase + 0x200000), (0x34, 4, 0x300000), (0x38, 2, 1)])
  s.updCell 3 fun c => { c with fmt := [(1, 1)] }
def jobEntry : OpEntry := adm 0x202 (fields 32 [(0, 2, 0x202), (0x10, 8, blkBase + 0x4000)])

theorem wit_WorkStarts :
    let k := adm 0x201 launch
    let g := adm 0x201 (fields 128 [(0, 2, 0x201), (0x10, 8, 1), (0x18, 2, 1), (0x20, 8, 0x5000), (0x50, 8, 0x10000), (0x58, 8, 64)])
    let z := adm 0x201 (fields 128 [(0, 2, 0x201)])
    let s := withOp jobMem jobEntry
    Admitted (withOp base k) 0x201 k ∧ kernelStatus (withOp base k) k = stOK ∧ declaresFirst (withOp base k) k = false
      ∧ declaresFirst (withOp base g) g = false
      ∧ Admitted { base with ops := [{ g with id := ⟨9, 1⟩ }, g] } 0x201 g
      ∧ declaresFirst { base with ops := [{ g with id := ⟨9, 1⟩ }, g] } g = true
      ∧ kernelStatus (withOp base g) g = stOK ∧ fld g.desc 0x58 8 = 64
      ∧ Admitted (withOp base z) 0x201 z ∧ kernelStatus (withOp base z) z ≠ stOK
      ∧ Admitted s 0x202 jobEntry ∧ jobStatus s jobEntry = stOK ∧ jobEntry.released = true ∧ updateFree s jobEntry = true
      ∧ (s.block 0).job = none := by
  unfold Admitted
  decide +kernel

theorem wit_WorkStarts_transfers :
    ∀ opc ∈ [0x101, 0x102, 0x103, 0x507],
      let e := adm opc (fields 32 [(0, 2, opc), (0x10, 8, 0x4000), (0x18, 1, if opc = 0x102 ∨ opc = 0x103 then 4 else 0)])
      let s := withOp base e
      s.op? e.id = some e ∧ e.opcode = opc ∧ e.phase = .admitted ∧ zeros e.desc 0x19 0x20 = true
        ∧ (if opc = 0x102 ∨ opc = 0x103 then fld e.desc 0x18 1 < 5 ∧ fencedBlock s 4 = false else fld e.desc 0x18 1 = 0)
        ∧ (let g : Engine := if opc = 0x102 then .block 4 else if opc = 0x103 then .gs 4 else .region 0
          (s.dma g).queue.length < engineDepth g) := by
  decide +kernel

/-- INV_ROOT of a 32 × 32 matrix in HBM. -/
def irBody : List Byte :=
  fields 80 [(0, 2, 0x203), (0x10, 8, 0x10000), (0x18, 8, 0x20000), (0x20, 8, 0x30000), (0x28, 8, 0x40000), (0x30, 8, 0x50000),
    (0x38, 4, 32), (0x3C, 1, 4), (0x3D, 1, 8), (0x48, 4, 0x3F000000)]

theorem wit_InverseRootRuns :
    let e := adm 0x203 irBody
    let h : OpEntry := { e with cls := clsUPD }
    let s := withOp { base with hub := { base.hub with scalars := false } } h
    let n := memWrite (withOp base e) 0x10000 (leBytes 4 0x7FC00000)
    let w : OpEntry := { e with phase := .held }
    let u : OpEntry := { e with phase := .running }
    Admitted (withOp base e) 0x203 e ∧ invRootStatus (withOp base e) e = stOK ∧ updateFree (withOp base e) e = true
      ∧ (mayUpdate (withOp base e) e && irCtxsFree (withOp base e) e) = true
      ∧ (withOp base w).op? w.id = some w ∧ w.opcode = 0x203 ∧ w.released = true ∧ (mayUpdate (withOp base w) w && irCtxsFree (withOp base w) w) = true
      ∧ (withOp base u).op? u.id = some u ∧ u.irCells.all (cellRuns (withOp base u)) = true
      ∧ (readFp32s (withOp base u) u.irG u.irBytes).any (fun w => !finite32 w) = false
      ∧ (∀ i, i < 32 → masked (withOp base u) clsUPD false (u.irResult + i) = false)
      ∧ Admitted s 0x203 h ∧ invRootStatus s h = stOK ∧ updateFree s h = false
      ∧ Admitted n 0x203 e ∧ invRootStatus n e = stOK ∧ (readFp32s n e.irG e.irBytes).any (fun w => !finite32 w) = true := by
  unfold Admitted
  decide +kernel

def saveLaunch : List Byte :=
  fields 128 [(0, 2, 0x201), (0x10, 8, 1), (0x18, 2, 1), (0x20, 8, 0x5000), (0x38, 8, 0x100000), (0x40, 4, ctxImageBytes)]

theorem wit_KernelContexts :
    let h : OpEntry := { adm 0x201 saveLaunch with phase := .held, cells := [0] }
    let p : OpEntry := { h with phase := .preempting, started := true }
    let r : OpEntry := { h with phase := .held, started := true, resumed := true, saves := [{ addr := 0x100000 }] }
    let a : OpEntry := { p with phase := .aborting }
    let s := withOp (withCtx { st := .await, op := some kid, pc := 8 }) p
    let o : OpEntry := { p with outran := true }
    (withOp base h).op? h.id = some h ∧ h.started = false ∧ h.released = true ∧ ctxsFree (withOp base h) h = true
      ∧ mayUpdate (withOp base h) h = true ∧ mayUpdate (withOp base r) r = true ∧ r.released = true
      ∧ outranKernel s p = false ∧ (withOp base o).op? o.id = some o ∧ quietUnits (withOp base o) o = true
      ∧ o.cells.all (cellRuns (withOp base o)) = true ∧ outranKernel (withOp base o) o = true
      ∧ s.op? p.id = some p ∧ quietUnits s p = true ∧ p.cells.all (cellRuns s) = true ∧ p.cells.Nodup
      ∧ ctxImageBytes * p.contexts.length ≤ p.saveStride ∧ p.contexts = [0] ∧ (s.ctx ⟨0, 0⟩).op = some p.id
      ∧ ((s.ctx ⟨0, 0⟩).stream.map Stream.isReduction).getD false = false ∧ s.poison = []
      ∧ (withOp base r).op? r.id = some r ∧ ctxsFree (withOp base r) r = true ∧ r.saves ≠ []
      ∧ (r.saves.map fun v => (r.cells.getD v.index 0, v.ctx)).Nodup
      ∧ (∀ v ∈ r.saves, v.ctx < 16 ∧ r.cells.getD v.index 0 ∈ r.cells)
      ∧ (withOp s a).op? a.id = some a ∧ a.phase = .aborting := by
  decide +kernel

theorem wit_HoldsEnd :
    let h : OpEntry := { adm 0x201 launch with phase := .held, released := false, cls := clsUPD }
    let d : OpEntry := { adm 0x201 (fields 128 [(0x44, 4, 1)]) with phase := .running, cls := clsDEF, cells := [0] }
    let s := { withOp (arrWith fun a => { a with dqueue := [{ op := kid, deferred := true }] }) d with
               hub := { base.hub with cycle := 1600 } }
    let r := adm 0x801 (fields 32 [(0, 2, 0x801), (0x10, 1, 16), (0x11, 1, 16)])
    let live : OpEntry := { id := ⟨1, 1⟩, opcode := 0x201, phase := .running, admitted := true, resident := true }
    let rh : OpEntry := { r with phase := .held }
    let f : OpEntry := { adm 0x306 (fields 64 [(0, 2, 0x306), (0x18, 8, 0x6000), (0x20, 4, 1), (0x30, 8, 8)]) with phase := .held }
    (withOp base h).op? h.id = some h ∧ updateFree (withOp base h) h = true
      ∧ s.op? d.id = some d ∧ d.deferredKernel = true ∧ d.deadline = 1 ∧ d.isTarget = true ∧ d.phase ≠ .aborting
      ∧ d.accepted.toNat + d.deadline * 1600 ≤ s.hub.cycle.toNat ∧ (s.cell 0).arr.dqueue.length = 1
      ∧ (withOp base r).op? r.id = some r ∧ fld r.desc 0x10 1 ≤ 16 ∧ fld r.desc 0x11 1 ≤ 16 ∧ zeros r.desc 0x12 0x20 = true
      ∧ residentLive (withOp base r) r.id = false ∧ residentLive { base with ops := [r, live] } r.id = true ∧ ({ base with ops := [r, live] }).op? r.id = some r
      ∧ (withOp base rh).op? rh.id = some rh ∧ residentLive (withOp base rh) rh.id = false
      ∧ ((withOp base rh).ops.filter fun x => x.opcode == 0x801 && x.phase == .held) = [rh]
      ∧ (withOp base f).op? f.id = some f ∧ updateLive (withOp base f) f.id = false
      ∧ ((withOp base f).ops.filter fun x => x.opcode == 0x306 && x.phase == .held) = [f] := by
  decide +kernel

/-- A table operation's body. -/
def table (opc kind slot size arg0 arg1 : Nat) : OpEntry :=
  adm opc (fields 64 [(0, 2, opc), (0x10, 8, 2 ^ 39), (0x18, 8, if size = 0 then 0 else 0x6000), (0x20, 4, size), (0x24, 2, slot),
    (0x26, 1, kind), (0x28, 8, arg0), (0x30, 8, arg1)])
/-- An image of a curve without binades. -/
def curveImg : List Byte := fields 64 [(0, 2, 1), (8, 1, 3), (0x18, 1, 3)]

theorem wit_CellTableLoads :
    ∀ e ∈ [table 0x301 0 3 16 0 0, table 0x301 1 1 512 0 0, table 0x302 0 0 64 0 0, table 0x303 0 15 0 12 0, table 0x303 0 0 64 0 0],
      let s := memWrite (withOp base e) 0x6000 (if e.opcode = 0x303 then curveImg else [])
      Admitted s e.opcode e ∧ tableZeros e = true ∧ cellsFieldOk e.tCells = true ∧ e.tArg1 = 0
        ∧ (cellsOf e.region e.tCells).any (fencedCell s) = false
        ∧ (e.tSize ≠ 0 → rangeStatus s e.resident e.tImage e.tSize = stOK ∧ badRange s e.tImage e.tSize = false)
        ∧ (e.opcode = 0x302 → ∀ i, i < 16 → fmtDescOk (rdNat s (e.tImage + 4 * i) 4) = true)
        ∧ (e.opcode = 0x303 → e.tSize ≠ 0 → imageOk (rdBytes s e.tImage e.tSize) = true)
        ∧ (e.opcode = 0x303 → e.tSize = 0 → shippedFuncs.contains e.tArg0 = true) := by
  unfold Admitted
  decide +kernel

theorem wit_CellTableLoads_effect :
    let held (l : TableLoad) : State := base.updCell 159 fun c => { c with held := [l] }
    let busy := (held (.fmt [])).updCtx ⟨159, 0⟩ fun c => { c with op := some kid }
    fencedCell busy 159 = false ∧ kernelBoundary (busy.cell 159) = false
      ∧ ∀ l ∈ [TableLoad.cb16 3 (List.replicate 16 1), .cb256 1 (List.replicate 512 1), .fmt (List.replicate 16 1), .curve 15 {}],
          kernelBoundary ((held l).cell 159) = true ∧ ((held l).cell 159).held = [] ++ [l] := by
  decide +kernel

theorem wit_OtherLoads :
    let p := adm 0x304 (fields 64 [(0, 2, 0x304), (0x18, 8, 0x6000), (0x20, 4, 8), (0x28, 8, 0x7000)])
    let g := adm 0x305 (fields 64 [(0, 2, 0x305), (0x18, 8, 0x8000), (0x20, 4, gthImageBytes), (0x28, 8, blkSize - 64), (0x30, 8, 0x7000)])
    let f := adm 0x306 (fields 64 [(0, 2, 0x306), (0x18, 8, 0x6000), (0x20, 4, 1), (0x28, 8, freezePages - 8), (0x30, 8, 8)])
    let t := adm 0x802 (fields 32 [(0, 2, 0x802), (0x10, 8, 0x1000000), (0x18, 1, 64), (0x19, 1, 15)])
    Admitted (withOp base p) 0x304 p ∧ p.cls ≠ clsUPD ∧ tableZeros p = true ∧ p.tSize = 8
      ∧ rangeStatus (withOp base p) p.resident p.tArg0 p.tSize = stOK ∧ rangeStatus (withOp base p) p.resident p.tImage p.tSize = stOK
      ∧ badRange (withOp base p) p.tImage p.tSize = false
      ∧ Admitted (withOp base g) 0x305 g ∧ tableZeros g = true ∧ g.tSize = gthImageBytes ∧ g.tArg0 % 64 = 0 ∧ g.tArg0 + 64 ≤ blkSize
      ∧ g.tArg1 % 64 = 0 ∧ rangeStatus (withOp base g) false g.tArg1 64 = stOK
      ∧ rangeStatus (withOp base g) g.resident g.tImage gthImageBytes = stOK ∧ badRange (withOp base g) g.tImage gthImageBytes = false
      ∧ gthImageOk (rdBytes (withOp base g) g.tImage gthImageBytes) = true
      ∧ Admitted (withOp base f) 0x306 f ∧ tableZeros f = true ∧ f.tArg0 + f.tArg1 = freezePages ∧ f.tSize = ceilDiv f.tArg1 8
      ∧ rangeStatus (withOp base f) f.resident f.tImage f.tSize = stOK ∧ updateLive (withOp base f) f.id = false
      ∧ Admitted (withOp base t) 0x802 t ∧ zeros t.desc 0x1A 0x20 = true ∧ fld t.desc 0x19 1 < 16 ∧ fld t.desc 0x18 1 ≤ 64
      ∧ rangeStatus (withOp base t) false (fld t.desc 0x10 8) (fld t.desc 0x18 1 * tlmStride) = stOK
      ∧ (∀ r, r < 4 → fencedRegion (withOp base t) r = false) := by
  unfold Admitted
  decide +kernel

theorem wit_OtherLoads_telemetry :
    let s := base.updRegion 3 fun g => { g with tlm := { g.tlm with writing := true, base := 0x1000000 } }
    let z := base.updRegion 3 fun g => { g with tlm := { g.tlm with writing := true } }
    (s.region 3).tlm.writing = true ∧ (s.region 3).tlm.base ≠ 0 ∧ fencedAddr s 0x1000000 = false ∧ fencedRegion s 3 = false
      ∧ (z.region 3).tlm.base = 0 ∧ (z.region 3).tlm.writing = true := by
  decide +kernel

/-! ### Witnesses: collectives and snapshots -/

/-- Two members, regions 0 and 1 of this device; the group array stands at 0x6000. -/
def groupMem (e : OpEntry) : State := memWrite (withOp base e) 0x6000 (leBytes 4 8 ++ leBytes 4 (65536 + 8))
/-- A collective of 64 FP32 elements with collective code `op`. -/
def collBody (op : Nat) : List Byte :=
  fields 144 [(0, 2, 0x401 + op), (0x10, 4, op), (0x18, 4, 7), (0x20, 8, 0x6000), (0x28, 4, 2), (0x30, 8, 64),
    (0x38, 8, 0x10000), (0x40, 8, 0x20000), (0x48, 8, if op ≤ 1 then 0x30000 else 0)]
def coll (op : Nat) : OpEntry := { adm (0x401 + op) (collBody op) with step := 3 }

theorem wit_CollectiveStarts :
    (∀ op ∈ List.range 5, Admitted (groupMem (coll op)) (0x401 + op) (coll op) ∧ collStatus (groupMem (coll op)) (coll op) = stOK)
      ∧ (∀ op ∈ List.range 5, collStatus (groupMem (coll ((op + 1) % 5))) { coll ((op + 1) % 5) with opcode := 0x401 + op } ≠ stOK)
      ∧ (∀ op ∈ List.range 5,
          let e : OpEntry := { coll op with phase := .held }
          let s := groupMem e
          s.op? e.id = some e ∧ e.group = 4 ∧ bucketBusy s e = false ∧ ((s.region e.region).colls.filter (liveColl s)).length < 64
            ∧ groupOf s (cGroup e.desc) (cMembers e.desc) = [8, 65544] ∧ (cOp e.desc = op) ∧ cIn e.desc = cOut e.desc
            ∧ (shardsOf e.desc = [0]) ∧ (s.region 0).finals = [] ∧ (op = 4 → cRoot e.desc = 0)
            ∧ farFromRetry s (cSrc e.desc) (cMembers e.desc * cCount e.desc * elSize (cIn e.desc)) = true
            ∧ (∀ w ∈ [8, 65544], memberDev w = s.hub.deviceId ∧ ringJoins s e.region (memberReg w) = true)) := by
  unfold Admitted
  decide +kernel

/-- A shard of the all-reduce that region 0 owns, with the contributions of `ranks`. -/
def shardOf (ranks : List Nat) (policy : Nat) : Shard :=
  { body := fields 144 [(0x10, 4, policy * 8192), (0x1C, 4, 1), (0x28, 4, 2), (0x30, 8, 64)], group := [8, 65544], cid := 7, step := 3,
    shard := 0, ranks := ranks }
def shardIn (x : Shard) : State :=
  base.updRegion 0 fun g => { g with shards := [x], cycle := 1601 }
/-- The member's operation runs on region 0, with `got` of its results in. -/
def collIn (got : List Nat) : State :=
  { base.updRegion 0 fun g => { g with colls := [{ op := kid, body := collBody 2, group := [8, 65544], step := 3, got := got }] }
    with ops := [{ coll 2 with phase := .running }] }
def resultOf (shard : Nat) : CollResult := { cid := 7, step := 3, shard := shard, element := 64 * shard, data := List.replicate 256 1 }

theorem wit_CollectiveTraffic :
    (∀ ranks ∈ [[], [1]], let x := shardOf ranks 0
      shardAt (shardIn x) 0 7 3 0 = some x ∧ x.ranks.contains 0 = false ∧ x.final = false ∧ overdue x (1601#64) = false
        ∧ (if ranks = [] then x.ranks.length + 1 ≠ cMembers x.body else x.ranks.length + 1 = cMembers x.body))
      ∧ (let x := shardOf [1] 1
        ((shardIn x).region 0).shards.find? (fun y =>
          y.cid == x.cid && y.shard == x.shard && !y.final
            && (cPolicy y.body != 0 && !y.ranks.isEmpty
              && decide (y.first.toNat + cDeadline y.body * 1600 < ((shardIn x).region 0).cycle.toNat))) = some x)
      ∧ (∀ got ∈ [[], [0]],
          (((collIn got).region 0).colls.find? fun x => cCid x.body == (resultOf 1).cid && x.step == (resultOf 1).step && liveColl (collIn got) x).isSome
            = true
          ∧ got.contains 1 = false ∧ (resultOf 1).data ≠ []
          ∧ fencedRange (collIn got) (cDst (collBody 2) + (resultOf 1).element * elSize (cOut (collBody 2))) 256 = false
          ∧ (rangeMem (cDst (collBody 2) + (resultOf 1).element * elSize (cOut (collBody 2))) 256).isSome = true
          ∧ inMem ((memOf (cDst (collBody 2) + (resultOf 1).element * elSize (cOut (collBody 2)))).getD .hbm)
              (cDst (collBody 2) + (resultOf 1).element * elSize (cOut (collBody 2))) 256 = true ∧ (resultOf 1).header = none
          ∧ ((expected (collBody 2)).all fun k => (got ++ [1]).contains k) = decide (got = [0])) := by
  decide +kernel

/-- A header of 64 bytes, and where it goes. -/
theorem wit_CollectiveTraffic_header :
    (List.replicate 64 (0#8)).length = 64 ∧ fencedRange base (cHdr (collBody 0) + 64) 64 = false := by
  decide +kernel

/-- A configuration of one range of 64 KiB in region 0, and a group of this device alone. -/
def snapCfg : OpEntry :=
  adm 0x501 (fields 128 [(0, 2, 0x501), (0x10, 8, 0x8000), (0x18, 8, 0x6000), (0x20, 4, 1), (0x24, 4, 7), (0x28, 1, 2), (0x2A, 2, 50),
    (0x2C, 4, 1000), (0x30, 4, 100), (0x34, 4, 100), (0x38, 8, 0x7000), (0x40, 8, 0x7100), (0x48, 8, 0x7200)])
def snapMem : State :=
  memWrite (memWrite (withOp base snapCfg) 0x6000 (leBytes 4 8)) 0x8000 (leBytes 8 0x100000 ++ leBytes 8 0x200000 ++ leBytes 8 1)

/-- In service with that configuration, a member of group `g`. -/
def snapping (g : List Nat) (e : OpEntry) : State :=
  let s := withOp base e
  { s with hrw := { s.hrw with configured := true, group := g, cid := 7, slots := [{ baseA := 0x100000, baseB := 0x200000, length := 65536 }] } }
/-- SNAP_COMMIT of step 3, willing or not. -/
def commitOp (yes : Nat) : OpEntry := adm 0x502 (fields 48 [(0, 2, 0x502), (0x10, 8, 3), (0x28, 1, yes)])

theorem wit_SnapshotConfigAndCommit :
    (Admitted snapMem 0x501 snapCfg ∧ configInOrder snapMem snapCfg)
      ∧ (∀ g ∈ [[8], [8, 9], [9, 8]], ∀ y ∈ [0, 1], let s := snapping g (commitOp y)
        Admitted s 0x502 (commitOp y) ∧ commitInOrder s (commitOp y) ∧ (y = fld (commitOp y).desc 0x28 1)
          ∧ (liveFor s (commitOp y).id fun x => x.isWork && x.cls == clsUPD && x.step == s.hub.step) = false
          ∧ (∀ r ∈ slotRegions s, fencedRegion s r = false)
          ∧ (g = [8] → ownRank s = some 0 ∧ ownChildren s = []) ∧ (g = [8, 9] → ownChildren s ≠ []) ∧ (g = [9, 8] → ownRank s = some 1)) := by
  unfold Admitted configInOrder commitInOrder
  decide +kernel

/-- A VOTE or COMMIT_RESULT body. -/
def treeBody (k phase vote step : Nat) : List Byte := fields 222 [(0, 4, k), (4, 1, phase), (5, 1, vote), (8, 8, step)]

theorem wit_CommitTree :
    let s := snapping [8, 9] (commitOp 1)
    let d := { s with hrw := { s.hrw with committed := 2 } }
    let m := { snapping [9, 8, 10, 11] (commitOp 1) with hub := base.hub }
    let v := { m with hrw := { m.hrw with hasDurable := true, rounds := [{ step := 3, own := some (true, 0) }], committed := 2, durable := 2 } }
    let w := { s with hrw := { s.hrw with rounds := [{ step := 3, own := some (true, 0), sent := true }],
                                          commit := some (kid, 0, 0) },
                      ops := [{ commitOp 1 with phase := .running }] }
    (bridleBodyOk 5 (treeBody 7 0 1 3) = true ∧ fld (treeBody 7 0 1 3) 0 4 = s.hrw.cid ∧ fld (treeBody 7 0 1 3) 8 8 = s.hub.step.toNat
      ∧ (s.hrw.group.findIdx? fun w => memberDev w == 9) = some 1 ∧ (ownChildren s).contains 1 = true
      ∧ (roundAt s 3 0).own = none ∧ (roundAt s 3 0).votes = [])
      ∧ (∀ r ∈ [0, 1], resultLive s r 3 = true ∧ bridleBodyOk 6 (treeBody 7 r 0 3) = true)
      ∧ (∀ r ∈ [2, 3], resultLive d r 2 = true ∧ fld (treeBody 7 r 0 2) 8 8 = 2)
      ∧ ((ownChildren v).contains 3 = true ∧ (openRound v).2 = 0 ∧ ownRank v = some 1
        ∧ (roundAt v 3 0).own ≠ none ∧ (roundAt v 3 0).sent = false ∧ (roundAt v 3 0).votes = [] ∧ v.hrw.recoverWait = false)
      ∧ (w.hrw.configured = true ∧ w.hrw.rounds.any Round.sent = true ∧ w.hrw.undecided = false ∧ w.hrw.recoverWait = false
        ∧ w.op? kid = some { commitOp 1 with phase := .running }) := by
  decide +kernel

/-- Routes to device 9 by link 0 of each region. -/
def routed : State :=
  { base with
    regions := (List.range 4).map fun r => (r, { released := true, routes := [(9, 2 ^ 15)] })
    links := (List.range 4).map fun r => (6 * r, { st := 2, peerId := 9, resv := fullCredits, shared := 780 }) }
def pairOp : OpEntry := adm 0x503 (fields 32 [(0, 2, 0x503), (0x10, 2, 9)])

theorem wit_CopiesAndPairing :
    let s := { base with hrw := { base.hrw with shipping := [3] } }
    let f := { base with hrw := { base.hrw with flashing := some 4, areas := [{ step := 4, age := 1 }, {}, {}] } }
    let p := withOp routed pairOp
    let e : OpEntry := { pairOp with phase := .running }
    let h (forced : Bool) : State := { withOp routed e with
      hrw := { base.hrw with pairing := some (kid, 9, forced) }, hub := { base.hub with domain := some 1 } }
    let w := { base with hub := { base.hub with domain := some 1 } }
    s.hrw.shipping.contains 3 = true
      ∧ f.hrw.flashing = some 4 ∧ f.hrw.flashNext = none ∧ (∃ a ∈ f.hrw.areas, a.step = 4 ∧ a.age ≠ 0 ∧ ∀ b ∈ f.hrw.areas, b.age ≤ a.age)
      ∧ Admitted p 0x503 pairOp ∧ workLive p pairOp.id = false ∧ fld pairOp.desc 0x12 1 ≤ 1 ∧ zeros pairOp.desc 0x13 0x20 = true
      ∧ fld pairOp.desc 0x10 2 ≠ p.hub.deviceId ∧ routedAll p (fld pairOp.desc 0x10 2) = true ∧ p.hrw.pairing = none
      ∧ (∀ b, (h b).op? e.id = some e ∧ e.phase = .running ∧ (h b).hrw.pairing = some (e.id, 9, b) ∧ (h b).hub.domain = some 1)
      ∧ w.hrw.pairing = none ∧ w.hrw.hasWard = false ∧ w.hub.domain = some 1 ∧ base.hub.domain = none ∧ base.hrw.pairing = none := by
  unfold Admitted
  decide +kernel

/-- SNAP_RESTORE from source `src` at address `a`, step 2. -/
def restoreOp (src a : Nat) : OpEntry :=
  adm 0x504 (fields 64 [(0, 2, 0x504), (0x10, 1, src), (0x18, 8, a), (0x20, 8, 2)])
def farAddr (dev : Nat) : Nat := regionAddr dev 0

theorem wit_Restores :
    (∀ e ∈ [restoreOp 0 (farAddr 9), restoreOp 0 (farAddr 10), restoreOp 1 0, restoreOp 2 0x300000],
      let s0 := snapping [8] e
      let s := { s0 with regions := routed.regions, links := routed.links }
      Admitted s 0x504 e ∧ zeros e.desc 0x11 0x18 = true ∧ fld e.desc 0x38 1 ≤ 1 ∧ zeros e.desc 0x39 0x40 = true
        ∧ s.hrw.configured = true ∧ hrwBytes s e.region ≠ 0
        ∧ newestImage s.hrw (fld e.desc 0x20 8) = none
        ∧ (fld e.desc 0x10 1 = 0 → devOf (fld e.desc 0x18 8) ≠ s.hub.deviceId
            ∧ (pathFrom 8 s e.region (devOf (fld e.desc 0x18 8)) 0).isSome = decide (devOf (fld e.desc 0x18 8) = 9))
        ∧ (fld e.desc 0x10 1 = 2 →
            rangeStatus s false (fld e.desc 0x18 8 + 4096 + regionOffset s e.region) (hrwBytes s e.region) = stOK))
      ∧ newestImage { areas := [{ step := 2, complete := true, age := 3 }, {}, {}] } 2 = some { step := 2, complete := true, age := 3 }
      ∧ (let e := restoreOp 0 (farAddr 8)
        let s := snapping [8] e
        devOf (fld e.desc 0x18 8) = s.hub.deviceId ∧ (rangeMem (localOf (fld e.desc 0x18 8)) (64 + hrwBytes s e.region)).isSome = true
          ∧ fencedRange s (localOf (fld e.desc 0x18 8)) (64 + hrwBytes s e.region) = false) := by
  unfold Admitted
  decide +kernel

/-- SNAP_RECOVER to step 2 with a group of this device alone. -/
def recoverOp : OpEntry := adm 0x505 (fields 64 [(0, 2, 0x505), (0x10, 8, 2), (0x18, 8, 0x6000), (0x20, 4, 1)])

theorem wit_Restores_recover :
    let s := memWrite (snapping [8] recoverOp) 0x6000 (leBytes 4 8)
    let h := memWrite s 0x200000 (leBytes 2 1 ++ leBytes 2 1 ++ leBytes 4 0 ++ leBytes 8 2)
    let held (s : State) (k : Nat) : Bool := (slotRegions s).all (holdsStep s k (fld recoverOp.desc 0x10 8))
    let r := adm 0x506 (fields 16 [(0, 2, 0x506)])
    (∀ x ∈ [s, h], Admitted x 0x505 recoverOp ∧ fld recoverOp.desc 0x38 1 ≤ 1 ∧ zeros recoverOp.desc 0x39 0x40 = true
        ∧ 0 < fld recoverOp.desc 0x20 4 ∧ x.hrw.configured = true
        ∧ rangeStatus x false (fld recoverOp.desc 0x18 8) (4 * fld recoverOp.desc 0x20 4) = stOK
        ∧ badRange x (fld recoverOp.desc 0x18 8) (4 * fld recoverOp.desc 0x20 4) = false
        ∧ groupOk x (groupOf x (fld recoverOp.desc 0x18 8) (fld recoverOp.desc 0x20 4)) = true)
      ∧ held s 0 = false ∧ held s 1 = false ∧ [h.hrw.current, 1 - h.hrw.current].find? (held h) = some 1
      ∧ Admitted (withOp base r) 0x506 r := by
  unfold Admitted
  decide +kernel

/-! ### Witnesses: control operations, links and the fabric -/

/-- A control operation on the operation (channel 9, tag 1). -/
def ctrl (opc : Nat) (l : List (Nat × Nat × Nat)) : OpEntry :=
  { id := kid, opcode := opc, desc := fields 48 ([(0, 2, opc), (0x10, 4, 1), (0x14, 1, 9)] ++ l) }
def tid : OpId := ⟨9, 1⟩
def target (ph : Phase) : OpEntry :=
  { id := tid, opcode := 0x201, phase := ph, admitted := true, started := true, cells := [0], desc := saveLaunch }
def both (a b : OpEntry) : State := { base with ops := [a, b] }

theorem wit_ControlOperations_abort :
    let a := ctrl 0x701 []
    let x := target .running
    Control (both a x) 0x701 false a ∧ a.scope = 0 ∧ x.id = a.target ∧ (both a x).op? x.id = some x ∧ x.isTarget = true ∧ x.opcode ≠ 0x502
      ∧ Control (withOp base a) 0x701 false a ∧ (∀ z ∈ (withOp base a).ops, z.isTarget = true → z.id ≠ a.target) := by
  unfold Control
  decide +kernel

theorem wit_ControlOperations_preempt :
    let p := ctrl 0x702 []
    let x := target .running
    Control (both p x) 0x702 false p ∧ (both p x).ops.find? (fun z => z.isTarget && z.id == p.target) = some x
      ∧ (both p x).op? x.id = some x ∧ x.preempt = false ∧ x.canPreempt = true ∧ preemptedCount (both p x) x.region < 64 := by
  unfold Control
  decide +kernel

theorem wit_ControlOperations_resume :
    let r := ctrl 0x703 []
    let m := ctrl 0x703 [(0x20, 8, 2 ^ 39)]
    let y := target .preempted
    Control (both r y) 0x703 false r ∧ (both r y).ops.find? (fun z => z.phase == .preempted && z.id == r.target) = some y
      ∧ (both r y).op? y.id = some y ∧ y.cells.any (fencedCell (both r y)) = false ∧ fld r.desc 0x20 8 = 0
      ∧ Control (both m y) 0x703 false m ∧ fld m.desc 0x20 8 = 2 ^ 39 ∧ y.desc.length = 128
      ∧ (cellsOf y.region (2 ^ 39)).any (fencedCell (both m y)) = false
      ∧ (cellsOf y.region (2 ^ 39)).length = (bitsOf 40 (fld y.desc 0x10 8)).length := by
  unfold Control
  decide +kernel

theorem wit_ControlOperations_quiesce :
    let q := ctrl 0x704 []
    let q1 := ctrl 0x704 [(0x15, 1, 1)]
    let x := target .running
    Control (withOp base q) 0x704 false q ∧ q.scope = 0 ∧ Control (both q1 x) 0x704 false q1 ∧ q1.scope = 1
      ∧ x.inFlight = true ∧ x.exempt = false
      ∧ (∀ opc ∈ [0x705, 0x706], Control (withOp base (ctrl opc [])) opc false (ctrl opc [])) := by
  unfold Control
  decide +kernel

/-- A request from device 9, bound to channel 6 with control rights, and its answer. -/
def ctlMsg (answer action : Nat) : List Byte :=
  fields 222 [(0, 1, answer), (1, 1, action), (2, 1, 6), (4, 4, 1), (8, 4, 5)]

theorem wit_RemoteControl :
    (∀ opc ∈ [0x701, 0x704, 0x705, 0x706],
      let e := ctrl opc [(0x16, 1, 1), (0x18, 2, 9)]
      let w : OpEntry := { e with phase := .running, sent := some (0, 5) }
      let s := { withOp base w with hub := { base.hub with cycle := 160000 } }
      Control (withOp base e) opc true e ∧ e.targetId = 9 ∧ e.targetId ≠ (withOp base e).hub.deviceId
        ∧ pathFrom 8 (withOp base e) e.region e.targetId 0 = none ∧ peerOf (withOp base e) e.targetId = none
        ∧ pathFrom 8 (withOp routed e) e.region e.targetId 0 ≠ none
        ∧ peerOf { withOp base e with hub := { base.hub with peers := [(9, [1])] } } e.targetId = some [1]
        ∧ s.op? w.id = some w ∧ w.isCtrl = true ∧ 160000 ≤ (s.hub.cycle - 0).toNat ∧ ((withOp base w).hub.cycle - 0).toNat < 160000
        ∧ (withOp base w).op? w.id = some w)
      ∧ (∀ a ∈ [0, 2, 3], ctlBodyOk (ctlMsg 0 a) = true ∧ fld (ctlMsg 0 a) 0 1 = 0 ∧ fld (ctlMsg 0 a) 1 1 = a)
      ∧ tagUsed proxied ⟨65536 + 4 * 9, 5⟩ = false
      ∧ ((List.range 256).any fun ch => bindValid proxied ch && bindCtrl proxied ch && bindSend proxied ch == proxyId proxied ⟨9, 0⟩) = true
      ∧ ((List.range 256).any fun ch => bindValid proxied ch && bindCtrl proxied ch && bindSend proxied ch == proxyId proxied ⟨10, 0⟩) = false
      ∧ (let x : OpEntry := { target .running with id := ⟨6, 1⟩ }
        bindValid proxied 6 = true ∧ bindSend proxied 6 = proxyId proxied ⟨9, 0⟩ ∧ x.id = ⟨fld (ctlMsg 0 0) 2 1, fld (ctlMsg 0 0) 4 4⟩
          ∧ ({ proxied with ops := [x] }).op? x.id = some x ∧ x.isTarget = true) := by
  unfold Control
  decide +kernel

theorem wit_RemoteControl_answers :
    (∀ opc ∈ [0x701, 0x704, 0x705, 0x706],
      let e : OpEntry := { ctrl opc [(0x16, 1, 1), (0x18, 2, 9)] with phase := .running, sent := some (0, 5) }
      let b := if opc = 0x706 then fields 222 [(0, 1, 1), (4, 4, 5)] else ctlMsg 1 0
      (withOp base e).op? e.id = some e ∧ e.targetId = (⟨9, 0⟩ : Src).id ∧ (∀ x ∈ (withOp base e).ops, x ≠ e → x.sent = none)
        ∧ fld b 0 1 = 1 ∧ (if opc = 0x706 then zeros b 1 4 = true ∧ fld b 4 4 = 5 else ctlBodyOk b = true ∧ fld b 8 4 = 5))
      ∧ (let b : List Byte := List.replicate 222 0
        let s := base.updRegion 0 fun g => { g with inbox := [.forwarded 9 9 b] }
        fld b 0 1 = 0 ∧ zeros b 1 4 = true ∧ cameByPort s 0 9 b = true)
      ∧ (let x : OpEntry := { target .running with region := 3 }
        (withOp base x).op? x.id = some x ∧ x.region = 3 ∧ x.phase ≠ .preempted ∧ x.answer = none) := by
  decide +kernel

/-- Link 23 in state `st` and mode `mode`, changed by `f`. -/
def linked (l st mode : Nat) (f : Link → Link) : State :=
  base.updLink l fun k => f { k with st := st, mode := mode, resv := fullCredits, shared := 780 }
def peerInfo (dev mode : Nat) : PeerInfo := { deviceId := dev, localLink := 0, mode := mode, rtt := 5 }

theorem wit_LinkTraining :
    (∀ m ∈ [0, 1], ((linked 23 1 m id).link 23).st = 1 ∧ ((linked 23 1 m id).link 23).trained = false
        ∧ ((linked 23 1 m id).link 23).mode = m ∧ ((linked 23 1 m id).link 23).peer = none)
      ∧ rttMax < 2657 ∧ (let k := (linked 23 1 0 fun k => { k with trained := true, rtt := 218 }).link 23
        k.st = 1 ∧ k.mode = 0 ∧ k.trained = true ∧ (peerInfo 9 0).deviceId ≠ base.hub.deviceId)
      ∧ (peerInfo 9 1).mode ≠ 0 ∧ (peerInfo 8 0).deviceId = base.hub.deviceId
      ∧ ((linked 23 2 0 id).link 23).st = 2 ∧ ((linked 23 3 0 id).link 23).st = 3
      ∧ ((linked 23 1 0 id).link 23).st ≠ 2 ∧ ((linked 23 1 0 id).link 23).st ≠ 3 := by
  decide +kernel

/-- A remote write of one byte to this device's HBM, as a message of one flit. -/
def remoteMsg : Msg := { dest := fabAddr 8 0x7000, srcId := 9, op := 0, length := 1, mtag := 3, data := [0xAB] }
def msgFlit (seq : Nat) (eom : Bool) : List Byte :=
  match flitsOf remoteMsg 0 none with
  | f :: _ => flitBytes { f.head seq with som := true, eom := eom } f.payload
  | [] => []

theorem wit_LinkFlits :
    let s := linked 23 2 0 id
    let n := linked 23 2 0 fun k => { k with retry := [(7, {}), (8, {})] }
    let q := linked 23 2 0 fun k => { k with resend := [(7, {})], retry := [(7, {})] }
    let y := linked 23 2 0 fun k => { k with retry := [(9, { tries := 8 })] }
    let c := linked 23 2 0 fun k => { k with resend := [(7, { typ := 3, control := some (peerInfo 9 0) })] }
    let w := linked 23 2 0 fun k => { k with txq := [{ vc := 2, payload := [1] }] }
    inService s 23 = true ∧ joined [(flitsOf remoteMsg 0 none).flatMap TxFlit.payload] = remoteMsg ∧ remoteMsg.op = 0
      ∧ ringJoins s 3 (homeOf 3 (localOf remoteMsg.dest)) = true ∧ devOf (fabAddr 9 0) ≠ routed.hub.deviceId ∧ devOf (fabAddr 9 0) = 9
      ∧ pathFrom 8 routed 0 9 1 = some (0, 0, 1, 0) ∧ inService routed 0 = true
      ∧ (∀ eom, (msgFlit 0 eom).length = 256 ∧ flitCrcOk (msgFlit 0 eom) = true ∧ (LinkHead.of (msgFlit 0 eom)).typ = 0
        ∧ (LinkHead.of (msgFlit 0 eom)).seq = ((s.link 23).rxLast + 1) % 4096 ∧ (LinkHead.of (msgFlit 0 eom)).eom = eom)
      ∧ devOf remoteMsg.dest = s.hub.deviceId
      ∧ flitCrcOk (List.replicate 256 0) = false ∧ (LinkHead.of (msgFlit 4095 true)).seq ≠ ((s.link 23).rxLast + 1) % 4096
      ∧ (let f := flitBytes { typ := 1, ack := 8 } []
        f.length = 256 ∧ flitCrcOk f = true ∧ (LinkHead.of f).typ = 1
          ∧ ((n.link 23).retry.findIdx? fun x => x.1 == (LinkHead.of f).ack) = some 1)
      ∧ (let f := flitBytes { typ := 2, ack := 8 } []
        flitCrcOk f = true ∧ (LinkHead.of f).typ = 2 ∧ f.length = 256 ∧ inService n 23 = true
          ∧ ((headerIn (LinkHead.of f) (n.link 23)).retry.any fun x => decide (8 ≤ x.2.tries)) = false
          ∧ ((headerIn (LinkHead.of f) (y.link 23)).retry.any fun x => decide (8 ≤ x.2.tries)) = true)
      ∧ inService q 23 = true ∧ (q.link 23).resend = [(7, {})] ∧ (q.link 23).resendAt.length < 1024
      ∧ isBridleFlit {} = true ∧ 15 ≤ (q.link 23).sinceBridle ∧ inService c 23 = true ∧ (c.link 23).resend ≠ [] ∧ inService base 23 = false
      ∧ inService w 23 = true ∧ (w.link 23).resend = [] ∧ (w.link 23).retry.length < 128 ∧ (pickFlit (offerBridle 0 (w.link 23))).isSome = true := by
  decide +kernel

theorem wit_RemoteMemory :
    let m (op a n : Nat) : Msg := { remoteMsg with dest := fabAddr 8 a, op := op, length := n, data := List.replicate n 1 }
    let slot : Msg := { remoteMsg with dest := fabAddr 8 (slotBase + 96), data := notice 0x4000, length := 16 }
    let it : DmaItem := { op := kid, waits := [(3, 100, 4), (4, 104, 4)] }
    let s := base.updRegion 0 fun g => { g with dma := { g.dma with running := [it] } }
    let w := { base.updRegion 0 fun g => { g with wrote := [(3, kid)] } with ops := [kernelEntry] }
    (∀ op ∈ [0, 1, 3], devOf (m op 0x7000 8).dest = base.hub.deviceId ∧ inSlots (localOf (m op 0x7000 8).dest) = false
        ∧ remoteReach base (localOf (m op 0x7000 8).dest) 8 = true
        ∧ fencedRange base (localOf (m op 0x7000 8).dest) 8 = false ∧ badRange base (localOf (m op 0x7000 8).dest) 8 = false)
      ∧ inSlots (localOf (m 0 hbmTop 8).dest) = false ∧ remoteReach base (localOf (m 0 hbmTop 8).dest) 8 = false
      ∧ remoteReach base (localOf (m 1 hbmTop 1).dest) 1 = false ∧ (m 1 0x7000 8).srcId ≠ base.hub.deviceId ∧ (m 1 0x7000 8).srcId < 65536
      ∧ (m 1 0x7000 8).srcRegion < 4 ∧ s.op? kid = none ∧ ({ s with ops := [kernelEntry] }).op? it.op = some kernelEntry
      ∧ inSlots (localOf slot.dest) = true ∧ localOf slot.dest % 16 = 0 ∧ slot.data.length = 16 ∧ proxied.mbx.locked = true
      ∧ bindValid proxied 6 = true ∧ bindSend proxied 6 = proxyId proxied ⟨slot.srcId, slot.srcRegion⟩ ∧ (proxied.slot 6).full = false
      ∧ pathFrom 8 routed 0 9 0 = some (0, 0, 0, 0)
      ∧ restoreFor s 0 3 = none ∧ ((s.region 0).dma.running.find? fun i => i.waits.any fun w => w.1 == 3) = some it
      ∧ (it.waits.find? fun w => w.1 == 3) = some (3, 100, 4) ∧ (it.waits.any fun w => w.1 != 3) = true
      ∧ ((w.region 0).dma.running.find? fun i => i.waits.any fun w => w.1 == 3) = none
      ∧ ((w.region 0).wrote.find? fun p => p.1 == 3) = some (3, kid) ∧ w.op? kid = some kernelEntry := by
  decide +kernel

theorem wit_FabricMessages :
    let up := { linked 23 2 0 id with regions := [(3, { released := true, cycle := 64000 })] }
    let c : Coll := { op := kid, body := collBody 0, group := [8, 9], step := 3 }
    let s := { base.updRegion 0 fun g => { g with colls := [c], wrote := [(3, kid)] } with ops := [{ coll 0 with phase := .running }] }
    let u := fields 222 [(8, 2, 8), (0x0C, 2, 3)]
    fencedRegion up 3 = false ∧ beatCycles ≤ ((up.region 3).cycle - (up.region 3).lastBeat).toNat ∧ inService up 23 = true
      ∧ bridleBodyOk 1 (List.replicate 222 0) = true
      ∧ linkUp up 23 0 = true ∧ (up.link 23).unresponsive = false ∧ silenceCycles ≤ ((up.region 3).cycle - (up.link 23).lastRx).toNat
      ∧ bridleBodyOk 2 (fields 222 [(0, 2, 9)]) = true ∧ c ∈ (s.region 0).colls ∧ liveColl s c = true
      ∧ namesDev (fld (fields 222 [(0, 2, 9)]) 0 2) c = true ∧ cPolicy c.body = 0
      ∧ bridleBodyOk 7 (fields 222 [(0, 4, 9), (8, 8, 3)]) = true
      ∧ ((s.region 0).colls.any fun x => cCid x.body == 9 && x.step == 3) = false
      ∧ bridleBodyOk 8 u = true ∧ fld u 8 2 = s.hub.deviceId ∧ fld u 0x0A 1 = 0 ∧ fld u 0x0B 1 = 0
      ∧ ((s.region 0).wrote.find? fun p => p.1 == fld u 0x0C 2) = some (3, kid) ∧ (s.op? kid).isSome = true
      ∧ (let v := fields 222 [(8, 2, 8), (0x0B, 1, 6), (0x0C, 2, 3)]
        let w := { base.updRegion 0 fun g => { g with bridles := [(3, (9, 4, [1]))] } with hub := { base.hub with peers := [(9, [1])] } }
        bridleBodyOk 8 v = true ∧ fld v 8 2 = w.hub.deviceId ∧ fld v 0x0A 1 = 0 ∧ fld v 0x0B 1 = 6
          ∧ fget (0, 0, []) (w.region 0).bridles (fld v 0x0C 2) = (9, 4, [1]) ∧ peerOf w 9 = some [1])
      ∧ (up.link 23).bridleWait = [] ∧ mayOffer (up.region 3).cycle (up.link 23) { region := some 3 } = true
      ∧ bridleBodyOk 10 [] = false := by
  decide +kernel

/-- An Ethernet link with a tunnel to the all-ones address. -/
def tunnelEntry : List Byte := List.replicate 16 0xFF ++ fields 48 [(12, 1, 1)]
def ether (f : Tunnel → Tunnel) : State :=
  linked 4 2 1 fun k => { k with mac := [2, 0, 0, 0, 0, 1], port := 4791, tunnels := [(0, f { entry := tunnelEntry })] }
/-- An IPv6 UDP frame to the link with payload `p`. -/
def udpFrame (p : List Byte) : List Byte :=
  [2, 0, 0, 0, 0, 1] ++ List.replicate 6 0 ++ [0x86, 0xDD] ++ ([0x60, 0, 0, 0] ++ beBytes 2 (p.length + 8) ++ [17, 64] ++ List.replicate 16 0xFF
    ++ List.replicate 16 0) ++ ([0, 0] ++ beBytes 2 4791 ++ beBytes 2 (p.length + 8) ++ [0, 0]) ++ p
/-- A tunnel datagram, number 0, of one flit. -/
def tunnelData : List Byte := fields 16 [(8, 1, 1)] ++ msgFlit 0 true

/-- A pause of priority 7 for 65,535 quanta. -/
def pause : List Byte :=
  [1, 0x80, 0xC2, 0, 0, 1] ++ List.replicate 6 0 ++ beBytes 2 0x8808 ++ beBytes 2 0x0101 ++ beBytes 2 128 ++ List.replicate 14 0 ++ [0xFF, 0xFF]
    ++ List.replicate 30 0

theorem wit_EthernetLinks :
    let s := ether id
    let u := { ether fun t => { t with window := [(0, [{}])] } with regions := [(0, { released := true, cycle := 16000000 })] }
    let f := udpFrame tunnelData
    linkUp s 4 1 = true ∧ s.mbx.locked = true ∧ (udpFrame []).length < 64 ∧ (let g := udpFrame (List.replicate 64 0)
        64 ≤ g.length ∧ g.length ≤ 9216 ∧ g.take 6 = (s.link 4).mac ∧ udpTo g 1 = none)
      ∧ isGroup (List.replicate 64 (0xFF#8)) = true ∧ isPfc (List.replicate 64 (0xFF#8)) = false ∧ isPfc f = false
      ∧ isPfc pause = true ∧ 64 ≤ pause.length ∧ natBit (beFld pause 16 2) 7 = true ∧ beFld pause (18 + 2 * 7) 2 = 65535
      ∧ (∀ x ∈ (s.link 4).tunnels, x.1 < 256) ∧ tunnelPaused 0 (s.link 4) ((s.link 4).tunnel 0) = false
      ∧ tunnelPaused 16000000 { u.link 4 with paused := [(0, 16000001)] } ((u.link 4).tunnel 0) = true
      ∧ tunnelPaused 16000000 (u.link 4) ((u.link 4).tunnel 0) = false
      ∧ 64 ≤ f.length ∧ f.length ≤ 9216 ∧ f.take 6 = (s.link 4).mac ∧ (udpTo f (s.link 4).port).map Prod.fst = some (List.replicate 16 0xFF)
      ∧ tunnelFrom (s.link 4) (List.replicate 16 0xFF) = some 0
      ∧ (let b := ((udpTo f (s.link 4).port).map Prod.snd).getD []
        tunnelOk b = true ∧ fld b 0 4 = ((s.link 4).tunnel 0).rxNext
          ∧ ((flitsIn (b.drop 16)).all fun f => (LinkHead.of f).typ == 1) = false)
      ∧ linkUp u 4 1 = true ∧ ((u.link 4).tunnel 0).valid = true ∧ ((u.link 4).tunnel 0).window ≠ []
      ∧ resendCycles ≤ ((u.region 0).cycle - ((u.link 4).tunnel 0).tried).toNat
      ∧ fenceCycles ≤ ((u.region 0).cycle - ((u.link 4).tunnel 0).since).toNat := by
  decide +kernel

/-! ### Witnesses: hardware errors, power, start-up and management -/

theorem wit_ErrorsAndFences :
    let x : OpEntry := { target .running with cells := [159] }
    let w : HbmWrite := { master := 0x30, addr := 63, data := [1] }
    let e : OpEntry := { kernelEntry with cls := 0 }
    memOf (cellAddr 159) = some (.cell 159) ∧ memOf (cellAddr 159 + cellSize - 1) = some (.cell 159) ∧ fencedRegion base 3 = false
      ∧ fencedCell base 159 = false ∧ fencedBlock base 19 = false ∧ (base.link 23).st ≠ 4
      ∧ (withOp base x).op? x.id = some x ∧ x.isCtrl = false ∧ usesCell (withOp base x) 159 x = true
      ∧ (let y : OpEntry := { x with phase := .finished }
        (withOp base y).op? y.id = some y ∧ usesCell (withOp base y) 159 y = true)
      ∧ fencedAddr (base.updRegion 0 fun g => { g with fence := BitVec.ofNat 64 (2 ^ 63) }) w.addr = true ∧ w.op = none ∧ w.master < 0x40
      ∧ stackOf (hbmTop - 1) < 12 ∧ hbmTop - 1 < hbmTop ∧ fencedAddr base (hbmTop - 1) = false ∧ stackOf 0 = 0
      ∧ idOk w.master = true ∧ w.data ≠ [] ∧ w.addr % 64 + w.data.length ≤ 64 ∧ w.addr + w.data.length ≤ hbmTop ∧ fencedAddr base w.addr = false
      ∧ (withOp base e).op? e.id = some e ∧ e.cls ≠ clsUPD ∧ slotOk (withOp base e) e.cls w.addr w.data.length = true := by
  decide +kernel

/-- Region 3 is released, with an ordered step; its cells are idle. -/
def clocked (switching : Bool) : State :=
  { base with regions := [(3, { released := true, clkTarget := some 1, clkSwitching := switching })] }
def watts (n : Nat) : Watts := { regions := [n, 0, 0, 0], hbm := 0, links := 0, hub := 0, losses := 0 }
def temps (n : Nat) : Temps := { regions := List.replicate 4 [n], hub := [30], stackC := List.replicate 12 40 }

theorem wit_ClocksAndPower :
    let s := { base with pwr := { base.pwr with samples := [watts 2201] } }
    let h := { base with pwr := { base.pwr with temps := [(0, 95)], calm := false } }
    fencedRegion (clocked false) 3 = false ∧ ((clocked false).region 3).clkSwitching = false ∧ ((clocked false).region 3).clkTarget ≠ none
      ∧ (∀ i, i < 40 → clockReady (clocked false) (40 * 3 + i) = true)
      ∧ ((clocked true).region 3).clkSwitching = true ∧ ((clocked true).region 3).clkTarget = some 1
      ∧ arbiterOn base = true ∧ meanAbove Watts.total ((watts 2600 :: base.pwr.samples).take 10) 2600 = false
      ∧ meanAbove Watts.total ((watts 2601 :: base.pwr.samples).take 10) 2600 = true ∧ base.pwr.fastSkip ≤ 1
      ∧ liveRegion base 0 = true ∧ requiredStep base 0 < 2
      ∧ (∀ n ∈ [104, 105], (temps n).regions.length = 4 ∧ (temps n).stackC.length = 12
          ∧ (((temps n).regions.any fun l => decide (105 ≤ hottest l)) || decide (105 ≤ hottest (temps n).hub)) = decide (n = 105))
      ∧ meanAbove Watts.total (s.pwr.samples.take 1000) s.pwr.cap = true ∧ highestPower s (aboveLowest s) = some 0 ∧ arbiterOn s = true
      ∧ meanAbove Watts.total (h.pwr.samples.take 1000) h.pwr.cap = false ∧ h.pwr.calm = false ∧ regionHeat h 0 95 = true
      ∧ liveRegion h 0 = true ∧ requiredStep h 0 < 2 ∧ arbiterOn h = true
      ∧ base.pwr.brake = false ∧ (base.region 0).clkSwitching = false ∧ (base.region 0).clkStep ≠ 2 := by
  decide +kernel

/-- In start-up stage `n`. -/
def staged (n : Nat) (f : Cantle → Cantle) : State := { base with cnt := f { stage := n }, mbx := {} }
def power (vin : Nat) : PowerUp := { position := 3, enrollEnable := true, vinMv := vin, v3p3Mv := 3465, v1p8Mv := 1710 }

theorem wit_StartUp :
    let t (n : Nat) := base.updHbm 11 fun h => { h with st := n }
    let r := { base with store := { base.store with serial := some (List.replicate 16 1) }, mbx := {} }
    State.reset.pins.powerGood = false ∧ railsOk (power 11400) = true ∧ railsOk (power 11399) = false
      ∧ base.pins.powerGood = true ∧ 10799 < railLimit 0
      ∧ (∀ ty, ty < 4 → 1 ≤ (staged 4 fun c => { c with nextType := ty }).cnt.stage
          ∧ (staged 4 fun c => { c with nextType := ty }).cnt.nextType = ty ∧ verifyImage (staged 4 fun c => { c with nextType := ty }) 0 ty = false
          ∧ (staged 4 fun c => { c with nextType := ty }).cnt.fallback = false)
      ∧ (staged 4 fun c => { c with nextType := 5 }).cnt.stage = 4 ∧ (staged 4 fun c => { c with nextType := 5 }).cnt.nextType = 5
      ∧ (staged 4 fun c => { c with nextType := 5 }).cnt.ready = false ∧ (staged 4 fun c => { c with nextType := 5 }).cnt.exhausted = false
      ∧ cantleOn (staged 3 id) = true ∧ (staged 3 id).store.nextChunk < 2 ^ 20
      ∧ ((t 1).hbm 11).st = 1 ∧ fencedRegion (t 1) 3 = false ∧ ((t 2).hbm 11).st = 2
      ∧ 1 ≤ (staged 9 id).cnt.stage ∧ (staged 9 id).cnt.stage ≤ 9
      ∧ r.hub.running = true ∧ r.mbx.locked = false ∧ r.store.serial ≠ none ∧ r.store.serial ≠ some ((List.replicate 16 (2#8)).take 16) := by
  decide +kernel

/-- The stacks are ready, and the boot image's payload is at hand. -/
def lastStage : State :=
  { staged 8 fun c => { c with bootImage := some (List.replicate 5248 0) } with
    hbms := (List.range 12).map fun h => (h, ({ st := 3 } : Hbm)) }

theorem wit_StartUp_lastStage :
    stacksReady lastStage = true ∧ (∀ l, l < 24 → (lastStage.link l).st ≠ 1) ∧ lastStage.mbx.locked = false ∧ fencedCell lastStage 159 = false := by
  decide +kernel

theorem wit_StartUp_lastImage : lastStage.cnt.bootImage = some (List.replicate 5248 0) ∧ lastStage.cnt.stage = 8 := ⟨rfl, rfl⟩

/-! ### Management requests -/

/-- A request of type `typ` with the MAC of an empty management key. -/
def request (typ : Nat) (body : List Byte) : Datagram :=
  let d : Datagram := { source := 1, version := 1, typ := typ, frag := 0, flags := if authTypes.contains typ then 2 else 0, pstatus := 0,
                        length := body.length, seq := 5, target := 0, reserved := 0, body := body, mac := [] }
  { d with mac := if authTypes.contains typ then hmac256 [] (mgtHeader d ++ d.body) else [] }
/-- The device is owned; an update is in state `u`. -/
def owned_ (u : Nat) : State :=
  { base with store := { base.store with ownerHash := some [] }, mgt := { base.mgt with update := u, updType := 4, updSize := 8192 } }

/-- Its MAC is right, and it is accepted when it is in form. -/
theorem request_accepted (s : State) (typ : Nat) (body : List Byte) (ha : authTypes.contains typ = true)
    (hk : s.store.mgtKey = []) (ho : s.store.ownerHash.isNone = false) (hs : s.mgt.seqs = [])
    (hm : malformed (request typ body) = false) : refusal s (request typ body) = none := by
  have hmac : macOk s (request typ body) = true := by
    have hf : (request typ body).flags = 2 := by simp only [request, ha, if_true]
    have hmc : (request typ body).mac = mgtMac [] (request typ body) := by
      simp only [request, ha, if_true]; rfl
    simp only [macOk, hf, hk]
    rw [hmc, decide_eq_true rfl, Bool.and_true]
    decide
  have hw : wantsAuth (request typ body) = true := by
    have ht : (request typ body).typ = typ := rfl
    unfold wantsAuth
    rw [ht, ha, Bool.true_or]
  have hl : lastSeq s (request typ body).source = none := by simp only [lastSeq, hs]; rfl
  unfold refusal
  rw [hm, hw, ho, hmac, hl]
  rfl

/-- Bodies in form of the authenticated requests. -/
def authBodies : List (Nat × List Byte) :=
  [(0x10, []), (0x11, List.replicate 32 0), (0x12, leBytes 2 1200), (0x12, leBytes 2 2200), (0x13, fields 8 [(0, 1, 4), (4, 4, 4097)]),
    (0x14, fields 17 [(0, 1, 4), (2, 2, 1), (4, 4, 8191)]), (0x15, []), (0x20, List.replicate 224 0)]

theorem wit_ManagementPort_form :
    ∀ p ∈ authBodies, malformed (request p.1 p.2) = false ∧ authTypes.contains p.1 = true ∧ reaches (owned_ 1) (request p.1 p.2) = true := by
  decide +kernel

theorem wit_ManagementPort (u : Nat) : ∀ p ∈ authBodies, refusal (owned_ u) (request p.1 p.2) = none := fun p hp =>
  request_accepted _ _ _ (wit_ManagementPort_form p hp).2.1 rfl rfl rfl (wit_ManagementPort_form p hp).1

theorem wit_ManagementPort_open :
    ∀ p ∈ [(0x01, 0), (0x02, 0), (0x03, 32), (0x04, 0)], let d := request p.1 (List.replicate p.2 0)
      reaches base d = true ∧ d.typ = p.1 ∧ refusal base d = none ∧ refusal base { d with version := 2 } = some psBADREQUEST
        ∧ malformed { d with version := 2 } = true := by
  decide +kernel

theorem wit_ManagementPort_states :
    updateRuns (owned_ 0) = false ∧ updateRuns (owned_ 2) = true
      ∧ (let b := fields 17 [(0, 1, 4), (2, 2, 1), (4, 4, 8191)]
        (owned_ 1).mgt.update = 1 ∧ fld b 0 1 = (owned_ 1).mgt.updType ∧ fld b 4 4 + fld b 2 2 ≤ (owned_ 1).mgt.updSize
          ∧ (owned_ 1).mgt.buffered + fld b 2 2 ≤ 65536)
      ∧ (let d := request 0x18 (List.replicate 64 0)
        let e := { base with pins := { base.pins with enroll := true } }
        refusal base d = none ∧ reaches base d = true ∧ mayEnroll e d.body = true ∧ refusal e d = none ∧ mayEnroll base d.body = false)
      ∧ refusal base (request 0x19 (List.replicate 1860 0)) = none
      ∧ mgtOn (owned_ 2) = true ∧ (owned_ 2).mgt.update = 2
      ∧ ((List.range 5).all fun ty => verifyImage (owned_ 2) (1 - (owned_ 2).store.active) ty) = false
      ∧ (let c := { base with cnt := { base.cnt with ready := true, leaf := 1022 } }
        (c.cnt.leaf + 1) % 1024 ≠ 0 ∧ c.cnt.exhausted = false ∧ refusal c (request 0x03 (List.replicate 32 0)) = none) := by
  decide +kernel

/-! ### Registers and configuration -/

theorem wit_RegistersAndConfiguration :
    let early := { base with mbx := { base.mbx with locked := false } }
    let c := adm 0x601 (fields 96 [(0, 2, 0x601), (0x10, 8, 0x6000), (0x18, 1, 1), (0x20, 8, 0x3F0000000010 + 2 * 2 ^ 56)])
    let p := adm 0x803 (fields 32 [(0, 2, 0x803), (0x10, 8, 0x6000), (0x18, 4, 1)])
    localId 0x20 = true ∧ early.mbx.locked = false ∧ base.mbx.locked = true
      ∧ inSlots 0x3F00000FFFF8 = false ∧ base.reg 0x3F00000FFFF8 = none
      ∧ Admitted (withOp base c) 0x601 c ∧ fld c.desc 0x18 1 = 1 ∧ zeros c.desc 0x19 0x20 = true ∧ zeros c.desc 0x28 0x60 = true
      ∧ (∀ x ∈ copyEntries c.desc, 1 ≤ x.2 ∧ x.2 ≤ 64 ∧ x.1 % 8 = 0) ∧ fldBits c.desc 0x20 8 55 48 = 0
      ∧ rangeStatus (withOp base c) c.resident (fld c.desc 0x10 8) (8 * (copyRegs c.desc).length) = stOK
      ∧ (∀ a ∈ copyRegs c.desc, ((withOp base c).reg a).isSome = true) ∧ (copyRegs c.desc).length = 2
      ∧ Admitted (withOp base p) 0x803 p ∧ zeros p.desc 0x1C 0x20 = true ∧ rangeStatus (withOp base p) false 0x6000 24 = stOK
      ∧ badRange (withOp base p) 0x6000 24 = false ∧ zeros (rdBytes (withOp base p) 0x6000 24) 2 8 = true := by
  unfold Admitted
  decide +kernel

theorem wit_RegistersAndConfiguration_loads :
    let r := adm 0x804 (fields 48 [(0, 2, 0x804), (0x10, 8, 0x6000), (0x18, 4, 65535), (0x1C, 4, 1), (0x20, 1, 15)])
    let s := memWrite (withOp base r) 0x6000 (leBytes 4 (2 ^ 15 + 0x60))
    let l := adm 0x805 (fields 80 [(0, 2, 0x805), (0x10, 1, 5), (0x38, 8, 0x10000000), (0x40, 8, 0x8000), (0x48, 8, 0x8008)])
    let t := (withOp base l).updLink 5 fun k => { k with mode := 1 }
    let g := adm 0x806 (fields 48 [(0, 2, 0x806), (0x10, 1, 63), (0x11, 1, 16), (0x18, 8, 0x1000000), (0x20, 8, 0x8000)])
    let i := adm 0x807 (fields 16 [(0, 2, 0x807)])
    (Admitted s 0x804 r ∧ fld r.desc 0x18 4 + fld r.desc 0x1C 4 ≤ 65536 ∧ fld r.desc 0x20 1 < 16 ∧ zeros r.desc 0x21 0x30 = true
      ∧ rangeStatus s false 0x6000 4 = stOK ∧ badRange s 0x6000 4 = false
      ∧ (∀ k ∈ bitsOf 4 15, fencedRegion s k = false ∧ portOk s k (natBits (routeBits (rdNat s 0x6000 4)) 3 0) = true
          ∧ portOk s k (natBits (routeBits (rdNat s 0x6000 4)) 7 4) = true
          ∧ validRoutes (routesAfter s k 65535 [routeBits (rdNat s 0x6000 4)]) ≤ 15))
      ∧ (Admitted t 0x805 l ∧ fld l.desc 0x10 1 = 5 ∧ (t.link 5).mode = 1 ∧ fencedLink t 5 = false ∧ fld l.desc 0x30 8 = 0
        ∧ fld l.desc 0x11 1 = 0 ∧ isGroup ((l.desc.drop 0x14).take 6) = false ∧ zeros l.desc 0x1A 0x20 = true
        ∧ rangeStatus t false (fld l.desc 0x38 8) 0x10000000 = stOK ∧ rangeStatus t false (fld l.desc 0x40 8) 8 = stOK
        ∧ rangeStatus t false (fld l.desc 0x48 8) 8 = stOK)
      ∧ (Admitted (withOp base g) 0x806 g ∧ zeros g.desc 0x13 0x18 = true ∧ zeros g.desc 0x28 0x30 = true ∧ ringInUse (withOp base g) 63 = false
        ∧ fld g.desc 0x11 1 = 16 ∧ rangeStatus (withOp base g) false (fld g.desc 0x18 8) (64 * 2 ^ 16) = stOK
        ∧ rangeStatus (withOp base g) false (fld g.desc 0x20 8) 8 = stOK
        ∧ bad (withOp base g) (fld g.desc 0x20 8) = false)
      ∧ Admitted (withOp base i) 0x807 i := by
  unfold Admitted
  decide +kernel

/-! ### Witnesses: signed requests and images -/

/-- A body whose last bytes are a signature and its key. -/
def signedBody (b msg : List Byte) : List Byte := b ++ zeroSig ++ zeroKey msg
/-- The owner is the holder of that key. -/
def ownedBy (msg : List Byte) (s : State) : State :=
  { s with store := { s.store with ownerHash := some (sha256 (zeroKey msg)) } }

theorem length_zeroSig : zeroSig.length = 1772 := by decide +kernel

theorem signedBody_owner (b msg : List Byte) (s : State) : ownerSigned (ownedBy msg s) (signedBody b msg) msg = true := by
  have hlen : (signedBody b msg).length - 1828 = b.length := by
    simp only [signedBody, List.length_append, length_zeroSig, length_zeroKey]; omega
  have h1 : (signedBody b msg).drop (b.length + 1772) = zeroKey msg := by
    rw [signedBody, List.append_assoc, List.drop_append, List.drop_eq_nil_of_le (Nat.le_add_right _ _), Nat.add_sub_cancel_left,
      List.nil_append, ← length_zeroSig, List.drop_left]
  have h2 : ((signedBody b msg).drop b.length).take 1772 = zeroSig := by
    rw [signedBody, List.append_assoc, List.drop_left, ← length_zeroSig, List.take_left]
  unfold ownerSigned
  simp only [hlen, h1, h2, ownedBy, lmsVerify_zero, Bool.and_true, beq_self_eq_true]

theorem length_fingerprint : fingerprint.length = 32 := length_sha256 _

theorem wit_ManagementPort_release :
    let d := request 0x19 (signedBody fingerprint (fingerprint ++ fingerprint))
    let s := ownedBy (fingerprint ++ fingerprint) base
    reaches s d = true ∧ d.typ = 0x19 ∧ refusal s d = none
      ∧ (decide (d.body.take 32 = fingerprint) && ownerSigned s d.body (fingerprint ++ fingerprint)) = true := by
  have hl : (signedBody fingerprint (fingerprint ++ fingerprint)).length = 1860 := by
    simp only [signedBody, List.length_append, length_zeroSig, length_zeroKey, length_fingerprint]
  refine ⟨by decide +kernel, rfl, ?_, ?_⟩
  · have hm : malformed (request 0x19 (signedBody fingerprint (fingerprint ++ fingerprint))) = false := by
      simp only [malformed, request, mgtBodyOk, hl]
      decide +kernel
    have hw : wantsAuth (request 0x19 (signedBody fingerprint (fingerprint ++ fingerprint))) = false := by
      simp only [wantsAuth, request]; decide +kernel
    unfold refusal
    rw [hm, hw]
    rfl
  · rw [Bool.and_eq_true]
    refine ⟨?_, signedBody_owner _ _ _⟩
    rw [decide_eq_true_eq]
    show (signedBody fingerprint (fingerprint ++ fingerprint)).take 32 = fingerprint
    rw [signedBody, List.append_assoc, ← length_fingerprint, List.take_left]

/-- An owned device, and an ENROLL that its owner signs. -/
theorem wit_ManagementPort_enroll :
    let b := List.replicate 64 (0 : Byte)
    let msg := b ++ fingerprint
    mayEnroll (ownedBy msg base) (signedBody b msg) = true := by
  have hl : (signedBody (List.replicate 64 0) (List.replicate 64 0 ++ fingerprint)).length = 1892 := by
    simp only [signedBody, List.length_append, length_zeroSig, length_zeroKey, List.length_replicate]
  have ht : (signedBody (List.replicate 64 0) (List.replicate 64 0 ++ fingerprint)).take 64 = List.replicate 64 0 := by
    rw [signedBody, List.append_assoc]
    exact List.take_left' List.length_replicate
  have ho : (ownedBy (List.replicate 64 0 ++ fingerprint) base).store.ownerHash.isNone = false := rfl
  simp only [mayEnroll, ho, hl, ht]
  simpa using signedBody_owner _ _ _

/-- Header of an image of type `t` with no payload, by key slot `k`. -/
def imageHead (t k : Nat) : List Byte := fields 16 [(0, 1, t), (3, 1, k)] ++ sha256 [] ++ List.replicate 208 0
def emptyImage (t k : Nat) : List Byte :=
  imageHead t k ++ zeroSig ++ List.replicate 20 0 ++ zeroKey (imageHead t k) ++ List.replicate 1992 0

theorem length_imageHead (t k : Nat) : (imageHead t k).length = 256 := by
  simp only [imageHead, List.length_append, length_sha256, List.length_replicate]; rfl

/-- It verifies in a device whose ROM, or owner, holds the hash of its key. -/
theorem emptyImage_verifies (s : State) (t k : Nat) (ht : t ≤ 4) (hk : k ≤ 3) (h4 : t = 4 → k = 0)
    (hi : imageBytes s 1 t = emptyImage t k) (hsv : fget 0 s.store.svn t = 0)
    (hs : signerOk s t (emptyImage t k) = true) : verifyImage s 1 t = true := by
  have hL := length_imageHead t k
  have hb0 : (imageHead t k) = fields 16 [(0, 1, t), (3, 1, k)] ++ (sha256 [] ++ List.replicate 208 0) := by
    rw [imageHead, List.append_assoc]
  have f0 : ∀ off n, off + n ≤ 16 → fld (emptyImage t k) off n = fld (fields 16 [(0, 1, t), (3, 1, k)]) off n := by
    intro off n hn
    have hlen : (fields 16 [(0, 1, t), (3, 1, k)]).length = 16 := rfl
    unfold fld
    congr 1
    simp only [emptyImage, hb0, List.append_assoc]
    rw [List.drop_append_of_le_length (by omega), List.take_append_of_le_length (by rw [List.length_drop]; omega)]
  have hf0 : fld (emptyImage t k) 0 1 = t := by rw [f0 0 1 (by omega)]; interval_cases t <;> interval_cases k <;> rfl
  have hf1 : fld (emptyImage t k) 1 1 = 0 := by rw [f0 1 1 (by omega)]; interval_cases t <;> interval_cases k <;> rfl
  have hf4 : fld (emptyImage t k) 4 4 = 0 := by rw [f0 4 4 (by omega)]; interval_cases t <;> interval_cases k <;> rfl
  have hd : imageDigest (emptyImage t k) = sha256 [] := by
    unfold imageDigest
    have hlen : (fields 16 [(0, 1, t), (3, 1, k)]).length = 16 := rfl
    simp only [emptyImage, hb0, List.append_assoc]
    rw [List.drop_left' hlen]
    exact List.take_left' (length_sha256 _)
  have hp : imagePayload (emptyImage t k) = [] := by unfold imagePayload; rw [hf4, List.take_zero]
  have hh : (emptyImage t k).take 0x100 = imageHead t k := by
    simp only [emptyImage, List.append_assoc]; exact List.take_left' hL
  have hsig : ((emptyImage t k).drop 0x100).take 1772 = zeroSig := by
    simp only [emptyImage, List.append_assoc]
    rw [List.drop_left' hL]; exact List.take_left' length_zeroSig
  have hkey : ((emptyImage t k).drop 0x800).take 56 = zeroKey (imageHead t k) := by
    have : emptyImage t k = (imageHead t k ++ zeroSig ++ List.replicate 20 0) ++ (zeroKey (imageHead t k) ++ List.replicate 1992 0) := by
      simp only [emptyImage, List.append_assoc]
    rw [this, List.drop_left' (by simp only [List.length_append, hL, length_zeroSig, List.length_replicate])]
    exact List.take_left' (length_zeroKey _)
  have hlen : (emptyImage t k).length = 4096 := by
    simp only [emptyImage, List.length_append, hL, length_zeroSig, length_zeroKey, List.length_replicate]
  unfold verifyImage
  simp only [hi, hs, hf0, hf1, hf4, hd, hp, hh, hsig, hkey, hlen, hsv, lmsVerify_zero]
  simp

/-- The clauses on images that verify: `imageVerify` of types 0 to 3, and an update of all five. -/
theorem wit_StartUp_verified (h : ∀ k, k < 4 → Config.vikaeneHash k = sha256 (zeroKey (imageHead k k))) :
    let s : State := { base with store := { base.store with
      images := (List.range 5).map fun t => (5 + t, emptyImage t (t % 4))
      ownerHash := some (sha256 (zeroKey (imageHead 4 0))) } }
    (List.range 5).all (fun t => verifyImage s 1 t) = true := by
  intro s
  have hi : ∀ t, t ≤ 4 → imageBytes s 1 t = emptyImage t (t % 4) := by
    intro t ht
    interval_cases t <;> rfl
  have hkey : ∀ t, ((emptyImage t (t % 4)).drop 0x800).take 56 = zeroKey (imageHead t (t % 4)) := by
    intro t
    have : emptyImage t (t % 4) =
        (imageHead t (t % 4) ++ zeroSig ++ List.replicate 20 0) ++ (zeroKey (imageHead t (t % 4)) ++ List.replicate 1992 0) := by
      simp only [emptyImage, List.append_assoc]
    rw [this, List.drop_left' (by simp only [List.length_append, length_imageHead, length_zeroSig, List.length_replicate])]
    exact List.take_left' (length_zeroKey _)
  have f3 : ∀ t, t ≤ 4 → fld (emptyImage t (t % 4)) 3 1 = t % 4 := by
    intro t ht
    have : fld (emptyImage t (t % 4)) 3 1 = fld (fields 16 [(0, 1, t), (3, 1, t % 4)]) 3 1 := by
      unfold fld
      congr 1
    rw [this]; interval_cases t <;> rfl
  rw [List.all_eq_true]
  intro t ht
  have ht5 : t < 5 := List.mem_range.1 ht
  refine emptyImage_verifies s t (t % 4) (by omega) (by omega) (by omega) (hi t (by omega)) rfl ?_
  unfold signerOk
  simp only [hkey, f3 t (by omega)]
  by_cases h4 : t = 4
  · subst h4; simp [s]
  · have h3 : t % 4 = t := Nat.mod_eq_of_lt (by omega)
    rw [if_neg h4, h3, h t (by omega)]
    simp [s, base, fget]
    omega

end Witnesses

end Sys2Proof.Tests
end

section
/-! SUPPORT. The queue of waiting commands and the lock of the binding table (R11, R370): what yields a state of the
device leaves both as they are, but for a reset and the lock itself. -/

namespace Sys2Proof.Machine

/-! ### The waiting commands and the lock -/

/-- The commands that wait, and whether the binding table is locked. -/
def State.queueLock (s : State) : List Instr × Bool := (s.pending, s.mbx.locked)

/-- The state that the issue of an instruction leads to; a fault or a wait is not its effect. -/
def Issue.after (s : State) : Issue → State
  | .go t => t
  | _ => s

theorem locked_of_queueLock {s t : State} (h : t.queueLock = s.queueLock) : t.mbx.locked = s.mbx.locked :=
  congrArg Prod.snd h

@[simp] theorem queueLock_mk (pending mem poison cells blocks regions hbms links ringDown hub store cnt mgt pwr pins mbx
    gth hrw frozen ops refused out fresh) :
    (State.mk pending mem poison cells blocks regions hbms links ringDown hub store cnt mgt pwr pins mbx gth hrw frozen
      ops refused out fresh).queueLock = (pending, mbx.locked) := Prod.ext rfl rfl

@[simp] theorem pending_locked (s : State) : (s.pending, s.mbx.locked) = s.queueLock := Prod.ext rfl rfl

@[simp] theorem Mbx.bump_locked (o n : Nat) (m : Mbx) : (m.bump o n).locked = m.locked := by
  cases m; rfl

@[simp] theorem queueLock_ite (c : Prop) [Decidable c] (s t : State) :
    (if c then s else t).queueLock = if c then s.queueLock else t.queueLock := apply_ite ..

@[simp] theorem after_go (s t : State) : (Issue.go t).after s = t := rfl
@[simp] theorem after_fault (s : State) (st : Nat) : (Issue.fault st).after s = s := rfl
@[simp] theorem after_wait (s : State) : Issue.wait.after s = s := rfl

@[simp] theorem after_ite (c : Prop) [Decidable c] (s : State) (i j : Issue) :
    (if c then i else j).after s = if c then i.after s else j.after s := apply_ite ..

/-! ### Folds and optional results -/

section
variable {α β γ : Type}

/-- What every step of a fold keeps, the fold keeps. -/
theorem foldl_keeps (π : β → γ) (l : List α) (f : β → α → β) (h : ∀ b x, π (f b x) = π b) (b : β) :
    π (l.foldl f b) = π b := by
  induction l generalizing b with
  | nil => rfl
  | cons a t ih => rw [List.foldl_cons, ih, h]

@[simp] theorem foldl_queueLock (l : List α) (f : State → α → State) (h : ∀ s x, (f s x).queueLock = s.queueLock)
    (s : State) : (l.foldl f s).queueLock = s.queueLock := foldl_keeps State.queueLock l f h s

@[simp] theorem foldl_fst_queueLock (l : List α) (f : State × β → α → State × β)
    (h : ∀ p x, (f p x).1.queueLock = p.1.queueLock) (p : State × β) : (l.foldl f p).1.queueLock = p.1.queueLock :=
  foldl_keeps (fun p => p.1.queueLock) l f h p

@[simp] theorem foldl_snd_queueLock (l : List α) (f : β × State → α → β × State)
    (h : ∀ p x, (f p x).2.queueLock = p.2.queueLock) (p : β × State) : (l.foldl f p).2.queueLock = p.2.queueLock :=
  foldl_keeps (fun p => p.2.queueLock) l f h p

theorem getD_queueLock {s d : State} {o : Option State} (h : ∀ t, o = some t → t.queueLock = s.queueLock)
    (hd : d.queueLock = s.queueLock) : (o.getD d).queueLock = s.queueLock := by
  cases o with
  | none => exact hd
  | some t => exact h t rfl

end

/-! ### Every function that yields a state, in the order of the model's files -/

variable (s : State)

/-! #### Ops -/

@[simp] theorem State.setCell_queueLock (n : Nat) (c : Cell) : (s.setCell n c).queueLock = s.queueLock := by
  simp [State.setCell]
@[simp] theorem State.updCell_queueLock (n : Nat) (f : Cell → Cell) : (s.updCell n f).queueLock = s.queueLock := by
  simp [State.updCell]
@[simp] theorem State.setBlock_queueLock (n : Nat) (b : Block) : (s.setBlock n b).queueLock = s.queueLock := by
  simp [State.setBlock]
@[simp] theorem State.updBlock_queueLock (n : Nat) (f : Block → Block) :
    (s.updBlock n f).queueLock = s.queueLock := by simp [State.updBlock]
@[simp] theorem State.setRegion_queueLock (n : Nat) (r : Region) : (s.setRegion n r).queueLock = s.queueLock := by
  simp [State.setRegion]
@[simp] theorem State.updRegion_queueLock (n : Nat) (f : Region → Region) :
    (s.updRegion n f).queueLock = s.queueLock := by simp [State.updRegion]
@[simp] theorem State.updHbm_queueLock (n : Nat) (f : Hbm → Hbm) : (s.updHbm n f).queueLock = s.queueLock := by
  simp [State.updHbm]
@[simp] theorem State.updHub_queueLock (f : Hub → Hub) : (s.updHub f).queueLock = s.queueLock := by
  simp [State.updHub]
@[simp] theorem State.updMbx_queueLock (f : Mbx → Mbx) (h : (f s.mbx).locked = s.mbx.locked) :
    (s.updMbx f).queueLock = s.queueLock := by
  simp [State.updMbx, h]

@[simp] theorem State.updGth_queueLock (f : Girth → Girth) : (s.updGth f).queueLock = s.queueLock := by
  simp [State.updGth]
@[simp] theorem State.emit_queueLock (o : Out) : (s.emit o).queueLock = s.queueLock := by simp [State.emit]
@[simp] theorem State.updCtx_queueLock (cx : Cx) (f : Ctx → Ctx) : (s.updCtx cx f).queueLock = s.queueLock := by
  simp [State.updCtx]
@[simp] theorem State.updArr_queueLock (n : Nat) (f : Arr → Arr) : (s.updArr n f).queueLock = s.queueLock := by
  simp [State.updArr]
@[simp] theorem State.draw_queueLock : (s.draw).2.queueLock = s.queueLock := by simp [State.draw]
@[simp] theorem setBad_queueLock (a : Nat) (b : Bool) : (setBad s a b).queueLock = s.queueLock := by simp [setBad]
@[simp] theorem writeUnit_queueLock (a : Nat) (bs : List Byte) : (writeUnit s a bs).queueLock = s.queueLock := by
  simp [writeUnit]
@[simp] theorem memWrite_queueLock (a : Nat) (bs : List Byte) : (memWrite s a bs).queueLock = s.queueLock := by
  simp [memWrite]
@[simp] theorem countBlocks_queueLock (l : List Nat) : (countBlocks s l).queueLock = s.queueLock := by
  simp [countBlocks]
@[simp] theorem countReads_queueLock (a n : Nat) : (countReads s a n).queueLock = s.queueLock := by simp [countReads]
@[simp] theorem State.updOp_queueLock (id : OpId) (f : OpEntry → OpEntry) :
    (s.updOp id f).queueLock = s.queueLock := by simp [State.updOp]
@[simp] theorem State.dropOp_queueLock (id : OpId) : (s.dropOp id).queueLock = s.queueLock := by simp [State.dropOp]
@[simp] theorem State.addStat_queueLock (id : OpId) (st : Nat) : (s.addStat id st).queueLock = s.queueLock := by
  simp [State.addStat]
@[simp] theorem State.finishOp_queueLock (id : OpId) (st : Nat) : (s.finishOp id st).queueLock = s.queueLock := by
  simp [State.finishOp]

/-! #### Flags -/

@[simp] theorem State.updTlm_queueLock (r : Nat) (f : Tlm → Tlm) : (s.updTlm r f).queueLock = s.queueLock := by
  simp [State.updTlm]
@[simp] theorem chargeEvents_queueLock (r fmt tag : Nat) (evs : List Nat) :
    (chargeEvents s r fmt tag evs).queueLock = s.queueLock := by simp [chargeEvents]
@[simp] theorem refuseLoad_queueLock (e : OpEntry) (st : Nat) : (refuseLoad s e st).queueLock = s.queueLock := by
  simp [refuseLoad]
@[simp] theorem chargePairs_queueLock (r tag : Nat) (evs : List (Nat × Nat)) :
    (chargePairs s r tag evs).queueLock = s.queueLock := by simp [chargePairs]
@[simp] theorem countValues_queueLock (r fmt tag n : Nat) : (countValues s r fmt tag n).queueLock = s.queueLock := by
  simp [countValues]
@[simp] theorem vecEvents_queueLock (cx : Cx) (fmt tag : Nat) (evs : List Nat) :
    (vecEvents s cx fmt tag evs).queueLock = s.queueLock := by simp [vecEvents]

/-! #### Operands -/

@[simp] theorem writeElems_queueLock (a w i : Nat) (cs : List (Option Nat)) :
    (writeElems s a w i cs).queueLock = s.queueLock := by simp [writeElems]

/-! #### Issue -/

@[simp] theorem stopKernel_queueLock (id : OpId) : (stopKernel s id).queueLock = s.queueLock := by
  unfold stopKernel
  split <;> simp

@[simp] theorem endKernel_queueLock (id : OpId) (st : Nat) (d0 : DWord) :
    (endKernel s id st d0).queueLock = s.queueLock := by simp [endKernel]
@[simp] theorem kernelFault_queueLock (cx : Cx) (st : Nat) : (kernelFault s cx st).queueLock = s.queueLock := by
  unfold kernelFault
  dsimp only
  split <;> simp

@[simp] theorem dropAfter_queueLock (n : Nat) (id : OpId) (seq : Nat) :
    (dropAfter s n id seq).queueLock = s.queueLock := by simp [dropAfter]
@[simp] theorem endAtItem_queueLock (n : Nat) (id : OpId) (seq : Nat) (issuer : Option Cx) (pc st : Nat) :
    (endAtItem s n id seq issuer pc st).queueLock = s.queueLock := by simp [endAtItem]
@[simp] theorem vecPairs_queueLock (cx : Cx) (tag : Nat) (evs : List (Nat × Nat)) :
    (vecPairs s cx tag evs).queueLock = s.queueLock := by simp [vecPairs]
@[simp] theorem issueAt_queueLock (cx : Cx) (w : State → Issue)
    (hw : ((w s).after s).queueLock = s.queueLock) : (issueAt s cx w).queueLock = s.queueLock := by
  unfold issueAt
  dsimp only
  split
  · split
    · simp
    · split
      · simp
      · split
        · simp
        · split <;> simp_all
  · rfl

@[simp] theorem kStat_queueLock (cx : Cx) (st : Nat) : (kStat s cx st).queueLock = s.queueLock := by
  unfold kStat
  split <;> simp

@[simp] theorem kPoison_queueLock (cx : Cx) (evs : List (Nat × Nat)) :
    (kPoison s cx evs).queueLock = s.queueLock := by simp [kPoison]
@[simp] theorem kWrite_queueLock (cx : Cx) (a : Nat) (bs : List Byte) :
    (kWrite s cx a bs).queueLock = s.queueLock := by simp [kWrite]
@[simp] theorem kWriteElems_queueLock (cx : Cx) (a w i : Nat) (cs : List (Option Nat)) :
    (kWriteElems s cx a w i cs).queueLock = s.queueLock := by simp [kWriteElems]
@[simp] theorem freeCodes_queueLock (w : Nat) (l : List Bool) (s : State) :
    (freeCodes w l s).2.queueLock = s.queueLock := by
  induction l generalizing s with
  | nil => rfl
  | cons b t ih => cases b <;> simp [freeCodes, ih]

/-! #### OpWrite -/

@[simp] theorem maskedPiece_queueLock (id : OpId) (a : Nat) (bs : List Byte) :
    (maskedPiece s id a bs).queueLock = s.queueLock := by simp [maskedPiece]
@[simp] theorem plainPiece_queueLock (id : OpId) (a : Nat) (bs : List Byte) :
    (plainPiece s id a bs).queueLock = s.queueLock := by simp [plainPiece]
@[simp] theorem opWrite_queueLock (id : OpId) (cls : Nat) (priv : Bool) (a : Nat) (bs : List Byte) :
    (opWrite s id cls priv a bs).queueLock = s.queueLock := by simp [opWrite]
@[simp] theorem kernelDrainWrite_queueLock (id : OpId) (a : Nat) (bs : List Byte) :
    (kernelDrainWrite s id a bs).queueLock = s.queueLock := by simp [kernelDrainWrite]

/-! #### VectorReg -/

@[simp] theorem vrLanes_queueLock (cx : Cx) (f : Vr) (g : Ctx → Nat → Word × List (Nat × Nat)) :
    (vrLanes s cx f g).queueLock = s.queueLock := by simp [vrLanes]
@[simp] theorem vrArith_queueLock (types : List Nat) (k : Nat) (cx : Cx) (f : Vr) :
    ((vrArith types k s cx f).after s).queueLock = s.queueLock := by simp [vrArith]
@[simp] theorem vrPure_queueLock (types : List Nat) (mask : Nat) (extra : Bool) (g : Ctx → Nat → Word) (cx : Cx)
    (f : Vr) :
    ((vrPure types mask extra g s cx f).after s).queueLock = s.queueLock := by simp [vrPure]
@[simp] theorem vrCmp_queueLock (cx : Cx) (f : Vr) : ((vrCmp s cx f).after s).queueLock = s.queueLock := by
  simp [vrCmp]
@[simp] theorem vrReduce_queueLock (types : List Nat) (k : Nat) (cx : Cx) (f : Vr) :
    ((vrReduce types k s cx f).after s).queueLock = s.queueLock := by simp [vrReduce]
@[simp] theorem vrMask_queueLock (two : Bool) (op : Bool → Bool → Bool) (cx : Cx) (f : Vr) :
    ((vrMask two op s cx f).after s).queueLock = s.queueLock := by simp [vrMask]
@[simp] theorem vrLoad_queueLock (cx : Cx) (f : Vr) : ((vrLoad s cx f).after s).queueLock = s.queueLock := by
  unfold vrLoad
  split <;> simp

@[simp] theorem vrStore_queueLock (cx : Cx) (f : Vr) : ((vrStore s cx f).after s).queueLock = s.queueLock := by
  unfold vrStore
  split <;> simp

@[simp] theorem vrMaskLoad_queueLock (cx : Cx) (f : Vr) : ((vrMaskLoad s cx f).after s).queueLock = s.queueLock := by
  simp [vrMaskLoad]
@[simp] theorem vrMaskStore_queueLock (cx : Cx) (f : Vr) :
    ((vrMaskStore s cx f).after s).queueLock = s.queueLock := by simp [vrMaskStore]
@[simp] theorem vrGather_queueLock (cx : Cx) (f : Vr) : ((vrGather s cx f).after s).queueLock = s.queueLock := by
  unfold vrGather
  split <;> simp

@[simp] theorem scatOne_queueLock (cx : Cx) (f : Vr) (st : State) (t : Nat × List Nat) :
    (scatOne s cx f st t).queueLock = st.queueLock := by
  unfold scatOne
  dsimp only
  split <;> simp

@[simp] theorem vrScatter_queueLock (cx : Cx) (f : Vr) : ((vrScatter s cx f).after s).queueLock = s.queueLock := by
  unfold vrScatter
  split <;> simp

@[simp] theorem freeOrder_queueLock (k : Nat) (s : State) (l : List Nat) :
    (freeOrder k s l).2.queueLock = s.queueLock := by
  induction k generalizing s l with
  | zero => rfl
  | succ k ih => match l with
    | [] => rfl
    | [x] => rfl
    | x :: y :: t => simp [freeOrder, ih]

@[simp] theorem scaddOne_queueLock (cx : Cx) (f : Vr) (acc : State × List (Nat × Nat)) (t : Nat × List Nat) :
    (scaddOne s cx f acc t).1.queueLock = acc.1.queueLock := by
  unfold scaddOne
  dsimp only
  split <;> simp

@[simp] theorem vrScatterAdd_queueLock (cx : Cx) (f : Vr) :
    ((vrScatterAdd s cx f).after s).queueLock = s.queueLock := by
  unfold vrScatterAdd
  split <;> simp

/-! #### StreamForm -/

@[simp] theorem beginStream_queueLock (opc : Nat) (cx : Cx) (f : Vs) :
    (beginStream opc s cx f).queueLock = s.queueLock := by simp [beginStream]
@[simp] theorem stIssue_queueLock (opc : Nat) (chk : Option Nat) (cx : Cx) (f : Vs) :
    ((stIssue opc chk s cx f).after s).queueLock = s.queueLock := by
  unfold stIssue
  split <;> simp

@[simp] theorem storeElems_queueLock (cx : Cx) (o : Opnd) (si : Nat) (masked : Bool) (rnd : Rnd) (i0 : Nat)
    (vals : List (Option Res1)) : (storeElems s cx o si masked rnd i0 vals).1.queueLock = s.queueLock := by
  unfold storeElems
  split
  · refine (foldl_fst_queueLock _ _ (fun p g => ?_) _)
    dsimp only
    split <;> simp
  · simp

@[simp] theorem nextChunk_queueLock (cx : Cx) (more : Bool) : (nextChunk s cx more).queueLock = s.queueLock := by
  simp [nextChunk]
@[simp] theorem stCharge_queueLock (cx : Cx) (f : Vs) (fmt n : Nat) (evs : List (List (Nat × Nat))) :
    (stCharge s cx f fmt n evs).queueLock = s.queueLock := by simp [stCharge]
@[simp] theorem cmpChunk_queueLock (cx : Cx) (f : Vs) (is : List Nat) :
    (cmpChunk s cx f is).queueLock = s.queueLock := by simp [cmpChunk]
@[simp] theorem copyChunk_queueLock (cx : Cx) (f : Vs) (is : List Nat) :
    (copyChunk s cx f is).queueLock = s.queueLock := by
  unfold copyChunk
  dsimp only
  rw [stCharge_queueLock, foldl_queueLock, kWriteElems_queueLock]
  intro t g
  split <;> simp

@[simp] theorem scramble_queueLock (cx : Cx) (o : Opnd) (i0 : Nat) (act : List Bool) :
    (scramble cx o i0 act s).queueLock = s.queueLock := by simp [scramble]
@[simp] theorem arithChunk_queueLock (cx : Cx) (opc : Nat) (f : Vs) (is : List Nat) :
    (arithChunk s cx opc f is).queueLock = s.queueLock := by simp [arithChunk]
@[simp] theorem ewChunk_queueLock (cx : Cx) (t : Stream) : (ewChunk s cx t).queueLock = s.queueLock := by
  simp [ewChunk]
@[simp] theorem redFinish_queueLock (cx : Cx) (k : Nat) (t : Stream) (last : Bool) :
    (redFinish s cx k t last).1.queueLock = s.queueLock := by
  unfold redFinish
  dsimp only
  split <;> simp

@[simp] theorem reduceChunk_queueLock (cx : Cx) (t : Stream) : (reduceChunk s cx t).queueLock = s.queueLock := by
  simp [reduceChunk]

/-! #### Drain -/

@[simp] theorem writeUnitOf_queueLock (n : Nat) (b : TileBuf) (q : Nat) :
    (writeUnitOf s n b q).queueLock = s.queueLock := by simp [writeUnitOf]
@[simp] theorem writeNextUnit_queueLock (n : Nat) : (writeNextUnit s n).queueLock = s.queueLock := by
  unfold writeNextUnit
  dsimp only
  split <;> simp

@[simp] theorem sweepTile_queueLock (n : Nat) : (sweepTile s n).queueLock = s.queueLock := by
  unfold sweepTile
  dsimp only
  split <;> simp

/-! #### Array -/

@[simp] theorem fillFeed_queueLock (n : Nat) (p : Product) : (fillFeed s n p).queueLock = s.queueLock := by
  simp [fillFeed]
@[simp] theorem startProduct_queueLock (n : Nat) (h : Home) (p : Product) :
    (startProduct s n h p).queueLock = s.queueLock := by simp [startProduct]
@[simp] theorem refuseProduct_queueLock (n : Nat) (p : Product) (st : Nat) :
    (refuseProduct s n p st).queueLock = s.queueLock := by simp [refuseProduct]
@[simp] theorem startHead_queueLock (n : Nat) (p : Product) (pop : Arr → Arr) :
    (startHead s n p pop).queueLock = s.queueLock := by
  unfold startHead
  dsimp only
  repeat' split
  all_goals simp

@[simp] theorem productStart_queueLock (n : Nat) : (productStart s n).queueLock = s.queueLock := by
  unfold productStart
  dsimp only
  split <;> simp

@[simp] theorem deferredStart_queueLock (n : Nat) : (deferredStart s n).queueLock = s.queueLock := by
  unfold deferredStart
  dsimp only
  split <;> simp

@[simp] theorem freeAcc_queueLock (n : Nat) : (freeAcc s n).queueLock = s.queueLock := by simp [freeAcc]
@[simp] theorem stopArray_queueLock (gone : OpId → Bool) (n : Nat) :
    (stopArray gone s n).queueLock = s.queueLock := by simp [stopArray]
@[simp] theorem clearCell_queueLock (id : OpId) (n : Nat) : (clearCell id s n).queueLock = s.queueLock := by
  simp [clearCell]
@[simp] theorem stopProduct_queueLock (n : Nat) (p : Product) (st : Nat) :
    (stopProduct s n p st).queueLock = s.queueLock := by
  unfold stopProduct
  split <;> simp

@[simp] theorem settleStop_queueLock (b : Nat) : (settleStop s b).queueLock = s.queueLock := by
  unfold settleStop
  split <;> simp

@[simp] theorem settleJob_queueLock (b : Nat) : (settleJob s b).queueLock = s.queueLock := by
  unfold settleJob
  split <;> simp

@[simp] theorem openTile_queueLock (n : Nat) (p : Product) : (openTile s n p).1.queueLock = s.queueLock := by
  unfold openTile
  dsimp only
  split <;> simp

@[simp] theorem countMispred_queueLock (n : Nat) (p : Product) : (countMispred s n p).queueLock = s.queueLock := by
  unfold countMispred
  split <;> simp

@[simp] theorem takeHead_queueLock (n : Nat) (p : Product) : (takeHead s n p).1.queueLock = s.queueLock := by
  simp [takeHead]
@[simp] theorem loadBack_queueLock (n : Nat) (p : Product) : (loadBack s n p).queueLock = s.queueLock := by
  simp [loadBack]
@[simp] theorem prefetch_queueLock (n : Nat) (p : Product) : (prefetch s n p).queueLock = s.queueLock := by
  unfold prefetch
  dsimp only
  repeat' split
  all_goals simp

@[simp] theorem swapIn_queueLock (n : Nat) (p : Product) : (swapIn s n p).queueLock = s.queueLock := by simp [swapIn]
@[simp] theorem passStart_queueLock (n : Nat) : (passStart s n).queueLock = s.queueLock := by
  unfold passStart
  split <;> simp

@[simp] theorem endStream_queueLock (n : Nat) (p : Product) : (endStream s n p).queueLock = s.queueLock := by
  simp [endStream]
@[simp] theorem advanceRow_queueLock (n : Nat) (p : Product) : (advanceRow s n p).queueLock = s.queueLock := by
  unfold advanceRow
  dsimp only
  repeat' split
  all_goals simp

@[simp] theorem meetRow_queueLock (n : Nat) (p : Product) (r : Nat) (old : List Nat) (ev : List (List Nat)) :
    (meetRow s n p r old ev).queueLock = s.queueLock := by simp [meetRow]
@[simp] theorem acceptRow_queueLock (n : Nat) (p : Product) : (acceptRow s n p).queueLock = s.queueLock := by
  simp [acceptRow]
@[simp] theorem rowResult_queueLock (n : Nat) : (rowResult s n).queueLock = s.queueLock := by
  unfold rowResult
  dsimp only
  repeat' split
  all_goals simp

@[simp] theorem productComplete_queueLock (n : Nat) : (productComplete s n).queueLock = s.queueLock := by
  unfold productComplete
  dsimp only
  split <;> simp

@[simp] theorem flushUnits_queueLock (n : Nat) (b : TileBuf) (k : Nat) (s : State) :
    (flushUnits n b k s).1.queueLock = s.queueLock := by
  induction k with
  | zero => rfl
  | succ k ih => simp only [flushUnits]; split <;> simp [ih]

@[simp] theorem flushDrain_queueLock (n : Nat) : (flushDrain s n).queueLock = s.queueLock := by simp [flushDrain]
@[simp] theorem preemptEffect_queueLock (n : Nat) : (preemptEffect s n).queueLock = s.queueLock := by
  unfold preemptEffect
  dsimp only
  split <;> simp

@[simp] theorem saveDone_queueLock (n : Nat) : (saveDone s n).queueLock = s.queueLock := by
  unfold saveDone
  dsimp only
  split <;> simp

@[simp] theorem deferredYield_queueLock (n : Nat) : (deferredYield s n).queueLock = s.queueLock := by
  unfold deferredYield
  dsimp only
  repeat' split
  all_goals simp

@[simp] theorem deferredResume_queueLock (n : Nat) : (deferredResume s n).queueLock = s.queueLock := by
  unfold deferredResume
  dsimp only
  split <;> simp

@[simp] theorem rebuildTile_queueLock (n : Nat) (p : Product) : (rebuildTile s n p).queueLock = s.queueLock := by
  simp [rebuildTile]
@[simp] theorem rebuildChain_queueLock (n : Nat) (p : Product) : (rebuildChain s n p).queueLock = s.queueLock := by
  simp [rebuildChain]
@[simp] theorem restoreDone_queueLock (n : Nat) : (restoreDone s n).queueLock = s.queueLock := by
  unfold restoreDone
  dsimp only
  split <;> simp

@[simp] theorem abortStop_queueLock (n : Nat) : (abortStop s n).queueLock = s.queueLock := by simp [abortStop]

/-! #### Clock -/

@[simp] theorem orderStep_queueLock (r : Nat) : (orderStep s r).queueLock = s.queueLock := by simp [orderStep]
@[simp] theorem orderSteps_queueLock : (orderSteps s).queueLock = s.queueLock := by simp [orderSteps]
@[simp] theorem cellReady_queueLock (r : Nat) : (cellReady s r).queueLock = s.queueLock := by simp [cellReady]
@[simp] theorem clockSwitchDone_queueLock (r : Nat) : (clockSwitchDone s r).queueLock = s.queueLock := by
  unfold clockSwitchDone
  dsimp only
  split <;> simp

/-! #### Route -/

@[simp] theorem State.updLink_queueLock (l : Nat) (f : Link → Link) : (s.updLink l f).queueLock = s.queueLock := by
  simp [State.updLink]
@[simp] theorem leaves_queueLock (f : TxFlit) : (leaves s f).queueLock = s.queueLock := by
  unfold leaves
  split <;> simp

@[simp] theorem shipped_queueLock (f : TxFlit) : (shipped s f).queueLock = s.queueLock := by
  unfold shipped
  split <;> simp

@[simp] theorem takeTag_queueLock (r : Nat) : (takeTag s r).2.queueLock = s.queueLock := by simp [takeTag]

@[simp] theorem tunnelOut_queueLock (l t seq : Nat) (fs : List (List Byte)) :
    (tunnelOut s l t seq fs).queueLock = s.queueLock := by
  simp only [tunnelOut, State.emit_queueLock, State.draw_queueLock]

@[simp] theorem keepFlits_queueLock (l t n : Nat) (fs : List (List Byte)) :
    (keepFlits s l t n fs).queueLock = s.queueLock := by simp [keepFlits]
@[simp] theorem tunnelPut_queueLock (l t : Nat) (fs : List TxFlit) :
    (tunnelPut s l t fs).queueLock = s.queueLock := by simp [tunnelPut]
@[simp] theorem tunnelSend_queueLock (l t : Nat) (fs : List TxFlit) :
    (tunnelSend s l t fs).queueLock = s.queueLock := by simp [tunnelSend]
@[simp] theorem deliver_queueLock (r : Nat) (d : Deliver) : (deliver s r d).queueLock = s.queueLock := by
  simp [deliver]
@[simp] theorem opLinkDown_queueLock (op : Option OpId) : (opLinkDown s op).queueLock = s.queueLock := by
  unfold opLinkDown
  split
  · split <;> simp
  · rfl

@[simp] theorem sendFlits_queueLock (k p t : Nat) (fs : List TxFlit) :
    (sendFlits s k p t fs).queueLock = s.queueLock := by simp [sendFlits]
theorem forwardNoted_queueLock {s t : State} {r cls : Nat} {op : Option OpId} {x : Option Shipment} {m : Msg}
    (h : forwardNoted s r cls op x m = some t) : t.queueLock = s.queueLock := by
  unfold forwardNoted at h
  split at h
  · next => cases h; simp
  · simp at h

theorem forward_queueLock {s t : State} {r cls : Nat} {op : Option OpId} {m : Msg}
    (h : forward s r cls op m = some t) : t.queueLock = s.queueLock := forwardNoted_queueLock h

@[simp] theorem sendNoted_queueLock (r : Nat) (op : Option OpId) (x : Option Shipment) (m : Msg) :
    (sendNoted s r op x m).queueLock = s.queueLock := by
  have hf := fun t h => @forwardNoted_queueLock s t r 0 op x { m with srcId := s.hub.deviceId, srcRegion := r } h
  simp [sendNoted, getD_queueLock hf]

@[simp] theorem sendMsg_queueLock (r : Nat) (op : Option OpId) (m : Msg) :
    (sendMsg s r op m).queueLock = s.queueLock := by simp [sendMsg]
@[simp] theorem sendBridle_queueLock (r : Nat) (op : Option OpId) (dev region typ : Nat)
    (body : List Byte) : (sendBridle s r op dev region typ body).1.queueLock = s.queueLock := by
  unfold sendBridle
  dsimp only
  split
  · split <;> simp
  · split
    · next h => simp [forward_queueLock h]
    · rfl

@[simp] theorem sendOob_queueLock (dev typ : Nat) (body : List Byte) :
    (sendOob s dev typ body).1.queueLock = s.queueLock := by
  unfold sendOob
  split <;> simp

@[simp] theorem reachBridle_queueLock (r : Nat) (op : Option OpId) (dev region typ : Nat)
    (body : List Byte) : (reachBridle s r op dev region typ body).1.queueLock = s.queueLock := by
  unfold reachBridle
  split
  · next h => simpa [h] using sendBridle_queueLock s r op dev region typ body
  · simp

@[simp] theorem answerBridle_queueLock (r : Nat) (byPort : Bool) (src : Src) (typ : Nat) (body : List Byte) :
    (answerBridle s r byPort src typ body).queueLock = s.queueLock := by simp [answerBridle]
@[simp] theorem bridleAgain_queueLock (r mtag : Nat) : (bridleAgain s r mtag).queueLock = s.queueLock := by
  simp [bridleAgain]
@[simp] theorem transit_queueLock (r cls : Nat) (m : Msg) (fs : List TxFlit) :
    (transit s r cls m fs).queueLock = s.queueLock := by
  unfold transit
  split <;> simp

/-! #### DmaDesc -/

@[simp] theorem State.updDma_queueLock (e : Engine) (f : Dma → Dma) : (s.updDma e f).queueLock = s.queueLock := by
  unfold State.updDma
  split <;> simp

/-! #### Scalar -/

@[simp] theorem scAlu_queueLock (ok : Bool) (g : Ctx → DWord) (cx : Cx) (f : Sc) :
    ((scAlu ok g s cx f).after s).queueLock = s.queueLock := by simp [scAlu]
@[simp] theorem scBranch_queueLock (ok : Bool) (p : Ctx → Bool) (cx : Cx) (f : Sc) :
    ((scBranch ok p s cx f).after s).queueLock = s.queueLock := by simp [scBranch]
@[simp] theorem scLoop_queueLock (ok : Bool) (cx : Cx) (f : Sc) :
    ((scLoop ok s cx f).after s).queueLock = s.queueLock := by simp [scLoop]
@[simp] theorem scRead_queueLock (cx : Cx) (f : Sc) : ((scRead s cx f).after s).queueLock = s.queueLock := by
  unfold scRead
  split
  · split <;> simp
  · rfl

@[simp] theorem scWrite_queueLock (cx : Cx) (f : Sc) : ((scWrite s cx f).after s).queueLock = s.queueLock := by
  simp [scWrite]
@[simp] theorem scLoad_queueLock (cx : Cx) (f : Sc) : ((scLoad s cx f).after s).queueLock = s.queueLock := by
  simp [scLoad]
@[simp] theorem scStore_queueLock (cx : Cx) (f : Sc) : ((scStore s cx f).after s).queueLock = s.queueLock := by
  simp [scStore]
@[simp] theorem scAissue_queueLock (cx : Cx) (f : Sc) : ((scAissue s cx f).after s).queueLock = s.queueLock := by
  unfold scAissue
  dsimp only
  repeat' split
  all_goals simp

@[simp] theorem scDissue_queueLock (cx : Cx) (f : Sc) : ((scDissue s cx f).after s).queueLock = s.queueLock := by
  unfold scDissue
  dsimp only
  repeat' split
  all_goals simp

@[simp] theorem settleKernel_queueLock (id : OpId) : (settleKernel s id).queueLock = s.queueLock := by
  simp [settleKernel]
@[simp] theorem freeCtx_queueLock (cx : Cx) : (freeCtx s cx).queueLock = s.queueLock := by
  unfold freeCtx
  dsimp only
  split <;> simp

@[simp] theorem scWait_queueLock (st : CtxState) (done : Bool) (cx : Cx) (f : Sc) :
    ((scWait st done s cx f).after s).queueLock = s.queueLock := by simp [scWait]
@[simp] theorem scEnd_queueLock (cx : Cx) (f : Sc) : ((scEnd s cx f).after s).queueLock = s.queueLock := by
  simp [scEnd]
@[simp] theorem waitEnd_queueLock (cx : Cx) : (waitEnd s cx).queueLock = s.queueLock := by
  unfold waitEnd
  dsimp only
  repeat' split
  all_goals simp

/-! #### Dma -/

@[simp] theorem freeShape_queueLock (d : TD) (c : TC) : (freeShape s d c).2.queueLock = s.queueLock := by
  unfold freeShape
  split <;> simp

@[simp] theorem xfer3_queueLock (sv s : State) (d : TD) (raw : List Byte) :
    (xfer3 sv s d raw).2.queueLock = s.queueLock := by
  unfold xfer3
  dsimp only
  refine foldl_snd_queueLock _ _ (fun p t => ?_) _
  split <;> simp

@[simp] theorem xferAdd_queueLock (sv s : State) (d : TD) (raw : List Byte) :
    (xferAdd sv s d raw).2.queueLock = s.queueLock := by
  unfold xferAdd
  dsimp only
  refine foldl_keeps (fun p : Xfer × State × State => p.2.1.queueLock) _ _ (fun p t => ?_) _
  split <;> simp

@[simp] theorem xferOf_queueLock (sv : State) (d : TD) (raw : List Byte) :
    (xferOf sv s d raw).2.queueLock = s.queueLock := by
  unfold xferOf
  dsimp only
  repeat' split
  all_goals simp

@[simp] theorem freeBytes_queueLock (k : Nat) (s : State) : (freeBytes k s).2.queueLock = s.queueLock := by
  induction k generalizing s with
  | zero => rfl
  | succ k ih => simp [freeBytes, ih]

@[simp] theorem countXfer_queueLock (e : Engine) (x : Xfer) (bytes far : Nat) :
    (countXfer e x bytes far s).queueLock = s.queueLock := by
  unfold countXfer
  split <;> simp

@[simp] theorem sendWrite_queueLock (r : Nat) (op : OpId) (marks : List (Nat × Nat)) (a : Nat) (bs : List Byte) :
    (sendWrite s r op marks a bs).queueLock = s.queueLock := by simp [sendWrite]
@[simp] theorem sendRun_queueLock (r : Nat) (op : OpId) (marks : List (Nat × Nat)) (a : Nat) (bs : List Byte) :
    (sendRun s r op marks a bs).queueLock = s.queueLock := by simp [sendRun]
@[simp] theorem performXfer_queueLock (e : Engine) (it : DmaItem) (raw : List Byte) :
    (performXfer s e it raw).queueLock = s.queueLock := by
  unfold performXfer
  dsimp only
  repeat' split
  all_goals simp

@[simp] theorem sendReads_queueLock (r : Nat) (op : OpId) (l : List (Nat × Nat)) :
    (sendReads s r op l).1.queueLock = s.queueLock := by
  induction l generalizing s with
  | nil => rfl
  | cons p t ih => simp [sendReads, ih]

@[simp] theorem settleDma_queueLock (id : OpId) : (settleDma s id).queueLock = s.queueLock := by
  unfold settleDma
  split <;> simp

@[simp] theorem refuseDma_queueLock (e : Engine) (it : DmaItem) (st : Nat) :
    (refuseDma s e it st).queueLock = s.queueLock := by
  unfold refuseDma
  dsimp only
  split <;> simp

@[simp] theorem dmaStart_queueLock (e : Engine) : (dmaStart s e).queueLock = s.queueLock := by
  unfold dmaStart
  dsimp only
  repeat' split
  all_goals simp

@[simp] theorem dmaComplete_queueLock (e : Engine) : (dmaComplete s e).queueLock = s.queueLock := by
  unfold dmaComplete
  split <;> simp

@[simp] theorem dmaAbort_queueLock (e : Engine) : (dmaAbort s e).queueLock = s.queueLock := by simp [dmaAbort]
@[simp] theorem dmaResponse_queueLock (r mtag : Nat) (data : List Byte) :
    (dmaResponse s r mtag data).queueLock = s.queueLock := by
  unfold dmaResponse
  dsimp only
  repeat' split
  all_goals simp

/-! #### Sparse -/

@[simp] theorem State.updJob_queueLock (b : Nat) (f : SpsJob → SpsJob) : (s.updJob b f).queueLock = s.queueLock := by
  simp [State.updJob]
@[simp] theorem jobWrite_queueLock (id : OpId) (a : Nat) (bs : List Byte) :
    (jobWrite s id a bs).queueLock = s.queueLock := by simp [jobWrite]
@[simp] theorem planJob_queueLock (b : Nat) : (planJob s b).queueLock = s.queueLock := by
  unfold planJob
  split <;> simp

@[simp] theorem dispatchUnit_queueLock (b c : Nat) : (dispatchUnit s b c).queueLock = s.queueLock := by
  unfold dispatchUnit
  dsimp only
  repeat' split
  all_goals simp

@[simp] theorem closeTile_queueLock (b n : Nat) (j : SpsJob) (p : Product) (u : UnitRef) :
    (closeTile s b n j p u).queueLock = s.queueLock := by simp [closeTile]
@[simp] theorem writePartial_queueLock (b n : Nat) (j : SpsJob) (u : UnitRef) :
    (writePartial s b n j u).queueLock = s.queueLock := by simp [writePartial]
@[simp] theorem finishUnit_queueLock (b c : Nat) : (finishUnit s b c).queueLock = s.queueLock := by
  unfold finishUnit
  dsimp only
  repeat' split
  all_goals simp

@[simp] theorem jobPreempted_queueLock (b : Nat) : (jobPreempted s b).queueLock = s.queueLock := by
  unfold jobPreempted
  split <;> simp

/-! #### Rolac -/

@[simp] theorem stopUnits_queueLock (id : OpId) : (stopUnits s id).queueLock = s.queueLock := by simp [stopUnits]
@[simp] theorem forgetOp_queueLock (id : OpId) : (forgetOp s id).queueLock = s.queueLock := by simp [forgetOp]
@[simp] theorem dropKept_queueLock (id : OpId) : (dropKept s id).queueLock = s.queueLock := by simp [dropKept]
@[simp] theorem markAbort_queueLock (id : OpId) : (markAbort s id).queueLock = s.queueLock := by
  unfold markAbort
  dsimp only
  repeat' split
  all_goals simp

@[simp] theorem markPreempt_queueLock (id : OpId) : (markPreempt s id).queueLock = s.queueLock := by
  unfold markPreempt
  dsimp only
  repeat' split
  all_goals simp

@[simp] theorem promote_queueLock (id : OpId) : (promote s id).queueLock = s.queueLock := by
  unfold promote
  split <;> simp

@[simp] theorem promoteBucket_queueLock (step : DWord) (bucket : Nat) :
    (promoteBucket s step bucket).queueLock = s.queueLock := by simp [promoteBucket]
@[simp] theorem endWindows_queueLock (e : OpEntry) : (endWindows s e).queueLock = s.queueLock := by simp [endWindows]
@[simp] theorem holdRelease_queueLock (id : OpId) : (holdRelease s id).queueLock = s.queueLock := by
  unfold holdRelease
  split <;> simp

@[simp] theorem deadlinePromotion_queueLock (id : OpId) : (deadlinePromotion s id).queueLock = s.queueLock := by
  unfold deadlinePromotion
  split <;> simp

/-! #### Kernel -/

@[simp] theorem kernelLaunch_queueLock (id : OpId) : (kernelLaunch s id).queueLock = s.queueLock := by
  unfold kernelLaunch
  dsimp only
  repeat' split
  all_goals simp

@[simp] theorem kernelStart_queueLock (id : OpId) : (kernelStart s id).queueLock = s.queueLock := by
  unfold kernelStart
  split <;> simp

@[simp] theorem saveCtx_queueLock (e : OpEntry) (i n j k : Nat) : (saveCtx s e i n j k).queueLock = s.queueLock := by
  unfold saveCtx
  dsimp only
  repeat' split
  all_goals simp

@[simp] theorem saveCtxs_queueLock (e : OpEntry) : (saveCtxs s e).queueLock = s.queueLock := by simp [saveCtxs]
@[simp] theorem imageSaveDone_queueLock (id : OpId) : (imageSaveDone s id).queueLock = s.queueLock := by
  unfold imageSaveDone
  split <;> simp

@[simp] theorem contextRestoreDone_queueLock (id : OpId) : (contextRestoreDone s id).queueLock = s.queueLock := by
  unfold contextRestoreDone
  split <;> simp

@[simp] theorem kernelAbortStop_queueLock (id : OpId) : (kernelAbortStop s id).queueLock = s.queueLock := by
  unfold kernelAbortStop
  split <;> simp

@[simp] theorem blockJob_queueLock (id : OpId) : (blockJob s id).queueLock = s.queueLock := by
  unfold blockJob
  split <;> simp

@[simp] theorem chainOp_queueLock (opc : Nat) (id : OpId) : (chainOp opc s id).queueLock = s.queueLock := by
  unfold chainOp
  split <;> simp

/-! #### Mailbox -/

@[simp] theorem State.setSlot_queueLock (ch : Nat) (x : Slot) : (s.setSlot ch x).queueLock = s.queueLock := by
  simp [State.setSlot]
@[simp] theorem slotAnswer_queueLock (w : SlotWrite) (code : Nat) :
    (slotAnswer s w code).queueLock = s.queueLock := by
  unfold slotAnswer
  split <;> simp

@[simp] theorem slotWrite_queueLock (w : SlotWrite) : (slotWrite s w).queueLock = s.queueLock := by simp [slotWrite]
@[simp] theorem enqueueOp_queueLock (e : OpEntry) : (enqueueOp s e).queueLock = s.queueLock := by simp [enqueueOp]
@[simp] theorem accept_queueLock (core ch : Nat) (notice : List Byte) :
    (accept s core ch notice).queueLock = s.queueLock := by simp [accept]
@[simp] theorem emptyNotice_queueLock (ch tag : Nat) (x : Slot) :
    (emptyNotice s ch tag x).queueLock = s.queueLock := by
  unfold emptyNotice
  split
  · dsimp only
    split
    · simp
    · exact getD_queueLock (fun t h => forward_queueLock h) (by simp)
  · simp

@[simp] theorem emptySlot_queueLock (ch : Nat) : (emptySlot s ch).queueLock = s.queueLock := by simp [emptySlot]
@[simp] theorem slotTake_queueLock (reader ch : Nat) : (slotTake s reader ch).queueLock = s.queueLock := by
  simp [slotTake]
@[simp] theorem operationAdmit_queueLock (r : Nat) : (operationAdmit s r).queueLock = s.queueLock := by
  unfold operationAdmit
  split <;> simp

@[simp] theorem State.updRing_queueLock (n : Nat) (f : Ring → Ring) : (s.updRing n f).queueLock = s.queueLock := by
  simp [State.updRing]
@[simp] theorem putRecord_queueLock (n : Nat) (r : Record) : (putRecord s n r).queueLock = s.queueLock := by
  unfold putRecord
  split <;> simp

@[simp] theorem targetGone_queueLock (id : OpId) (st : Nat) : (targetGone s id st).queueLock = s.queueLock := by
  simp [targetGone]
@[simp] theorem flushAnswer_queueLock (e : OpEntry) : (flushAnswer s e).queueLock = s.queueLock := by
  unfold flushAnswer
  split <;> simp

@[simp] theorem flushAnswers_queueLock : (flushAnswers s).queueLock = s.queueLock := by simp [flushAnswers]
@[simp] theorem recordCommit_queueLock (id : OpId) : (recordCommit s id).queueLock = s.queueLock := by
  unfold recordCommit
  dsimp only
  repeat' split
  all_goals simp

@[simp] theorem ringHeadPoll_queueLock (n : Nat) : (ringHeadPoll s n).queueLock = s.queueLock := by
  simp [ringHeadPoll]
@[simp] theorem strobe_queueLock : (strobe s).queueLock = s.queueLock := by simp [strobe]
@[simp] theorem sampleStrobe_queueLock (master : Nat) : (sampleStrobe s master).queueLock = s.queueLock := by
  simp [sampleStrobe]
@[simp] theorem latchDone_queueLock : (latchDone s).queueLock = s.queueLock := by simp [latchDone]

/-! #### Girth -/

@[simp] theorem gthCopy_queueLock (a : Nat) (b : List Byte) : (gthCopy a b s).queueLock = s.queueLock := by
  simp [gthCopy]
@[simp] theorem gthOpen_queueLock (t : Nat) : (gthOpen s t).queueLock = s.queueLock := by
  unfold gthOpen
  dsimp only
  repeat' split
  all_goals simp

/-! #### Special -/

@[simp] theorem putBlkRow_queueLock (cx : Cx) (o : Opnd) (p r c0 : Nat) (cs : List (Option Nat)) :
    (putBlkRow cx o p r s c0 cs).queueLock = s.queueLock := by simp [putBlkRow]
@[simp] theorem scrambleBlkRow_queueLock (cx : Cx) (o : Opnd) (p r : Nat) (act : List Bool) :
    (scrambleBlkRow cx o p r act s).queueLock = s.queueLock := by simp [scrambleBlkRow]
@[simp] theorem storeBlkRow_queueLock (cx : Cx) (o : Opnd) (si p r : Nat) (vals : List (Option Res1)) :
    (storeBlkRow s cx o si p r vals).1.queueLock = s.queueLock := by
  unfold storeBlkRow
  split
  · refine foldl_fst_queueLock _ _ (fun q g => ?_) _
    dsimp only
    split <;> simp
  · simp

@[simp] theorem sfCharge_queueLock (cx : Cx) (f : Vs) (fm : Nat) (rs : List (Option SfRes)) (es : List (List Nat)) :
    (sfCharge s cx f fm rs es).queueLock = s.queueLock := by simp [sfCharge]
@[simp] theorem sfPutRow_queueLock (cx : Cx) (t : Stream) (last : Bool) (rs : List (Option SfRes)) :
    (sfPutRow s cx t last rs).1.queueLock = s.queueLock := by
  unfold sfPutRow
  dsimp only
  repeat' split
  all_goals simp

@[simp] theorem pbPoison_queueLock (cx : Cx) (b : PBlk) (f : Vs) (r : Nat) :
    (pbPoison s cx b f r).queueLock = s.queueLock := by simp [pbPoison]
@[simp] theorem recPoison_queueLock (cx : Cx) (p : Bool) : (recPoison s cx p).queueLock = s.queueLock := by
  simp [recPoison]
@[simp] theorem sfBump_queueLock (off n : Nat) (cx : Cx) : (sfBump off n s cx).queueLock = s.queueLock := by
  simp [sfBump]
@[simp] theorem sfNextRow_queueLock (cx : Cx) (t : Stream) (last : Bool) :
    (sfNextRow s cx t last).queueLock = s.queueLock := by simp [sfNextRow]
@[simp] theorem evalChunk_queueLock (cx : Cx) (t : Stream) : (evalChunk s cx t).queueLock = s.queueLock := by
  simp [evalChunk]
@[simp] theorem refineChunk_queueLock (cx : Cx) (t : Stream) : (refineChunk s cx t).queueLock = s.queueLock := by
  simp [refineChunk]
@[simp] theorem rstatRow_queueLock (cx : Cx) (t : Stream) (b : PBlk) :
    (rstatRow s cx t b).queueLock = s.queueLock := by simp [rstatRow]
@[simp] theorem rnormRow_queueLock (cx : Cx) (t : Stream) (b : PBlk) :
    (rnormRow s cx t b).queueLock = s.queueLock := by simp [rnormRow]
@[simp] theorem smaxRow_queueLock (cx : Cx) (t : Stream) (b : PBlk) : (smaxRow s cx t b).queueLock = s.queueLock := by
  simp [smaxRow]
@[simp] theorem rscaleRow_queueLock (cx : Cx) (t : Stream) (b : PBlk) :
    (rscaleRow s cx t b).queueLock = s.queueLock := by simp [rscaleRow]
@[simp] theorem scanRow_queueLock (cx : Cx) (t : Stream) (b : PBlk) : (scanRow s cx t b).queueLock = s.queueLock := by
  simp [scanRow]
@[simp] theorem chunkWork_queueLock (cx : Cx) (t : Stream) : (chunkWork s cx t).queueLock = s.queueLock := by
  unfold chunkWork
  split <;> simp

/-! #### Tables -/

@[simp] theorem imageRead_queueLock (e : OpEntry) (size st : Nat) :
    (imageRead s e size st).queueLock = s.queueLock := by simp [imageRead]
@[simp] theorem holdLoad_queueLock (cells : List Nat) (l : TableLoad) :
    (holdLoad s cells l).queueLock = s.queueLock := by simp [holdLoad]
@[simp] theorem codebookLoad_queueLock (id : OpId) : (codebookLoad s id).queueLock = s.queueLock := by
  unfold codebookLoad
  split <;> simp

@[simp] theorem fmtLoad_queueLock (id : OpId) : (fmtLoad s id).queueLock = s.queueLock := by
  unfold fmtLoad
  split <;> simp

@[simp] theorem curveLoad_queueLock (id : OpId) : (curveLoad s id).queueLock = s.queueLock := by
  unfold curveLoad
  split <;> simp

@[simp] theorem rescalePlace_queueLock (id : OpId) : (rescalePlace s id).queueLock = s.queueLock := by
  unfold rescalePlace
  split <;> simp

@[simp] theorem scheduleLoad_queueLock (id : OpId) : (scheduleLoad s id).queueLock = s.queueLock := by
  unfold scheduleLoad
  split <;> simp

@[simp] theorem applyFreeze_queueLock (e : OpEntry) : (applyFreeze s e).queueLock = s.queueLock := by
  simp [applyFreeze]
@[simp] theorem freezeLoad_queueLock (id : OpId) : (freezeLoad s id).queueLock = s.queueLock := by
  unfold freezeLoad
  split <;> simp

@[simp] theorem freezeTakeEffect_queueLock : (freezeTakeEffect s).queueLock = s.queueLock := by
  simp [freezeTakeEffect]

/-! #### Tick -/

@[simp] theorem tickCell_queueLock (n : Nat) : (tickCell s n).queueLock = s.queueLock := by simp [tickCell]
@[simp] theorem tickBlock_queueLock (b : Nat) : (tickBlock s b).queueLock = s.queueLock := by simp [tickBlock]
@[simp] theorem tickLink_queueLock (l : Nat) : (tickLink s l).queueLock = s.queueLock := by simp [tickLink]
@[simp] theorem tickRegion_queueLock (r : Nat) : (tickRegion s r).queueLock = s.queueLock := by simp [tickRegion]
@[simp] theorem tickCounters_queueLock : (tickCounters s).queueLock = s.queueLock := by simp [tickCounters]

/-! #### Opening -/

@[simp] theorem tlmWrite_queueLock (r : Nat) : (tlmWrite s r).queueLock = s.queueLock := by simp [tlmWrite]
@[simp] theorem tlmClose_queueLock (r flags : Nat) : (tlmClose s r flags).queueLock = s.queueLock := by
  simp [tlmClose]
@[simp] theorem telemetrySet_queueLock (id : OpId) : (telemetrySet s id).queueLock = s.queueLock := by
  unfold telemetrySet
  split <;> simp

@[simp] theorem applyResidency_queueLock (e : OpEntry) : (applyResidency s e).queueLock = s.queueLock := by
  simp [applyResidency]
@[simp] theorem residencySet_queueLock (id : OpId) : (residencySet s id).queueLock = s.queueLock := by
  unfold residencySet
  split <;> simp

@[simp] theorem residencyTakeEffect_queueLock : (residencyTakeEffect s).queueLock = s.queueLock := by
  simp [residencyTakeEffect]
@[simp] theorem openStep_queueLock (t flags : Nat) (restored : Bool) :
    (openStep s t flags restored).queueLock = s.queueLock := by simp [openStep]
@[simp] theorem abortStep_queueLock (t : DWord) : (abortStep s t).queueLock = s.queueLock := by simp [abortStep]

/-! #### Links -/

@[simp] theorem dropWaits_queueLock (id : OpId) : (dropWaits s id).queueLock = s.queueLock := by simp [dropWaits]
@[simp] theorem lostMessages_queueLock (id : OpId) : (lostMessages s id).queueLock = s.queueLock := by
  simp [lostMessages]
@[simp] theorem reroute_queueLock (r : Nat) (fs : List TxFlit) : (reroute s r fs).queueLock = s.queueLock := by
  unfold reroute
  dsimp only
  repeat' split
  all_goals simp

@[simp] theorem fenceLink_queueLock (l : Nat) : (fenceLink s l).queueLock = s.queueLock := by simp [fenceLink]
@[simp] theorem linkSettle_queueLock (l : Nat) : (linkSettle s l).queueLock = s.queueLock := by
  unfold linkSettle
  dsimp only
  repeat' split
  all_goals simp

@[simp] theorem sendControl_queueLock (l : Nat) : (sendControl s l).queueLock = s.queueLock := by simp [sendControl]
@[simp] theorem trainingDone_queueLock (l : Nat) (ok : Bool) (rtt : Nat) :
    (trainingDone s l ok rtt).queueLock = s.queueLock := by simp [trainingDone]
@[simp] theorem linkControl_queueLock (l : Nat) (p : PeerInfo) : (linkControl s l p).queueLock = s.queueLock := by
  simp [linkControl]
@[simp] theorem signalLoss_queueLock (l : Nat) : (signalLoss s l).queueLock = s.queueLock := by simp [signalLoss]
@[simp] theorem heard_queueLock (l : Nat) : (heard s l).queueLock = s.queueLock := by simp [heard]
@[simp] theorem sendFlit_queueLock (l : Nat) (h : LinkHead) (payload : List Byte) :
    (sendFlit s l h payload).queueLock = s.queueLock := by simp [sendFlit]
@[simp] theorem flitDiscard_queueLock (l : Nat) : (flitDiscard s l).queueLock = s.queueLock := by simp [flitDiscard]
@[simp] theorem messageHome_queueLock (l : Nat) (m : Msg) : (messageHome s l m).queueLock = s.queueLock := by
  simp [messageHome]
@[simp] theorem messageIn_queueLock (l cls : Nat) (src : Option (Nat × Nat)) (parts : List (List Byte)) :
    (messageIn s l cls src parts).queueLock = s.queueLock := by simp [messageIn]
@[simp] theorem payloadIn_queueLock (l key : Nat) (src : Option (Nat × Nat)) (h : LinkHead) (flit : List Byte) :
    (payloadIn s l key src h flit).queueLock = s.queueLock := by simp [payloadIn]
@[simp] theorem flitReceive_queueLock (l : Nat) (flit : List Byte) :
    (flitReceive s l flit).queueLock = s.queueLock := by simp [flitReceive]
@[simp] theorem nullFlitReceive_queueLock (l : Nat) (flit : List Byte) :
    (nullFlitReceive s l flit).queueLock = s.queueLock := by simp [nullFlitReceive]
@[simp] theorem retryRequest_queueLock (l : Nat) (flit : List Byte) :
    (retryRequest s l flit).queueLock = s.queueLock := by simp [retryRequest]
@[simp] theorem sendAgain_queueLock (l : Nat) (x : Nat × TxFlit) (rest : List (Nat × TxFlit)) :
    (sendAgain s l x rest).queueLock = s.queueLock := by
  unfold sendAgain
  dsimp only
  repeat' split
  all_goals simp

@[simp] theorem sendNull_queueLock (l : Nat) : (sendNull s l).queueLock = s.queueLock := by simp [sendNull]
@[simp] theorem flitTransmit_queueLock (l : Nat) : (flitTransmit s l).queueLock = s.queueLock := by
  unfold flitTransmit
  dsimp only
  repeat' split
  all_goals simp

@[simp] theorem nullTimer_queueLock (l : Nat) : (nullTimer s l).queueLock = s.queueLock := by simp [nullTimer]

/-! #### Remote -/

@[simp] theorem takeMsg_queueLock (r : Nat) (d : Deliver) : (takeMsg s r d).queueLock = s.queueLock := by
  simp [takeMsg]
@[simp] theorem refuseRemote_queueLock (r : Nat) (m : Msg) : (refuseRemote s r m).queueLock = s.queueLock := by
  simp [refuseRemote]
@[simp] theorem remoteWrite_queueLock (r : Nat) (m : Msg) : (remoteWrite s r m).queueLock = s.queueLock := by
  simp [remoteWrite]
@[simp] theorem readOut_queueLock (a n : Nat) : (readOut s a n).2.queueLock = s.queueLock := by simp [readOut]
@[simp] theorem readRequest_queueLock (r : Nat) (m : Msg) : (readRequest s r m).queueLock = s.queueLock := by
  simp [readRequest]
@[simp] theorem readResponse_queueLock (r : Nat) (m : Msg) : (readResponse s r m).queueLock = s.queueLock := by
  unfold readResponse
  dsimp only
  repeat' split
  all_goals simp

@[simp] theorem addEvents_queueLock (r a : Nat) : (addEvents s r a).queueLock = s.queueLock := by
  unfold addEvents
  dsimp only
  repeat' split
  all_goals simp

@[simp] theorem addPiece_queueLock (r a n : Nat) : (addPiece s r a n).queueLock = s.queueLock := by simp [addPiece]
@[simp] theorem atomicAdd_queueLock (r : Nat) (m : Msg) : (atomicAdd s r m).queueLock = s.queueLock := by
  simp [atomicAdd]

/-! #### Pleacher -/

@[simp] theorem collective_queueLock (opc : Nat) (s : State) (id : OpId) :
    (collective opc s id).queueLock = s.queueLock := by
  unfold collective
  split
  · rfl
  · split <;> simp

@[simp] theorem sendShipment_queueLock (r : Nat) (op : Option OpId) (x : Shipment) (l : List Msg) :
    (sendShipment s r op x l).queueLock = s.queueLock := by
  induction l generalizing s with
  | nil => rfl
  | cons m t ih =>
    simp only [sendShipment]
    split
    · next h => rw [ih, forwardNoted_queueLock h]
    · simp

@[simp] theorem sendContribution_queueLock (r : Nat) (op : Option OpId) (w : Nat) (c : Contribution) :
    (sendContribution s r op w c).queueLock = s.queueLock := by simp [sendContribution]
@[simp] theorem sendResult_queueLock (r : Nat) (op : Option OpId) (w : Nat) (c : CollResult) :
    (sendResult s r op w c).queueLock = s.queueLock := by simp [sendResult]
@[simp] theorem metPoison_queueLock (e : OpEntry) (k : Nat) : (metPoison s e k).queueLock = s.queueLock := by
  simp [metPoison]
@[simp] theorem readSrc_queueLock (d : List Byte) (i n : Nat) : (readSrc s d i n).queueLock = s.queueLock := by
  simp [readSrc]
@[simp] theorem movedBytes_queueLock (e : OpEntry) (i n : Nat) : (movedBytes s e i n).2.queueLock = s.queueLock := by
  unfold movedBytes
  dsimp only
  split <;> simp

@[simp] theorem bumpPlc_queueLock (r off n : Nat) : (bumpPlc s r off n).queueLock = s.queueLock := by simp [bumpPlc]
@[simp] theorem updShard_queueLock (r cid step shard : Nat) (f : Shard → Shard) :
    (updShard s r cid step shard f).queueLock = s.queueLock := by simp [updShard]
@[simp] theorem finalise_queueLock (r : Nat) (now : DWord) (x : Shard) :
    (finalise s r now x).queueLock = s.queueLock := by simp [finalise]
@[simp] theorem finaliseFull_queueLock (r cid step shard : Nat) :
    (finaliseFull s r cid step shard).queueLock = s.queueLock := by
  unfold finaliseFull
  split <;> simp

@[simp] theorem finaliseLate_queueLock (r : Nat) (x : Shard) : (finaliseLate s r x).queueLock = s.queueLock := by
  simp [finaliseLate]
@[simp] theorem plcWrite_queueLock (op : Option OpId) (a : Nat) (bs : List Byte) :
    (plcWrite s op a bs).queueLock = s.queueLock := by
  unfold plcWrite
  split <;> simp

@[simp] theorem lateContribution_queueLock (r : Nat) (x : Shard) (c : Contribution) :
    (lateContribution s r x c).queueLock = s.queueLock := by simp [lateContribution]
@[simp] theorem onTime_queueLock (r : Nat) (at_ : DWord) (x : Shard) (c : Contribution) :
    (onTime s r at_ x c).queueLock = s.queueLock := by simp [onTime]
@[simp] theorem accountFor_queueLock (c : Contribution) : (accountFor s c).queueLock = s.queueLock := by
  simp [accountFor]
@[simp] theorem contribute_queueLock (r : Nat) (at_ : DWord) (c : Contribution) :
    (contribute s r at_ c).queueLock = s.queueLock := by
  unfold contribute
  split <;> simp

@[simp] theorem collContribution_queueLock (r : Nat) (c : Contribution) :
    (collContribution s r c).queueLock = s.queueLock := by simp [collContribution]
@[simp] theorem shardDeadline_queueLock (r cid shard : Nat) :
    (shardDeadline s r cid shard).queueLock = s.queueLock := by
  unfold shardDeadline
  split <;> simp

@[simp] theorem sendShards_queueLock (e : OpEntry) (g : List Nat) (rank : Nat) :
    (sendShards s e g rank).queueLock = s.queueLock := by simp [sendShards]
@[simp] theorem sendMoves_queueLock (e : OpEntry) (g : List Nat) (rank : Nat) :
    (sendMoves s e g rank).queueLock = s.queueLock := by
  unfold sendMoves
  dsimp only
  split <;> simp

@[simp] theorem openShard_queueLock (e : OpEntry) (g : List Nat) (rank : Nat) :
    (openShard s e g rank).queueLock = s.queueLock := by simp [openShard]
@[simp] theorem collectiveStart_queueLock (id : OpId) : (collectiveStart s id).queueLock = s.queueLock := by
  unfold collectiveStart
  split <;> simp

@[simp] theorem settleColl_queueLock (r : Nat) (c : Coll) : (settleColl s r c).queueLock = s.queueLock := by
  simp [settleColl]
@[simp] theorem settleColls_queueLock : (settleColls s).queueLock = s.queueLock := by simp [settleColls]
@[simp] theorem collResult_queueLock (r : Nat) (c : CollResult) : (collResult s r c).queueLock = s.queueLock := by
  unfold collResult
  dsimp only
  split <;> simp

@[simp] theorem pleacherLost_queueLock (r dev : Nat) : (pleacherLost s r dev).queueLock = s.queueLock := by
  simp [pleacherLost]
@[simp] theorem abortColls_queueLock (t : Nat) : (abortColls s t).queueLock = s.queueLock := by simp [abortColls]
@[simp] theorem commitColls_queueLock (t : Nat) : (commitColls s t).queueLock = s.queueLock := by simp [commitColls]
@[simp] theorem plcFinal_queueLock (r : Nat) (b : List Byte) : (plcFinal s r b).queueLock = s.queueLock := by
  simp [plcFinal]

/-! #### Hedgerow -/

@[simp] theorem State.updHrw_queueLock (f : Hrw → Hrw) : (s.updHrw f).queueLock = s.queueLock := by
  simp [State.updHrw]
@[simp] theorem writeHeaders_queueLock (slot flags step seed cursor : Nat) :
    (writeHeaders s slot flags step seed cursor).queueLock = s.queueLock := by simp [writeHeaders]
@[simp] theorem treeSend_queueLock (rank typ : Nat) (body : List Byte) :
    (treeSend s rank typ body).queueLock = s.queueLock := by simp [treeSend]
@[simp] theorem shipWrite_queueLock (r : Nat) (marks : List (Nat × Nat)) (a : Nat) (bs : List Byte) :
    (shipWrite s r marks a bs).queueLock = s.queueLock := by simp [shipWrite]
@[simp] theorem shipPiece_queueLock (r a dst : Nat) : (shipPiece s r a dst).queueLock = s.queueLock := by
  simp [shipPiece]
@[simp] theorem shipRanges_queueLock (r step : Nat) : (shipRanges s r step).queueLock = s.queueLock := by
  unfold shipRanges
  dsimp only
  rw [State.updHrw_queueLock, foldl_fst_queueLock]
  intro p e
  simp

@[simp] theorem shipStart_queueLock (step : Nat) : (shipStart s step).queueLock = s.queueLock := by simp [shipStart]
@[simp] theorem readSlot_queueLock (slot r : Nat) : (readSlot s slot r).queueLock = s.queueLock := by simp [readSlot]
@[simp] theorem nvmeWrites_queueLock (area step : Nat) : (nvmeWrites s area step).queueLock = s.queueLock := by
  simp [nvmeWrites]
@[simp] theorem flashStart_queueLock (step : Nat) : (flashStart s step).queueLock = s.queueLock := by
  unfold flashStart
  dsimp only
  split <;> simp

@[simp] theorem copyStart_queueLock (step : Nat) : (copyStart s step).queueLock = s.queueLock := by simp [copyStart]
@[simp] theorem recoveryRecord_queueLock (step : Nat) (sts : List Nat) :
    (recoveryRecord s step sts).queueLock = s.queueLock := by simp [recoveryRecord]
@[simp] theorem endCommit_queueLock (st result reason firstNo durable : Nat) :
    (endCommit s st result reason firstNo durable).queueLock = s.queueLock := by
  unfold endCommit
  split <;> simp

@[simp] theorem abandonStep_queueLock (t : Nat) : (abandonStep s t).queueLock = s.queueLock := by simp [abandonStep]
@[simp] theorem applyCommit_queueLock (step reason firstNo durable : Nat) :
    (applyCommit s step reason firstNo durable).queueLock = s.queueLock := by simp [applyCommit]
@[simp] theorem applyAbandon_queueLock (step recover reason firstNo durable : Nat) :
    (applyAbandon s step recover reason firstNo durable).queueLock = s.queueLock := by simp [applyAbandon]
@[simp] theorem applyWithdraw_queueLock (step : Nat) : (applyWithdraw s step).queueLock = s.queueLock := by
  simp [applyWithdraw]
@[simp] theorem applyResult_queueLock (result recover reason step durable firstNo : Nat) :
    (applyResult s result recover reason step durable firstNo).queueLock = s.queueLock := by
  unfold applyResult
  split <;> simp

@[simp] theorem passResult_queueLock (result recover reason step durable firstNo : Nat) :
    (passResult s result recover reason step durable firstNo).queueLock = s.queueLock := by simp [passResult]
@[simp] theorem putRound_queueLock (x : Round) : (putRound s x).queueLock = s.queueLock := by simp [putRound]
@[simp] theorem settleRound_queueLock (step phase : Nat) : (settleRound s step phase).queueLock = s.queueLock := by
  unfold settleRound
  dsimp only
  repeat' split
  all_goals simp

@[simp] theorem castVote_queueLock (step phase : Nat) (yes : Bool) (reason : Nat) :
    (castVote s step phase yes reason).queueLock = s.queueLock := by simp [castVote]
@[simp] theorem abortedVote_queueLock (id : OpId) : (abortedVote s id).queueLock = s.queueLock := by
  simp [abortedVote]
@[simp] theorem childVote_queueLock (step phase rank : Nat) (yes : Bool) (reason cov firstNo : Nat) :
    (childVote s step phase rank yes reason cov firstNo).queueLock = s.queueLock := by simp [childVote]
@[simp] theorem commitVote_queueLock (src : Src) (b : List Byte) : (commitVote s src b).queueLock = s.queueLock := by
  unfold commitVote
  split <;> simp

@[simp] theorem commitResult_queueLock (b : List Byte) : (commitResult s b).queueLock = s.queueLock := by
  simp [commitResult]
@[simp] theorem voteTimeout_queueLock (rank : Nat) : (voteTimeout s rank).queueLock = s.queueLock := by
  simp [voteTimeout]
@[simp] theorem treeLost_queueLock (dev : Nat) : (treeLost s dev).queueLock = s.queueLock := by
  unfold treeLost
  split <;> simp

@[simp] theorem voteAgain_queueLock : (voteAgain s).queueLock = s.queueLock := by
  unfold voteAgain
  split
  · split <;> simp
  · rfl

@[simp] theorem askRoot_queueLock : (askRoot s).queueLock = s.queueLock := by
  unfold askRoot
  split
  · split <;> simp
  · rfl

@[simp] theorem resultTimeout_queueLock (answer : Option (List Byte)) :
    (resultTimeout s answer).queueLock = s.queueLock := by
  unfold resultTimeout
  dsimp only
  repeat' split
  all_goals simp

@[simp] theorem lossVote_queueLock : (lossVote s).queueLock = s.queueLock := by simp [lossVote]
@[simp] theorem durableVote_queueLock : (durableVote s).queueLock = s.queueLock := by simp [durableVote]
@[simp] theorem mirrorDone_queueLock (r : Nat) (ok : Bool) : (mirrorDone s r ok).queueLock = s.queueLock := by
  simp [mirrorDone]
@[simp] theorem flashDone_queueLock (ok : Bool) : (flashDone s ok).queueLock = s.queueLock := by
  unfold flashDone
  dsimp only
  repeat' split
  all_goals simp

@[simp] theorem snapConfig_queueLock (id : OpId) : (snapConfig s id).queueLock = s.queueLock := by
  unfold snapConfig
  split <;> simp

@[simp] theorem snapCommit_queueLock (id : OpId) : (snapCommit s id).queueLock = s.queueLock := by
  unfold snapCommit
  split <;> simp

@[simp] theorem snapPair_queueLock (id : OpId) : (snapPair s id).queueLock = s.queueLock := by
  unfold snapPair
  split <;> simp

@[simp] theorem shipAfterPair_queueLock : (shipAfterPair s).queueLock = s.queueLock := by simp [shipAfterPair]

theorem keep_queueLock (peer : Nat) (apart asked : Bool) :
    (pairHandshake.keep s peer apart asked).queueLock = s.queueLock := by
  simp [pairHandshake.keep]
@[simp] theorem pairHandshake_queueLock (peer : Nat) (domain : Option Nat) (asked : Bool) :
    (pairHandshake s peer domain asked).queueLock = s.queueLock := by
  unfold pairHandshake
  dsimp only
  split
  · simp [keep_queueLock]
  · exact keep_queueLock ..

@[simp] theorem pairHandshake.keep_queueLock (peer : Nat) (apart asked : Bool) :
    (pairHandshake.keep s peer apart asked).queueLock = s.queueLock := by simp [pairHandshake.keep]
@[simp] theorem restoreEnd_queueLock (id : OpId) (d seed cursor : Nat) :
    (restoreEnd s id d seed cursor).queueLock = s.queueLock := by
  unfold restoreEnd
  split <;> simp

@[simp] theorem reopen_queueLock (id : OpId) (d seed cursor : Nat) (kept : Bool) :
    (reopen s id d seed cursor kept).queueLock = s.queueLock := by simp [reopen]
@[simp] theorem writeSlotA_queueLock (id : OpId) (r : Nat) (data : List Byte) :
    (writeSlotA s id r data).queueLock = s.queueLock := by
  unfold writeSlotA
  rw [foldl_fst_queueLock]
  intro p e
  simp

@[simp] theorem markRestored_queueLock (id : OpId) (r : Nat) : (markRestored s id r).queueLock = s.queueLock := by
  simp [markRestored]
@[simp] theorem restoreOver_queueLock (id : OpId) : (restoreOver s id).queueLock = s.queueLock := by
  simp [restoreOver]
@[simp] theorem regionRestored_queueLock (id : OpId) (r d : Nat) (explicit : Bool) (data : List Byte) :
    (regionRestored s id r d explicit data).queueLock = s.queueLock := by simp [regionRestored]
@[simp] theorem restoreRead_queueLock (x : Restore) : (restoreRead s x).queueLock = s.queueLock := by
  simp [restoreRead]
@[simp] theorem restoreWhole_queueLock (x : Restore) (d : Nat) : (restoreWhole s x d).queueLock = s.queueLock := by
  simp [restoreWhole]
@[simp] theorem restoreResponse_queueLock (x : Restore) (m : Msg) :
    (restoreResponse s x m).queueLock = s.queueLock := by
  unfold restoreResponse
  split <;> simp

@[simp] theorem restoreLost_queueLock (id : OpId) : (restoreLost s id).queueLock = s.queueLock := by
  simp [restoreLost]
@[simp] theorem snapRestore_queueLock (id : OpId) : (snapRestore s id).queueLock = s.queueLock := by
  unfold snapRestore
  dsimp only
  repeat' split
  all_goals simp

@[simp] theorem dropLost_queueLock (g : List Nat) : (dropLost s g).queueLock = s.queueLock := by simp [dropLost]
@[simp] theorem snapRecover_queueLock (id : OpId) : (snapRecover s id).queueLock = s.queueLock := by
  unfold snapRecover
  dsimp only
  repeat' split
  all_goals simp

@[simp] theorem snapRelease_queueLock (id : OpId) : (snapRelease s id).queueLock = s.queueLock := by
  unfold snapRelease
  split <;> simp

/-! #### Control -/

@[simp] theorem ctrlEnd_queueLock (id : OpId) (st : Nat) (d0 d1 : DWord) :
    (ctrlEnd s id st d0 d1).queueLock = s.queueLock := by simp [ctrlEnd]
@[simp] theorem ctrlWait_queueLock (id : OpId) (ts : List OpId) (named : Nat) (marked : Bool) (d1 : DWord) :
    (ctrlWait s id ts named marked d1).queueLock = s.queueLock := by simp [ctrlWait]
@[simp] theorem abortTarget_queueLock (id : OpId) : (abortTarget s id).queueLock = s.queueLock := by
  unfold abortTarget
  split <;> simp

@[simp] theorem noTarget_queueLock (e : OpEntry) : (noTarget s e).queueLock = s.queueLock := by simp [noTarget]
@[simp] theorem abortRun_queueLock (e : OpEntry) : (abortRun s e).queueLock = s.queueLock := by simp [abortRun]
@[simp] theorem sendRequest_queueLock (e : OpEntry) : (sendRequest s e).queueLock = s.queueLock := by
  simp [sendRequest]
@[simp] theorem ctrlRun_queueLock (opc : Nat) (act : State → OpEntry → State) (s : State) (id : OpId)
    (hact : ∀ e, (act s e).queueLock = s.queueLock) : (ctrlRun opc act s id).queueLock = s.queueLock := by
  unfold ctrlRun
  split <;> simp [hact]

@[simp] theorem preemptRun_queueLock (e : OpEntry) : (preemptRun s e).queueLock = s.queueLock := by
  unfold preemptRun
  dsimp only
  repeat' split
  all_goals simp

@[simp] theorem moveKernel_queueLock (e : OpEntry) (new : List Nat) :
    (moveKernel s e new).queueLock = s.queueLock := by simp [moveKernel]
@[simp] theorem resumeRun_queueLock (e : OpEntry) : (resumeRun s e).queueLock = s.queueLock := by
  unfold resumeRun
  split <;> simp

@[simp] theorem preemptOrAbort_queueLock (x : OpEntry) : (preemptOrAbort s x).queueLock = s.queueLock := by
  simp [preemptOrAbort]
@[simp] theorem quiesceRun_queueLock (e : OpEntry) : (quiesceRun s e).queueLock = s.queueLock := by
  unfold quiesceRun
  split <;> simp

@[simp] theorem unquiesceRun_queueLock (e : OpEntry) : (unquiesceRun s e).queueLock = s.queueLock := by
  simp [unquiesceRun]
@[simp] theorem echoRun_queueLock (e : OpEntry) : (echoRun s e).queueLock = s.queueLock := by simp [echoRun]
@[simp] theorem takeBridle_queueLock (r typ : Nat) (b : List Byte) :
    (takeBridle s r typ b).queueLock = s.queueLock := by simp [takeBridle]
@[simp] theorem answerBounds_queueLock (r typ : Nat) (byPort : Bool) (src : Src) (b : List Byte) :
    (answerBounds s r typ byPort src b).queueLock = s.queueLock := by simp [answerBounds]
@[simp] theorem answerIn_queueLock (typ : Nat) (src : Src) (seq st : Nat) (d0 : DWord) :
    (answerIn s typ src seq st d0).queueLock = s.queueLock := by
  unfold answerIn
  dsimp only
  split <;> simp

@[simp] theorem bridleRequest_queueLock (r typ opc : Nat) (byPort may : Bool) (src : Src) (b : List Byte) :
    (bridleRequest s r typ opc byPort may src b).queueLock = s.queueLock := by simp [bridleRequest]
@[simp] theorem bridleAbort_queueLock (r : Nat) (src : Src) (b : List Byte) :
    (bridleAbort s r src b).queueLock = s.queueLock := by simp [bridleAbort]
@[simp] theorem bridleQuiesce_queueLock (r : Nat) (src : Src) (b : List Byte) :
    (bridleQuiesce s r src b).queueLock = s.queueLock := by simp [bridleQuiesce]
@[simp] theorem bridleEcho_queueLock (r : Nat) (src : Src) (b : List Byte) :
    (bridleEcho s r src b).queueLock = s.queueLock := by simp [bridleEcho]
@[simp] theorem unanswered_queueLock (e : OpEntry) (oob : Bool) : (unanswered s e oob).queueLock = s.queueLock := by
  unfold unanswered
  dsimp only
  split
  · next h =>
    split at h
    · have hs := sendOob_queueLock s e.targetId (requestBody s e ((e.sent.map Prod.snd).getD 0)).1
        (requestBody s e ((e.sent.map Prod.snd).getD 0)).2
      simpa [h] using hs
    · simp at h
  · simp

@[simp] theorem remoteTimeout_queueLock (id : OpId) (oob : Bool) :
    (remoteTimeout s id oob).queueLock = s.queueLock := by
  unfold remoteTimeout
  split
  · split
    · split <;> simp
    · rfl
  · rfl

@[simp] theorem deliveryTimeout_queueLock (id : OpId) (oob : Bool) :
    (deliveryTimeout s id oob).queueLock = s.queueLock := by
  unfold deliveryTimeout
  split <;> simp

@[simp] theorem watchdog_queueLock (core : Nat) : (watchdog s core).queueLock = s.queueLock := by simp [watchdog]

/-! #### Bridle -/

@[simp] theorem sendBeat_queueLock (r l : Nat) : (sendBeat r s l).queueLock = s.queueLock := by simp [sendBeat]
@[simp] theorem heartbeatTimer_queueLock (r : Nat) : (heartbeatTimer s r).queueLock = s.queueLock := by
  simp [heartbeatTimer]
@[simp] theorem heartbeat_queueLock (r l : Nat) (b : List Byte) : (heartbeat s r l b).queueLock = s.queueLock := by
  simp [heartbeat]
@[simp] theorem deviceLost_queueLock (r dev : Nat) : (deviceLost s r dev).queueLock = s.queueLock := by
  simp [deviceLost]
@[simp] theorem peerSilence_queueLock (l : Nat) : (peerSilence s l).queueLock = s.queueLock := by simp [peerSilence]
@[simp] theorem lost_queueLock (r : Nat) (b : List Byte) : (lost s r b).queueLock = s.queueLock := by simp [lost]
@[simp] theorem voteIn_queueLock (src : Src) (b : List Byte) : (voteIn s src b).queueLock = s.queueLock := by
  simp [voteIn]
@[simp] theorem resultIn_queueLock (b : List Byte) : (resultIn s b).queueLock = s.queueLock := by simp [resultIn]
@[simp] theorem finalIn_queueLock (r : Nat) (b : List Byte) : (finalIn s r b).queueLock = s.queueLock := by
  simp [finalIn]
@[simp] theorem writeLost_queueLock (r mtag : Nat) : (writeLost s r mtag).queueLock = s.queueLock := by
  unfold writeLost
  split <;> simp

@[simp] theorem readLost_queueLock (r mtag : Nat) : (readLost s r mtag).queueLock = s.queueLock := by
  unfold readLost
  split
  · simp
  · split <;> simp

@[simp] theorem collLost_queueLock (r dev : Nat) : (collLost s r dev).queueLock = s.queueLock := by simp [collLost]
@[simp] theorem unreachable_queueLock (r : Nat) (b : List Byte) : (unreachable s r b).queueLock = s.queueLock := by
  unfold unreachable
  dsimp only
  repeat' split
  all_goals simp

@[simp] theorem bridleBad_queueLock (l typ : Nat) (b : List Byte) :
    (bridleBad s l typ b).queueLock = s.queueLock := by simp [bridleBad]

/-! #### Ethernet -/

@[simp] theorem drainTunnel_queueLock (l t n : Nat) (s : State) : (drainTunnel l t n s).queueLock = s.queueLock := by
  induction n generalizing s with
  | zero => rfl
  | succ n ih =>
    simp only [drainTunnel]
    split
    · rfl
    · split
      · rw [ih]; simp
      · rfl

@[simp] theorem tunnelAgain_queueLock (l t : Nat) : (tunnelAgain s l t).queueLock = s.queueLock := by
  simp [tunnelAgain]
@[simp] theorem tunnelAck_queueLock (l t : Nat) : (tunnelAck s l t).queueLock = s.queueLock := by
  unfold tunnelAck
  dsimp only
  split
  · rfl
  · exact tunnelOut_queueLock ..

@[simp] theorem tunnelFlits_queueLock (l t : Nat) (fs : List (List Byte)) :
    (tunnelFlits s l t fs).queueLock = s.queueLock := by simp [tunnelFlits]
@[simp] theorem tunnelIn_queueLock (l t : Nat) (b : List Byte) : (tunnelIn s l t b).queueLock = s.queueLock := by
  simp [tunnelIn]
@[simp] theorem drainLink_queueLock (l : Nat) : (drainLink s l).queueLock = s.queueLock := by simp [drainLink]
@[simp] theorem endPauses_queueLock (l : Nat) : (endPauses s l).queueLock = s.queueLock := by simp [endPauses]
@[simp] theorem frameReceive_queueLock (l : Nat) (f : List Byte) : (frameReceive s l f).queueLock = s.queueLock := by
  unfold frameReceive
  dsimp only
  repeat' split
  all_goals simp

@[simp] theorem tunnelResend_queueLock (l t : Nat) : (tunnelResend s l t).queueLock = s.queueLock := by
  simp [tunnelResend]
@[simp] theorem tunnelFence_queueLock (l t : Nat) : (tunnelFence s l t).queueLock = s.queueLock := by
  simp [tunnelFence]

/-! #### Faults -/

@[simp] theorem faultOp_queueLock (d0 : DWord) (last : Nat) (id : OpId) :
    (faultOp s d0 last id).queueLock = s.queueLock := by
  unfold faultOp
  dsimp only
  repeat' split
  all_goals simp

@[simp] theorem faultOps_queueLock (d0 : DWord) (cells : List Nat) (uses : OpEntry → Bool) :
    (faultOps s d0 cells uses).queueLock = s.queueLock := by simp [faultOps]
@[simp] theorem refuseHeld_queueLock : (refuseHeld s).queueLock = s.queueLock := by simp [refuseHeld]
@[simp] theorem setFence_queueLock (r bit store : Nat) : (setFence s r bit store).queueLock = s.queueLock := by
  simp [setFence]
@[simp] theorem fenceCellNow_queueLock (n : Nat) : (fenceCellNow s n).queueLock = s.queueLock := by
  simp [fenceCellNow]
@[simp] theorem markBlock_queueLock (b : Nat) : (markBlock s b).queueLock = s.queueLock := by simp [markBlock]
@[simp] theorem fenceBlockNow_queueLock (b : Nat) : (fenceBlockNow s b).queueLock = s.queueLock := by
  simp [fenceBlockNow]
@[simp] theorem deviceFault_queueLock : (deviceFault s).queueLock = s.queueLock := by simp [deviceFault]
@[simp] theorem refuseHome_queueLock (r : Nat) : (refuseHome s r).queueLock = s.queueLock := by simp [refuseHome]
@[simp] theorem clearRegion_queueLock (r : Nat) : (clearRegion s r).queueLock = s.queueLock := by simp [clearRegion]
@[simp] theorem fenceRegionNow_queueLock (r : Nat) : (fenceRegionNow s r).queueLock = s.queueLock := by
  simp [fenceRegionNow]
@[simp] theorem poisonWord_queueLock (a : Nat) : (poisonWord s a).queueLock = s.queueLock := by
  unfold poisonWord
  split <;> simp

@[simp] theorem hardwareError_queueLock (x1 : HwError) : (hardwareError s x1).queueLock = s.queueLock := by
  unfold hardwareError
  split <;> simp

@[simp] theorem readReturn_queueLock (h a n : Nat) : (readReturn s h a n).queueLock = s.queueLock := by
  simp [readReturn]
@[simp] theorem fencedWrite_queueLock (w : HbmWrite) : (fencedWrite s w).queueLock = s.queueLock := by
  unfold fencedWrite
  split <;> simp

@[simp] theorem acceptFor_queueLock (w : HbmWrite) (e : OpEntry) : (acceptFor s w e).queueLock = s.queueLock := by
  simp [acceptFor]
@[simp] theorem writeAccept_queueLock (w : HbmWrite) : (writeAccept s w).queueLock = s.queueLock := by
  unfold writeAccept
  split
  · rfl
  · split
    · simp
    · split
      · simp
      · split <;> simp

/-! #### Power -/

@[simp] theorem State.updPwr_queueLock (f : Power → Power) : (s.updPwr f).queueLock = s.queueLock := by
  simp [State.updPwr]
@[simp] theorem powerDown_queueLock (r : Nat) : (powerDown s r).queueLock = s.queueLock := by simp [powerDown]
@[simp] theorem heatDown_queueLock (r : Nat) : (heatDown s r).queueLock = s.queueLock := by simp [heatDown]
@[simp] theorem powerSample_queueLock (w : Watts) : (powerSample s w).queueLock = s.queueLock := by
  unfold powerSample
  dsimp only
  split <;> simp

@[simp] theorem trip_queueLock : (trip s).queueLock = s.queueLock := by simp [trip]
@[simp] theorem temperatureSample_queueLock (t : Temps) : (temperatureSample s t).queueLock = s.queueLock := by
  simp [temperatureSample]
@[simp] theorem sustainedRule_queueLock : (sustainedRule s).queueLock = s.queueLock := by
  unfold sustainedRule
  split
  · split <;> simp
  · rfl

@[simp] theorem recoveryRule_queueLock : (recoveryRule s).queueLock = s.queueLock := by
  unfold recoveryRule
  dsimp only
  repeat' split
  all_goals simp

@[simp] theorem heatRule_queueLock (r : Nat) : (heatRule s r).queueLock = s.queueLock := by simp [heatRule]
@[simp] theorem arbiterTick_queueLock : (arbiterTick s).queueLock = s.queueLock := by simp [arbiterTick]
@[simp] theorem brakeAssert_queueLock : (brakeAssert s).queueLock = s.queueLock := by simp [brakeAssert]
@[simp] theorem brakeRelease_queueLock : (brakeRelease s).queueLock = s.queueLock := by simp [brakeRelease]

/-! #### Regs -/

@[simp] theorem mbxWrite_queueLock (o v : Nat) : (mbxWrite s o v).queueLock = s.queueLock := by simp [mbxWrite]
@[simp] theorem hubWrite_queueLock (o v : Nat) : (hubWrite s o v).queueLock = s.queueLock := by simp [hubWrite]

/-! #### SysOps -/

@[simp] theorem counterCopy_queueLock (id : OpId) : (counterCopy s id).queueLock = s.queueLock := by
  unfold counterCopy
  split <;> simp

@[simp] theorem cycleSample_queueLock (id : OpId) : (cycleSample s id).queueLock = s.queueLock := by
  unfold cycleSample
  dsimp only
  repeat' split
  all_goals simp

@[simp] theorem peerLoad_queueLock (id : OpId) : (peerLoad s id).queueLock = s.queueLock := by
  unfold peerLoad
  split <;> simp

@[simp] theorem routeLoad_queueLock (id : OpId) : (routeLoad s id).queueLock = s.queueLock := by
  unfold routeLoad
  dsimp only
  repeat' split
  all_goals simp

@[simp] theorem ethConfig_queueLock (id : OpId) : (ethConfig s id).queueLock = s.queueLock := by
  unfold ethConfig
  split <;> simp

@[simp] theorem setRing_queueLock (write : State → Nat → List Byte → State) 
    (n log2 notify base head : Nat) (hw : ∀ t a b, (write t a b).queueLock = t.queueLock) :
    (setRing s write n log2 notify base head).queueLock = s.queueLock := by
  simp [setRing, hw]

@[simp] theorem ringSetup_queueLock (id : OpId) : (ringSetup s id).queueLock = s.queueLock := by
  unfold ringSetup
  split <;> simp

@[simp] theorem identityRead_queueLock (id : OpId) : (identityRead s id).queueLock = s.queueLock := by
  unfold identityRead
  split <;> simp

/-! #### Boot -/

@[simp] theorem State.updCnt_queueLock (f : Cantle → Cantle) : (s.updCnt f).queueLock = s.queueLock := by
  simp [State.updCnt]
@[simp] theorem State.updStore_queueLock (f : Store → Store) : (s.updStore f).queueLock = s.queueLock := by
  simp [State.updStore]
@[simp] theorem State.updPins_queueLock (f : Pins → Pins) : (s.updPins f).queueLock = s.queueLock := by
  simp [State.updPins]
@[simp] theorem linkrefLoss_queueLock (r : Nat) : (linkrefLoss s r).queueLock = s.queueLock := by simp [linkrefLoss]
@[simp] theorem noBank_queueLock : (noBank s).queueLock = s.queueLock := by
  unfold noBank
  split <;> simp

@[simp] theorem otherBank_queueLock : (otherBank s).queueLock = s.queueLock := by simp [otherBank]
@[simp] theorem takeBootImage_queueLock : (takeBootImage s).queueLock = s.queueLock := by simp [takeBootImage]
@[simp] theorem imageVerify_queueLock (b t : Nat) : (imageVerify s b t).queueLock = s.queueLock := by
  simp [imageVerify]
@[simp] theorem applyFences_queueLock : (applyFences s).queueLock = s.queueLock := by simp [applyFences]
@[simp] theorem applyBootImage_queueLock (b : List Byte) : (applyBootImage s b).queueLock = s.queueLock := by
  simp [applyBootImage]
@[simp] theorem trainLinks_queueLock : (trainLinks s).queueLock = s.queueLock := by simp [trainLinks]
@[simp] theorem settleStage_queueLock : (settleStage s).queueLock = s.queueLock := by simp [settleStage]
@[simp] theorem bootHold_queueLock : (bootHold s).queueLock = s.queueLock := by simp [bootHold]
@[simp] theorem afterIdentity_queueLock : (afterIdentity s).queueLock = s.queueLock := by simp [afterIdentity]
@[simp] theorem bootFirmwareStart_queueLock : (bootFirmwareStart s).queueLock = s.queueLock := by
  unfold bootFirmwareStart
  dsimp only
  repeat' split
  all_goals simp

@[simp] theorem chunkReserve_queueLock : (chunkReserve s).queueLock = s.queueLock := by simp [chunkReserve]
@[simp] theorem useLeaf_queueLock : (useLeaf s).queueLock = s.queueLock := by simp [useLeaf]
@[simp] theorem stackTraining_queueLock (h : Nat) (ok : Bool) : (stackTraining s h ok).queueLock = s.queueLock := by
  simp [stackTraining]
@[simp] theorem hbmInit_queueLock (h : Nat) : (hbmInit s h).queueLock = s.queueLock := by simp [hbmInit]
@[simp] theorem bootRegisters_queueLock (b : List Byte) : (bootRegisters s b).queueLock = s.queueLock := by
  simp [bootRegisters]
@[simp] theorem bootRing_queueLock (b : List Byte) : (bootRing s b).queueLock = s.queueLock := by simp [bootRing]
@[simp] theorem bindingSetup_queueLock : (bindingSetup s).queueLock = s.queueLock := by
  unfold bindingSetup
  split <;> simp

@[simp] theorem stageTimeout_queueLock : (stageTimeout s).queueLock = s.queueLock := by simp [stageTimeout]
@[simp] theorem boardReport_queueLock (domain : Option Nat) (serial : Option (List Byte)) :
    (boardReport s domain serial).queueLock = s.queueLock := by
  unfold boardReport
  dsimp only
  repeat' split
  all_goals simp

/-! #### InvRoot -/

@[simp] theorem cellEvents_queueLock (cell c n : Nat) : (cellEvents s cell c n).queueLock = s.queueLock := by
  simp [cellEvents]
@[simp] theorem readPoison_queueLock (e : OpEntry) (a n : Nat) : (readPoison s e a n).queueLock = s.queueLock := by
  simp [readPoison]
@[simp] theorem freeEvents_queueLock (e : OpEntry) (classes : List Nat) :
    (freeEvents s e classes).queueLock = s.queueLock := by simp [freeEvents]
@[simp] theorem oneBadEvent_queueLock (e : OpEntry) : (oneBadEvent s e).queueLock = s.queueLock := by
  simp [oneBadEvent]
@[simp] theorem irEvents_queueLock (e : OpEntry) (finite : Bool) (x : IrEnd) :
    (irEvents s e finite x).queueLock = s.queueLock := by simp [irEvents]
@[simp] theorem irOutput_queueLock (e : OpEntry) (reason : Nat) : (irOutput s e reason).queueLock = s.queueLock := by
  simp [irOutput]
@[simp] theorem invRootRun_queueLock (e : OpEntry) : (invRootRun s e).queueLock = s.queueLock := by simp [invRootRun]
@[simp] theorem invRootStart_queueLock (e : OpEntry) : (invRootStart s e).queueLock = s.queueLock := by
  simp [invRootStart]
@[simp] theorem invRoot_queueLock (id : OpId) : (invRoot s id).queueLock = s.queueLock := by
  unfold invRoot
  dsimp only
  repeat' split
  all_goals simp

/-! #### Mgt -/

@[simp] theorem State.updMgt_queueLock (f : Mgt → Mgt) : (s.updMgt f).queueLock = s.queueLock := by
  simp [State.updMgt]
@[simp] theorem mgtReply_queueLock (d : Datagram) (st : Nat) (body : List Byte) :
    (mgtReply s d st body).queueLock = s.queueLock := by simp [mgtReply]
@[simp] theorem mgtAccept_queueLock (d : Datagram) : (mgtAccept s d).queueLock = s.queueLock := by simp [mgtAccept]

@[simp] theorem mgtRequest_queueLock (typ : Nat) (act : State → Datagram → State) (s : State) (d : Datagram)
    (hact : ∀ t, (act t d).queueLock = t.queueLock) : (mgtRequest typ act s d).queueLock = s.queueLock := by
  unfold mgtRequest
  repeat' split
  all_goals simp [hact]

@[simp] theorem malformedDatagram_queueLock (d : Datagram) : (malformedDatagram s d).queueLock = s.queueLock := by
  simp [malformedDatagram]
@[simp] theorem statusAct_queueLock (d : Datagram) : (statusAct s d).queueLock = s.queueLock := by simp [statusAct]
@[simp] theorem telemetryAct_queueLock (d : Datagram) : (telemetryAct s d).queueLock = s.queueLock := by
  simp [telemetryAct]
@[simp] theorem certAct_queueLock (d : Datagram) : (certAct s d).queueLock = s.queueLock := by simp [certAct]
@[simp] theorem attestAct_queueLock (d : Datagram) : (attestAct s d).queueLock = s.queueLock := by simp [attestAct]
@[simp] theorem fenceClearAct_queueLock (d : Datagram) : (fenceClearAct s d).queueLock = s.queueLock := by
  simp [fenceClearAct]
@[simp] theorem powerCapAct_queueLock (d : Datagram) : (powerCapAct s d).queueLock = s.queueLock := by
  simp [powerCapAct]
@[simp] theorem updateBeginAct_queueLock (d : Datagram) : (updateBeginAct s d).queueLock = s.queueLock := by
  simp [updateBeginAct]
@[simp] theorem updateDataAct_queueLock (d : Datagram) : (updateDataAct s d).queueLock = s.queueLock := by
  simp [updateDataAct]
@[simp] theorem updateCommitAct_queueLock (d : Datagram) : (updateCommitAct s d).queueLock = s.queueLock := by
  simp [updateCommitAct]
@[simp] theorem updateVerified_queueLock : (updateVerified s).queueLock = s.queueLock := by
  unfold updateVerified
  dsimp only
  repeat' split
  all_goals simp

@[simp] theorem resumeStart_queueLock : (resumeStart s).queueLock = s.queueLock := by
  unfold resumeStart
  dsimp only
  repeat' split
  all_goals simp

@[simp] theorem enrollAct_queueLock (d : Datagram) : (enrollAct s d).queueLock = s.queueLock := by simp [enrollAct]
@[simp] theorem releaseAct_queueLock (d : Datagram) : (releaseAct s d).queueLock = s.queueLock := by simp [releaseAct]
@[simp] theorem portDevice_queueLock (src : Nat) : (portDevice s src).2.queueLock = s.queueLock := by
  unfold portDevice
  split <;> simp

@[simp] theorem forwardAct_queueLock (d : Datagram) : (forwardAct s d).queueLock = s.queueLock := by simp [forwardAct]

/-! #### Idle -/

@[simp] theorem settle_queueLock : (settle s).queueLock = s.queueLock := by simp [settle]
@[simp] theorem tick_queueLock : (tick s).queueLock = s.queueLock := by simp [tick]

/-! ### The lock -/

/-- Once reached, the lock is not reached again. -/
theorem lockDevice_of_locked {s : State} (h : s.mbx.locked = true) : lockDevice s = s := by
  simp [lockDevice, h]

theorem regEffect_locked {s : State} (a v : Nat) (h : s.mbx.locked = true) : (regEffect s a v).mbx.locked = true := by
  have hh := locked_of_queueLock (hubWrite_queueLock s (a % 0x100000) v)
  have hm := locked_of_queueLock (mbxWrite_queueLock s (a % 0x100000) v)
  have hs := locked_of_queueLock (strobe_queueLock s)
  unfold regEffect
  dsimp only
  repeat' split
  all_goals simp [lockDevice_of_locked h, *]

theorem registerWrite_locked {s : State} (m a v : Nat) (h : s.mbx.locked = true) :
    (registerWrite s m a v).mbx.locked = true := by
  have hw := locked_of_queueLock (slotWrite_queueLock s { master := m, addr := a, data := leBytes 8 v })
  unfold registerWrite
  repeat' split
  all_goals simp [regEffect_locked, *]

theorem bindingLock_locked {s : State} (m : Nat) (h : s.mbx.locked = true) : (bindingLock s m).mbx.locked = true := by
  unfold bindingLock
  split <;> simp [lockDevice_of_locked h, h]

/-- The commands that may change the lock: those that reset the device, and those that may set it. -/
def mayMoveLock : Instr → Bool
  | .powerGoodRise _ | .powerGoodFall | .railUndervoltage _ _ | .sysrefLoss | .mgtReset _ => true
  | .bindingLock _ | .registerWrite _ _ _ => true
  | _ => false

/-- Every other command leaves the waiting commands and the lock as they are. -/
theorem exec_queueLock (c : Instr) (s : State) (hc : mayMoveLock c = false) :
    ∃ t, exec c s = .next t ∧ t.queueLock = s.queueLock := by
  cases c with
  | powerGoodRise | powerGoodFall | railUndervoltage | sysrefLoss | mgtReset | bindingLock | registerWrite =>
    simp [mayMoveLock] at hc
  | streamChunkIssue cx =>
    refine ⟨_, rfl, ?_⟩
    split <;> simp
  | readResponse region m =>
    refine ⟨_, rfl, ?_⟩
    split
    · split <;> simp
    · rfl
  | _ => exact ⟨_, rfl, by simp⟩

/-- Settles O7: the commands that may move the lock without a reset only set it; every other command keeps it. -/
theorem lockStaysSet : Obligations.LockStaysSet := by
  unfold Obligations.LockStaysSet
  intro c s t hl h
  by_cases hc : mayMoveLock c = false
  · obtain ⟨u, hu, hq⟩ := exec_queueLock c s hc
    rw [hu] at h
    cases h
    exact .inl ((locked_of_queueLock hq).trans hl)
  · cases c with
    | powerGoodRise | powerGoodFall | railUndervoltage | sysrefLoss | mgtReset => simp
    | bindingLock m => cases h; exact .inl (bindingLock_locked m hl)
    | registerWrite m a v => cases h; exact .inl (registerWrite_locked m a v hl)
    | _ => exact absurd rfl hc

end Sys2Proof.Machine
end

section
/-! SUPPORT. Register writes and the configuration operations of Table 13-12 (R13, R22, R329, R334, R337, R370,
R385, R410). -/

namespace Sys2Proof.Machine

variable (s : State)

/-! ### Runs of bytes -/

@[simp] theorem length_rdBytes (a n : Nat) : (rdBytes s a n).length = n := length_fgets ..

theorem take_fgets {α : Type} (d : α) (m : FMap α) (a n k : Nat) (h : k ≤ n) :
    (fgets d m a n).take k = fgets d m a k := by
  simp [fgets, ← List.map_take, List.take_range, Nat.min_eq_left h]

theorem drop_fgets {α : Type} (d : α) (m : FMap α) (a n k : Nat) :
    (fgets d m a n).drop k = fgets d m (a + k) (n - k) := by
  apply List.ext_getElem
  · simp
  · intro i h1 h2
    simp [fgets, Nat.add_assoc]

theorem drop_rdBytes (a n k : Nat) : (rdBytes s a n).drop k = rdBytes s (a + k) (n - k) := drop_fgets ..

/-- A field of bytes read from memory is the number at its place. -/
theorem fld_rdBytes (a n off k : Nat) (h : off + k ≤ n) : fld (rdBytes s a n) off k = rdNat s (a + off) k := by
  rw [fld, drop_rdBytes, rdBytes, take_fgets _ _ _ _ _ (by omega)]
  rfl

/-- Bytes written read back. -/
theorem rdBytes_memWrite (a : Nat) (bs : List Byte) : rdBytes (memWrite s a bs) a bs.length = bs := by
  apply List.ext_getElem
  · simp
  · intro i h1 h2
    simpa [rdBytes, fgets, rdByte] using rdByte_memWrite_in s a bs i h2

theorem rdBytes_congr {s t : State} (h : t.mem = s.mem) (a n : Nat) : rdBytes t a n = rdBytes s a n := by
  simp only [rdBytes, h]

/-! ### The operation table -/

theorem op?_congr {s t : State} (h : t.ops = s.ops) (id : OpId) : t.op? id = s.op? id := by
  simp only [State.op?, h]

theorem admittedOp_of_admitted {s : State} {opc : Nat} {e : OpEntry} (h : Admitted s opc e) :
    admittedOp s e.id opc = some e := by
  obtain ⟨hop, hopc, hph⟩ := h
  simp [admittedOp, hop, hopc, hph]

/-- The outcome of an entry that no abort has marked is decided. -/
theorem op?_finishOp_self {s : State} {id : OpId} {e : OpEntry} (st : Nat) (h : s.op? id = some e)
    (hp : e.phase ≠ .aborting) :
    (s.finishOp id st).op? id = some { e.addStat st with phase := .finished } := by
  rw [State.op?_finishOp, if_pos rfl, h, Option.map_some, OpEntry.finish]
  split
  · contradiction
  · rfl

theorem ends_finishOp {s : State} {e y : OpEntry} (st : Nat) (h : s.op? e.id = some y) (hp : y.phase ≠ .aborting)
    (hs : y.stats = e.stats) : Ends (s.finishOp e.id st) e st :=
  ⟨_, op?_finishOp_self st h hp, rfl, by simp only [OpEntry.addStat, hs]; split <;> simp [hs]⟩

@[simp] theorem addStat_OK (e : OpEntry) : e.addStat stOK = e := rfl

/-- The entry after an update of it that keeps its identity. -/
theorem op?_updOp_self {s : State} {id : OpId} {e : OpEntry} {f : OpEntry → OpEntry} (hf : ∀ e, (f e).id = e.id)
    (h : s.op? id = some e) : (s.updOp id f).op? id = some (f e) := by
  rw [State.op?_updOp s id id f hf, if_pos rfl, h, Option.map_some]

/-! ### What an operation writes -/

theorem writeUnit_ops_comm (o : List OpEntry) (a : Nat) (bs : List Byte) :
    writeUnit { s with ops := o } a bs = { writeUnit s a bs with ops := o } := by
  unfold writeUnit
  dsimp only [bad]
  split <;> split <;> rfl

theorem foldl_writeUnit_ops_comm (l : List (Nat × List Byte)) (o : List OpEntry) :
    l.foldl (fun s p => writeUnit s p.1 p.2) { s with ops := o }
      = { l.foldl (fun s p => writeUnit s p.1 p.2) s with ops := o } := by
  induction l generalizing s with
  | nil => rfl
  | cons p t ih => rw [List.foldl_cons, List.foldl_cons, writeUnit_ops_comm, ih]

theorem writeUnit_ops (a : Nat) (bs : List Byte) : (writeUnit s a bs).ops = s.ops :=
  (congrArg State.ops (writeUnit_frame s a bs) :)

theorem foldl_writeUnit_ops (l : List (Nat × List Byte)) :
    (l.foldl (fun s p => writeUnit s p.1 p.2) s).ops = s.ops :=
  foldl_keeps State.ops l _ (fun s p => writeUnit_ops s p.1 p.2) s

/-- Beside the bytes, a piece that no mask stops changes the operation table alone. -/
theorem plainPiece_frame (id : OpId) (a : Nat) (bs : List Byte) :
    { writeUnit s a bs with ops := (plainPiece s id a bs).ops } = plainPiece s id a bs := by
  unfold plainPiece
  dsimp only
  split <;> rfl

theorem foldl_plainPiece_frame (id : OpId) (l : List (Nat × List Byte)) :
    { l.foldl (fun s p => plainPiece s id p.1 p.2) s with ops := s.ops }
      = l.foldl (fun s p => writeUnit s p.1 p.2) s := by
  induction l generalizing s with
  | nil => rfl
  | cons p t ih =>
    have h := ih (plainPiece s id p.1 p.2)
    rw [← plainPiece_frame, foldl_writeUnit_ops_comm] at h
    rw [List.foldl_cons, List.foldl_cons, ← plainPiece_frame]
    have h2 := congrArg (fun x : State => { x with ops := s.ops }) h
    refine h2.trans ?_
    have h3 := (foldl_writeUnit_ops (writeUnit s p.1 p.2) t).trans (writeUnit_ops s p.1 p.2)
    rw [← h3]

/-- A write that the freeze mask does not govern. -/
theorem opWrite_eq (id : OpId) {cls : Nat} (priv : Bool) (a : Nat) (bs : List Byte) (h : cls ≠ clsUPD) :
    opWrite s id cls priv a bs = (pieces bs.length a bs).foldl (fun s p => plainPiece s id p.1 p.2) s := by
  simp [opWrite, h]

/-- It writes its bytes as any write does; beside them only the operation table changes. -/
theorem opWrite_frame (id : OpId) {cls : Nat} (priv : Bool) (a : Nat) (bs : List Byte) (h : cls ≠ clsUPD) :
    { opWrite s id cls priv a bs with ops := s.ops } = memWrite s a bs := by
  rw [opWrite_eq s id priv a bs h, foldl_plainPiece_frame, memWrite_eq]

theorem opWrite_mem (id : OpId) {cls : Nat} (priv : Bool) (a : Nat) (bs : List Byte) (h : cls ≠ clsUPD) :
    (opWrite s id cls priv a bs).mem = (memWrite s a bs).mem := by
  rw [← opWrite_frame s id priv a bs h]

/-- No write of it decides the operation's outcome. -/
theorem plainPiece_op? {s : State} {id : OpId} {e : OpEntry} (a : Nat) (bs : List Byte) (h : s.op? id = some e) :
    ∃ y, (plainPiece s id a bs).op? id = some y ∧ y.phase = e.phase := by
  have hw : (writeUnit s a bs).op? id = some e := by rw [op?_congr (writeUnit_ops s a bs), h]
  unfold plainPiece
  dsimp only
  split
  · exact ⟨_, by rw [State.op?_addStat, if_pos rfl, hw, Option.map_some], by unfold OpEntry.addStat; split <;> rfl⟩
  · exact ⟨e, hw, rfl⟩

theorem opWrite_op? {s : State} {id : OpId} {e : OpEntry} {cls : Nat} (priv : Bool) (a : Nat) (bs : List Byte)
    (hc : cls ≠ clsUPD) (h : s.op? id = some e) :
    ∃ y, (opWrite s id cls priv a bs).op? id = some y ∧ y.phase = e.phase := by
  rw [opWrite_eq s id priv a bs hc]
  generalize pieces bs.length a bs = l
  induction l generalizing s e with
  | nil => exact ⟨e, h, rfl⟩
  | cons p t ih =>
    obtain ⟨y, hy, hp⟩ := plainPiece_op? p.1 p.2 h
    obtain ⟨z, hz, hq⟩ := ih hy
    exact ⟨z, hz, hq.trans hp⟩

/-- A write that meets no poisoned block or word in part adds no status. -/
theorem opWrite_eq_memWrite (id : OpId) {cls : Nat} (priv : Bool) (a : Nat) (bs : List Byte) (hc : cls ≠ clsUPD)
    (h : ∀ p ∈ pieces bs.length a bs, bad s p.1 = false ∨ p.2.length = unitSize p.1) :
    opWrite s id cls priv a bs = memWrite s a bs := by
  rw [opWrite_eq s id priv a bs hc, memWrite_eq]
  generalize pieces bs.length a bs = l at h
  induction l generalizing s with
  | nil => rfl
  | cons p t ih =>
    have hp : plainPiece s id p.1 p.2 = writeUnit s p.1 p.2 := by
      unfold plainPiece
      rcases h p (by simp) with hb | hl
      · simp [hb]
      · simp [hl]
    rw [List.foldl_cons, List.foldl_cons, hp]
    refine ih _ fun q hq => ?_
    exact (h q (by simp [hq])).imp_left fun hb => bad_writeUnit s p.1 p.2 q.1 hb

/-! ### The lock -/

section
variable {β : Type}

/-- What depends on none of a write's memory, poison marks and stack counters is kept by the write. -/
theorem memWrite_keeps_proj (π : State → β) (hp : ∀ t m p h, π { t with mem := m, poison := p, hbms := h } = π t)
    (a : Nat) (bs : List Byte) : π (memWrite s a bs) = π s := by
  have h := memWrite_frame s a bs
  rw [← hp (memWrite s a bs) s.mem s.poison s.hbms, h]

end

/-- The mailbox block and Cantle's store. -/
def State.boxStore (s : State) : Mbx × Store := (s.mbx, s.store)

theorem of_boxStore {s t : State} (h : t.boxStore = s.boxStore) : t.mbx = s.mbx ∧ t.store = s.store := Prod.mk.inj h

@[simp] theorem memWrite_boxStore (a : Nat) (bs : List Byte) : (memWrite s a bs).boxStore = s.boxStore :=
  memWrite_keeps_proj s State.boxStore (fun _ _ _ _ => rfl) a bs

@[simp] theorem updTlm_boxStore (r : Nat) (f : Tlm → Tlm) : (s.updTlm r f).boxStore = s.boxStore := rfl
@[simp] theorem updHub_boxStore (f : Hub → Hub) : (s.updHub f).boxStore = s.boxStore := rfl
@[simp] theorem updGth_boxStore (f : Girth → Girth) : (s.updGth f).boxStore = s.boxStore := rfl

@[simp] theorem tlmWrite_boxStore (r : Nat) : (tlmWrite s r).boxStore = s.boxStore := by
  unfold tlmWrite
  dsimp only
  split
  · rw [updTlm_boxStore]
    split <;> simp
  · rfl

@[simp] theorem tlmClose_boxStore (r flags : Nat) : (tlmClose s r flags).boxStore = s.boxStore := by simp [tlmClose]

@[simp] theorem gthCopy_boxStore (a : Nat) (b : List Byte) : (gthCopy a b s).boxStore = s.boxStore := by
  unfold gthCopy
  split <;> simp

@[simp] theorem gthOpen_boxStore (t : Nat) : (gthOpen s t).boxStore = s.boxStore := by
  have hblk (off : Nat) (b : List Byte) (u : State) :
      ((List.range 20).foldl (fun s k => if fencedBlock s k then s else gthCopy (blkAddr k + off) b s) u).boxStore
        = u.boxStore :=
    foldl_keeps State.boxStore _ _ (fun v k => by split <;> simp) u
  unfold gthOpen
  extract_lets s1
  have h1 : s1.boxStore = s.boxStore := by
    dsimp only [s1]
    split <;> rfl
  clear_value s1
  split
  · exact h1
  · refine (updGth_boxStore ..).trans ?_
    split
    · exact (hblk _ _ _).trans h1
    · exact (gthCopy_boxStore ..).trans ((hblk _ _ _).trans h1)

@[simp] theorem openStep_boxStore (t flags : Nat) (restored : Bool) :
    (openStep s t flags restored).boxStore = s.boxStore := by
  unfold openStep
  extract_lets s1 s2 s3 s4
  have h2 : s2.boxStore = s.boxStore := (updHub_boxStore ..).trans <|
    foldl_keeps State.boxStore (List.range 4) (fun s r => tlmClose s r flags) (fun u r => tlmClose_boxStore u r flags) s
  clear_value s2
  have h3 : s3.boxStore = s.boxStore := (gthOpen_boxStore ..).trans h2
  clear_value s3
  exact h3

/-- An opening sets HUB_STEP. -/
theorem openStep_step (t flags : Nat) (restored : Bool) :
    (openStep s t flags restored).hub.step = BitVec.ofNat 64 t := rfl

/-- What the lock leaves: the table locked, the booted bank committed, and a step open. -/
theorem lockDevice_of_unlocked {s : State} (h : s.mbx.locked = false) :
    (lockDevice s).mbx = { s.mbx with locked := true } ∧ (lockDevice s).store.active = s.cnt.bank
      ∧ (lockDevice s).store.nextBank = none ∧ (lockDevice s).hub.step = if s.hub.step = 0 then 1 else s.hub.step := by
  unfold lockDevice
  rw [if_neg (by simp [h])]
  extract_lets s1 store cnt s2
  by_cases hstep : s.hub.step = 0
  · rw [if_pos hstep, if_pos (show s2.hub.step = 0 from hstep), openStep_step]
    obtain ⟨hm, hs⟩ := of_boxStore (openStep_boxStore s2 1 0 false)
    rw [hm, hs]
    exact ⟨rfl, rfl, rfl, rfl⟩
  · rw [if_neg hstep, if_neg (show ¬s2.hub.step = 0 from hstep)]
    exact ⟨rfl, rfl, rfl, rfl⟩

/-- BINDING_LOCK before the lock, by a local master (R370). -/
theorem bindingLock_of_unlocked {s : State} {m : Nat} (hm : localId m = true) (h : s.mbx.locked = false) :
    ∃ t, exec (.bindingLock m) s = .next t
      ∧ t.mbx = { s.mbx with locked := true } ∧ t.store.active = s.cnt.bank ∧ t.store.nextBank = none
      ∧ t.out.head? = some (.bus m true []) ∧ t.hub.step = if s.hub.step = 0 then 1 else s.hub.step := by
  obtain ⟨hmbx, hact, hnext, hstep⟩ := lockDevice_of_unlocked h
  refine ⟨(lockDevice s).emit (.bus m true []), ?_, hmbx, hact, hnext, rfl, hstep⟩
  change Host.Outcome.next (bindingLock s m) = _
  rw [bindingLock, if_pos hm]

/-! ### Register writes -/

/-- The address of MBX_BIND n. -/
def bindAddr (n : Nat) : Nat := 0x3F0000101000 + 8 * n

theorem inSlots_bindAddr {n : Nat} (h : n < 256) : inSlots (bindAddr n) = false := by
  have hlow : ¬slotBase ≤ bindAddr n := by unfold slotBase bindAddr; omega
  simp [inSlots, hlow]

/-- MBX_BIND n lies in the mailbox window at 0x1000 + 8 n. -/
theorem bindAddr_mod {n : Nat} (h : n < 256) : bindAddr n % 0x100000 = 0x1000 + 8 * n := by
  unfold bindAddr; omega

/-- MBX_BIND n reads as the table holds it. -/
theorem mbxReg_bind {n : Nat} (h : n < 256) : mbxReg s (0x1000 + 8 * n) = some (fget 0 s.mbx.bind n).toNat := by
  have hn : (0x1000 + 8 * n - 0x1000) / 8 = n := by
    rw [Nat.add_sub_cancel_left, Nat.mul_div_cancel_left n (by decide)]
  unfold mbxReg
  dsimp only
  iterate 9 rw [if_neg (by omega)]
  rw [if_pos (by omega), hn]

theorem reg_bindAddr {n : Nat} (h : n < 256) : s.reg (bindAddr n) = some (fget 0 s.mbx.bind n).toNat := by
  have h8 : bindAddr n % 8 = 0 := by unfold bindAddr; omega
  have hlow : ¬(0x300000000000 ≤ bindAddr n ∧ bindAddr n < 0x300100000000) := by unfold bindAddr; omega
  have hhub : 0x3F0000000000 ≤ bindAddr n ∧ bindAddr n < 0x3F0000500000 := by unfold bindAddr; omega
  have hwin : (bindAddr n - 0x3F0000000000) / 0x100000 = 1 := by unfold bindAddr; omega
  unfold State.reg readReg readReg64
  rw [if_neg (by simp [h8]), if_neg (by simp [h8]), if_neg hlow, if_pos hhub, hwin, bindAddr_mod h]
  exact mbxReg_bind s h

/-- A write to MBX_BIND n changes that entry, and nothing once the table is locked (R370). -/
theorem regEffect_bindAddr {n : Nat} (v : Nat) (h : n < 256) :
    regEffect s (bindAddr n) v = if s.mbx.locked then s else s.updMbx fun m =>
      { m with bind := fupd 0 m.bind n fun x => BitVec.ofNat 64 (bindWrite x.toNat v) } := by
  have hn : (0x1000 + 8 * n - 0x1000) / 8 = n := by
    rw [Nat.add_sub_cancel_left, Nat.mul_div_cancel_left n (by decide)]
  have hlock : bindAddr n ≠ 0x3F0000100008 := by unfold bindAddr; omega
  have hstrobe : bindAddr n ≠ 0x3F0000000020 := by unfold bindAddr; omega
  have hhub : ¬(0x3F0000000000 ≤ bindAddr n ∧ bindAddr n < 0x3F0000100000) := by unfold bindAddr; omega
  have hmbx : 0x3F0000100000 ≤ bindAddr n ∧ bindAddr n < 0x3F0000200000 := by unfold bindAddr; omega
  unfold regEffect mbxWrite
  dsimp only
  rw [if_neg hlock, if_neg hstrobe, if_neg hhub, if_pos hmbx, bindAddr_mod h, if_neg (by omega), if_neg (by omega), hn,
    if_pos (show 0x1000 ≤ 0x1000 + 8 * n ∧ 0x1000 + 8 * n < 0x1800 by omega)]

theorem registerWrite_bindAddr {m n : Nat} (v : Nat) (hm : localId m = true) (h : n < 256) :
    registerWrite s m (bindAddr n) v = (regEffect s (bindAddr n) (v % 2 ^ 64)).emit (.bus m true []) := by
  simp [registerWrite, hm, inSlots_bindAddr h, reg_bindAddr s h]

/-- REGISTER_WRITE of a binding-table entry before the lock. -/
theorem registerWrite_bind_of_unlocked {s : State} {m n : Nat} (v : Nat) (hm : localId m = true) (hn : n < 256)
    (h : s.mbx.locked = false) :
    ∃ t, exec (.registerWrite m (bindAddr n) v) s = .next t ∧ { t with mbx := s.mbx, out := s.out } = s
      ∧ (fget 0 t.mbx.bind n).toNat = bindWrite (fget 0 s.mbx.bind n).toNat (v % 2 ^ 64) % 2 ^ 64
      ∧ (∀ k, k ≠ n → fget 0 t.mbx.bind k = fget 0 s.mbx.bind k) ∧ t.out = .bus m true [] :: s.out := by
  have hw := registerWrite_bindAddr s v hm hn
  rw [regEffect_bindAddr s _ hn, if_neg (by simp [h])] at hw
  refine ⟨_, congrArg Host.Outcome.next hw, rfl, ?_, fun k hk => ?_, rfl⟩
  · simp only [State.emit_mbx, State.updMbx_mbx, fget_fupd_same, BitVec.toNat_ofNat]
  · simp only [State.emit_mbx, State.updMbx_mbx]
    exact fget_fupd_ne _ _ _ hk

/-- After it (R370). -/
theorem registerWrite_bind_of_locked {s : State} {m n : Nat} (v : Nat) (hm : localId m = true) (hn : n < 256)
    (h : s.mbx.locked = true) : exec (.registerWrite m (bindAddr n) v) s = .next (s.emit (.bus m true [])) := by
  have hw := registerWrite_bindAddr s v hm hn
  rw [regEffect_bindAddr s _ hn, if_pos h] at hw
  exact congrArg Host.Outcome.next hw

/-- REGISTER_WRITE where no register lies. -/
theorem registerWrite_unmapped {s : State} {m a : Nat} (v : Nat) (hm : localId m = true) (ha : inSlots a = false)
    (hr : s.reg a = none) : exec (.registerWrite m a v) s = .next (s.emit (.bus m false [])) := by
  have hw : registerWrite s m a v = s.emit (.bus m false []) := by simp [registerWrite, hm, ha, hr]
  exact congrArg Host.Outcome.next hw

/-! ### COUNTER_COPY -/

theorem length_copyBytes (rs : List Nat) (g : Nat → Nat) :
    (rs.flatMap fun a => leBytes 8 (g a)).length = 8 * rs.length := by
  simp [List.length_flatMap, Nat.mul_comm]

/-- COUNTER_COPY whose body is in form and whose registers exist (R385, R410). -/
theorem counterCopy_eq {s : State} {e : OpEntry} (h : Admitted s 0x601 e) (h1 : 1 ≤ fld e.desc 0x18 1)
    (h8 : fld e.desc 0x18 1 ≤ 8) (hz : zeros e.desc 0x19 0x20 = true)
    (hz2 : zeros e.desc (0x20 + 8 * fld e.desc 0x18 1) 0x60 = true)
    (hen : ∀ x ∈ copyEntries e.desc, 1 ≤ x.2 ∧ x.2 ≤ 64 ∧ x.1 % 8 = 0)
    (hrsv : ∀ i, i < fld e.desc 0x18 1 → fldBits e.desc (0x20 + 8 * i) 8 55 48 = 0)
    (hst : rangeStatus s e.resident (fld e.desc 0x10 8) (8 * (copyRegs e.desc).length) = stOK)
    (hreg : ∀ a ∈ copyRegs e.desc, (s.reg a).isSome = true) :
    counterCopy s e.id = (opWrite s e.id e.cls false (fld e.desc 0x10 8)
      ((copyRegs e.desc).flatMap fun a => leBytes 8 ((s.reg a).getD 0))).finishOp e.id stOK := by
  have hall : ((copyEntries e.desc).all fun x =>
      decide (1 ≤ x.2) && decide (x.2 ≤ 64) && decide (x.1 % 8 = 0)) = true := by
    simpa [List.all_eq_true, and_assoc] using fun a b hab => hen (a, b) hab
  have hr : ((List.range (fld e.desc 0x18 1)).all fun i => fldBits e.desc (0x20 + 8 * i) 8 55 48 == 0) = true := by
    simpa [List.all_eq_true] using hrsv
  have hnone : ((copyRegs e.desc).any fun a => (s.reg a).isNone) = false := by
    rw [List.any_eq_false]
    intro a ha
    simpa using Option.isSome_iff_ne_none.1 (hreg a ha)
  unfold counterCopy
  rw [admittedOp_of_admitted h]
  dsimp only
  rw [hst, hall, hr, hnone, hz, hz2, decide_eq_true h1, decide_eq_true h8]
  simp [stOK, stFENCED]

/-! ### IDENTITY_READ -/

/-- The entry with the three words of Table 13-3 for IDENTITY_READ. -/
def identified (s : State) (e : OpEntry) : OpEntry :=
  { e with d0 := BitVec.ofNat 64 (hubFabric s), d1 := BitVec.ofNat 64 (hubDomain s),
           d2 := BitVec.ofNat 64 (fencedUnits s) }

theorem identityRead_eq {s : State} {e : OpEntry} (h : Admitted s 0x807 e) :
    identityRead s e.id = (s.updOp e.id (identified s)).finishOp e.id stOK := by
  unfold identityRead
  rw [admittedOp_of_admitted h]
  rfl

theorem identityRead_spec {s : State} {e : OpEntry} (h : Admitted s 0x807 e) :
    ∃ t y, exec (.identityRead e.id) s = .next t ∧ Ends t e stOK ∧ OnlyOps s t ∧ t.op? e.id = some y
      ∧ y.d0 = BitVec.ofNat 64 (hubFabric s) ∧ y.d1 = BitVec.ofNat 64 (hubDomain s)
      ∧ y.d2 = BitVec.ofNat 64 (fencedUnits s) := by
  obtain ⟨hop, -, hph⟩ := id h
  have hid : (s.updOp e.id (identified s)).op? e.id = some (identified s e) := op?_updOp_self (fun _ => rfl) hop
  have hp : (identified s e).phase ≠ .aborting := by simp [identified, hph]
  exact ⟨_, _, congrArg Host.Outcome.next (identityRead_eq h), ends_finishOp stOK hid hp rfl, rfl,
    op?_finishOp_self stOK hid hp, rfl, rfl, rfl⟩

/-! ### PEER_LOAD -/

/-- A read that the controllers count changes their counters alone. -/
theorem countReads_eq (a n : Nat) : countReads s a n = { s with hbms := (countReads s a n).hbms } := by
  have h := congrArg (fun x : State => { x with hbms := (countReads s a n).hbms }) (countReads_frame s a n)
  exact h

theorem rdBytes_countReads (a n b k : Nat) : rdBytes (countReads s a n) b k = rdBytes s b k := by
  rw [countReads_eq]; rfl

/-- The rows of 24 bytes of a peer table. -/
def peerRows (s : State) (a n : Nat) : List (List Byte) := (List.range n).map fun i => rdBytes s (a + 24 * i) 24

/-- The table that rows of a peer table set. -/
def peerTable (rows : List (List Byte)) : FMap (List Byte) :=
  rows.foldl (fun m r => fset [] m (fld r 0 2) (r.drop 8)) []

theorem peerTable_succ (a n : Nat) : peerTable (peerRows s a (n + 1)) =
    fset [] (peerTable (peerRows s a n)) (rdNat s (a + 24 * n) 2) (rdBytes s (a + 24 * n + 8) 16) := by
  have hkey : fld (rdBytes s (a + 24 * n) 24) 0 2 = rdNat s (a + 24 * n) 2 := fld_rdBytes s _ 24 0 2 (by decide)
  simp only [peerTable, peerRows, List.range_succ, List.map_append, List.foldl_append, List.map_cons, List.map_nil,
    List.foldl_cons, List.foldl_nil, hkey, drop_rdBytes]

/-- The last row of a device is its entry. -/
theorem fget_peerTable {a n i : Nat} (hi : i < n)
    (hlast : ∀ j, i < j → j < n → rdNat s (a + 24 * j) 2 ≠ rdNat s (a + 24 * i) 2) :
    fget [] (peerTable (peerRows s a n)) (rdNat s (a + 24 * i) 2) = rdBytes s (a + 24 * i + 8) 16 := by
  induction n with
  | zero => omega
  | succ n ih =>
    rw [peerTable_succ]
    rcases Nat.lt_succ_iff_lt_or_eq.1 hi with hlt | rfl
    · rw [fget_fset_ne _ _ _ (hlast n hlt (Nat.lt_succ_self n)).symm]
      exact ih hlt fun j hij hjn => hlast j hij (by omega)
    · rw [fget_fset_same]

/-- PEER_LOAD in form, from rows whose reserved bytes are zero (R329). -/
theorem peerLoad_eq {s : State} {e : OpEntry} (h : Admitted s 0x803 e) {a n : Nat} (ha : fld e.desc 0x10 8 = a)
    (hn : fld e.desc 0x18 4 = n) (h0 : 0 < n) (hle : n ≤ 65536) (hz : zeros e.desc 0x1C 0x20 = true)
    (hst : rangeStatus s false a (24 * n) = stOK) (hbad : badRange s a (24 * n) = false)
    (hrows : ∀ i, i < n → zeros (rdBytes s (a + 24 * i) 24) 2 8 = true) :
    peerLoad s e.id = ((countReads s a (24 * n)).updHub fun u =>
      { u with peers := peerTable (peerRows s a n) }).finishOp e.id stOK := by
  have hall : ((peerRows s a n).all fun r => zeros r 2 8) = true := by
    simpa [peerRows, List.all_eq_true] using hrows
  have hform : ¬(n = 0 ∨ 65536 < n ∨ (!zeros e.desc 0x1C 0x20) = true) := by
    rw [hz]; simp; omega
  unfold peerLoad
  rw [admittedOp_of_admitted h]
  simp only [ha, hn, hst, hbad, rdBytes_countReads]
  rw [if_neg (by decide), if_neg hform, if_neg (by decide), if_neg (by decide)]
  change (if (!(peerRows s a n).all fun r => zeros r 2 8) = true then _ else _) = _
  rw [hall]
  rfl

theorem peerLoad_spec {s : State} {e : OpEntry} (h : Admitted s 0x803 e) {a n : Nat} (ha : fld e.desc 0x10 8 = a)
    (hn : fld e.desc 0x18 4 = n) (h0 : 0 < n) (hle : n ≤ 65536) (hz : zeros e.desc 0x1C 0x20 = true)
    (hst : rangeStatus s false a (24 * n) = stOK) (hbad : badRange s a (24 * n) = false)
    (hrows : ∀ i, i < n → zeros (rdBytes s (a + 24 * i) 24) 2 8 = true) :
    ∃ t, exec (.peerLoad e.id) s = .next t ∧ Ends t e stOK ∧ { t with ops := s.ops, hub := s.hub, hbms := s.hbms } = s
      ∧ ∀ i, i < n → (∀ j, i < j → j < n → rdNat s (a + 24 * j) 2 ≠ rdNat s (a + 24 * i) 2) →
          fget [] t.hub.peers (rdNat s (a + 24 * i) 2) = rdBytes s (a + 24 * i + 8) 16 := by
  obtain ⟨hop, -, hph⟩ := id h
  have heq := peerLoad_eq h ha hn h0 hle hz hst hbad hrows
  rw [countReads_eq] at heq
  refine ⟨_, congrArg Host.Outcome.next heq, ends_finishOp stOK hop (by simp [hph]) rfl, rfl, fun i hi hlast => ?_⟩
  exact fget_peerTable s hi hlast

theorem counterCopy_spec {s : State} {e : OpEntry} (h : Admitted s 0x601 e) (hc : e.cls ≠ clsUPD)
    {dest : Nat} {rs : List Nat}
    (heq : counterCopy s e.id =
      (opWrite s e.id e.cls false dest (rs.flatMap fun a => leBytes 8 ((s.reg a).getD 0))).finishOp e.id stOK) :
    ∃ t y, exec (.counterCopy e.id) s = .next t ∧ t.op? e.id = some y ∧ y.phase = .finished
      ∧ rdBytes t dest (8 * rs.length) = rs.flatMap (fun a => leBytes 8 ((s.reg a).getD 0))
      ∧ OnlyBytes [(dest, 8 * rs.length)] s t := by
  obtain ⟨hop, -, hph⟩ := id h
  have hlen := length_copyBytes rs fun a => (s.reg a).getD 0
  generalize (rs.flatMap fun a => leBytes 8 ((s.reg a).getD 0)) = bs at heq hlen ⊢
  obtain ⟨y, hy, hyp⟩ := opWrite_op? false dest bs hc hop
  have hmem : ((opWrite s e.id e.cls false dest bs).finishOp e.id stOK).mem = (memWrite s dest bs).mem :=
    opWrite_mem s e.id false dest bs hc
  refine ⟨_, _, congrArg Host.Outcome.next heq, op?_finishOp_self stOK hy (by simp [hyp, hph]), rfl, ?_, ?_⟩
  · rw [rdBytes_congr hmem, ← hlen, rdBytes_memWrite]
  · rw [← hlen]
    intro x hx hb
    have := onlyBytes_memWrite s dest bs x hx hb
    simpa only [rdByte, hmem] using this

/-! ### ROUTE_LOAD -/

/-- A fold that updates regions, each its own, once. -/
theorem region_foldl_updRegion (f : Nat → Region → Region) (l : List Nat) (hl : l.Nodup) (k : Nat) :
    (l.foldl (fun s r => s.updRegion r (f r)) s).region k = if k ∈ l then f k (s.region k) else s.region k := by
  induction l generalizing s with
  | nil => rfl
  | cons r t ih =>
    obtain ⟨hr, ht⟩ := List.nodup_cons.1 hl
    rw [List.foldl_cons, ih _ ht, State.region_updRegion]
    by_cases hk : k = r
    · subst hk; simp [hr]
    · simp [hk]

theorem foldl_updRegion_frame (f : Nat → Region → Region) (l : List Nat) :
    { l.foldl (fun s r => s.updRegion r (f r)) s with regions := s.regions } = s :=
  foldl_keeps (fun t : State => { t with regions := s.regions }) l (fun s r => s.updRegion r (f r)) (fun _ _ => rfl) s

theorem nodup_bitsOf (n m : Nat) : (bitsOf n m).Nodup := List.nodup_range.filter _

theorem mem_bitsOf {n m r : Nat} : r ∈ bitsOf n m ↔ r < n ∧ natBit m r = true := by simp [bitsOf]

/-- A table entry after a load of `ws` from entry `first`. -/
theorem fget_fsets {α : Type} [DecidableEq α] (d : α) (ws : List α) (m : FMap α) (first k : Nat) :
    fget d (fsets d m first ws) k =
      if first ≤ k ∧ k < first + ws.length then ws.getD (k - first) d else fget d m k := by
  split
  · next h =>
    have hk : k - first < ws.length := by omega
    have := fget_fsets_in d ws m first (k - first) hk
    rw [Nat.add_sub_cancel' h.1] at this
    rw [this, List.getD_eq_getElem _ _ hk]
  · exact fget_fsets_out d ws m first k (by omega)

/-- The words that a route table in memory holds, but for their reserved bits. -/
def routeWords (s : State) (a n : Nat) : List Nat := (List.range n).map fun i => routeBits (rdNat s (a + 4 * i) 4)

@[simp] theorem length_routeWords (a n : Nat) : (routeWords s a n).length = n := by simp [routeWords]

theorem fget_routesAfter (r first a n dev : Nat) :
    fget 0xFF (routesAfter s r first (routeWords s a n)) dev =
      if first ≤ dev ∧ dev < first + n then routeBits (rdNat s (a + 4 * (dev - first)) 4) else routeWord s r dev := by
  rw [routesAfter, fget_fsets, length_routeWords]
  split
  · next h =>
    have : dev - first < n := by omega
    simp [routeWords, this]
  · rfl

/-- A region's table after it takes the words `ws` from entry `first` on. -/
def loadRoutes (first : Nat) (ws : List Nat) (g : Region) : Region := { g with routes := fsets 0xFF g.routes first ws }

/-- The state once the regions that `m` names have taken the table at `a`. -/
def routesSet (s : State) (a first n m : Nat) : State :=
  (bitsOf 4 m).foldl (fun t r => t.updRegion r (loadRoutes first (routeWords s a n))) (countReads s a (4 * n))

/-- Nothing else changes, but for the counters of the stacks. -/
theorem routesSet_frame (a first n m : Nat) :
    { routesSet s a first n m with regions := s.regions, hbms := s.hbms } = s := by
  have h := foldl_updRegion_frame (countReads s a (4 * n)) (fun _ => loadRoutes first (routeWords s a n)) (bitsOf 4 m)
  change { routesSet s a first n m with regions := (countReads s a (4 * n)).regions } = countReads s a (4 * n) at h
  rw [countReads_eq] at h
  exact congrArg (fun x : State => { x with hbms := s.hbms }) h

theorem routesSet_routes {r : Nat} (a first n m : Nat) (hr : r < 4) : ((routesSet s a first n m).region r).routes =
    if natBit m r = true then routesAfter s r first (routeWords s a n) else (s.region r).routes := by
  have h := region_foldl_updRegion (countReads s a (4 * n)) (fun _ => loadRoutes first (routeWords s a n)) (bitsOf 4 m)
    (nodup_bitsOf 4 m) r
  rw [routesSet, h]
  simp only [mem_bitsOf, hr, true_and]
  rw [countReads_eq]
  split <;> rfl

/-- ROUTE_LOAD in form, into regions in service, of ports that they hold (R332, R334). -/
theorem routeLoad_eq {s : State} {e : OpEntry} (h : Admitted s 0x804 e) {a first n m : Nat} (ha : fld e.desc 0x10 8 = a)
    (hfirst : fld e.desc 0x18 4 = first) (hn : fld e.desc 0x1C 4 = n) (hm : fld e.desc 0x20 1 = m)
    (hlt : first < 65536) (h1 : 1 ≤ n) (hle : first + n ≤ 65536) (hm16 : m < 16) (hz : zeros e.desc 0x21 0x30 = true)
    (hst : rangeStatus s false a (4 * n) = stOK) (hbad : badRange s a (4 * n) = false)
    (hports : ∀ r ∈ bitsOf 4 m, fencedRegion s r = false
      ∧ ∀ i, i < n → portOk s r (natBits (routeBits (rdNat s (a + 4 * i) 4)) 3 0) = true
        ∧ portOk s r (natBits (routeBits (rdNat s (a + 4 * i) 4)) 7 4) = true)
    (hfew : s.hub.podMode = true ∨ ∀ r ∈ bitsOf 4 m, validRoutes (routesAfter s r first (routeWords s a n)) ≤ 15) :
    routeLoad s e.id = (routesSet s a first n m).finishOp e.id stOK := by
  have hfence : ((bitsOf 4 m).any (fencedRegion s)) = false := by
    rw [List.any_eq_false]
    exact fun r hr => by simp [(hports r hr).1]
  have hform : (decide (first < 65536) && decide (1 ≤ n) && decide (first + n ≤ 65536) && decide (m < 16)
      && zeros e.desc 0x21 0x30) = true := by simp [hlt, h1, hle, hm16, hz]
  have hport : ((bitsOf 4 m).all fun r => (routeWords s a n).all fun w =>
      portOk s r (natBits w 3 0) && portOk s r (natBits w 7 4)) = true := by
    simp only [List.all_eq_true, routeWords, List.mem_map, List.mem_range, Bool.and_eq_true]
    rintro r hr w ⟨i, hi, rfl⟩
    exact (hports r hr).2 i hi
  have hcount : (s.hub.podMode || (bitsOf 4 m).all fun r =>
      decide (validRoutes (routesAfter s r first (routeWords s a n)) ≤ 15)) = true := by
    simpa [List.all_eq_true] using hfew
  unfold routeLoad
  rw [admittedOp_of_admitted h]
  simp only [ha, hfirst, hn, hm, hst, hbad, hfence, hform]
  rw [if_neg (by decide), if_neg (by decide), if_neg (by decide), if_neg (by decide)]
  rw [routesSet, countReads_eq]
  change (if (!((bitsOf 4 m).all fun r => (routeWords s a n).all fun w =>
      portOk s r (natBits w 3 0) && portOk s r (natBits w 7 4))
    || !(s.hub.podMode || (bitsOf 4 m).all fun r =>
      decide (validRoutes (routesAfter s r first (routeWords s a n)) ≤ 15))) = true then _ else _) = _
  rw [hport, hcount]
  rfl

theorem routeLoad_spec {s : State} {e : OpEntry} (h : Admitted s 0x804 e) {a first n m : Nat}
    (heq : routeLoad s e.id = (routesSet s a first n m).finishOp e.id stOK) :
    ∃ t, exec (.routeLoad e.id) s = .next t ∧ Ends t e stOK
      ∧ { t with ops := s.ops, regions := s.regions, hbms := s.hbms } = s
      ∧ ∀ r, r < 4 → ∀ dev, routeWord t r dev =
          if natBit m r ∧ first ≤ dev ∧ dev < first + n then routeBits (rdNat s (a + 4 * (dev - first)) 4)
          else routeWord s r dev := by
  obtain ⟨hop, -, hph⟩ := id h
  have hframe := routesSet_frame s a first n m
  have hroutes := fun r (hr : r < 4) => routesSet_routes s a first n m hr
  generalize routesSet s a first n m = u at heq hframe hroutes
  have hops : u.ops = s.ops := (congrArg State.ops hframe :)
  refine ⟨_, congrArg Host.Outcome.next heq,
    ends_finishOp stOK ((op?_congr hops e.id).trans hop) (by simp [hph]) rfl, ?_, fun r hr dev => ?_⟩
  · exact congrArg (fun x : State => { x with ops := s.ops }) hframe
  · change fget 0xFF (u.region r).routes dev = _
    rw [hroutes r hr]
    by_cases hb : natBit m r = true
    · simp only [hb, if_true, true_and]
      exact fget_routesAfter s r first a n dev
    · simp [hb, routeWord]

/-! ### ETH_CONFIG -/

/-- What ETH_CONFIG sets of a link that the link's traffic does not change. -/
def Link.config (k : Link) : List Byte × List Byte × Nat × FMap Tunnel := (k.mac, k.ipv6, k.port, k.tunnels)

theorem owe_config (key n : Nat) (k : Link) : (owe key n k).config = k.config := by
  unfold owe
  split <;> rfl

theorem leaves_config (f : TxFlit) (l : Nat) : ((leaves s f).link l).config = (s.link l).config := by
  unfold leaves
  split
  · next j key =>
    rw [State.link_updLink]
    split
    · next h => rw [owe_config, h]
    · rfl
  · rfl

theorem leaves_mem_ops (f : TxFlit) : ((leaves s f).mem, (leaves s f).ops) = (s.mem, s.ops) := by
  unfold leaves
  split <;> rfl

theorem opLinkDown_mem_links (op : Option OpId) :
    ((opLinkDown s op).mem, (opLinkDown s op).links) = (s.mem, s.links) := by
  unfold opLinkDown
  split
  · split
    · split <;> rfl
    · rfl
  · rfl

theorem dropWaits_frame (id : OpId) : { dropWaits s id with regions := s.regions } = s :=
  foldl_keeps (fun t : State => { t with regions := s.regions }) (List.range 4) (fun s r => s.updRegion r fun g =>
    { g with dma := { g.dma with
        running := g.dma.running.map fun i => if i.op == id then { i with waits := [] } else i } })
    (fun _ _ => rfl) s

theorem lostMessages_mem_links (id : OpId) :
    ((lostMessages s id).mem, (lostMessages s id).links) = (s.mem, s.links) := by
  have hd := dropWaits_frame (opLinkDown s (some id)) id
  have h : ((dropWaits (opLinkDown s (some id)) id).mem, (dropWaits (opLinkDown s (some id)) id).links)
      = (s.mem, s.links) := (congrArg (fun t : State => (t.mem, t.links)) hd :).trans (opLinkDown_mem_links s (some id))
  unfold lostMessages
  dsimp only
  split <;> exact h

/-- The operation is in the table, and no abort has marked it. -/
def State.holdsUnmarked (s : State) (id : OpId) : Prop := ∃ y, s.op? id = some y ∧ y.phase ≠ .aborting

theorem holdsUnmarked_updOp {s : State} {id : OpId} (j : OpId) {f : OpEntry → OpEntry} (hid : ∀ e, (f e).id = e.id)
    (hph : ∀ e, e.phase ≠ .aborting → (f e).phase ≠ .aborting) (h : s.holdsUnmarked id) :
    (s.updOp j f).holdsUnmarked id := by
  obtain ⟨y, hy, hp⟩ := h
  by_cases hj : id = j
  · subst hj
    exact ⟨f y, op?_updOp_self hid hy, hph y hp⟩
  · exact ⟨y, by rw [State.op?_updOp s j id f hid, if_neg hj, hy], hp⟩

theorem holdsUnmarked_addStat {s : State} {id : OpId} (j : OpId) (st : Nat) (h : s.holdsUnmarked id) :
    (s.addStat j st).holdsUnmarked id :=
  holdsUnmarked_updOp j (fun e => by unfold OpEntry.addStat; split <;> rfl)
    (fun e => by unfold OpEntry.addStat; split <;> exact fun he => he) h

theorem holdsUnmarked_finishOp {s : State} {id : OpId} (j : OpId) (st : Nat) (h : s.holdsUnmarked id) :
    (s.finishOp j st).holdsUnmarked id :=
  holdsUnmarked_updOp j (fun e => by unfold OpEntry.finish OpEntry.addStat; split <;> (try split) <;> rfl)
    (fun e he => by
      unfold OpEntry.finish
      split
      · contradiction
      · simp) h

theorem holdsUnmarked_congr {s t : State} (h : t.ops = s.ops) {id : OpId} :
    t.holdsUnmarked id ↔ s.holdsUnmarked id := by
  simp only [State.holdsUnmarked, op?_congr h]

theorem holdsUnmarked_opLinkDown {s : State} {id : OpId} (op : Option OpId) (h : s.holdsUnmarked id) :
    (opLinkDown s op).holdsUnmarked id := by
  unfold opLinkDown
  split
  · split
    · split
      · exact holdsUnmarked_finishOp _ _ h
      · exact holdsUnmarked_addStat _ _ h
    · exact h
  · exact h

theorem holdsUnmarked_lostMessages {s : State} {id : OpId} (j : OpId) (h : s.holdsUnmarked id) :
    (lostMessages s j).holdsUnmarked id := by
  have hd := dropWaits_frame (opLinkDown s (some j)) j
  have hops : (dropWaits (opLinkDown s (some j)) j).ops = (opLinkDown s (some j)).ops := (congrArg State.ops hd :)
  have h1 : (dropWaits (opLinkDown s (some j)) j).holdsUnmarked id :=
    (holdsUnmarked_congr hops).2 (holdsUnmarked_opLinkDown (some j) h)
  unfold lostMessages
  dsimp only
  split
  · exact holdsUnmarked_finishOp _ _ ((holdsUnmarked_congr rfl).2 h1)
  · exact h1

theorem foldl_lostMessages_holdsUnmarked {s : State} {id : OpId} (l : List OpId) (h : s.holdsUnmarked id) :
    (l.foldl lostMessages s).holdsUnmarked id := by
  induction l generalizing s with
  | nil => exact h
  | cons j t ih => exact ih (holdsUnmarked_lostMessages j h)

/-- The tunnel entries in memory that ETH_CONFIG names. -/
def tunnelRows (s : State) (img n : Nat) : List (List Byte) := (List.range n).map fun i => rdBytes s (img + 64 * i) 64

/-- What ETH_CONFIG writes into its link. -/
def setEthernet (d : List Byte) (rows : List (List Byte)) (k : Link) : Link :=
  { k with mac := (d.drop 0x14).take 6, ipv6 := (d.drop 0x20).take 16, port := fld d 0x12 2, retryArea := fld d 0x38 8,
           hostRx := fld d 0x40 8, hostTx := fld d 0x48 8, tunnels := fsets {} [] 0 (rows.map fun b => { entry := b }) }

theorem setEthernet_tunnel (d : List Byte) (k : Link) (img n i : Nat) :
    ((setEthernet d (tunnelRows s img n) k).tunnel i).entry = if i < n then rdBytes s (img + 64 * i) 64 else [] := by
  unfold Link.tunnel setEthernet
  dsimp only
  rw [fget_fsets]
  by_cases hi : i < n
  · simp [tunnelRows, hi]
  · simp [tunnelRows, hi]

/-- The state once the link has its new configuration. -/
def ethernetSet (s : State) (d : List Byte) (l img n : Nat) : State :=
  (countReads s img (64 * n)).updLink l (setEthernet d (tunnelRows s img n))

theorem ethernetSet_mem_ops (d : List Byte) (l img n : Nat) :
    ((ethernetSet s d l img n).mem, (ethernetSet s d l img n).ops) = (s.mem, s.ops) := by
  rw [ethernetSet, countReads_eq]
  rfl

theorem ethernetSet_link (d : List Byte) (l img n : Nat) :
    (ethernetSet s d l img n).link l = setEthernet d (tunnelRows s img n) (s.link l) := by
  rw [ethernetSet, State.link_updLink, if_pos rfl, countReads_eq]
  rfl

/-- ETH_CONFIG in form: the link takes its new configuration, and what its tunnels held is lost. -/
theorem ethConfig_eq {s : State} {e : OpEntry} (h : Admitted s 0x805 e) {l img n : Nat}
    (hl : 6 * e.region + fld e.desc 0x10 1 = l) (himg : fld e.desc 0x30 8 = img)
    (hn : (if img = 0 then 0 else fld e.desc 0x11 1 + 1) = n)
    (hport : fld e.desc 0x10 1 = 4 ∨ fld e.desc 0x10 1 = 5) (hmode : (s.link l).mode = 1)
    (hfence : fencedLink s l = false)
    (h0 : img = 0 → fld e.desc 0x11 1 = 0) (hst : img ≠ 0 → rangeStatus s false img (64 * n) = stOK)
    (hbad : badRange s img (64 * n) = false)
    (hrows : ∀ i, i < n → tunnelEntryOk (rdBytes s (img + 64 * i) 64) = true)
    (hgroup : isGroup ((e.desc.drop 0x14).take 6) = false) (hz : zeros e.desc 0x1A 0x20 = true)
    (hpage : fld e.desc 0x38 8 % 4096 = 0) (hretry : rangeStatus s false (fld e.desc 0x38 8) 0x10000000 = stOK)
    (hrx : rangeStatus s false (fld e.desc 0x40 8) 8 = stOK) (htx : rangeStatus s false (fld e.desc 0x48 8) 8 = stOK)
    (htop : fld e.desc 0x38 8 + 0x10000000 ≤ hbmTop) (hrxTop : fld e.desc 0x40 8 < hbmTop)
    (htxTop : fld e.desc 0x48 8 < hbmTop) :
    ∃ ids flits, ethConfig s e.id =
      (List.foldl lostMessages (List.foldl leaves (ethernetSet s e.desc l img n) flits) ids).finishOp e.id stOK := by
  have hst0 : (if img = 0 then stOK else rangeStatus s false img (64 * n)) = stOK := by
    split
    · rfl
    · next hne => exact hst hne
  have hform : ((fld e.desc 0x10 1 == 4 || fld e.desc 0x10 1 == 5) && (s.link l).mode == 1
      && (decide (img ≠ 0) || fld e.desc 0x11 1 == 0) && !isGroup ((e.desc.drop 0x14).take 6) && zeros e.desc 0x1A 0x20
      && decide (fld e.desc 0x38 8 % 4096 = 0)) = true := by
    simpa [hport, hmode, hgroup, hz, hpage] using or_iff_not_imp_left.2 fun hne => h0 (not_not.1 hne)
  have hall : (tunnelRows s img n).all tunnelEntryOk = true := by
    simpa [tunnelRows, List.all_eq_true] using hrows
  unfold ethConfig
  rw [admittedOp_of_admitted h]
  simp only [hl, himg, hn, hst0, hretry, hrx, htx, hfence, hform, hbad, htop, hrxTop, htxTop, rdBytes_countReads]
  rw [if_neg (by decide), if_neg (by decide), if_neg (by decide), if_neg (by decide)]
  change ∃ ids flits, (if (!(tunnelRows s img n).all tunnelEntryOk) = true then _ else _) = _
  rw [hall]
  exact ⟨_, _, rfl⟩

theorem ethConfig_spec {s : State} {e : OpEntry} (h : Admitted s 0x805 e) {l img n : Nat}
    (heq : ∃ ids flits, ethConfig s e.id =
      (List.foldl lostMessages (List.foldl leaves (ethernetSet s e.desc l img n) flits) ids).finishOp e.id stOK) :
    ∃ t y, exec (.ethConfig e.id) s = .next t ∧ t.op? e.id = some y ∧ y.phase = .finished ∧ t.mem = s.mem
      ∧ (t.link l).mac = (e.desc.drop 0x14).take 6 ∧ (t.link l).ipv6 = (e.desc.drop 0x20).take 16
      ∧ (t.link l).port = fld e.desc 0x12 2
      ∧ ∀ i, ((t.link l).tunnel i).entry = if i < n then rdBytes s (img + 64 * i) 64 else [] := by
  obtain ⟨hop, -, hph⟩ := id h
  obtain ⟨ids, flits, heq⟩ := heq
  have hv := (foldl_keeps (fun t : State => (t.mem, t.ops)) flits leaves (fun t f => leaves_mem_ops t f) _).trans
    (ethernetSet_mem_ops s e.desc l img n)
  have hcfg := foldl_keeps (fun t : State => (t.link l).config) flits leaves (fun t f => leaves_config t f l)
    (ethernetSet s e.desc l img n)
  generalize List.foldl leaves (ethernetSet s e.desc l img n) flits = v at heq hv hcfg
  obtain ⟨hvm, hvo⟩ := Prod.mk.inj hv
  have hw := foldl_keeps (fun t : State => (t.mem, t.links)) ids lostMessages (fun t j => lostMessages_mem_links t j) v
  have hunm : (ids.foldl lostMessages v).holdsUnmarked e.id :=
    foldl_lostMessages_holdsUnmarked ids ((holdsUnmarked_congr hvo).2 ⟨e, hop, by simp [hph]⟩)
  generalize List.foldl lostMessages v ids = w at heq hw hunm
  obtain ⟨hwm, hwl⟩ := Prod.mk.inj hw
  obtain ⟨y, hy, hyp⟩ := hunm
  have hlink : ((w.finishOp e.id stOK).link l).config
      = (setEthernet e.desc (tunnelRows s img n) (s.link l)).config := by
    have hwv : (w.finishOp e.id stOK).link l = v.link l := by
      change fget {} w.links l = fget {} v.links l
      rw [hwl]
    rw [hwv, hcfg, ethernetSet_link]
  simp only [Link.config, Prod.mk.injEq] at hlink
  obtain ⟨hmac, hip, hportNo, htun⟩ := hlink
  refine ⟨_, _, congrArg Host.Outcome.next heq, op?_finishOp_self stOK hy hyp, rfl, hwm.trans hvm, hmac, hip, hportNo,
    fun i => ?_⟩
  rw [← setEthernet_tunnel s e.desc (s.link l) img n i, Link.tunnel, Link.tunnel, htun]

/-! ### RING_SETUP -/

theorem memWrite_ops_comm (o : List OpEntry) (a : Nat) (bs : List Byte) :
    memWrite { s with ops := o } a bs = { memWrite s a bs with ops := o } := by
  simp only [memWrite_eq, foldl_writeUnit_ops_comm]

theorem opWrite_with_ops (id : OpId) {cls : Nat} (priv : Bool) (a : Nat) (bs : List Byte) (h : cls ≠ clsUPD) :
    opWrite s id cls priv a bs = { memWrite s a bs with ops := (opWrite s id cls priv a bs).ops } := by
  rw [← opWrite_frame s id priv a bs h]

/-- Pieces of a run that lies in one block or word. -/
theorem pieces_single {k a : Nat} {bs : List Byte} (hk : 0 < k) (h0 : 0 < bs.length)
    (h : a + bs.length ≤ unitBase a + unitSize a) : pieces k a bs = [(a, bs)] := by
  obtain ⟨k, rfl⟩ := Nat.exists_eq_succ_of_ne_zero hk.ne'
  cases bs with
  | nil => simp at h0
  | cons b bs =>
    have hv := unitBase_le a
    have hle : (b :: bs).length ≤ unitSize a - (a - unitBase a) := by omega
    rw [pieces_cons, List.take_of_length_le hle, List.drop_of_length_le hle, pieces_nil]

/-- Pieces of a run of whole HBM blocks. -/
theorem pieces_whole (k a : Nat) (bs : List Byte) (ha : a % 64 = 0) (hl : bs.length % 64 = 0)
    (htop : a + bs.length ≤ hbmTop) : ∀ p ∈ pieces k a bs, p.2.length = unitSize p.1 := by
  induction k generalizing a bs with
  | zero => simp [pieces]
  | succ k ih =>
    cases bs with
    | nil => simp [pieces]
    | cons b bs =>
      have hlen : (b :: bs).length = bs.length + 1 := rfl
      have hsize : unitSize a = 64 := by unfold unitSize; rw [if_pos (by omega)]
      have hbase : unitBase a = a := by unfold unitBase; rw [hsize]; omega
      rw [pieces_cons, hbase, Nat.sub_self, Nat.sub_zero, hsize]
      intro p hp
      rcases List.mem_cons.1 hp with rfl | hp
      · dsimp only
        rw [hsize, List.length_take]
        omega
      · have hd : ((b :: bs).drop 64).length = bs.length + 1 - 64 := List.length_drop
        exact ih (a + 64) ((b :: bs).drop 64) (by omega) (by omega) (by omega) p hp

/-- The pieces hold the bytes of the run. -/
theorem mem_of_mem_pieces {k a : Nat} {bs : List Byte} {p : Nat × List Byte} {b : Byte} (hp : p ∈ pieces k a bs)
    (hb : b ∈ p.2) : b ∈ bs := by
  induction k generalizing a bs with
  | zero => simp [pieces] at hp
  | succ k ih =>
    cases bs with
    | nil => simp [pieces] at hp
    | cons c cs =>
      rw [pieces_cons] at hp
      rcases List.mem_cons.1 hp with rfl | hp
      · exact List.mem_of_mem_take hb
      · exact List.mem_of_mem_drop (ih hp)

theorem fget_fsets_zero {m : FMap Byte} {vs : List Byte} {k x : Nat} (hv : ∀ v ∈ vs, v = 0) (hm : fget 0 m x = 0) :
    fget 0 (fsets 0 m k vs) x = 0 := by
  rw [fget_fsets]
  split
  · next h =>
    have hx : x - k < vs.length := by omega
    rw [List.getD_eq_getElem _ _ hx]
    exact hv _ (List.getElem_mem hx)
  · exact hm

/-- Zeros written leave a zero byte zero, poisoned or not. -/
theorem rdByte_writeUnit_zero {s : State} {a x : Nat} {bs : List Byte} (hv : ∀ v ∈ bs, v = 0) (hx : rdByte s x = 0) :
    rdByte (writeUnit s a bs) x = 0 := by
  rw [rdByte, writeUnit_mem]
  refine fget_fsets_zero hv ?_
  split
  · exact fget_fsets_zero (fun v h => List.eq_of_mem_replicate h) hx
  · exact hx

theorem rdByte_memWrite_zero {s : State} {a x : Nat} {bs : List Byte} (hv : ∀ v ∈ bs, v = 0) (hx : rdByte s x = 0) :
    rdByte (memWrite s a bs) x = 0 := by
  rw [memWrite_eq]
  have hp : ∀ p ∈ pieces bs.length a bs, ∀ v ∈ p.2, v = 0 := fun p hp v h => hv v (mem_of_mem_pieces hp h)
  generalize pieces bs.length a bs = l at hp
  induction l generalizing s with
  | nil => exact hx
  | cons p t ih => exact ih (rdByte_writeUnit_zero (hp p (by simp)) hx) fun q hq => hp q (by simp [hq])

theorem leBytes_zero (n : Nat) : leBytes n 0 = List.replicate n 0 := by
  induction n with
  | zero => rfl
  | succ n ih => rw [leBytes, Nat.zero_div, ih]; rfl

/-- Memory after the ring's entries and its HEAD word are cleared. -/
def clearRing (base head n : Nat) : State := memWrite (memWrite s base (List.replicate n 0)) head (List.replicate 8 0)

theorem rdBytes_eq_zero {a n : Nat} (h : ∀ i, i < n → rdByte s (a + i) = 0) : rdBytes s a n = List.replicate n 0 := by
  apply List.ext_getElem
  · simp
  · intro i h1 h2
    simpa [rdBytes, fgets, rdByte] using h i (by simpa using h2)

theorem rdBytes_clearRing (base head n : Nat) :
    rdBytes (clearRing s base head n) base n = List.replicate n 0
      ∧ rdBytes (clearRing s base head n) head 8 = List.replicate 8 0 := by
  constructor
  · refine rdBytes_eq_zero _ fun i hi => rdByte_memWrite_zero (fun v h => List.eq_of_mem_replicate h) ?_
    rw [rdByte_memWrite_in s base (List.replicate n 0) i (by simpa using hi), List.getElem_replicate]
  · have := rdBytes_memWrite (memWrite s base (List.replicate n 0)) head (List.replicate 8 0)
    simpa [clearRing] using this

theorem onlyBytes_clearRing (base head n : Nat) : OnlyBytes [(base, n), (head, 8)] s (clearRing s base head n) := by
  have h1 := onlyBytes_memWrite s base (List.replicate n 0)
  have h2 := onlyBytes_memWrite (memWrite s base (List.replicate n 0)) head (List.replicate 8 0)
  rw [List.length_replicate] at h1 h2
  exact onlyBytes_trans h1 h2 fun x => bad_memWrite s base _ x

/-- The two writes by which an operation clears a ring. -/
def opClearRing (s : State) (id : OpId) (base head n : Nat) : State :=
  opWrite (opWrite s id clsORD false base (List.replicate n 0)) id clsORD false head (List.replicate 8 0)

theorem opClearRing_mem (id : OpId) (base head n : Nat) :
    (opClearRing s id base head n).mem = (clearRing s base head n).mem := by
  have hc : clsORD ≠ clsUPD := by decide
  rw [opClearRing, opWrite_mem _ id false head _ hc, opWrite_with_ops s id false base _ hc, memWrite_ops_comm]
  rfl

/-- They meet no poison in part, but for that of the HEAD word's block. -/
theorem opClearRing_of_sound {s : State} {id : OpId} {base head n : Nat} (hbase : base % 64 = 0) (hn : n % 64 = 0)
    (hhead : head % 8 = 0) (htop : base + n ≤ hbmTop) (hhtop : head + 8 ≤ hbmTop) (hb : bad s head = false) :
    opClearRing s id base head n = clearRing s base head n := by
  have hc : clsORD ≠ clsUPD := by decide
  have h1 : opWrite s id clsORD false base (List.replicate n 0) = memWrite s base (List.replicate n 0) :=
    opWrite_eq_memWrite s id false base _ hc fun p hp => .inr <|
      pieces_whole _ base _ hbase (by simpa using hn) (by simpa using htop) p hp
  have hu : unitSize head = 64 := by unfold unitSize; rw [if_pos (by omega)]
  have hone : pieces 8 head (List.replicate 8 0) = [(head, List.replicate 8 0)] :=
    pieces_single (by decide) (by simp) (by unfold unitBase; rw [hu, List.length_replicate]; omega)
  rw [opClearRing, h1]
  refine opWrite_eq_memWrite _ id false head _ hc fun p hp => .inl ?_
  rw [List.length_replicate, hone, List.mem_singleton] at hp
  rw [hp]
  exact bad_memWrite s base _ head hb

/-- None of them decides the operation's outcome. -/
theorem opClearRing_op? {s : State} {id : OpId} {e : OpEntry} (base head n : Nat) (h : s.op? id = some e) :
    ∃ y, (opClearRing s id base head n).op? id = some y ∧ y.phase = e.phase := by
  have hc : clsORD ≠ clsUPD := by decide
  obtain ⟨z, hz, hzp⟩ := opWrite_op? false base (List.replicate n 0) hc h
  obtain ⟨y, hy, hyp⟩ := opWrite_op? false head (List.replicate 8 0) hc hz
  exact ⟨y, hy, hyp.trans hzp⟩

/-- RING_SETUP in form (R385). -/
theorem ringSetup_eq {s : State} {e : OpEntry} (h : Admitted s 0x806 e) {n log2 notify base head : Nat}
    (hn : fld e.desc 0x10 1 = n) (hlog : fld e.desc 0x11 1 = log2) (hnot : fld e.desc 0x12 1 = notify)
    (hbase : fld e.desc 0x18 8 = base) (hhead : fld e.desc 0x20 8 = head) (h1 : 1 ≤ n) (h63 : n ≤ 63) (h6 : 6 ≤ log2)
    (h16 : log2 ≤ 16) (hid : notify = 0 ∨ localId notify = true) (hz : zeros e.desc 0x13 0x18 = true)
    (hz2 : zeros e.desc 0x28 0x30 = true) (hb : base % 4096 = 0) (hh : head % 8 = 0) (hfree : ringInUse s n = false)
    (hst : rangeStatus s false base (64 * 2 ^ log2) = stOK) (hst2 : rangeStatus s false head 8 = stOK)
    (htop : base + 64 * 2 ^ log2 ≤ hbmTop) (htop2 : head + 8 ≤ hbmTop) :
    ringSetup s e.id = ((opClearRing s e.id base head (64 * 2 ^ log2)).updRing n fun _ =>
      { valid := true, log2 := log2, notify := notify, base := base, headAddr := head }).finishOp e.id stOK := by
  have hform : (decide (1 ≤ n) && decide (n ≤ 63) && decide (6 ≤ log2) && decide (log2 ≤ 16)
      && (notify == 0 || localId notify) && zeros e.desc 0x13 0x18 && zeros e.desc 0x28 0x30 && decide (base % 4096 = 0)
      && decide (head % 8 = 0) && !ringInUse s n) = true := by
    simpa [h1, h63, h6, h16, hz, hz2, hb, hh, hfree] using hid
  unfold ringSetup
  rw [admittedOp_of_admitted h]
  simp only [hn, hlog, hnot, hbase, hhead, Nat.min_eq_right h16, hst, hst2, hform, htop, htop2]
  rw [if_neg (by decide), if_neg (by decide), if_neg (by decide), setRing, leBytes_zero]
  rfl

theorem ringSetup_spec {s : State} {e : OpEntry} (h : Admitted s 0x806 e) {n log2 notify base head : Nat}
    (hb : base % 4096 = 0) (hh : head % 8 = 0) (htop : base + 64 * 2 ^ log2 ≤ hbmTop) (htop2 : head + 8 ≤ hbmTop)
    (heq : ringSetup s e.id = ((opClearRing s e.id base head (64 * 2 ^ log2)).updRing n fun _ =>
      { valid := true, log2 := log2, notify := notify, base := base, headAddr := head }).finishOp e.id stOK) :
    ∃ t y, exec (.ringSetup e.id) s = .next t ∧ t.op? e.id = some y ∧ y.phase = .finished
      ∧ (bad s head = false → y.stats = e.stats)
      ∧ t.ring n = { valid := true, log2 := log2, notify := notify, base := base, headAddr := head }
      ∧ rdBytes t base (64 * 2 ^ log2) = List.replicate (64 * 2 ^ log2) 0 ∧ rdBytes t head 8 = List.replicate 8 0
      ∧ OnlyBytes [(base, 64 * 2 ^ log2), (head, 8)] s t := by
  obtain ⟨hop, -, hph⟩ := id h
  have hread := rdBytes_clearRing s base head (64 * 2 ^ log2)
  have honly := onlyBytes_clearRing s base head (64 * 2 ^ log2)
  have hmem := opClearRing_mem s e.id base head (64 * 2 ^ log2)
  have hsound : bad s head = false →
      opClearRing s e.id base head (64 * 2 ^ log2) = clearRing s base head (64 * 2 ^ log2) :=
    opClearRing_of_sound (by omega) (by simp) hh htop htop2
  obtain ⟨y, hy, hyp⟩ := opClearRing_op? base head (64 * 2 ^ log2) hop
  generalize opClearRing s e.id base head (64 * 2 ^ log2) = u at heq hmem hsound hy
  refine ⟨_, _, congrArg Host.Outcome.next heq, op?_finishOp_self stOK hy (by simp [hyp, hph]), rfl,
    fun hbad => ?_, ?_, ?_, ?_, fun x hx hxb => ?_⟩
  · have hops : (clearRing s base head (64 * 2 ^ log2)).op? e.id = some e := by
      rw [op?_congr (_ : _ = s.ops), hop]
      exact (foldl_writeUnit_ops ..).trans (foldl_writeUnit_ops ..)
    rw [hsound hbad, hops, Option.some.injEq] at hy
    rw [hy, addStat_OK]
  · simp only [State.ring, State.finishOp_mbx, State.updRing, State.updMbx_mbx, fget_fupd_same]
  · rw [← hread.1]; exact rdBytes_congr hmem _ _
  · rw [← hread.2]; exact rdBytes_congr hmem _ _
  · rw [← honly x hx hxb]
    exact congrArg (fun m => fget 0 m x) hmem

/-- Settles O60: the lock and the writes of MBX_BIND by their effects on the mailbox block, each operation by the state
that it leaves when its body is in form. -/
theorem registersAndConfiguration : Obligations.RegistersAndConfiguration := by
  unfold Obligations.RegistersAndConfiguration
  intro s
  refine ⟨fun m hm h => bindingLock_of_unlocked hm h, fun m n v hm hn => ⟨registerWrite_bind_of_unlocked v hm hn,
    registerWrite_bind_of_locked v hm hn⟩, fun m a v hm ha hr => registerWrite_unmapped v hm ha hr, ?_, ?_, ?_, ?_, ?_,
    fun e h => identityRead_spec h⟩
  · intro e h hc d rs h1 h8 hz hz2 hen hrsv hst hreg
    exact counterCopy_spec h hc (counterCopy_eq h h1 h8 hz hz2 hen hrsv hst hreg)
  · intro e h a n h0 hle hz hst hbad hrows
    exact peerLoad_spec h rfl rfl h0 hle hz hst hbad hrows
  · intro e h d a first n w hlt h1 hle hm hz hst hbad hports hfew
    exact routeLoad_spec h (routeLoad_eq h rfl rfl rfl rfl hlt h1 hle hm hz hst hbad hports hfew)
  · intro e h d l hport hmode hfence img n h0 hst hbad hrows hgroup hz hpage hretry hrx htx htop hrxTop htxTop
    exact ethConfig_spec h (ethConfig_eq h rfl rfl rfl hport hmode hfence h0 hst hbad hrows hgroup hz hpage hretry hrx
      htx htop hrxTop htxTop)
  · intro e h d n log2 base head h1 h63 h6 h16 hid hz hz2 hb hh hfree hst hst2 htop htop2
    exact ringSetup_spec h hb hh htop htop2 (ringSetup_eq h rfl rfl rfl rfl rfl h1 h63 h6 h16 hid hz hz2 hb hh hfree hst
      hst2 htop htop2)

end Sys2Proof.Machine
end

section
/-! SUPPORT. The canonical form of memory, of the poison marks and of the tables of units (R21, R262, R265): every
function that yields a state keeps it.  A proof follows the function's own composition, call by call. -/

namespace Sys2Proof.Machine

/-! ### The canonical form -/

/-- Memory, the poison marks and the tables of units have their canonical form. -/
def State.Canonical (s : State) : Prop := s.mapsWf = true

section
variable {α : Type} {p : Nat × α → Bool}

theorem fabove_filter {k : Nat} : ∀ {m : FMap α}, fabove k m = true → fabove k (m.filter p) = true
  | [], h => h
  | (a, v) :: t, h => by
    simp only [fabove, Bool.and_eq_true] at h
    rw [List.filter_cons]
    split
    · simpa only [fabove, Bool.and_eq_true] using ⟨h.1, fabove_filter h.2⟩
    · exact fabove_filter h.2

theorem fwf_filter [DecidableEq α] {d : α} : ∀ {m : FMap α}, fwf d m = true → fwf d (m.filter p) = true
  | [], h => h
  | (a, v) :: t, h => by
    simp only [fwf, Bool.and_eq_true] at h
    obtain ⟨⟨ha, hv⟩, ht⟩ := h
    rw [List.filter_cons]
    split
    · simpa only [fwf, Bool.and_eq_true] using ⟨⟨fabove_filter ha, hv⟩, fwf_filter ht⟩
    · exact fwf_filter ht

end

section
variable {s t : State} {c : Prop} [Decidable c] {i j : Issue} {st : Nat}

/-- An update of the other fields keeps it. -/
theorem State.Canonical.frame {pending ringDown hub store cnt mgt pwr pins mbx gth hrw frozen ops refused out fresh}
    (hs : s.Canonical) :
    (State.mk pending s.mem s.poison s.cells s.blocks s.regions s.hbms s.links ringDown hub store cnt mgt pwr pins mbx
      gth hrw frozen ops refused out fresh).Canonical := hs

@[simp] theorem State.Canonical.either (hs : s.Canonical) (ht : t.Canonical) : (if c then s else t).Canonical := by
  split <;> assumption

theorem State.Canonical.when (hs : s.Canonical) (h : s.Canonical → t.Canonical) : (if c then t else s).Canonical :=
  (h hs).either hs

theorem State.Canonical.unless (hs : s.Canonical) (h : s.Canonical → t.Canonical) : (if c then s else t).Canonical :=
  hs.either (h hs)

@[simp] theorem State.Canonical.either_issue (hi : (i.after s).Canonical) (hj : (j.after s).Canonical) :
    ((if c then i else j).after s).Canonical := by split <;> assumption

@[simp] theorem State.Canonical.go (ht : t.Canonical) : ((Issue.go t).after s).Canonical := ht

@[simp] theorem State.Canonical.fault (hs : s.Canonical) : ((Issue.fault st).after s).Canonical := hs

@[simp] theorem State.Canonical.wait (hs : s.Canonical) : (Issue.wait.after s).Canonical := hs

end

section
variable {α β : Type} {l : List α}

@[simp] theorem State.Canonical.either_fst {c : Prop} [Decidable c] {p q : State × β} (hp : p.1.Canonical)
    (hq : q.1.Canonical) : (if c then p else q).1.Canonical := by split <;> assumption

@[simp] theorem State.Canonical.either_snd {c : Prop} [Decidable c] {p q : β × State} (hp : p.2.Canonical)
    (hq : q.2.Canonical) : (if c then p else q).2.Canonical := by split <;> assumption

theorem State.Canonical.after_foldl {f : State → α → State} {s : State} (hs : s.Canonical)
    (hf : ∀ t x, t.Canonical → (f t x).Canonical) : (l.foldl f s).Canonical :=
  List.foldlRecOn l f hs fun t ht x _ => hf t x ht

theorem State.Canonical.after_foldl_fst {f : State × β → α → State × β} {s : State} {y : β} (hs : s.Canonical)
    (hf : ∀ p x, p.1.Canonical → (f p x).1.Canonical) : (l.foldl f (s, y)).1.Canonical :=
  List.foldlRecOn (motive := fun p : State × β => p.1.Canonical) l f hs fun p hp x _ => hf p x hp

theorem State.Canonical.after_foldl_snd {f : β × State → α → β × State} {s : State} {y : β} (hs : s.Canonical)
    (hf : ∀ p x, p.2.Canonical → (f p x).2.Canonical) : (l.foldl f (y, s)).2.Canonical :=
  List.foldlRecOn (motive := fun p : β × State => p.2.Canonical) l f hs fun p hp x _ => hf p x hp

end

theorem State.Canonical.getD {d : State} {o : Option State} (hd : d.Canonical)
    (ho : ∀ t, o = some t → t.Canonical) : (o.getD d).Canonical := by
  cases o with
  | none => exact hd
  | some t => exact ho t rfl

section
variable {s : State}

/-! #### Ops -/

@[simp] theorem State.Canonical.after_setCell {n : Nat} {c : Cell} (hs : s.Canonical) :
    (s.setCell n c).Canonical :=
  mapsWf_setCell n c hs

@[simp] theorem State.Canonical.after_updCell {n : Nat} {f : Cell → Cell} (hs : s.Canonical) :
    (s.updCell n f).Canonical :=
  mapsWf_updCell n f hs

@[simp] theorem State.Canonical.after_updCtx {cx : Cx} {f : Ctx → Ctx} (hs : s.Canonical) :
    (s.updCtx cx f).Canonical :=
  mapsWf_updCtx cx f hs

@[simp] theorem State.Canonical.after_updArr {n : Nat} {f : Arr → Arr} (hs : s.Canonical) :
    (s.updArr n f).Canonical :=
  mapsWf_updArr n f hs

@[simp] theorem State.Canonical.after_setBlock {n : Nat} {b : Block} (hs : s.Canonical) :
    (s.setBlock n b).Canonical :=
  mapsWf_setBlock n b hs

@[simp] theorem State.Canonical.after_updBlock {n : Nat} {f : Block → Block} (hs : s.Canonical) :
    (s.updBlock n f).Canonical :=
  mapsWf_updBlock n f hs

@[simp] theorem State.Canonical.after_setRegion {n : Nat} {r : Region} (hs : s.Canonical) :
    (s.setRegion n r).Canonical :=
  mapsWf_setRegion n r hs

@[simp] theorem State.Canonical.after_updRegion {n : Nat} {f : Region → Region} (hs : s.Canonical) :
    (s.updRegion n f).Canonical := mapsWf_updRegion n f hs

@[simp] theorem State.Canonical.after_updHbm {n : Nat} {f : Hbm → Hbm} (hs : s.Canonical) :
    (s.updHbm n f).Canonical :=
  mapsWf_updHbm n f hs

@[simp] theorem State.Canonical.after_updLink {n : Nat} {f : Link → Link} (hs : s.Canonical) :
    (s.updLink n f).Canonical :=
  mapsWf_updLink n f hs

@[simp] theorem State.Canonical.after_setBad {a : Nat} {b : Bool} (hs : s.Canonical) :
    (setBad s a b).Canonical :=
  mapsWf_setBad a b hs

@[simp] theorem State.Canonical.after_writeUnit {a : Nat} {bs : List Byte} (hs : s.Canonical) :
    (writeUnit s a bs).Canonical :=
  mapsWf_writeUnit a bs hs

@[simp] theorem State.Canonical.after_memWrite {a : Nat} {bs : List Byte} (hs : s.Canonical) :
    (memWrite s a bs).Canonical :=
  mapsWf_memWrite a bs hs

@[simp] theorem State.Canonical.after_updHub {f : Hub → Hub} (hs : s.Canonical) : (s.updHub f).Canonical := hs.frame

@[simp] theorem State.Canonical.after_updMbx {f : Mbx → Mbx} (hs : s.Canonical) : (s.updMbx f).Canonical := hs.frame

@[simp] theorem State.Canonical.after_updGth {f : Girth → Girth} (hs : s.Canonical) : (s.updGth f).Canonical :=
  hs.frame

@[simp] theorem State.Canonical.after_emit {o : Out} (hs : s.Canonical) : (s.emit o).Canonical := hs.frame

@[simp] theorem State.Canonical.after_draw (hs : s.Canonical) : (s.draw).2.Canonical := hs.frame

@[simp] theorem State.Canonical.after_countBlocks {l : List Nat} (hs : s.Canonical) : (countBlocks s l).Canonical :=
  hs.after_foldl fun _ _ ht => ht.after_updHbm

@[simp] theorem State.Canonical.after_countReads {a n : Nat} (hs : s.Canonical) : (countReads s a n).Canonical :=
  hs.after_countBlocks

@[simp] theorem State.Canonical.after_updOp {id : OpId} {f : OpEntry → OpEntry} (hs : s.Canonical) :
    (s.updOp id f).Canonical :=
  hs.frame

@[simp] theorem State.Canonical.after_dropOp {id : OpId} (hs : s.Canonical) : (s.dropOp id).Canonical := hs.frame

@[simp] theorem State.Canonical.after_addStat {id : OpId} {st : Nat} (hs : s.Canonical) :
    (s.addStat id st).Canonical :=
  hs.after_updOp

@[simp] theorem State.Canonical.after_finishOp {id : OpId} {st : Nat} (hs : s.Canonical) :
    (s.finishOp id st).Canonical :=
  hs.after_updOp

/-! #### Flags -/

@[simp] theorem State.Canonical.after_updTlm {r : Nat} {f : Tlm → Tlm} (hs : s.Canonical) :
    (s.updTlm r f).Canonical :=
  hs.after_updRegion

@[simp] theorem State.Canonical.after_chargeEvents {r fmt tag : Nat} {evs : List Nat} (hs : s.Canonical) :
    (chargeEvents s r fmt tag evs).Canonical :=
  hs.either hs.after_updTlm

@[simp] theorem State.Canonical.after_refuseLoad {e : OpEntry} {st : Nat} (hs : s.Canonical) :
    (refuseLoad s e st).Canonical :=
  (hs.after_chargeEvents.either hs).after_finishOp

@[simp] theorem State.Canonical.after_chargePairs {r tag : Nat} {evs : List (Nat × Nat)} (hs : s.Canonical) :
    (chargePairs s r tag evs).Canonical :=
  hs.after_foldl fun _ _ ht => ht.after_chargeEvents

@[simp] theorem State.Canonical.after_countValues {r fmt tag n : Nat} (hs : s.Canonical) :
    (countValues s r fmt tag n).Canonical :=
  hs.after_updTlm.either hs

@[simp] theorem State.Canonical.after_vecEvents {cx : Cx} {fmt tag : Nat} {evs : List Nat} (hs : s.Canonical) :
    (vecEvents s cx fmt tag evs).Canonical :=
  hs.either hs.after_updCell.after_updCtx.after_chargeEvents

/-! #### Operands -/

@[simp] theorem State.Canonical.after_writeElems {a w i : Nat} {cs : List (Option Nat)} (hs : s.Canonical) :
    (writeElems s a w i cs).Canonical :=
  hs.after_foldl fun _ _ ht => ht.after_memWrite

/-! #### Issue -/

@[simp] theorem State.Canonical.after_stopKernel {id : OpId} (hs : s.Canonical) : (stopKernel s id).Canonical := by
  unfold stopKernel
  split
  · exact hs.after_foldl fun _ _ ht => ht.after_updCell
  · exact hs

@[simp] theorem State.Canonical.after_endKernel {id : OpId} {st : Nat} {d0 : DWord} (hs : s.Canonical) :
    (endKernel s id st d0).Canonical :=
  hs.after_stopKernel.after_updOp

@[simp] theorem State.Canonical.after_kernelFault {cx : Cx} {st : Nat} (hs : s.Canonical) :
    (kernelFault s cx st).Canonical := by
  unfold kernelFault
  dsimp only
  split
  · exact hs.after_endKernel
  · exact hs

@[simp] theorem State.Canonical.after_dropAfter {n : Nat} {id : OpId} {seq : Nat} (hs : s.Canonical) :
    (dropAfter s n id seq).Canonical :=
  hs.after_updCell.after_updBlock

@[simp] theorem State.Canonical.after_endAtItem {n : Nat} {id : OpId} {seq : Nat} {issuer : Option Cx} {pc st : Nat}
    (hs : s.Canonical) : (endAtItem s n id seq issuer pc st).Canonical :=
  hs.after_dropAfter.after_endKernel

@[simp] theorem State.Canonical.after_vecPairs {cx : Cx} {tag : Nat} {evs : List (Nat × Nat)} (hs : s.Canonical) :
    (vecPairs s cx tag evs).Canonical :=
  hs.either (hs.after_foldl (fun _ _ ht => ht.after_vecEvents))

@[simp] theorem State.Canonical.after_issueAt {cx : Cx} {w : State → Issue} (hs : s.Canonical)
    (hw : ((w s).after s).Canonical) : (issueAt s cx w).Canonical := by
  unfold issueAt
  refine (hs.after_kernelFault.either (hs.after_chargeEvents.after_kernelFault.either
    (hs.after_kernelFault.either ?_))).either hs
  split
  · exact (hs.after_vecEvents.either hs).after_kernelFault
  · exact hs
  · next h =>
    rw [h] at hw
    exact State.Canonical.after_updCell hw

@[simp] theorem State.Canonical.after_kStat {cx : Cx} {st : Nat} (hs : s.Canonical) : (kStat s cx st).Canonical := by
  unfold kStat
  split
  · exact hs.after_addStat
  · exact hs

@[simp] theorem State.Canonical.after_kPoison {cx : Cx} {evs : List (Nat × Nat)} (hs : s.Canonical) :
    (kPoison s cx evs).Canonical :=
  hs.after_kStat.either hs

@[simp] theorem State.Canonical.after_kWrite {cx : Cx} {a : Nat} {bs : List Byte} (hs : s.Canonical) :
    (kWrite s cx a bs).Canonical :=
  hs.after_memWrite.after_kStat.either hs.after_memWrite

@[simp] theorem State.Canonical.after_kWriteElems {cx : Cx} {a w i : Nat} {cs : List (Option Nat)}
    (hs : s.Canonical) : (kWriteElems s cx a w i cs).Canonical :=
  hs.after_writeElems.after_kStat.either hs.after_writeElems

@[simp] theorem State.Canonical.after_freeCodes {w : Nat} {l : List Bool} (hs : s.Canonical) :
    (freeCodes w l s).2.Canonical := by
  induction l generalizing s with
  | nil => exact hs
  | cons b t ih =>
    cases b
    · exact ih hs
    · exact ih hs.after_draw

/-! #### OpWrite -/

@[simp] theorem State.Canonical.after_maskedPiece {id : OpId} {a : Nat} {bs : List Byte} (hs : s.Canonical) :
    (maskedPiece s id a bs).Canonical :=
  hs.after_updRegion.after_addStat.after_updOp.either (hs.after_writeUnit.after_addStat.either hs.after_writeUnit)

@[simp] theorem State.Canonical.after_plainPiece {id : OpId} {a : Nat} {bs : List Byte} (hs : s.Canonical) :
    (plainPiece s id a bs).Canonical :=
  hs.after_writeUnit.after_addStat.either hs.after_writeUnit

@[simp] theorem State.Canonical.after_opWrite {id : OpId} {cls : Nat} {priv : Bool} {a : Nat} {bs : List Byte}
    (hs : s.Canonical) : (opWrite s id cls priv a bs).Canonical :=
  hs.after_foldl fun _ _ ht => ht.after_maskedPiece.either ht.after_plainPiece

@[simp] theorem State.Canonical.after_kernelDrainWrite {id : OpId} {a : Nat} {bs : List Byte} (hs : s.Canonical) :
    (kernelDrainWrite s id a bs).Canonical :=
  hs.after_opWrite.either hs.after_endKernel

/-! #### VectorReg -/

@[simp] theorem State.Canonical.after_vrLanes {cx : Cx} {f : Vr} {g : Ctx → Nat → Word × List (Nat × Nat)}
    (hs : s.Canonical) : (vrLanes s cx f g).Canonical :=
  hs.after_updCtx.after_vecPairs.after_countValues.after_kPoison

@[simp] theorem State.Canonical.after_vrArith {types : List Nat} {k : Nat} {cx : Cx} {f : Vr} (hs : s.Canonical) :
    ((vrArith types k s cx f).after s).Canonical :=
  hs.after_vrLanes.go.either_issue hs.fault

@[simp] theorem State.Canonical.after_vrPure {types : List Nat} {mask : Nat} {extra : Bool} {g : Ctx → Nat → Word}
    {cx : Cx} {f : Vr} (hs : s.Canonical) : ((vrPure types mask extra g s cx f).after s).Canonical :=
  hs.after_vrLanes.go.either_issue hs.fault

@[simp] theorem State.Canonical.after_vrCmp {cx : Cx} {f : Vr} (hs : s.Canonical) :
    ((vrCmp s cx f).after s).Canonical :=
  hs.after_updCtx.go.either_issue hs.fault

@[simp] theorem State.Canonical.after_vrReduce {types : List Nat} {k : Nat} {cx : Cx} {f : Vr} (hs : s.Canonical) :
    ((vrReduce types k s cx f).after s).Canonical :=
  hs.after_updCtx.after_vecPairs.after_countValues.go.either_issue hs.fault

@[simp] theorem State.Canonical.after_vrMask {two : Bool} {op : Bool → Bool → Bool} {cx : Cx} {f : Vr}
    (hs : s.Canonical) : ((vrMask two op s cx f).after s).Canonical :=
  hs.after_updCtx.go.either_issue hs.fault

@[simp] theorem State.Canonical.after_vrLoad {cx : Cx} {f : Vr} (hs : s.Canonical) :
    ((vrLoad s cx f).after s).Canonical := by
  unfold vrLoad
  split
  · exact hs.fault
  · exact hs.after_vrLanes.go

@[simp] theorem State.Canonical.after_vrStore {cx : Cx} {f : Vr} (hs : s.Canonical) :
    ((vrStore s cx f).after s).Canonical := by
  unfold vrStore
  split
  · exact hs.fault
  · exact hs.after_updCtx.after_kWriteElems.after_countValues.go.either_issue
      (hs.after_updCtx.after_kWriteElems.after_kWrite.after_vecPairs.after_countValues.go.either_issue
      hs.after_updCtx.after_kWriteElems.after_vecPairs.after_countValues.go)

@[simp] theorem State.Canonical.after_vrMaskLoad {cx : Cx} {f : Vr} (hs : s.Canonical) :
    ((vrMaskLoad s cx f).after s).Canonical :=
  hs.fault.either_issue (hs.fault.either_issue hs.after_updCtx.after_vecPairs.after_kPoison.go)

@[simp] theorem State.Canonical.after_vrMaskStore {cx : Cx} {f : Vr} (hs : s.Canonical) :
    ((vrMaskStore s cx f).after s).Canonical :=
  hs.fault.either_issue (hs.fault.either_issue hs.after_updCtx.after_kWrite.go)

@[simp] theorem State.Canonical.after_vrGather {cx : Cx} {f : Vr} (hs : s.Canonical) :
    ((vrGather s cx f).after s).Canonical := by
  unfold vrGather
  split
  · exact hs.fault
  · exact hs.fault.either_issue hs.after_vrLanes.after_updCtx.go

@[simp] theorem State.Canonical.after_scatOne {cx : Cx} {f : Vr} {st : State} {t : Nat × List Nat}
    (hs : st.Canonical) : (scatOne s cx f st t).Canonical :=
  (hs.either_snd hs.after_draw).after_kWrite

@[simp] theorem State.Canonical.after_vrScatter {cx : Cx} {f : Vr} (hs : s.Canonical) :
    ((vrScatter s cx f).after s).Canonical := by
  unfold vrScatter
  split
  · exact hs.fault
  · exact hs.fault.either_issue (hs.after_foldl (fun _ _ ht =>
      ht.after_scatOne)).after_updCtx.after_vecPairs.after_countValues.go

@[simp] theorem State.Canonical.after_freeOrder {k : Nat} {l : List Nat} (hs : s.Canonical) :
    (freeOrder k s l).2.Canonical := by
  induction k generalizing s l with
  | zero => exact hs
  | succ k ih =>
    match l with
    | [] => exact hs
    | [_] => exact hs
    | _ :: _ :: _ => exact ih hs.after_draw

@[simp] theorem State.Canonical.after_scaddOne {cx : Cx} {f : Vr} {acc : State × List (Nat × Nat)}
    {t : Nat × List Nat} (hs : acc.1.Canonical) : (scaddOne s cx f acc t).1.Canonical :=
  hs.after_kStat.either_fst hs.after_freeOrder.after_kWrite

@[simp] theorem State.Canonical.after_vrScatterAdd {cx : Cx} {f : Vr} (hs : s.Canonical) :
    ((vrScatterAdd s cx f).after s).Canonical := by
  have h : ((vrTargets (s.ctx cx) f).foldl (scaddOne s cx f) (s, [])).1.Canonical :=
    hs.after_foldl_fst fun _ _ ht => ht.after_scaddOne
  unfold vrScatterAdd
  dsimp only
  generalize (vrTargets (s.ctx cx) f).foldl (scaddOne s cx f) (s, []) = p at h ⊢
  split
  · exact hs.fault
  · exact hs.fault.either_issue h.after_updCtx.after_vecPairs.after_countValues.go

/-! #### StreamForm -/

@[simp] theorem State.Canonical.after_beginStream {opc : Nat} {cx : Cx} {f : Vs} (hs : s.Canonical) :
    (beginStream opc s cx f).Canonical :=
  hs.after_updCtx

@[simp] theorem State.Canonical.after_stIssue {opc : Nat} {chk : Option Nat} {cx : Cx} {f : Vs} (hs : s.Canonical) :
    ((stIssue opc chk s cx f).after s).Canonical := by
  unfold stIssue
  split
  · exact hs.fault
  · exact hs.after_beginStream.go

@[simp] theorem State.Canonical.after_storeElems {cx : Cx} {o : Opnd} {si : Nat} {masked : Bool} {rnd : Rnd} {i0 : Nat}
    {vals : List (Option Res1)} (hs : s.Canonical) : (storeElems s cx o si masked rnd i0 vals).1.Canonical := by
  unfold storeElems
  split
  · refine List.foldlRecOn (motive := fun p : State × List (List Nat) => p.1.Canonical) _ _ hs fun p hp _ _ => ?_
    dsimp only
    split
    · exact hp
    · exact hp.after_kWriteElems.either hp.after_kWriteElems.after_kWrite
  · exact hs.after_kWriteElems

@[simp] theorem State.Canonical.after_nextChunk {cx : Cx} {more : Bool} (hs : s.Canonical) :
    (nextChunk s cx more).Canonical :=
  hs.after_updCtx

@[simp] theorem State.Canonical.after_stCharge {cx : Cx} {f : Vs} {fmt n : Nat} {evs : List (List (Nat × Nat))}
    (hs : s.Canonical) : (stCharge s cx f fmt n evs).Canonical :=
  hs.after_vecPairs.after_countValues.after_kPoison

@[simp] theorem State.Canonical.after_cmpChunk {cx : Cx} {f : Vs} {is : List Nat} (hs : s.Canonical) :
    (cmpChunk s cx f is).Canonical :=
  hs.after_kWriteElems.after_stCharge

@[simp] theorem State.Canonical.after_copyChunk {cx : Cx} {f : Vs} {is : List Nat} (hs : s.Canonical) :
    (copyChunk s cx f is).Canonical := by
  unfold copyChunk
  refine after_stCharge (hs.after_kWriteElems.after_foldl (fun _ _ ht => ?_))
  split
  · exact ht.after_kWrite
  · exact ht

@[simp] theorem State.Canonical.after_scramble {cx : Cx} {o : Opnd} {i0 : Nat} {act : List Bool} (hs : s.Canonical) :
    (scramble cx o i0 act s).Canonical :=
  (hs.after_freeCodes.after_kWriteElems.after_foldl (fun _ _ ht => ht.after_draw.after_kWrite.either ht)).either
    hs.after_freeCodes.after_kWriteElems

@[simp] theorem State.Canonical.after_arithChunk {cx : Cx} {opc : Nat} {f : Vs} {is : List Nat} (hs : s.Canonical) :
    (arithChunk s cx opc f is).Canonical :=
  hs.after_storeElems.after_stCharge

@[simp] theorem State.Canonical.after_ewChunk {cx : Cx} {t : Stream} (hs : s.Canonical) :
    (ewChunk s cx t).Canonical :=
  (((hs.after_cmpChunk.either (hs.after_copyChunk.either hs.after_arithChunk)).after_freeCodes.after_writeElems.either
    (hs.after_cmpChunk.either (hs.after_copyChunk.either hs.after_arithChunk))).either ((hs.after_cmpChunk.either
    (hs.after_copyChunk.either hs.after_arithChunk)).when (fun h => h.after_scramble))).after_nextChunk

@[simp] theorem State.Canonical.after_redFinish {cx : Cx} {k : Nat} {t : Stream} {last : Bool} (hs : s.Canonical) :
    (redFinish s cx k t last).1.Canonical :=
  (hs.after_vecPairs.after_kPoison.after_storeElems.after_vecPairs.after_countValues.when (fun h =>
    h.after_scramble)).either_fst hs.after_vecPairs.after_kPoison

@[simp] theorem State.Canonical.after_reduceChunk {cx : Cx} {t : Stream} (hs : s.Canonical) :
    (reduceChunk s cx t).Canonical :=
  hs.after_updCtx.either (hs.after_redFinish.after_updCtx.either hs.after_redFinish.after_updCtx)

/-! #### Drain -/

@[simp] theorem State.Canonical.after_writeUnitOf {n : Nat} {b : TileBuf} {q : Nat} (hs : s.Canonical) :
    (writeUnitOf s n b q).Canonical :=
  ((hs.after_foldl (fun _ _ ht =>
    ht.after_kernelDrainWrite)).after_chargePairs.after_chargeEvents.after_countValues.when (fun h =>
    h.after_addStat)).after_updCell

@[simp] theorem State.Canonical.after_writeNextUnit {n : Nat} (hs : s.Canonical) : (writeNextUnit s n).Canonical := by
  unfold writeNextUnit
  dsimp only
  split
  · exact hs
  · exact hs.after_writeUnitOf.after_updArr

@[simp] theorem State.Canonical.after_sweepTile {n : Nat} (hs : s.Canonical) : (sweepTile s n).Canonical := by
  unfold sweepTile
  dsimp only
  split
  · exact hs.after_updArr.either hs
  · exact hs

/-! #### Array -/

@[simp] theorem State.Canonical.after_fillFeed {n : Nat} {p : Product} (hs : s.Canonical) :
    (fillFeed s n p).Canonical :=
  hs.either hs.after_updArr

@[simp] theorem State.Canonical.after_startProduct {n : Nat} {h : Home} {p : Product} (hs : s.Canonical) :
    (startProduct s n h p).Canonical :=
  hs.after_updArr

@[simp] theorem State.Canonical.after_refuseProduct {n : Nat} {p : Product} {st : Nat} (hs : s.Canonical) :
    (refuseProduct s n p st).Canonical :=
  hs.after_chargeEvents.after_addStat.either hs.after_endAtItem

@[simp] theorem State.Canonical.after_startHead {n : Nat} {p : Product} {pop : Arr → Arr} (hs : s.Canonical) :
    (startHead s n p pop).Canonical := by
  unfold startHead
  refine hs.after_updArr.after_updArr.either ?_
  split
  · exact hs.after_updArr.after_startProduct
  · exact hs.after_updArr.after_refuseProduct

@[simp] theorem State.Canonical.after_productStart {n : Nat} (hs : s.Canonical) : (productStart s n).Canonical := by
  unfold productStart
  dsimp only
  split
  · exact hs.after_startHead.either hs
  · exact hs

@[simp] theorem State.Canonical.after_deferredStart {n : Nat} (hs : s.Canonical) : (deferredStart s n).Canonical := by
  unfold deferredStart
  dsimp only
  split
  · exact hs.after_startHead.either hs
  · exact hs

@[simp] theorem State.Canonical.after_freeAcc {n : Nat} (hs : s.Canonical) : (freeAcc s n).Canonical :=
  hs.after_updArr.frame

@[simp] theorem State.Canonical.after_stopArray {gone : OpId → Bool} {n : Nat} (hs : s.Canonical) :
    (stopArray gone s n).Canonical :=
  hs.after_updArr.after_freeAcc.either hs.after_updArr

@[simp] theorem State.Canonical.after_clearCell {id : OpId} {n : Nat} (hs : s.Canonical) :
    (clearCell id s n).Canonical :=
  hs.after_stopArray

@[simp] theorem State.Canonical.after_stopProduct {n : Nat} {p : Product} {st : Nat} (hs : s.Canonical) :
    (stopProduct s n p st).Canonical := by
  unfold stopProduct
  split
  · exact hs.after_clearCell.after_endAtItem
  · exact (hs.after_foldl (fun _ _ ht => ht.after_clearCell)).after_updBlock.after_endKernel

@[simp] theorem State.Canonical.after_settleStop {b : Nat} (hs : s.Canonical) : (settleStop s b).Canonical := by
  unfold settleStop
  split
  · exact hs.after_updBlock.either hs
  · exact hs

@[simp] theorem State.Canonical.after_settleJob {b : Nat} (hs : s.Canonical) : (settleJob s b).Canonical := by
  unfold settleJob
  split
  · exact hs
  · exact hs.after_updBlock.after_finishOp.either hs

@[simp] theorem State.Canonical.after_openTile {n : Nat} {p : Product} (hs : s.Canonical) :
    (openTile s n p).1.Canonical :=
  (hs.after_chargeEvents.after_addStat.either hs.after_chargeEvents).after_updArr.either_fst hs.after_updArr

@[simp] theorem State.Canonical.after_countMispred {n : Nat} {p : Product} (hs : s.Canonical) :
    (countMispred s n p).Canonical := by
  unfold countMispred
  split
  · exact hs.either hs.after_updBlock
  · exact hs

@[simp] theorem State.Canonical.after_takeHead {n : Nat} {p : Product} (hs : s.Canonical) :
    (takeHead s n p).1.Canonical :=
  hs.after_updArr.after_countMispred.after_addStat.either hs.after_updArr.after_countMispred

@[simp] theorem State.Canonical.after_loadBack {n : Nat} {p : Product} (hs : s.Canonical) :
    (loadBack s n p).Canonical :=
  hs.either hs.after_updArr

@[simp] theorem State.Canonical.after_prefetch {n : Nat} {p : Product} (hs : s.Canonical) :
    (prefetch s n p).Canonical := by
  unfold prefetch
  dsimp only
  split
  · exact hs.after_loadBack
  · split
    · exact hs.after_loadBack
    · exact hs

@[simp] theorem State.Canonical.after_swapIn {n : Nat} {p : Product} (hs : s.Canonical) : (swapIn s n p).Canonical :=
  (hs.after_loadBack.after_chargeEvents.after_addStat.either
    hs.after_loadBack.after_chargeEvents).after_updCell.after_fillFeed.after_prefetch

@[simp] theorem State.Canonical.after_passStart {n : Nat} (hs : s.Canonical) : (passStart s n).Canonical := by
  unfold passStart
  split
  · exact hs
  · exact hs.either ((hs.after_openTile.after_takeHead.after_swapIn.after_updCell.either
      hs.after_openTile.after_takeHead.after_stopProduct).either hs.after_openTile.after_swapIn)

@[simp] theorem State.Canonical.after_endStream {n : Nat} {p : Product} (hs : s.Canonical) :
    (endStream s n p).Canonical :=
  (hs.after_updArr.after_updOp.either hs.after_updArr).after_countValues

@[simp] theorem State.Canonical.after_advanceRow {n : Nat} {p : Product} (hs : s.Canonical) :
    (advanceRow s n p).Canonical := by
  unfold advanceRow
  refine hs.after_updArr.either ?_
  split
  · exact hs.after_updArr
  · exact hs.after_updArr.either hs.after_endStream

@[simp] theorem State.Canonical.after_meetRow {n : Nat} {p : Product} {r : Nat} {old : List Nat}
    {ev : List (List Nat)} (hs : s.Canonical) : (meetRow s n p r old ev).Canonical :=
  hs.after_updBlock.either hs.after_updArr

@[simp] theorem State.Canonical.after_acceptRow {n : Nat} {p : Product} (hs : s.Canonical) :
    (acceptRow s n p).Canonical :=
  (((hs.after_chargeEvents.after_chargeEvents.after_addStat.either
    hs.after_chargeEvents.after_chargeEvents).after_meetRow.after_updCell.after_updCell.after_updArr.after_chargeEvents.either
    (hs.after_chargeEvents.after_chargeEvents.after_addStat.either
    hs.after_chargeEvents.after_chargeEvents).after_meetRow.after_updCell.after_updCell).either
    (hs.after_chargeEvents.after_chargeEvents.after_addStat.either
    hs.after_chargeEvents.after_chargeEvents).after_meetRow.after_updCell).after_advanceRow

@[simp] theorem State.Canonical.after_rowResult {n : Nat} (hs : s.Canonical) : (rowResult s n).Canonical := by
  unfold rowResult
  dsimp only
  split
  · exact hs
  · refine hs.either (hs.either ?_)
    split
    · exact hs.after_acceptRow.after_fillFeed.after_prefetch.either hs.after_acceptRow
    · exact hs.after_acceptRow

@[simp] theorem State.Canonical.after_productComplete {n : Nat} (hs : s.Canonical) :
    (productComplete s n).Canonical := by
  unfold productComplete
  dsimp only
  split
  · exact (hs.after_updArr.after_settleJob.either hs.after_updArr).either hs
  · exact hs

@[simp] theorem State.Canonical.after_flushUnits {n : Nat} {b : TileBuf} {k : Nat} (hs : s.Canonical) :
    (flushUnits n b k s).1.Canonical := by
  induction k with
  | zero => exact hs
  | succ k ih =>
    simp only [flushUnits]
    split
    · exact ih.after_writeUnitOf
    · exact ih

@[simp] theorem State.Canonical.after_flushDrain {n : Nat} (hs : s.Canonical) : (flushDrain s n).Canonical :=
  (hs.after_foldl (fun _ _ ht => ht.after_flushUnits.after_updArr.either
    ht.after_flushUnits.after_updArr)).after_updArr

@[simp] theorem State.Canonical.after_preemptEffect {n : Nat} (hs : s.Canonical) : (preemptEffect s n).Canonical := by
  unfold preemptEffect
  dsimp only
  split
  · exact hs
  · exact hs.after_flushDrain.after_updArr.either hs

@[simp] theorem State.Canonical.after_saveDone {n : Nat} (hs : s.Canonical) : (saveDone s n).Canonical := by
  unfold saveDone
  dsimp only
  split
  · exact (hs.after_memWrite.after_updArr.either hs.after_memWrite.after_updCell).either hs
  · exact hs

@[simp] theorem State.Canonical.after_deferredYield {n : Nat} (hs : s.Canonical) : (deferredYield s n).Canonical := by
  unfold deferredYield
  dsimp only
  split
  · refine either ?_ hs
    split
    · exact hs.after_updArr.after_loadBack
    · exact hs.after_updArr
  · exact hs

@[simp] theorem State.Canonical.after_deferredResume {n : Nat} (hs : s.Canonical) :
    (deferredResume s n).Canonical := by
  unfold deferredResume
  dsimp only
  split
  · exact hs.after_updArr.either hs
  · exact hs

@[simp] theorem State.Canonical.after_rebuildTile {n : Nat} {p : Product} (hs : s.Canonical) :
    (rebuildTile s n p).Canonical :=
  hs.after_updCell.either hs

@[simp] theorem State.Canonical.after_rebuildChain {n : Nat} {p : Product} (hs : s.Canonical) :
    (rebuildChain s n p).Canonical :=
  hs.after_updArr.either hs

@[simp] theorem State.Canonical.after_restoreDone {n : Nat} (hs : s.Canonical) : (restoreDone s n).Canonical := by
  unfold restoreDone
  dsimp only
  split
  · exact hs.after_updArr.after_rebuildTile.after_rebuildChain.either hs
  · exact hs

@[simp] theorem State.Canonical.after_abortStop {n : Nat} (hs : s.Canonical) : (abortStop s n).Canonical :=
  hs.either hs.after_stopArray.after_updArr.after_settleStop

/-! #### Clock -/

@[simp] theorem State.Canonical.after_orderStep {r : Nat} (hs : s.Canonical) : (orderStep s r).Canonical :=
  hs.either hs.after_updRegion

@[simp] theorem State.Canonical.after_orderSteps (hs : s.Canonical) : (orderSteps s).Canonical :=
  hs.after_foldl fun _ _ ht => ht.after_orderStep

@[simp] theorem State.Canonical.after_cellReady {r : Nat} (hs : s.Canonical) : (cellReady s r).Canonical :=
  hs.after_updRegion.either hs

@[simp] theorem State.Canonical.after_clockSwitchDone {r : Nat} (hs : s.Canonical) :
    (clockSwitchDone s r).Canonical := by
  unfold clockSwitchDone
  dsimp only
  split
  · exact hs.after_updRegion.after_orderStep.either hs
  · exact hs

/-! #### Route -/

@[simp] theorem State.Canonical.after_leaves {f : TxFlit} (hs : s.Canonical) : (leaves s f).Canonical := by
  unfold leaves
  split
  · exact hs.after_updLink
  · exact hs

@[simp] theorem State.Canonical.after_shipped {f : TxFlit} (hs : s.Canonical) : (shipped s f).Canonical := by
  unfold shipped
  split
  · exact hs.after_emit
  · exact hs.after_emit
  · exact hs.after_emit
  · exact hs

@[simp] theorem State.Canonical.after_takeTag {r : Nat} (hs : s.Canonical) : (takeTag s r).2.Canonical :=
  hs.after_updRegion

@[simp] theorem State.Canonical.after_tunnelOut {l t seq : Nat} {fs : List (List Byte)} (hs : s.Canonical) :
    (tunnelOut s l t seq fs).Canonical :=
  hs.after_draw.after_draw.after_draw.after_emit

@[simp] theorem State.Canonical.after_keepFlits {l t n : Nat} {fs : List (List Byte)} (hs : s.Canonical) :
    (keepFlits s l t n fs).Canonical :=
  hs.after_foldl fun _ _ ht => ht.either ht.after_memWrite

@[simp] theorem State.Canonical.after_tunnelPut {l t : Nat} {fs : List TxFlit} (hs : s.Canonical) :
    (tunnelPut s l t fs).Canonical :=
  hs.after_updLink.after_keepFlits.after_tunnelOut.after_foldl fun _ _ ht => ht.after_leaves.after_shipped

@[simp] theorem State.Canonical.after_tunnelSend {l t : Nat} {fs : List TxFlit} (hs : s.Canonical) :
    (tunnelSend s l t fs).Canonical :=
  hs.after_tunnelPut.either hs.after_updLink

@[simp] theorem State.Canonical.after_deliver {r : Nat} {d : Deliver} (hs : s.Canonical) :
    (deliver s r d).Canonical :=
  hs.after_updRegion

@[simp] theorem State.Canonical.after_opLinkDown {op : Option OpId} (hs : s.Canonical) :
    (opLinkDown s op).Canonical := by
  unfold opLinkDown
  split
  · split
    · exact hs.after_finishOp.either hs.after_addStat
    · exact hs
  · exact hs

@[simp] theorem State.Canonical.after_sendFlits {k p t : Nat} {fs : List TxFlit} (hs : s.Canonical) :
    (sendFlits s k p t fs).Canonical :=
  hs.after_updLink.either hs.after_tunnelSend

theorem State.Canonical.after_forwardNoted {t : State} {r cls : Nat} {op : Option OpId} {x : Option Shipment} {m : Msg}
    (hs : s.Canonical) (h : forwardNoted s r cls op x m = some t) : t.Canonical := by
  unfold forwardNoted at h
  split at h
  · cases h
    exact hs.after_sendFlits
  · cases h

theorem State.Canonical.after_forward {t : State} {r cls : Nat} {op : Option OpId} {m : Msg} (hs : s.Canonical)
    (h : forward s r cls op m = some t) : t.Canonical := hs.after_forwardNoted h

@[simp] theorem State.Canonical.after_sendNoted {r : Nat} {op : Option OpId} {x : Option Shipment} {m : Msg}
    (hs : s.Canonical) : (sendNoted s r op x m).Canonical :=
  (hs.after_deliver.either hs.after_opLinkDown).either (hs.after_opLinkDown.getD fun _ h => hs.after_forwardNoted h)

@[simp] theorem State.Canonical.after_sendMsg {r : Nat} {op : Option OpId} {m : Msg} (hs : s.Canonical) :
    (sendMsg s r op m).Canonical :=
  hs.after_sendNoted

@[simp] theorem State.Canonical.after_sendBridle {r : Nat} {op : Option OpId} {dev region typ : Nat} {body : List Byte}
    (hs : s.Canonical) : (sendBridle s r op dev region typ body).1.Canonical := by
  unfold sendBridle
  refine (hs.after_deliver.either_fst hs).either_fst ?_
  split
  · next h => exact (hs.after_takeTag.after_forward h).after_updRegion
  · exact hs

@[simp] theorem State.Canonical.after_sendOob {dev typ : Nat} {body : List Byte} (hs : s.Canonical) :
    (sendOob s dev typ body).1.Canonical := by
  unfold sendOob
  split
  · exact hs.frame.after_emit
  · exact hs

@[simp] theorem State.Canonical.after_reachBridle {r : Nat} {op : Option OpId} {dev region typ : Nat} {body : List Byte}
    (hs : s.Canonical) : (reachBridle s r op dev region typ body).1.Canonical := by
  have hb : (sendBridle s r op dev region typ body).1.Canonical := hs.after_sendBridle
  unfold reachBridle
  split
  · next h =>
    rw [h] at hb
    exact hb
  · exact hs.after_sendOob

@[simp] theorem State.Canonical.after_answerBridle {r : Nat} {byPort : Bool} {src : Src} {typ : Nat}
    {body : List Byte} (hs : s.Canonical) : (answerBridle s r byPort src typ body).Canonical :=
  hs.after_sendOob.either hs.after_reachBridle

@[simp] theorem State.Canonical.after_bridleAgain {r mtag : Nat} (hs : s.Canonical) :
    (bridleAgain s r mtag).Canonical :=
  hs.either hs.after_updRegion.after_sendOob

@[simp] theorem State.Canonical.after_transit {r cls : Nat} {m : Msg} {fs : List TxFlit} (hs : s.Canonical) :
    (transit s r cls m fs).Canonical := by
  unfold transit
  split
  · exact hs.after_sendFlits
  · exact (hs.after_foldl (fun _ _ ht => ht.after_leaves)).either (hs.after_foldl (fun _ _ ht =>
      ht.after_leaves)).after_reachBridle

/-! #### DmaDesc -/

@[simp] theorem State.Canonical.after_updDma {e : Engine} {f : Dma → Dma} (hs : s.Canonical) :
    (s.updDma e f).Canonical := by
  unfold State.updDma
  split
  · exact hs.after_updCell
  · exact hs.after_updBlock
  · exact hs.after_updBlock
  · exact hs.after_updRegion

/-! #### Scalar -/

@[simp] theorem State.Canonical.after_scAlu {ok : Bool} {g : Ctx → DWord} {cx : Cx} {f : Sc} (hs : s.Canonical) :
    ((scAlu ok g s cx f).after s).Canonical :=
  hs.after_updCtx.go.either_issue hs.fault

@[simp] theorem State.Canonical.after_scBranch {ok : Bool} {p : Ctx → Bool} {cx : Cx} {f : Sc} (hs : s.Canonical) :
    ((scBranch ok p s cx f).after s).Canonical :=
  hs.after_updCtx.go.either_issue hs.fault

@[simp] theorem State.Canonical.after_scLoop {ok : Bool} {cx : Cx} {f : Sc} (hs : s.Canonical) :
    ((scLoop ok s cx f).after s).Canonical :=
  hs.after_updCtx.go.either_issue hs.fault

@[simp] theorem State.Canonical.after_scRead {cx : Cx} {f : Sc} (hs : s.Canonical) :
    ((scRead s cx f).after s).Canonical := by
  unfold scRead
  refine either_issue ?_ hs.fault
  split
  · exact hs.after_updCtx.go
  · exact hs.fault

@[simp] theorem State.Canonical.after_scWrite {cx : Cx} {f : Sc} (hs : s.Canonical) :
    ((scWrite s cx f).after s).Canonical :=
  hs.after_updCtx.go.either_issue hs.fault

@[simp] theorem State.Canonical.after_scLoad {cx : Cx} {f : Sc} (hs : s.Canonical) :
    ((scLoad s cx f).after s).Canonical :=
  hs.fault.either_issue (hs.fault.either_issue hs.after_updCtx.after_vecPairs.after_kPoison.go)

@[simp] theorem State.Canonical.after_scStore {cx : Cx} {f : Sc} (hs : s.Canonical) :
    ((scStore s cx f).after s).Canonical :=
  hs.fault.either_issue (hs.fault.either_issue hs.after_updCtx.after_kWrite.go)

@[simp] theorem State.Canonical.after_scAissue {cx : Cx} {f : Sc} (hs : s.Canonical) :
    ((scAissue s cx f).after s).Canonical := by
  unfold scAissue
  refine hs.fault.either_issue ?_
  split
  · exact hs.wait
  · exact hs.wait.either_issue hs.after_updArr.after_updCtx.go

@[simp] theorem State.Canonical.after_scDissue {cx : Cx} {f : Sc} (hs : s.Canonical) :
    ((scDissue s cx f).after s).Canonical := by
  unfold scDissue
  refine hs.fault.either_issue ?_
  split
  · exact hs.wait
  · exact (hs.wait.either_issue hs.after_updArr.after_updBlock.after_updCtx.go).either_issue (hs.wait.either_issue
      hs.after_updArr.after_updCell.after_updCtx.go)

@[simp] theorem State.Canonical.after_settleKernel {id : OpId} (hs : s.Canonical) : (settleKernel s id).Canonical :=
  hs.either hs.after_finishOp

@[simp] theorem State.Canonical.after_freeCtx {cx : Cx} (hs : s.Canonical) : (freeCtx s cx).Canonical := by
  unfold freeCtx
  dsimp only
  split
  · exact hs.after_updCtx.after_updOp.after_settleKernel
  · exact hs.after_updCtx

@[simp] theorem State.Canonical.after_scWait {st : CtxState} {done : Bool} {cx : Cx} {f : Sc} (hs : s.Canonical) :
    ((scWait st done s cx f).after s).Canonical :=
  hs.fault.either_issue (hs.after_updCtx.go.either_issue hs.after_updCtx.go)

@[simp] theorem State.Canonical.after_scEnd {cx : Cx} {f : Sc} (hs : s.Canonical) :
    ((scEnd s cx f).after s).Canonical :=
  hs.fault.either_issue (hs.after_freeCtx.go.either_issue hs.after_updCtx.go)

@[simp] theorem State.Canonical.after_waitEnd {cx : Cx} (hs : s.Canonical) : (waitEnd s cx).Canonical := by
  unfold waitEnd
  dsimp only
  split
  · exact hs.after_updCtx.either hs
  · exact hs.after_updCtx.either hs
  · split
    · exact (hs.after_foldl (fun _ _ ht => ht.after_updCtx)).either hs
    · exact hs
  · exact hs.after_freeCtx.either hs
  · exact hs

/-! #### Dma -/

@[simp] theorem State.Canonical.after_freeShape {d : TD} {c : TC} (hs : s.Canonical) :
    (freeShape s d c).2.Canonical :=
  hs.either_snd hs.after_draw.after_draw.after_draw

@[simp] theorem State.Canonical.after_xfer3 {sv : State} {d : TD} {raw : List Byte} (hs : s.Canonical) :
    (xfer3 sv s d raw).2.Canonical := by
  unfold xfer3
  dsimp only
  generalize hp : List.foldl _ _ _ = p
  rw [← hp]
  refine hs.after_foldl_snd fun _ _ ht => ?_
  split
  · exact ht
  · exact ht.after_draw

@[simp] theorem State.Canonical.after_xferAdd {sv : State} {d : TD} {raw : List Byte} (hs : s.Canonical) :
    (xferAdd sv s d raw).2.Canonical := by
  unfold xferAdd
  refine List.foldlRecOn (motive := fun p : Xfer × State × State => p.2.1.Canonical) _ _ hs fun p hp _ _ => ?_
  dsimp only
  split
  · exact hp
  · exact hp.after_freeOrder

@[simp] theorem State.Canonical.after_xferOf {sv : State} {d : TD} {raw : List Byte} (hs : s.Canonical) :
    (xferOf sv s d raw).2.Canonical := by
  unfold xferOf
  split
  · exact hs
  · exact hs.after_freeShape
  · exact hs
  · exact hs.after_xferAdd.either_snd hs.after_xfer3

@[simp] theorem State.Canonical.after_freeBytes {k : Nat} (hs : s.Canonical) : (freeBytes k s).2.Canonical := by
  induction k generalizing s with
  | zero => exact hs
  | succ k ih => exact ih hs.after_draw

@[simp] theorem State.Canonical.after_countXfer {e : Engine} {x : Xfer} {bytes far : Nat} (hs : s.Canonical) :
    (countXfer e x bytes far s).Canonical := by
  unfold countXfer
  split
  · exact hs.after_updCell
  · exact hs.after_updBlock
  · exact hs.after_updBlock
  · exact hs.after_updRegion

@[simp] theorem State.Canonical.after_sendWrite {r : Nat} {op : OpId} {marks : List (Nat × Nat)} {a : Nat}
    {bs : List Byte} (hs : s.Canonical) : (sendWrite s r op marks a bs).Canonical :=
  hs.after_takeTag.after_updRegion.after_sendNoted

@[simp] theorem State.Canonical.after_sendRun {r : Nat} {op : OpId} {marks : List (Nat × Nat)} {a : Nat}
    {bs : List Byte} (hs : s.Canonical) : (sendRun s r op marks a bs).Canonical :=
  hs.after_foldl fun _ _ ht => ht.after_sendWrite

@[simp] theorem State.Canonical.after_performXfer {e : Engine} {it : DmaItem} {raw : List Byte} (hs : s.Canonical) :
    (performXfer s e it raw).Canonical :=
  (((((hs.after_xferOf.after_foldl (fun _ _ ht => (ht.after_freeBytes.either_snd ht).after_sendRun.either
    (ht.after_freeBytes.either_snd ht).after_opWrite)).after_foldl (fun _ _ ht => (ht.after_freeBytes.either_snd
    ht).after_sendRun.either (ht.after_freeBytes.either_snd ht).after_opWrite)).after_foldl (fun _ _ ht => ht.either
    ht.after_setBad)).after_chargeEvents.after_chargeEvents.after_chargeEvents.after_chargeEvents.after_chargeEvents.after_countValues.when
    (fun h => h.after_addStat)).unless (fun h => h.after_countBlocks)).after_countXfer

@[simp] theorem State.Canonical.after_sendReads {r : Nat} {op : OpId} {l : List (Nat × Nat)} (hs : s.Canonical) :
    (sendReads s r op l).1.Canonical := by
  induction l generalizing s with
  | nil => exact hs
  | cons p t ih => exact ih hs.after_takeTag.after_sendMsg

@[simp] theorem State.Canonical.after_settleDma {id : OpId} (hs : s.Canonical) : (settleDma s id).Canonical := by
  unfold settleDma
  split
  · exact hs.after_finishOp.either hs
  · exact hs

@[simp] theorem State.Canonical.after_refuseDma {e : Engine} {it : DmaItem} {st : Nat} (hs : s.Canonical) :
    (refuseDma s e it st).Canonical := by
  unfold refuseDma
  dsimp only
  split
  · exact (hs.after_updDma.after_chargeEvents.either hs.after_updDma).after_addStat.either
      (hs.after_updDma.after_chargeEvents.either hs.after_updDma).after_endAtItem
  · exact (hs.after_updDma.after_chargeEvents.either hs.after_updDma).after_addStat.after_updOp.after_settleDma

@[simp] theorem State.Canonical.after_dmaStart {e : Engine} (hs : s.Canonical) : (dmaStart s e).Canonical := by
  unfold dmaStart
  dsimp only
  split
  · exact hs
  · refine hs.either ?_
    split
    · exact hs.either (((hs.after_countReads.after_addStat.either
        hs.after_countReads).after_updDma.after_addStat.either (hs.after_countReads.after_addStat.either
        hs.after_countReads).after_updDma.after_sendReads.after_updDma).either
        (hs.after_countReads.after_addStat.either hs.after_countReads).after_updDma.after_performXfer)
    · exact (hs.after_countReads.either hs).after_refuseDma

@[simp] theorem State.Canonical.after_dmaComplete {e : Engine} (hs : s.Canonical) : (dmaComplete s e).Canonical := by
  unfold dmaComplete
  split
  · exact hs
  · exact hs.either hs.after_updDma.after_settleDma

@[simp] theorem State.Canonical.after_dmaAbort {e : Engine} (hs : s.Canonical) : (dmaAbort s e).Canonical :=
  hs.after_updDma.either hs

@[simp] theorem State.Canonical.after_dmaResponse {r mtag : Nat} {data : List Byte} (hs : s.Canonical) :
    (dmaResponse s r mtag data).Canonical := by
  unfold dmaResponse
  dsimp only
  split
  · exact hs
  · split
    · exact hs
    · exact hs.after_updDma.after_performXfer.either hs.after_updDma

/-! #### Sparse -/

@[simp] theorem State.Canonical.after_updJob {b : Nat} {f : SpsJob → SpsJob} (hs : s.Canonical) :
    (s.updJob b f).Canonical :=
  hs.after_updBlock

@[simp] theorem State.Canonical.after_jobWrite {id : OpId} {a : Nat} {bs : List Byte} (hs : s.Canonical) :
    (jobWrite s id a bs).Canonical :=
  hs.after_opWrite

@[simp] theorem State.Canonical.after_planJob {b : Nat} (hs : s.Canonical) : (planJob s b).Canonical := by
  unfold planJob
  split
  · exact hs
  · exact hs.either (hs.after_updBlock.after_endKernel.either hs.after_jobWrite.after_updBlock.after_settleJob)

@[simp] theorem State.Canonical.after_dispatchUnit {b c : Nat} (hs : s.Canonical) :
    (dispatchUnit s b c).Canonical := by
  unfold dispatchUnit
  split
  · exact hs
  · dsimp only
    split
    · exact hs
    · exact hs.after_updArr.after_updJob.either hs

@[simp] theorem State.Canonical.after_closeTile {b n : Nat} {j : SpsJob} {p : Product} {u : UnitRef}
    (hs : s.Canonical) : (closeTile s b n j p u).Canonical :=
  ((hs.after_countValues.after_chargeEvents.after_chargeEvents.after_addStat.either
    hs.after_countValues.after_chargeEvents.after_chargeEvents).after_updArr.when (fun h => h.after_foldl (fun _ _ ht
    => ht.after_updCell))).after_updJob.after_updBlock

@[simp] theorem State.Canonical.after_writePartial {b n : Nat} {j : SpsJob} {u : UnitRef} (hs : s.Canonical) :
    (writePartial s b n j u).Canonical :=
  hs.after_draw.after_jobWrite.after_updArr.after_updJob.after_updBlock

@[simp] theorem State.Canonical.after_finishUnit {b c : Nat} (hs : s.Canonical) : (finishUnit s b c).Canonical := by
  unfold finishUnit
  dsimp only
  split
  · split
    · exact hs
    · exact hs.either (hs.after_countValues.after_updArr.after_updJob.after_updBlock.either
        ((hs.after_closeTile.either hs).either hs.after_writePartial))
  · exact hs

@[simp] theorem State.Canonical.after_jobPreempted {b : Nat} (hs : s.Canonical) : (jobPreempted s b).Canonical := by
  unfold jobPreempted
  split
  · exact hs
  · exact hs.after_jobWrite.after_updBlock.after_updOp.either hs

/-! #### Rolac -/

@[simp] theorem State.Canonical.after_stopUnits {id : OpId} (hs : s.Canonical) : (stopUnits s id).Canonical :=
  ((hs.after_foldl (fun _ _ ht => ht.after_updCell.after_updArr.either (ht.after_updCell.after_stopArray.either
    ht.after_updCell))).after_foldl (fun _ _ ht => ht.after_updBlock.after_settleStop)).after_foldl (fun _ _ ht =>
    ht.after_updRegion)

@[simp] theorem State.Canonical.after_forgetOp {id : OpId} (hs : s.Canonical) : (forgetOp s id).Canonical :=
  hs.after_foldl fun _ _ ht => ht.after_updArr

@[simp] theorem State.Canonical.after_dropKept {id : OpId} (hs : s.Canonical) : (dropKept s id).Canonical :=
  hs.after_foldl fun _ _ ht => ht.after_updArr

@[simp] theorem State.Canonical.after_markAbort {id : OpId} (hs : s.Canonical) : (markAbort s id).Canonical := by
  unfold markAbort
  split
  · exact hs
  · split
    · exact hs
    · exact hs.after_dropKept.after_dropOp
    · exact hs.after_dropKept.after_stopUnits.after_updOp

@[simp] theorem State.Canonical.after_markPreempt {id : OpId} (hs : s.Canonical) : (markPreempt s id).Canonical := by
  unfold markPreempt
  split
  · exact hs
  · dsimp only
    split
    · exact hs.after_updOp
    · exact hs.after_updOp
    · exact hs.after_updOp
    · exact hs.after_updOp.either hs
    · exact (hs.after_updOp.after_foldl (fun _ _ ht => ht.after_updJob)).either (hs.after_updOp.after_foldl (fun _ _
        ht => ht.after_updCell))
    · exact hs

@[simp] theorem State.Canonical.after_promote {id : OpId} (hs : s.Canonical) : (promote s id).Canonical := by
  unfold promote
  split
  · exact hs
  · exact hs.after_updOp.after_foldl fun _ _ ht => ht.after_updArr

@[simp] theorem State.Canonical.after_promoteBucket {step : DWord} {bucket : Nat} (hs : s.Canonical) :
    (promoteBucket s step bucket).Canonical :=
  hs.either (hs.after_foldl (fun _ _ ht => ht.after_promote))

@[simp] theorem State.Canonical.after_endWindows {e : OpEntry} (hs : s.Canonical) : (endWindows s e).Canonical :=
  (hs.after_foldl (fun _ _ ht => ht.after_markAbort)).either hs

@[simp] theorem State.Canonical.after_holdRelease {id : OpId} (hs : s.Canonical) : (holdRelease s id).Canonical := by
  unfold holdRelease
  split
  · exact hs.after_updOp.either hs
  · exact hs

@[simp] theorem State.Canonical.after_deadlinePromotion {id : OpId} (hs : s.Canonical) :
    (deadlinePromotion s id).Canonical := by
  unfold deadlinePromotion
  split
  · exact hs.after_promote.either hs
  · exact hs

/-! #### Kernel -/

@[simp] theorem State.Canonical.after_kernelLaunch {id : OpId} (hs : s.Canonical) :
    (kernelLaunch s id).Canonical := by
  unfold kernelLaunch
  split
  · refine either ?_ hs
    split
    · exact (hs.either hs.after_updHub).after_updOp
    · exact hs.after_refuseLoad
  · exact hs

@[simp] theorem State.Canonical.after_kernelStart {id : OpId} (hs : s.Canonical) : (kernelStart s id).Canonical := by
  unfold kernelStart
  split
  · exact (hs.after_countReads.after_foldl (fun _ _ ht => ht.after_updCell)).after_updOp.either hs
  · exact hs

@[simp] theorem State.Canonical.after_saveCtx {e : OpEntry} {i n j k : Nat} (hs : s.Canonical) :
    (saveCtx s e i n j k).Canonical :=
  (hs.after_freeBytes.either_snd hs).after_memWrite.after_updCtx.after_updOp.either hs

@[simp] theorem State.Canonical.after_saveCtxs {e : OpEntry} (hs : s.Canonical) : (saveCtxs s e).Canonical :=
  hs.after_updOp.after_foldl (fun _ _ ht => ht.after_foldl (fun _ _ ht => ht.after_saveCtx))

@[simp] theorem State.Canonical.after_imageSaveDone {id : OpId} (hs : s.Canonical) :
    (imageSaveDone s id).Canonical := by
  unfold imageSaveDone
  split
  · exact (hs.after_stopKernel.after_finishOp.either hs.after_saveCtxs.after_updOp).either hs
  · exact hs

@[simp] theorem State.Canonical.after_contextRestoreDone {id : OpId} (hs : s.Canonical) :
    (contextRestoreDone s id).Canonical := by
  unfold contextRestoreDone
  split
  · exact (((hs.after_foldl (fun _ _ ht => ht.after_updCell)).after_foldl (fun _ _ ht =>
      ht.after_countReads.after_updCtx)).after_foldl (fun _ _ ht =>
      ht.after_updArr)).after_updOp.after_settleKernel.either hs
  · exact hs

@[simp] theorem State.Canonical.after_kernelAbortStop {id : OpId} (hs : s.Canonical) :
    (kernelAbortStop s id).Canonical := by
  unfold kernelAbortStop
  split
  · exact hs.after_stopKernel.either hs
  · exact hs

@[simp] theorem State.Canonical.after_blockJob {id : OpId} (hs : s.Canonical) : (blockJob s id).Canonical := by
  unfold blockJob
  split
  · exact hs.either (hs.after_refuseLoad.either ((hs.after_foldl (fun _ _ ht =>
      ht.after_updCell)).after_updBlock.after_updOp.either hs.after_updOp))
  · exact hs

@[simp] theorem State.Canonical.after_chainOp {opc : Nat} {id : OpId} (hs : s.Canonical) :
    (chainOp opc s id).Canonical := by
  unfold chainOp
  split
  · exact hs.either (hs.after_finishOp.either (hs.after_finishOp.either (hs.after_updOp.either
      hs.after_updDma.after_updOp)))
  · exact hs

/-! #### Mailbox -/

@[simp] theorem State.Canonical.after_setSlot {ch : Nat} {x : Slot} (hs : s.Canonical) : (s.setSlot ch x).Canonical :=
  hs.after_updMbx

@[simp] theorem State.Canonical.after_slotAnswer {w : SlotWrite} {code : Nat} (hs : s.Canonical) :
    (slotAnswer s w code).Canonical := by
  unfold slotAnswer
  split
  · exact hs.after_sendMsg
  · exact hs.after_emit

@[simp] theorem State.Canonical.after_slotWrite {w : SlotWrite} (hs : s.Canonical) : (slotWrite s w).Canonical :=
  hs.either (hs.after_slotAnswer.either (hs.after_updMbx.after_slotAnswer.either
    (hs.after_updMbx.after_slotAnswer.either (hs.after_updMbx.after_slotAnswer.either
    hs.after_setSlot.after_slotAnswer))))

@[simp] theorem State.Canonical.after_enqueueOp {e : OpEntry} (hs : s.Canonical) : (enqueueOp s e).Canonical :=
  ((hs.after_endWindows.either hs).frame.either (hs.after_endWindows.either
    hs).frame.after_updHub).after_promoteBucket.either (hs.after_endWindows.either hs).frame

@[simp] theorem State.Canonical.after_accept {core ch : Nat} {notice : List Byte} (hs : s.Canonical) :
    (accept s core ch notice).Canonical :=
  (hs.either hs.after_countReads).after_enqueueOp.either ((hs.either hs.after_countReads).after_chargeEvents.either
    (hs.either hs.after_countReads)).frame

@[simp] theorem State.Canonical.after_emptyNotice {ch tag : Nat} {x : Slot} (hs : s.Canonical) :
    (emptyNotice s ch tag x).Canonical := by
  unfold emptyNotice
  split
  · exact hs.after_sendMsg.either (hs.after_updMbx.getD fun _ h => hs.after_forward h)
  · exact hs.after_updMbx

@[simp] theorem State.Canonical.after_emptySlot {ch : Nat} (hs : s.Canonical) : (emptySlot s ch).Canonical :=
  (hs.after_setSlot.after_updMbx.after_updMbx.either hs.after_setSlot.after_updMbx).unless (fun h =>
    h.after_emptyNotice)

@[simp] theorem State.Canonical.after_slotTake {reader ch : Nat} (hs : s.Canonical) :
    (slotTake s reader ch).Canonical :=
  hs.after_emit.either (hs.after_emit.either (hs.either (hs.after_emptySlot.after_emit.after_accept.either
    hs.after_emptySlot.after_emit)))

@[simp] theorem State.Canonical.after_operationAdmit {r : Nat} (hs : s.Canonical) :
    (operationAdmit s r).Canonical := by
  unfold operationAdmit
  split
  · exact hs.after_updOp
  · exact hs

@[simp] theorem State.Canonical.after_updRing {n : Nat} {f : Ring → Ring} (hs : s.Canonical) :
    (s.updRing n f).Canonical :=
  hs.after_updMbx

@[simp] theorem State.Canonical.after_putRecord {n : Nat} {r : Record} (hs : s.Canonical) :
    (putRecord s n r).Canonical := by
  unfold putRecord
  split
  · exact hs.after_updMbx
  · exact hs.either hs.after_memWrite.after_updRing.after_updMbx

@[simp] theorem State.Canonical.after_targetGone {id : OpId} {st : Nat} (hs : s.Canonical) :
    (targetGone s id st).Canonical :=
  hs.frame

@[simp] theorem State.Canonical.after_flushAnswer {e : OpEntry} (hs : s.Canonical) : (flushAnswer s e).Canonical := by
  unfold flushAnswer
  split
  · exact hs.after_answerBridle.after_dropOp
  · exact hs

@[simp] theorem State.Canonical.after_flushAnswers (hs : s.Canonical) : (flushAnswers s).Canonical :=
  hs.after_foldl fun _ _ ht => ht.after_flushAnswer

@[simp] theorem State.Canonical.after_recordCommit {id : OpId} (hs : s.Canonical) :
    (recordCommit s id).Canonical := by
  unfold recordCommit
  split
  · exact hs.frame.after_putRecord.either hs
  · split
    · split
      · exact (hs.frame.after_putRecord.after_updOp.either
          hs.frame.after_putRecord.after_forgetOp.after_dropOp).after_targetGone.after_flushAnswers.either hs
      · exact hs
    · exact hs

@[simp] theorem State.Canonical.after_ringHeadPoll {n : Nat} (hs : s.Canonical) : (ringHeadPoll s n).Canonical :=
  hs.after_countReads.after_updRing.either hs

@[simp] theorem State.Canonical.after_strobe (hs : s.Canonical) : (strobe s).Canonical := hs.after_updHub

@[simp] theorem State.Canonical.after_sampleStrobe {master : Nat} (hs : s.Canonical) :
    (sampleStrobe s master).Canonical :=
  (hs.either hs.after_strobe).after_emit.either hs.after_emit

@[simp] theorem State.Canonical.after_latchDone (hs : s.Canonical) : (latchDone s).Canonical :=
  (hs.after_updHub.after_foldl (fun _ _ ht => ht.after_updRegion)).either hs

/-! #### Girth -/

@[simp] theorem State.Canonical.after_gthCopy {a : Nat} {b : List Byte} (hs : s.Canonical) :
    (gthCopy a b s).Canonical :=
  hs.after_memWrite.either hs

@[simp] theorem State.Canonical.after_gthOpen {t : Nat} (hs : s.Canonical) : (gthOpen s t).Canonical := by
  have copied {s1 : State} {b : List Byte} {off : Nat} (h1 : s1.Canonical) : ((List.range 20).foldl
      (fun s k => if fencedBlock s k then s else gthCopy (blkAddr k + off) b s) s1).Canonical :=
    h1.after_foldl fun _ _ ht => ht.either ht.after_gthCopy
  unfold gthOpen
  cases s.gth.next with
  | none =>
    dsimp only
    split
    · exact hs
    · exact after_updGth (either (copied hs) (copied hs).after_gthCopy)
  | some x =>
    have h1 := hs.after_updGth (f := fun g =>
      { g with image := some x.1, blkOffset := x.2.1, hbmAddr := x.2.2, next := none })
    dsimp only
    split
    · exact h1
    · exact after_updGth (either (copied h1) (copied h1).after_gthCopy)

/-! #### Special -/

@[simp] theorem State.Canonical.after_putBlkRow {cx : Cx} {o : Opnd} {p r c0 : Nat} {cs : List (Option Nat)}
    (hs : s.Canonical) : (putBlkRow cx o p r s c0 cs).Canonical :=
  hs.after_foldl fun _ _ ht => ht.after_kWriteElems

@[simp] theorem State.Canonical.after_scrambleBlkRow {cx : Cx} {o : Opnd} {p r : Nat} {act : List Bool}
    (hs : s.Canonical) : (scrambleBlkRow cx o p r act s).Canonical :=
  (hs.after_freeCodes.after_putBlkRow.after_foldl (fun _ _ ht => ht.after_draw.after_kWrite.either ht)).either
    hs.after_freeCodes.after_putBlkRow

@[simp] theorem State.Canonical.after_storeBlkRow {cx : Cx} {o : Opnd} {si p r : Nat} {vals : List (Option Res1)}
    (hs : s.Canonical) : (storeBlkRow s cx o si p r vals).1.Canonical := by
  unfold storeBlkRow
  split
  · refine List.foldlRecOn (motive := fun p : State × List (List Nat) => p.1.Canonical) _ _ hs fun p hp _ _ => ?_
    dsimp only
    split
    · exact hp
    · exact hp.after_putBlkRow.after_kWrite
  · exact hs.after_putBlkRow

@[simp] theorem State.Canonical.after_sfCharge {cx : Cx} {f : Vs} {fm : Nat} {rs : List (Option SfRes)}
    {es : List (List Nat)} (hs : s.Canonical) : (sfCharge s cx f fm rs es).Canonical :=
  hs.after_vecPairs.after_countValues

@[simp] theorem State.Canonical.after_sfPutRow {cx : Cx} {t : Stream} {last : Bool} {rs : List (Option SfRes)}
    (hs : s.Canonical) : (sfPutRow s cx t last rs).1.Canonical :=
  (hs.after_vecPairs.after_kPoison.after_storeBlkRow.after_sfCharge.when (fun h => h.after_scrambleBlkRow)).either_fst
    ((hs.after_vecPairs.after_kPoison.after_storeElems.after_sfCharge.when (fun h => h.after_scramble)).either_fst
    (hs.after_vecPairs.after_kPoison.after_storeElems.after_sfCharge.when (fun h => h.after_scramble)))

@[simp] theorem State.Canonical.after_pbPoison {cx : Cx} {b : PBlk} {f : Vs} {r : Nat} (hs : s.Canonical) :
    (pbPoison s cx b f r).Canonical :=
  hs.after_vecPairs.after_kPoison

@[simp] theorem State.Canonical.after_recPoison {cx : Cx} {p : Bool} (hs : s.Canonical) :
    (recPoison s cx p).Canonical :=
  hs.after_vecEvents.after_kStat.either hs

@[simp] theorem State.Canonical.after_sfBump {off n : Nat} {cx : Cx} (hs : s.Canonical) :
    (sfBump off n s cx).Canonical :=
  hs.after_updCell

@[simp] theorem State.Canonical.after_sfNextRow {cx : Cx} {t : Stream} {last : Bool} (hs : s.Canonical) :
    (sfNextRow s cx t last).Canonical :=
  hs.after_updCtx

@[simp] theorem State.Canonical.after_evalChunk {cx : Cx} {t : Stream} (hs : s.Canonical) :
    (evalChunk s cx t).Canonical :=
  (hs.after_vecPairs.after_kPoison.after_storeElems.after_sfCharge.after_sfBump.when (fun h =>
    h.after_scramble)).after_nextChunk

@[simp] theorem State.Canonical.after_refineChunk {cx : Cx} {t : Stream} (hs : s.Canonical) :
    (refineChunk s cx t).Canonical :=
  ((hs.after_vecPairs.after_kPoison.after_kWriteElems.after_kWriteElems.after_countValues.after_sfBump.when (fun h =>
    h.after_scramble)).when (fun h => h.after_scramble)).after_nextChunk

@[simp] theorem State.Canonical.after_rstatRow {cx : Cx} {t : Stream} {b : PBlk} (hs : s.Canonical) :
    (rstatRow s cx t b).Canonical :=
  (hs.after_pbPoison.after_vecPairs.after_kPoison.after_freeCodes.after_kWrite.when (fun h =>
    h.after_sfBump)).after_sfBump.after_sfNextRow

@[simp] theorem State.Canonical.after_rnormRow {cx : Cx} {t : Stream} {b : PBlk} (hs : s.Canonical) :
    (rnormRow s cx t b).Canonical :=
  hs.after_pbPoison.after_recPoison.after_sfPutRow.after_sfNextRow

@[simp] theorem State.Canonical.after_smaxRow {cx : Cx} {t : Stream} {b : PBlk} (hs : s.Canonical) :
    (smaxRow s cx t b).Canonical :=
  hs.after_pbPoison.after_recPoison.after_vecPairs.after_sfPutRow.after_kWrite.after_sfBump.after_sfBump.after_sfNextRow

@[simp] theorem State.Canonical.after_rscaleRow {cx : Cx} {t : Stream} {b : PBlk} (hs : s.Canonical) :
    (rscaleRow s cx t b).Canonical :=
  (hs.after_pbPoison.after_recPoison.after_vecPairs.either
    hs.after_pbPoison.after_recPoison).after_sfPutRow.after_sfNextRow

@[simp] theorem State.Canonical.after_scanRow {cx : Cx} {t : Stream} {b : PBlk} (hs : s.Canonical) :
    (scanRow s cx t b).Canonical :=
  (hs.after_pbPoison.after_recPoison.after_sfPutRow.either
    hs.after_pbPoison.after_recPoison.after_sfPutRow.after_kWrite.after_vecPairs.after_kPoison).after_sfBump.after_sfNextRow

@[simp] theorem State.Canonical.after_chunkWork {cx : Cx} {t : Stream} (hs : s.Canonical) :
    (chunkWork s cx t).Canonical := by
  unfold chunkWork
  dsimp only
  split
  · exact hs.after_evalChunk
  · exact hs.after_evalChunk
  · exact hs.after_refineChunk
  · exact hs.after_rstatRow
  · exact hs.after_rnormRow
  · exact hs.after_smaxRow
  · exact hs.after_rscaleRow
  · exact hs.after_scanRow
  · exact hs.after_reduceChunk.either hs.after_ewChunk

/-! #### Tables -/

@[simp] theorem State.Canonical.after_imageRead {e : OpEntry} {size st : Nat} (hs : s.Canonical) :
    (imageRead s e size st).Canonical :=
  hs.after_countReads.either hs

@[simp] theorem State.Canonical.after_holdLoad {cells : List Nat} {l : TableLoad} (hs : s.Canonical) :
    (holdLoad s cells l).Canonical :=
  hs.after_foldl fun _ _ ht => ht.after_updCell

@[simp] theorem State.Canonical.after_codebookLoad {id : OpId} (hs : s.Canonical) :
    (codebookLoad s id).Canonical := by
  unfold codebookLoad
  split
  · exact hs
  · exact hs.after_imageRead.after_refuseLoad.either hs.after_imageRead.after_holdLoad.after_finishOp

@[simp] theorem State.Canonical.after_fmtLoad {id : OpId} (hs : s.Canonical) : (fmtLoad s id).Canonical := by
  unfold fmtLoad
  split
  · exact hs
  · exact hs.after_imageRead.after_refuseLoad.either hs.after_imageRead.after_holdLoad.after_finishOp

@[simp] theorem State.Canonical.after_curveLoad {id : OpId} (hs : s.Canonical) : (curveLoad s id).Canonical := by
  unfold curveLoad
  split
  · exact hs
  · exact hs.after_imageRead.after_refuseLoad.either hs.after_imageRead.after_holdLoad.after_finishOp.after_updOp

@[simp] theorem State.Canonical.after_rescalePlace {id : OpId} (hs : s.Canonical) :
    (rescalePlace s id).Canonical := by
  unfold rescalePlace
  split
  · exact hs
  · exact hs.after_imageRead.after_refuseLoad.either hs.after_imageRead.after_opWrite.after_finishOp

@[simp] theorem State.Canonical.after_scheduleLoad {id : OpId} (hs : s.Canonical) :
    (scheduleLoad s id).Canonical := by
  unfold scheduleLoad
  split
  · exact hs
  · exact hs.after_imageRead.after_refuseLoad.either hs.after_imageRead.after_updGth.after_finishOp

@[simp] theorem State.Canonical.after_applyFreeze {e : OpEntry} (hs : s.Canonical) : (applyFreeze s e).Canonical :=
  hs.frame.after_finishOp

@[simp] theorem State.Canonical.after_freezeLoad {id : OpId} (hs : s.Canonical) : (freezeLoad s id).Canonical := by
  unfold freezeLoad
  split
  · exact hs
  · exact hs.after_imageRead.after_refuseLoad.either (hs.after_imageRead.after_updOp.either
      hs.after_imageRead.after_applyFreeze)

@[simp] theorem State.Canonical.after_freezeTakeEffect (hs : s.Canonical) : (freezeTakeEffect s).Canonical :=
  hs.after_foldl fun _ _ ht => ht.after_applyFreeze

/-! #### Tick -/

@[simp] theorem State.Canonical.after_tickCell {n : Nat} (hs : s.Canonical) : (tickCell s n).Canonical :=
  hs.either hs.after_updCell

@[simp] theorem State.Canonical.after_tickBlock {b : Nat} (hs : s.Canonical) : (tickBlock s b).Canonical :=
  hs.either hs.after_updBlock

@[simp] theorem State.Canonical.after_tickLink {l : Nat} (hs : s.Canonical) : (tickLink s l).Canonical :=
  hs.after_updLink.either hs

@[simp] theorem State.Canonical.after_tickRegion {r : Nat} (hs : s.Canonical) : (tickRegion s r).Canonical := by
  unfold tickRegion
  exact hs.either ((((hs.after_foldl (fun _ _ ht => ht.after_tickLink)).after_setRegion.after_foldl (fun _ _ ht =>
    ht.after_tickCell)).after_foldl (fun _ _ ht => ht.after_tickBlock)).either (hs.after_foldl (fun _ _ ht =>
    ht.after_tickLink)).after_setRegion)

@[simp] theorem State.Canonical.after_tickCounters (hs : s.Canonical) : (tickCounters s).Canonical :=
  hs.either ((hs.after_updHub.after_foldl (fun _ _ ht => ht.after_tickRegion)).when (fun h => h.frame))

/-! #### Opening -/

@[simp] theorem State.Canonical.after_tlmWrite {r : Nat} (hs : s.Canonical) : (tlmWrite s r).Canonical :=
  (hs.after_memWrite.either hs).after_updTlm.either hs

@[simp] theorem State.Canonical.after_tlmClose {r flags : Nat} (hs : s.Canonical) : (tlmClose s r flags).Canonical :=
  hs.after_tlmWrite.after_updTlm

@[simp] theorem State.Canonical.after_telemetrySet {id : OpId} (hs : s.Canonical) :
    (telemetrySet s id).Canonical := by
  unfold telemetrySet
  split
  · exact hs
  · exact hs.after_finishOp.either (hs.after_finishOp.either (hs.after_finishOp.either (hs.after_foldl (fun _ _ ht =>
      ht.after_updTlm)).after_finishOp))

@[simp] theorem State.Canonical.after_applyResidency {e : OpEntry} (hs : s.Canonical) :
    (applyResidency s e).Canonical :=
  (hs.after_foldl (fun _ _ ht => ht.after_updBlock)).after_finishOp

@[simp] theorem State.Canonical.after_residencySet {id : OpId} (hs : s.Canonical) :
    (residencySet s id).Canonical := by
  unfold residencySet
  split
  · exact hs
  · exact hs.after_finishOp.either (hs.after_updOp.either hs.after_applyResidency)

@[simp] theorem State.Canonical.after_residencyTakeEffect (hs : s.Canonical) : (residencyTakeEffect s).Canonical :=
  hs.after_foldl fun _ _ ht => ht.after_applyResidency

@[simp] theorem State.Canonical.after_openStep {t flags : Nat} {restored : Bool} (hs : s.Canonical) :
    (openStep s t flags restored).Canonical :=
  (hs.after_foldl (fun _ _ ht => ht.after_tlmClose)).after_updHub.after_gthOpen.after_updHub.frame

@[simp] theorem State.Canonical.after_abortStep {t : DWord} (hs : s.Canonical) : (abortStep s t).Canonical :=
  hs.after_foldl fun _ _ ht => ht.after_markAbort

/-! #### Links -/

@[simp] theorem State.Canonical.after_dropWaits {id : OpId} (hs : s.Canonical) : (dropWaits s id).Canonical :=
  hs.after_foldl fun _ _ ht => ht.after_updRegion

@[simp] theorem State.Canonical.after_lostMessages {id : OpId} (hs : s.Canonical) : (lostMessages s id).Canonical :=
  hs.after_opLinkDown.after_dropWaits.frame.after_finishOp.either hs.after_opLinkDown.after_dropWaits

@[simp] theorem State.Canonical.after_reroute {r : Nat} {fs : List TxFlit} (hs : s.Canonical) :
    (reroute s r fs).Canonical := by
  unfold reroute
  refine hs.after_transit.either (hs.either ?_)
  split
  · exact hs.after_sendFlits
  · exact hs.after_bridleAgain.either hs.after_opLinkDown

@[simp] theorem State.Canonical.after_fenceLink {l : Nat} (hs : s.Canonical) : (fenceLink s l).Canonical := by
  unfold fenceLink
  split
  · exact hs
  · refine after_foldl (after_foldl (after_foldl ?_ fun _ _ ht => ht.after_lostMessages) fun _ _ ht => ht.after_leaves)
      fun _ _ ht => ht.after_reroute
    exact (hs.after_updRegion.after_updLink (f := fun _ => _)).frame

@[simp] theorem State.Canonical.after_linkSettle {l : Nat} (hs : s.Canonical) : (linkSettle s l).Canonical := by
  unfold linkSettle
  refine hs.either (hs.after_updLink.either ?_)
  split
  · exact hs
  · exact hs.after_fenceLink.either hs.after_updLink

@[simp] theorem State.Canonical.after_sendControl {l : Nat} (hs : s.Canonical) : (sendControl s l).Canonical :=
  hs.after_updLink.after_emit

@[simp] theorem State.Canonical.after_trainingDone {l : Nat} {ok : Bool} {rtt : Nat} (hs : s.Canonical) :
    (trainingDone s l ok rtt).Canonical :=
  hs.either (hs.after_fenceLink.either (hs.after_updLink.after_sendControl.either hs.after_updLink).after_linkSettle)

@[simp] theorem State.Canonical.after_linkControl {l : Nat} {p : PeerInfo} (hs : s.Canonical) :
    (linkControl s l p).Canonical :=
  hs.after_updLink.after_linkSettle.either hs

@[simp] theorem State.Canonical.after_signalLoss {l : Nat} (hs : s.Canonical) : (signalLoss s l).Canonical :=
  hs.after_fenceLink.either hs

@[simp] theorem State.Canonical.after_heard {l : Nat} (hs : s.Canonical) : (heard s l).Canonical := hs.after_updLink

@[simp] theorem State.Canonical.after_sendFlit {l : Nat} {h : LinkHead} {payload : List Byte} (hs : s.Canonical) :
    (sendFlit s l h payload).Canonical :=
  hs.after_updLink.after_emit

@[simp] theorem State.Canonical.after_flitDiscard {l : Nat} (hs : s.Canonical) : (flitDiscard s l).Canonical :=
  hs.after_updLink.either hs.after_updLink.after_updLink.after_sendFlit

@[simp] theorem State.Canonical.after_messageHome {l : Nat} {m : Msg} (hs : s.Canonical) :
    (messageHome s l m).Canonical :=
  hs.either (hs.after_deliver.either hs)

@[simp] theorem State.Canonical.after_messageIn {l cls : Nat} {src : Option (Nat × Nat)} {parts : List (List Byte)}
    (hs : s.Canonical) : (messageIn s l cls src parts).Canonical :=
  (hs.after_foldl (fun _ _ ht => ht.after_leaves)).after_messageHome.either hs.after_transit

@[simp] theorem State.Canonical.after_payloadIn {l key : Nat} {src : Option (Nat × Nat)} {h : LinkHead}
    {flit : List Byte} (hs : s.Canonical) : (payloadIn s l key src h flit).Canonical :=
  hs.after_updLink.after_messageIn.either hs.after_updLink

@[simp] theorem State.Canonical.after_flitReceive {l : Nat} {flit : List Byte} (hs : s.Canonical) :
    (flitReceive s l flit).Canonical :=
  hs.either (hs.either (hs.after_heard.after_flitDiscard.either (hs.after_heard.after_updLink.either
    hs.after_heard.after_updLink.after_updLink.after_payloadIn)))

@[simp] theorem State.Canonical.after_nullFlitReceive {l : Nat} {flit : List Byte} (hs : s.Canonical) :
    (nullFlitReceive s l flit).Canonical :=
  hs.either (hs.after_heard.after_flitDiscard.either (hs.either hs.after_heard.after_updLink))

@[simp] theorem State.Canonical.after_retryRequest {l : Nat} {flit : List Byte} (hs : s.Canonical) :
    (retryRequest s l flit).Canonical :=
  hs.either (hs.after_heard.after_flitDiscard.either (hs.either (hs.after_heard.after_updLink.after_fenceLink.either
    hs.after_heard.after_updLink)))

@[simp] theorem State.Canonical.after_sendAgain {l : Nat} {x : Nat × TxFlit} {rest : List (Nat × TxFlit)}
    (hs : s.Canonical) : (sendAgain s l x rest).Canonical := by
  unfold sendAgain
  refine hs.after_updLink.either (either (after_fenceLink ?_) ?_)
  · split
    · exact hs.after_updLink.after_emit
    · exact hs.after_updLink.after_sendFlit
  · split
    · exact hs.after_updLink.after_emit
    · exact hs.after_updLink.after_sendFlit

@[simp] theorem State.Canonical.after_sendNull {l : Nat} (hs : s.Canonical) : (sendNull s l).Canonical :=
  hs.after_updLink.after_sendFlit

@[simp] theorem State.Canonical.after_flitTransmit {l : Nat} (hs : s.Canonical) : (flitTransmit s l).Canonical := by
  unfold flitTransmit
  refine hs.either ?_
  dsimp only
  split
  · exact hs.after_updLink.after_sendAgain
  · refine hs.after_updLink.after_sendNull.either ?_
    split
    · exact hs.after_updLink.after_updLink
    · exact hs.after_updLink.after_updLink.after_sendFlit.after_leaves.after_shipped

@[simp] theorem State.Canonical.after_nullTimer {l : Nat} (hs : s.Canonical) : (nullTimer s l).Canonical :=
  hs.after_updLink.after_sendNull.either hs

/-! #### Remote -/

@[simp] theorem State.Canonical.after_takeMsg {r : Nat} {d : Deliver} (hs : s.Canonical) :
    (takeMsg s r d).Canonical :=
  hs.after_updRegion

@[simp] theorem State.Canonical.after_refuseRemote {r : Nat} {m : Msg} (hs : s.Canonical) :
    (refuseRemote s r m).Canonical :=
  hs.after_sendMsg

@[simp] theorem State.Canonical.after_remoteWrite {r : Nat} {m : Msg} (hs : s.Canonical) :
    (remoteWrite s r m).Canonical :=
  hs.either (hs.after_takeMsg.after_slotWrite.either (hs.after_takeMsg.after_refuseRemote.either
    (hs.after_takeMsg.either hs.after_takeMsg.after_memWrite)))

@[simp] theorem State.Canonical.after_readOut {a n : Nat} (hs : s.Canonical) : (readOut s a n).2.Canonical :=
  hs.after_countReads.frame

@[simp] theorem State.Canonical.after_readRequest {r : Nat} {m : Msg} (hs : s.Canonical) :
    (readRequest s r m).Canonical :=
  hs.either (hs.after_takeMsg.after_refuseRemote.either (hs.after_takeMsg.either
    hs.after_takeMsg.after_readOut.after_sendNoted))

@[simp] theorem State.Canonical.after_readResponse {r : Nat} {m : Msg} (hs : s.Canonical) :
    (readResponse s r m).Canonical := by
  unfold readResponse
  refine hs.either ?_
  split
  · exact hs.after_takeMsg.after_addStat.after_dropWaits.either hs.after_takeMsg.after_dmaResponse
  · split
    · exact hs.after_takeMsg.after_addStat.either hs.after_takeMsg
    · exact hs.after_takeMsg

@[simp] theorem State.Canonical.after_addEvents {r a : Nat} (hs : s.Canonical) : (addEvents s r a).Canonical := by
  unfold addEvents
  refine hs.after_chargeEvents.either ?_
  dsimp only
  split
  · exact hs.after_draw
  · exact hs.after_draw.after_chargeEvents
  · exact hs.after_draw.after_chargeEvents

@[simp] theorem State.Canonical.after_addPiece {r a n : Nat} (hs : s.Canonical) : (addPiece s r a n).Canonical :=
  hs.after_addEvents.either hs.after_addEvents.after_freeBytes.after_writeUnit

@[simp] theorem State.Canonical.after_atomicAdd {r : Nat} {m : Msg} (hs : s.Canonical) :
    (atomicAdd s r m).Canonical :=
  hs.either (hs.after_takeMsg.after_refuseRemote.either (hs.after_takeMsg.either (hs.after_takeMsg.after_foldl (fun _
    _ ht => ht.after_addPiece))))

/-! #### Pleacher -/

@[simp] theorem State.Canonical.after_collective {opc : Nat} {id : OpId} (hs : s.Canonical) :
    (collective opc s id).Canonical := by
  unfold collective
  split
  · exact hs
  · split
    · exact hs.after_updOp
    · exact hs.after_refuseLoad

@[simp] theorem State.Canonical.after_sendShipment {r : Nat} {op : Option OpId} {x : Shipment} {l : List Msg}
    (hs : s.Canonical) : (sendShipment s r op x l).Canonical := by
  induction l generalizing s with
  | nil => exact hs
  | cons m t ih =>
    unfold sendShipment
    split
    · next h => exact ih (hs.after_forwardNoted h)
    · exact hs.after_opLinkDown

@[simp] theorem State.Canonical.after_sendContribution {r : Nat} {op : Option OpId} {w : Nat} {c : Contribution}
    (hs : s.Canonical) : (sendContribution s r op w c).Canonical :=
  (hs.after_deliver.either hs.after_opLinkDown).either hs.after_sendShipment

@[simp] theorem State.Canonical.after_sendResult {r : Nat} {op : Option OpId} {w : Nat} {c : CollResult}
    (hs : s.Canonical) : (sendResult s r op w c).Canonical :=
  (hs.after_deliver.either hs.after_opLinkDown).either hs.after_sendShipment

@[simp] theorem State.Canonical.after_metPoison {e : OpEntry} {k : Nat} (hs : s.Canonical) :
    (metPoison s e k).Canonical :=
  hs.either hs.after_chargeEvents.after_addStat

@[simp] theorem State.Canonical.after_readSrc {d : List Byte} {i n : Nat} (hs : s.Canonical) :
    (readSrc s d i n).Canonical :=
  hs.after_countReads

@[simp] theorem State.Canonical.after_movedBytes {e : OpEntry} {i n : Nat} (hs : s.Canonical) :
    (movedBytes s e i n).2.Canonical :=
  hs.after_readSrc.after_metPoison.either_snd hs.after_readSrc.after_metPoison.after_chargeEvents

@[simp] theorem State.Canonical.after_bumpPlc {r off n : Nat} (hs : s.Canonical) : (bumpPlc s r off n).Canonical :=
  hs.after_updRegion

@[simp] theorem State.Canonical.after_updShard {r cid step shard : Nat} {f : Shard → Shard} (hs : s.Canonical) :
    (updShard s r cid step shard f).Canonical :=
  hs.after_updRegion

@[simp] theorem State.Canonical.after_finalise {r : Nat} {now : DWord} {x : Shard} (hs : s.Canonical) :
    (finalise s r now x).Canonical :=
  (hs.after_updShard.after_chargeEvents.after_chargeEvents.after_foldl (fun _ _ ht => ht.after_sendResult)).unless
    (fun h => h.after_foldl (fun _ _ ht => ht.after_reachBridle))

@[simp] theorem State.Canonical.after_finaliseFull {r cid step shard : Nat} (hs : s.Canonical) :
    (finaliseFull s r cid step shard).Canonical := by
  unfold finaliseFull
  split
  · exact hs.after_finalise.either hs
  · exact hs

@[simp] theorem State.Canonical.after_finaliseLate {r : Nat} {x : Shard} (hs : s.Canonical) :
    (finaliseLate s r x).Canonical :=
  hs.after_finalise

@[simp] theorem State.Canonical.after_plcWrite {op : Option OpId} {a : Nat} {bs : List Byte} (hs : s.Canonical) :
    (plcWrite s op a bs).Canonical := by
  unfold plcWrite
  split
  · exact hs.after_opWrite
  · exact hs.after_memWrite

@[simp] theorem State.Canonical.after_lateContribution {r : Nat} {x : Shard} {c : Contribution} (hs : s.Canonical) :
    (lateContribution s r x c).Canonical := by
  unfold lateContribution
  dsimp only
  split
  · split
    · exact hs.after_bumpPlc.after_updRegion.after_bumpPlc.after_chargeEvents.after_freeBytes
    · exact after_plcWrite (after_plcWrite
        hs.after_bumpPlc.after_updRegion.after_bumpPlc.after_chargeEvents.after_freeBytes)
  · exact hs.after_bumpPlc.after_bumpPlc

@[simp] theorem State.Canonical.after_onTime {r : Nat} {at_ : DWord} {x : Shard} {c : Contribution}
    (hs : s.Canonical) : (onTime s r at_ x c).Canonical :=
  hs.after_updShard.after_chargeEvents.after_finaliseFull

@[simp] theorem State.Canonical.after_accountFor {c : Contribution} (hs : s.Canonical) : (accountFor s c).Canonical :=
  hs.after_foldl fun _ _ ht => ht.after_updRegion

@[simp] theorem State.Canonical.after_contribute {r : Nat} {at_ : DWord} {c : Contribution} (hs : s.Canonical) :
    (contribute s r at_ c).Canonical := by
  unfold contribute
  split
  · exact hs.after_bumpPlc.after_bumpPlc.after_accountFor.either hs.after_updRegion
  · exact hs.either (hs.after_lateContribution.after_accountFor.either
      (hs.after_finaliseLate.after_lateContribution.after_accountFor.either hs.after_accountFor.after_onTime))

@[simp] theorem State.Canonical.after_collContribution {r : Nat} {c : Contribution} (hs : s.Canonical) :
    (collContribution s r c).Canonical :=
  hs.after_takeMsg.after_contribute

@[simp] theorem State.Canonical.after_shardDeadline {r cid shard : Nat} (hs : s.Canonical) :
    (shardDeadline s r cid shard).Canonical := by
  unfold shardDeadline
  split
  · exact hs.after_finaliseLate
  · exact hs

@[simp] theorem State.Canonical.after_sendShards {e : OpEntry} {g : List Nat} {rank : Nat} (hs : s.Canonical) :
    (sendShards s e g rank).Canonical :=
  hs.after_foldl fun _ _ ht => ht.after_bumpPlc.either ht.after_readSrc.after_metPoison.after_sendContribution

@[simp] theorem State.Canonical.after_sendMoves {e : OpEntry} {g : List Nat} {rank : Nat} (hs : s.Canonical) :
    (sendMoves s e g rank).Canonical := by
  unfold sendMoves
  dsimp only
  split
  · exact hs.after_movedBytes.after_foldl fun _ _ ht => ht.after_sendResult
  · exact hs.after_foldl fun _ _ ht => ht.after_movedBytes.after_sendResult
  · exact (hs.after_movedBytes.after_foldl (fun _ _ ht => ht.after_sendResult)).either hs

@[simp] theorem State.Canonical.after_openShard {e : OpEntry} {g : List Nat} {rank : Nat} (hs : s.Canonical) :
    (openShard s e g rank).Canonical :=
  hs.either (hs.after_updRegion.after_foldl (fun _ _ ht => ht.after_contribute))

@[simp] theorem State.Canonical.after_collectiveStart {id : OpId} (hs : s.Canonical) :
    (collectiveStart s id).Canonical := by
  unfold collectiveStart
  split
  · exact hs.either (hs.after_countReads.after_updRegion.after_updOp.after_sendShards.after_openShard.either
      hs.after_countReads.after_updRegion.after_updOp.after_sendMoves)
  · exact hs

@[simp] theorem State.Canonical.after_settleColl {r : Nat} {c : Coll} (hs : s.Canonical) :
    (settleColl s r c).Canonical :=
  hs.after_updRegion.after_updOp.after_finishOp.either hs

@[simp] theorem State.Canonical.after_settleColls (hs : s.Canonical) : (settleColls s).Canonical :=
  hs.after_foldl (fun _ _ ht => ht.after_foldl (fun _ _ ht => ht.after_settleColl))

@[simp] theorem State.Canonical.after_collResult {r : Nat} {c : CollResult} (hs : s.Canonical) :
    (collResult s r c).Canonical := by
  unfold collResult
  dsimp only
  split
  · exact hs.either hs.after_deliver
  · exact hs.after_takeMsg.either ((hs.after_takeMsg.either hs.after_takeMsg.after_opWrite.after_countValues).unless
      (fun h => h.after_opWrite)).after_updRegion.after_settleColl

@[simp] theorem State.Canonical.after_pleacherLost {r dev : Nat} (hs : s.Canonical) :
    (pleacherLost s r dev).Canonical :=
  hs.after_foldl fun _ _ ht => ht.after_updRegion.after_finishOp.after_bumpPlc

@[simp] theorem State.Canonical.after_abortColls {t : Nat} (hs : s.Canonical) : (abortColls s t).Canonical :=
  (hs.after_foldl (fun _ _ ht => ht.after_markAbort)).after_foldl fun _ _ ht => ht.after_updRegion

@[simp] theorem State.Canonical.after_commitColls {t : Nat} (hs : s.Canonical) : (commitColls s t).Canonical :=
  hs.after_foldl fun _ _ ht => ht.after_updRegion

@[simp] theorem State.Canonical.after_plcFinal {r : Nat} {b : List Byte} (hs : s.Canonical) :
    (plcFinal s r b).Canonical :=
  hs.either (hs.either hs.after_updRegion)

/-! #### Hedgerow -/

@[simp] theorem State.Canonical.after_updHrw {f : Hrw → Hrw} (hs : s.Canonical) : (s.updHrw f).Canonical := hs.frame

@[simp] theorem State.Canonical.after_writeHeaders {slot flags step seed cursor : Nat} (hs : s.Canonical) :
    (writeHeaders s slot flags step seed cursor).Canonical :=
  hs.after_foldl fun _ _ ht => ht.either ht.after_memWrite

@[simp] theorem State.Canonical.after_treeSend {rank typ : Nat} {body : List Byte} (hs : s.Canonical) :
    (treeSend s rank typ body).Canonical :=
  hs.after_reachBridle

@[simp] theorem State.Canonical.after_shipWrite {r : Nat} {marks : List (Nat × Nat)} {a : Nat} {bs : List Byte}
    (hs : s.Canonical) : (shipWrite s r marks a bs).Canonical :=
  hs.after_sendNoted

@[simp] theorem State.Canonical.after_shipPiece {r a dst : Nat} (hs : s.Canonical) :
    (shipPiece s r a dst).Canonical :=
  hs.after_countReads.after_shipWrite

@[simp] theorem State.Canonical.after_shipRanges {r step : Nat} (hs : s.Canonical) :
    (shipRanges s r step).Canonical :=
  (hs.after_foldl_fst (fun _ _ ht => ht.after_foldl (fun _ _ ht => ht.after_shipPiece))).after_updHrw

@[simp] theorem State.Canonical.after_shipStart {step : Nat} (hs : s.Canonical) : (shipStart s step).Canonical :=
  hs.after_updHrw.after_foldl fun _ _ ht => ht.after_shipWrite.after_shipRanges

@[simp] theorem State.Canonical.after_readSlot {slot r : Nat} (hs : s.Canonical) : (readSlot s slot r).Canonical :=
  hs.after_foldl fun _ _ ht => ht.after_countReads

@[simp] theorem State.Canonical.after_nvmeWrites {area step : Nat} (hs : s.Canonical) :
    (nvmeWrites s area step).Canonical :=
  (hs.after_foldl (fun _ _ ht => ht.after_emit)).after_emit

@[simp] theorem State.Canonical.after_flashStart {step : Nat} (hs : s.Canonical) : (flashStart s step).Canonical := by
  unfold flashStart
  dsimp only
  split
  · exact hs.after_updHrw
  · exact (hs.after_foldl (fun _ _ ht => ht.after_readSlot)).after_updHrw.after_nvmeWrites

@[simp] theorem State.Canonical.after_copyStart {step : Nat} (hs : s.Canonical) : (copyStart s step).Canonical :=
  (hs.after_shipStart.either hs).after_flashStart.either (hs.after_shipStart.either hs)

@[simp] theorem State.Canonical.after_recoveryRecord {step : Nat} {sts : List Nat} (hs : s.Canonical) :
    (recoveryRecord s step sts).Canonical :=
  hs.frame

@[simp] theorem State.Canonical.after_endCommit {st result reason firstNo durable : Nat} (hs : s.Canonical) :
    (endCommit s st result reason firstNo durable).Canonical := by
  unfold endCommit
  split
  · exact hs
  · exact (hs.after_addStat.either hs).after_finishOp.after_updOp.after_updHrw

@[simp] theorem State.Canonical.after_abandonStep {t : Nat} (hs : s.Canonical) : (abandonStep s t).Canonical :=
  hs.after_abortStep.after_abortColls

@[simp] theorem State.Canonical.after_applyCommit {step reason firstNo durable : Nat} (hs : s.Canonical) :
    (applyCommit s step reason firstNo durable).Canonical := by
  unfold applyCommit
  dsimp only
  exact after_copyStart (after_endCommit (after_openStep (after_commitColls (after_updHrw hs.after_writeHeaders))))

@[simp] theorem State.Canonical.after_applyAbandon {step recover reason firstNo durable : Nat} (hs : s.Canonical) :
    (applyAbandon s step recover reason firstNo durable).Canonical :=
  hs.after_abandonStep.after_endCommit.after_updHrw.after_openStep.either
    hs.after_abandonStep.after_endCommit.after_updHrw.after_updHrw

@[simp] theorem State.Canonical.after_applyWithdraw {step : Nat} (hs : s.Canonical) :
    (applyWithdraw s step).Canonical :=
  hs.after_abandonStep.after_endCommit.after_updHrw.after_recoveryRecord

@[simp] theorem State.Canonical.after_applyResult {result recover reason step durable firstNo : Nat}
    (hs : s.Canonical) : (applyResult s result recover reason step durable firstNo).Canonical := by
  unfold applyResult
  split
  · exact hs.after_applyCommit
  · exact hs.after_applyAbandon
  · exact hs.after_updHrw
  · exact hs.after_applyWithdraw

@[simp] theorem State.Canonical.after_passResult {result recover reason step durable firstNo : Nat}
    (hs : s.Canonical) : (passResult s result recover reason step durable firstNo).Canonical :=
  (hs.after_foldl (fun _ _ ht => ht.after_treeSend)).after_applyResult

@[simp] theorem State.Canonical.after_putRound {x : Round} (hs : s.Canonical) : (putRound s x).Canonical :=
  hs.after_updHrw

@[simp] theorem State.Canonical.after_settleRound {step phase : Nat} (hs : s.Canonical) :
    (settleRound s step phase).Canonical := by
  unfold settleRound
  dsimp only
  split
  · exact hs
  · refine hs.either ?_
    split
    · exact hs
    · exact hs.after_putRound.after_passResult.either hs.after_putRound.after_treeSend

@[simp] theorem State.Canonical.after_castVote {step phase : Nat} {yes : Bool} {reason : Nat} (hs : s.Canonical) :
    (castVote s step phase yes reason).Canonical :=
  hs.either hs.after_putRound.after_settleRound

@[simp] theorem State.Canonical.after_abortedVote {id : OpId} (hs : s.Canonical) : (abortedVote s id).Canonical :=
  hs.either (hs.after_updHrw.after_putRound.after_settleRound.either hs.after_castVote)

@[simp] theorem State.Canonical.after_childVote {step phase rank : Nat} {yes : Bool} {reason cov firstNo : Nat}
    (hs : s.Canonical) : (childVote s step phase rank yes reason cov firstNo).Canonical :=
  hs.either hs.after_putRound.after_settleRound

@[simp] theorem State.Canonical.after_commitVote {src : Src} {b : List Byte} (hs : s.Canonical) :
    (commitVote s src b).Canonical := by
  unfold commitVote
  dsimp only
  split
  · exact hs.after_childVote.either hs
  · exact hs

@[simp] theorem State.Canonical.after_commitResult {b : List Byte} (hs : s.Canonical) :
    (commitResult s b).Canonical :=
  hs.after_passResult.either hs

@[simp] theorem State.Canonical.after_voteTimeout {rank : Nat} (hs : s.Canonical) : (voteTimeout s rank).Canonical :=
  ((hs.after_childVote.either hs).either (hs.after_childVote.either hs)).either hs

@[simp] theorem State.Canonical.after_treeLost {dev : Nat} (hs : s.Canonical) : (treeLost s dev).Canonical := by
  unfold treeLost
  split
  · exact hs.after_childVote.either hs
  · exact hs

@[simp] theorem State.Canonical.after_voteAgain (hs : s.Canonical) : (voteAgain s).Canonical := by
  unfold voteAgain
  split
  · split
    · exact hs.after_sendOob
    · exact hs
  · exact hs

@[simp] theorem State.Canonical.after_askRoot (hs : s.Canonical) : (askRoot s).Canonical := by
  unfold askRoot
  split
  · split
    · exact hs.after_sendOob
    · exact hs
  · exact hs

@[simp] theorem State.Canonical.after_resultTimeout {answer : Option (List Byte)} (hs : s.Canonical) :
    (resultTimeout s answer).Canonical := by
  unfold resultTimeout
  refine hs.either ?_
  dsimp only
  split
  · exact hs.after_askRoot.after_commitResult
  · split
    · exact (hs.after_askRoot.after_addStat.either hs.after_askRoot).after_finishOp.after_updHrw
    · exact hs.after_askRoot.after_updHrw

@[simp] theorem State.Canonical.after_lossVote (hs : s.Canonical) : (lossVote s).Canonical :=
  hs.after_castVote.either hs

@[simp] theorem State.Canonical.after_durableVote (hs : s.Canonical) : (durableVote s).Canonical :=
  hs.after_lossVote.either (hs.after_castVote.either hs)

@[simp] theorem State.Canonical.after_mirrorDone {r : Nat} {ok : Bool} (hs : s.Canonical) :
    (mirrorDone s r ok).Canonical :=
  hs.either (hs.after_shipWrite.after_updHrw.after_durableVote.either (hs.after_updHrw.either
    hs.after_updHrw.after_castVote))

@[simp] theorem State.Canonical.after_flashDone {ok : Bool} (hs : s.Canonical) : (flashDone s ok).Canonical := by
  unfold flashDone
  dsimp only
  split
  · exact hs
  · refine either (after_durableVote ?_) (either (after_castVote ?_) ?_)
    all_goals
      split
      · exact (hs.after_updHrw.either hs.after_updHrw).after_flashStart
      · exact hs.after_updHrw.either hs.after_updHrw

@[simp] theorem State.Canonical.after_snapConfig {id : OpId} (hs : s.Canonical) : (snapConfig s id).Canonical := by
  unfold snapConfig
  split
  · exact hs
  · exact hs.after_finishOp.either (hs.after_finishOp.either (hs.after_finishOp.either (hs.after_refuseLoad.either
      (hs.after_foldl (fun _ _ ht => ht.after_countReads)).after_updHrw.after_copyStart.after_finishOp)))

@[simp] theorem State.Canonical.after_snapCommit {id : OpId} (hs : s.Canonical) : (snapCommit s id).Canonical := by
  unfold snapCommit
  split
  · exact hs
  · exact (hs.after_addStat.either hs).after_finishOp.either (hs.after_addStat.either
      hs).after_updOp.after_updHrw.after_castVote

@[simp] theorem State.Canonical.after_snapPair {id : OpId} (hs : s.Canonical) : (snapPair s id).Canonical := by
  unfold snapPair
  split
  · exact hs
  · exact hs.after_finishOp.either hs.after_updOp.after_updHrw.after_emit

@[simp] theorem State.Canonical.after_shipAfterPair (hs : s.Canonical) : (shipAfterPair s).Canonical :=
  (hs.after_shipStart.after_flashStart.either hs.after_shipStart).either hs

@[simp] theorem State.Canonical.after_keepPair {peer : Nat} {apart asked : Bool} (hs : s.Canonical) :
    (pairHandshake.keep s peer apart asked).Canonical :=
  hs.either (hs.after_emit.after_updHrw.either (hs.after_emit.after_updHrw.either hs.after_emit))

@[simp] theorem State.Canonical.after_pairHandshake {peer : Nat} {domain : Option Nat} {asked : Bool}
    (hs : s.Canonical) : (pairHandshake s peer domain asked).Canonical := by
  unfold pairHandshake
  dsimp only
  split
  · exact (hs.after_updHrw.after_updHrw.after_finishOp.after_shipAfterPair.either
      (hs.after_updHrw.after_updHrw.after_finishOp.after_shipAfterPair.either
      hs.after_updHrw.after_finishOp)).either hs.after_keepPair
  · exact hs.after_keepPair

@[simp] theorem State.Canonical.after_restoreEnd {id : OpId} {d seed cursor : Nat} (hs : s.Canonical) :
    (restoreEnd s id d seed cursor).Canonical := by
  unfold restoreEnd
  split
  · exact hs
  · exact hs.after_finishOp.after_updOp.either hs.after_finishOp

@[simp] theorem State.Canonical.after_reopen {id : OpId} {d seed cursor : Nat} {kept : Bool} (hs : s.Canonical) :
    (reopen s id d seed cursor kept).Canonical :=
  ((hs.after_updHrw.either hs.after_updHrw.after_opWrite).after_openStep.after_updMbx.after_castVote.either
    (hs.after_updHrw.either
    hs.after_updHrw.after_opWrite).after_openStep.after_updMbx.after_shipAfterPair).after_restoreEnd

@[simp] theorem State.Canonical.after_writeSlotA {id : OpId} {r : Nat} {data : List Byte} (hs : s.Canonical) :
    (writeSlotA s id r data).Canonical :=
  hs.after_foldl_fst (fun _ _ ht => ht.after_foldl (fun _ _ ht => ht.after_opWrite.after_opWrite.either
    ht.after_opWrite))

@[simp] theorem State.Canonical.after_markRestored {id : OpId} {r : Nat} (hs : s.Canonical) :
    (markRestored s id r).Canonical :=
  hs.after_opWrite

@[simp] theorem State.Canonical.after_restoreOver {id : OpId} (hs : s.Canonical) : (restoreOver s id).Canonical :=
  hs.after_updHrw

@[simp] theorem State.Canonical.after_regionRestored {id : OpId} {r d : Nat} {explicit : Bool} {data : List Byte}
    (hs : s.Canonical) : (regionRestored s id r d explicit data).Canonical :=
  hs.after_restoreOver.after_finishOp.either
    (hs.after_restoreOver.after_writeSlotA.after_markRestored.after_updHrw.after_reopen.either
    hs.after_restoreOver.after_writeSlotA.after_markRestored.after_updHrw.after_restoreEnd)

@[simp] theorem State.Canonical.after_restoreRead {x : Restore} (hs : s.Canonical) : (restoreRead s x).Canonical :=
  hs.after_takeTag.after_restoreOver.after_updHrw.after_sendMsg

@[simp] theorem State.Canonical.after_restoreWhole {x : Restore} {d : Nat} (hs : s.Canonical) :
    (restoreWhole s x d).Canonical :=
  hs.after_regionRestored.either hs.after_restoreOver.after_finishOp

@[simp] theorem State.Canonical.after_restoreResponse {x : Restore} {m : Msg} (hs : s.Canonical) :
    (restoreResponse s x m).Canonical := by
  unfold restoreResponse
  split
  · exact hs.after_restoreOver
  · exact hs.after_restoreOver.either (hs.after_restoreOver.after_finishOp.either (hs.after_restoreWhole.either
      hs.after_restoreRead))

@[simp] theorem State.Canonical.after_restoreLost {id : OpId} (hs : s.Canonical) : (restoreLost s id).Canonical :=
  hs.after_restoreOver.after_finishOp.either hs

@[simp] theorem State.Canonical.after_snapRestore {id : OpId} (hs : s.Canonical) : (snapRestore s id).Canonical := by
  unfold snapRestore
  split
  · exact hs
  · refine hs.after_finishOp.either (hs.after_finishOp.either (((hs.after_finishOp.either
      hs.after_updOp.after_countReads.after_restoreWhole).either (hs.after_finishOp.either
      hs.after_updOp.after_restoreRead)).either (either ?_ ?_)))
    · split
      · exact hs.after_updOp.after_regionRestored
      · exact hs.after_finishOp
    · split
      · exact hs.after_updOp.after_countReads.after_regionRestored
      · exact hs.after_finishOp

@[simp] theorem State.Canonical.after_dropLost {g : List Nat} (hs : s.Canonical) : (dropLost s g).Canonical :=
  (hs.after_updHrw.either hs).after_updHrw.either (hs.after_updHrw.either hs)

@[simp] theorem State.Canonical.after_snapRecover {id : OpId} (hs : s.Canonical) : (snapRecover s id).Canonical := by
  unfold snapRecover
  split
  · exact hs
  · refine hs.after_finishOp.either (hs.after_finishOp.either (hs.after_finishOp.either (hs.after_refuseLoad.either
      (hs.after_finishOp.either ?_))))
    split
    · exact hs.after_finishOp
    · exact hs.after_dropLost.after_updHrw.after_reopen

@[simp] theorem State.Canonical.after_snapRelease {id : OpId} (hs : s.Canonical) : (snapRelease s id).Canonical := by
  unfold snapRelease
  split
  · exact hs
  · exact hs.after_updHrw.after_finishOp

/-! #### Control -/

@[simp] theorem State.Canonical.after_ctrlEnd {id : OpId} {st : Nat} {d0 d1 : DWord} (hs : s.Canonical) :
    (ctrlEnd s id st d0 d1).Canonical :=
  hs.after_updOp

@[simp] theorem State.Canonical.after_ctrlWait {id : OpId} {ts : List OpId} {named : Nat} {marked : Bool} {d1 : DWord}
    (hs : s.Canonical) : (ctrlWait s id ts named marked d1).Canonical :=
  hs.after_updOp

@[simp] theorem State.Canonical.after_abortTarget {id : OpId} (hs : s.Canonical) : (abortTarget s id).Canonical := by
  unfold abortTarget
  split
  · exact hs
  · exact (hs.after_abortedVote.after_markAbort.either hs.after_markAbort).after_updHrw

@[simp] theorem State.Canonical.after_noTarget {e : OpEntry} (hs : s.Canonical) : (noTarget s e).Canonical :=
  hs.after_ctrlEnd

@[simp] theorem State.Canonical.after_abortRun {e : OpEntry} (hs : s.Canonical) : (abortRun s e).Canonical :=
  hs.after_noTarget.either ((hs.after_foldl (fun _ _ ht => ht.after_abortTarget)).after_ctrlEnd.either (hs.after_foldl
    (fun _ _ ht => ht.after_abortTarget)).after_ctrlWait)

@[simp] theorem State.Canonical.after_sendRequest {e : OpEntry} (hs : s.Canonical) : (sendRequest s e).Canonical :=
  hs.after_updHub.after_updOp.after_reachBridle.either hs.after_updHub.after_updOp.after_ctrlEnd.after_updOp

@[simp] theorem State.Canonical.after_ctrlRun {opc : Nat} {act : State → OpEntry → State} {id : OpId}
    (hs : s.Canonical) (hact : ∀ e, (act s e).Canonical) : (ctrlRun opc act s id).Canonical := by
  unfold ctrlRun
  split
  · exact hs
  · exact hs.after_ctrlEnd.either (hs.after_sendRequest.either (hact _))

@[simp] theorem State.Canonical.after_preemptRun {e : OpEntry} (hs : s.Canonical) : (preemptRun s e).Canonical := by
  unfold preemptRun
  dsimp only
  split
  · exact hs.after_noTarget
  · split
    · exact hs.after_ctrlEnd
    · exact hs.after_ctrlWait
    · exact hs.after_ctrlWait
    · exact hs.after_ctrlWait.either (hs.after_ctrlEnd.either hs.after_markPreempt.after_ctrlWait)

@[simp] theorem State.Canonical.after_moveKernel {e : OpEntry} {new : List Nat} (hs : s.Canonical) :
    (moveKernel s e new).Canonical :=
  ((hs.after_foldl (fun _ _ ht => ht.after_memWrite)).after_dropKept.after_foldl (fun _ _ ht =>
    ht.after_updArr)).after_updOp

@[simp] theorem State.Canonical.after_resumeRun {e : OpEntry} (hs : s.Canonical) : (resumeRun s e).Canonical := by
  unfold resumeRun
  dsimp only
  split
  · exact hs.after_ctrlEnd
  · exact hs.after_ctrlEnd.either (hs.after_ctrlEnd.either (hs.either (hs.after_moveKernel.either
      hs).after_updOp).after_updOp.after_updOp)

@[simp] theorem State.Canonical.after_preemptOrAbort {x : OpEntry} (hs : s.Canonical) :
    (preemptOrAbort s x).Canonical :=
  hs.after_markPreempt.either hs.after_abortTarget

@[simp] theorem State.Canonical.after_quiesceRun {e : OpEntry} (hs : s.Canonical) : (quiesceRun s e).Canonical := by
  unfold quiesceRun
  refine after_updOp (after_updMbx ?_)
  split
  · exact hs.after_foldl fun _ _ ht => ht.after_abortTarget
  · exact hs.after_foldl fun _ _ ht => ht.after_preemptOrAbort
  · exact hs

@[simp] theorem State.Canonical.after_unquiesceRun {e : OpEntry} (hs : s.Canonical) : (unquiesceRun s e).Canonical :=
  hs.after_updMbx.after_ctrlEnd

@[simp] theorem State.Canonical.after_echoRun {e : OpEntry} (hs : s.Canonical) : (echoRun s e).Canonical :=
  hs.after_draw.after_ctrlEnd

@[simp] theorem State.Canonical.after_takeBridle {r typ : Nat} {b : List Byte} (hs : s.Canonical) :
    (takeBridle s r typ b).Canonical :=
  hs.after_updRegion

@[simp] theorem State.Canonical.after_answerBounds {r typ : Nat} {byPort : Bool} {src : Src} {b : List Byte}
    (hs : s.Canonical) : (answerBounds s r typ byPort src b).Canonical :=
  hs.after_answerBridle

@[simp] theorem State.Canonical.after_answerIn {typ : Nat} {src : Src} {seq st : Nat} {d0 : DWord}
    (hs : s.Canonical) : (answerIn s typ src seq st d0).Canonical := by
  unfold answerIn
  dsimp only
  split
  · exact hs.after_ctrlEnd.after_updOp
  · exact hs

@[simp] theorem State.Canonical.after_bridleRequest {r typ opc : Nat} {byPort may : Bool} {src : Src} {b : List Byte}
    (hs : s.Canonical) : (bridleRequest s r typ opc byPort may src b).Canonical :=
  hs.after_answerBounds.either (hs.either ((hs.frame.after_ctrlRun (fun _ => hs.frame.after_abortRun)).either
    ((hs.frame.after_ctrlRun (fun _ => hs.frame.after_quiesceRun)).either (hs.frame.after_ctrlRun (fun _ =>
    hs.frame.after_unquiesceRun)))).after_flushAnswers)

@[simp] theorem State.Canonical.after_bridleAbort {r : Nat} {src : Src} {b : List Byte} (hs : s.Canonical) :
    (bridleAbort s r src b).Canonical :=
  hs.either (hs.after_takeBridle.after_answerIn.either hs.after_takeBridle.after_bridleRequest)

@[simp] theorem State.Canonical.after_bridleQuiesce {r : Nat} {src : Src} {b : List Byte} (hs : s.Canonical) :
    (bridleQuiesce s r src b).Canonical :=
  hs.either (hs.after_takeBridle.after_answerIn.either hs.after_takeBridle.after_bridleRequest)

@[simp] theorem State.Canonical.after_bridleEcho {r : Nat} {src : Src} {b : List Byte} (hs : s.Canonical) :
    (bridleEcho s r src b).Canonical :=
  hs.either (hs.after_takeBridle.after_answerBridle.either hs.after_takeBridle.after_answerIn)

@[simp] theorem State.Canonical.after_unanswered {e : OpEntry} {oob : Bool} (hs : s.Canonical) :
    (unanswered s e oob).Canonical := by
  have ho {typ : Nat} {body : List Byte} : (if oob then sendOob s e.targetId typ body else (s, false)).1.Canonical :=
    hs.after_sendOob.either_fst hs
  unfold unanswered
  dsimp only
  split
  · next s1 h =>
    have h1 : s1 = _ := (congrArg Prod.fst h).symm
    rw [h1]
    exact ho
  · exact hs.after_ctrlEnd.after_updOp

@[simp] theorem State.Canonical.after_remoteTimeout {id : OpId} {oob : Bool} (hs : s.Canonical) :
    (remoteTimeout s id oob).Canonical := by
  unfold remoteTimeout
  split
  · split
    · exact hs.after_unanswered.either hs
    · exact hs
  · exact hs

@[simp] theorem State.Canonical.after_deliveryTimeout {id : OpId} {oob : Bool} (hs : s.Canonical) :
    (deliveryTimeout s id oob).Canonical := by
  unfold deliveryTimeout
  split
  · exact hs.after_unanswered.either ((hs.after_voteAgain.either hs).either (hs.after_resultTimeout.either
      hs.after_restoreLost))
  · exact hs

@[simp] theorem State.Canonical.after_watchdog {core : Nat} (hs : s.Canonical) : (watchdog s core).Canonical :=
  hs.after_foldl (fun _ _ ht => (ht.either ht.after_dropKept.after_stopUnits).after_updOp)

/-! #### Bridle -/

@[simp] theorem State.Canonical.after_sendBeat {r l : Nat} (hs : s.Canonical) : (sendBeat r s l).Canonical :=
  hs.after_updLink.either hs

@[simp] theorem State.Canonical.after_heartbeatTimer {r : Nat} (hs : s.Canonical) : (heartbeatTimer s r).Canonical :=
  (hs.after_updRegion.after_foldl (fun _ _ ht => ht.after_sendBeat)).either hs

@[simp] theorem State.Canonical.after_heartbeat {r l : Nat} {b : List Byte} (hs : s.Canonical) :
    (heartbeat s r l b).Canonical :=
  hs.after_takeBridle.after_heard.either hs

@[simp] theorem State.Canonical.after_deviceLost {r dev : Nat} (hs : s.Canonical) : (deviceLost s r dev).Canonical :=
  hs.after_pleacherLost.after_treeLost

@[simp] theorem State.Canonical.after_peerSilence {l : Nat} (hs : s.Canonical) : (peerSilence s l).Canonical :=
  (hs.after_updLink.after_foldl (fun _ _ ht => ht.after_reachBridle)).after_deviceLost.either hs

@[simp] theorem State.Canonical.after_lost {r : Nat} {b : List Byte} (hs : s.Canonical) : (lost s r b).Canonical :=
  hs.after_takeBridle.after_deviceLost.either hs

@[simp] theorem State.Canonical.after_voteIn {src : Src} {b : List Byte} (hs : s.Canonical) :
    (voteIn s src b).Canonical :=
  hs.after_takeBridle.after_commitVote.either hs

@[simp] theorem State.Canonical.after_resultIn {b : List Byte} (hs : s.Canonical) : (resultIn s b).Canonical :=
  hs.after_takeBridle.after_commitResult.either hs

@[simp] theorem State.Canonical.after_finalIn {r : Nat} {b : List Byte} (hs : s.Canonical) :
    (finalIn s r b).Canonical :=
  hs.after_takeBridle.after_plcFinal.either hs

@[simp] theorem State.Canonical.after_writeLost {r mtag : Nat} (hs : s.Canonical) :
    (writeLost s r mtag).Canonical := by
  unfold writeLost
  split
  · exact hs.after_addStat
  · exact hs

@[simp] theorem State.Canonical.after_readLost {r mtag : Nat} (hs : s.Canonical) : (readLost s r mtag).Canonical := by
  unfold readLost
  split
  · exact hs.after_lostMessages
  · split
    · exact hs.after_restoreLost
    · exact hs

@[simp] theorem State.Canonical.after_collLost {r dev : Nat} (hs : s.Canonical) : (collLost s r dev).Canonical :=
  hs.after_foldl fun _ _ ht => ht.after_opLinkDown

@[simp] theorem State.Canonical.after_unreachable {r : Nat} {b : List Byte} (hs : s.Canonical) :
    (unreachable s r b).Canonical := by
  unfold unreachable
  refine hs.either ?_
  dsimp only
  split
  · exact hs.after_takeBridle.after_writeLost
  · exact hs.after_takeBridle.after_readLost
  · exact hs.after_takeBridle.after_collLost
  · exact hs.after_takeBridle.after_collLost
  · exact hs.after_takeBridle.after_bridleAgain
  · exact hs.after_takeBridle

@[simp] theorem State.Canonical.after_bridleBad {l typ : Nat} {b : List Byte} (hs : s.Canonical) :
    (bridleBad s l typ b).Canonical :=
  hs.either (hs.after_foldl (fun _ _ ht => ht.after_takeBridle)).after_updLink

/-! #### Ethernet -/

@[simp] theorem State.Canonical.after_drainTunnel {l t n : Nat} (hs : s.Canonical) : (drainTunnel l t n s).Canonical := by
  induction n generalizing s with
  | zero => exact hs
  | succ n ih =>
    unfold drainTunnel
    dsimp only
    split
    · exact hs
    · exact (ih hs.after_updLink.after_tunnelPut).either hs

@[simp] theorem State.Canonical.after_tunnelAgain {l t : Nat} (hs : s.Canonical) : (tunnelAgain s l t).Canonical :=
  hs.either (hs.after_updLink.after_foldl (fun _ _ ht => ht.after_tunnelOut))

@[simp] theorem State.Canonical.after_tunnelAck {l t : Nat} (hs : s.Canonical) : (tunnelAck s l t).Canonical :=
  hs.either hs.after_tunnelOut

@[simp] theorem State.Canonical.after_tunnelFlits {l t : Nat} {fs : List (List Byte)} (hs : s.Canonical) :
    (tunnelFlits s l t fs).Canonical :=
  hs.after_foldl fun _ _ ht => ht.after_payloadIn.either ht

@[simp] theorem State.Canonical.after_tunnelIn {l t : Nat} {b : List Byte} (hs : s.Canonical) :
    (tunnelIn s l t b).Canonical :=
  (hs.after_updLink.after_drainTunnel.after_tunnelAgain.either hs.after_updLink.after_drainTunnel).either
    (hs.after_updLink.after_drainTunnel.after_updLink.after_tunnelFlits.after_tunnelAck.either
    hs.after_updLink.after_drainTunnel.after_tunnelAck)

@[simp] theorem State.Canonical.after_drainLink {l : Nat} (hs : s.Canonical) : (drainLink s l).Canonical :=
  hs.after_foldl fun _ _ ht => ht.after_drainTunnel

@[simp] theorem State.Canonical.after_endPauses {l : Nat} (hs : s.Canonical) : (endPauses s l).Canonical :=
  hs.after_updLink.after_drainLink.either hs

@[simp] theorem State.Canonical.after_frameReceive {l : Nat} {f : List Byte} (hs : s.Canonical) :
    (frameReceive s l f).Canonical := by
  unfold frameReceive
  refine hs.either (hs.after_updLink.after_drainLink.either ?_)
  split
  · split
    · exact hs.after_tunnelIn.either hs
    · exact hs
  · exact hs.after_updLink.either hs

@[simp] theorem State.Canonical.after_tunnelResend {l t : Nat} (hs : s.Canonical) : (tunnelResend s l t).Canonical :=
  hs.after_tunnelAgain.either hs

@[simp] theorem State.Canonical.after_tunnelFence {l t : Nat} (hs : s.Canonical) : (tunnelFence s l t).Canonical :=
  ((hs.after_updLink.after_foldl (fun _ _ ht => ht.after_leaves)).after_foldl (fun _ _ ht =>
    ht.after_lostMessages)).either hs

/-! #### Faults -/

@[simp] theorem State.Canonical.after_faultOp {d0 : DWord} {last : Nat} {id : OpId} (hs : s.Canonical) :
    (faultOp s d0 last id).Canonical := by
  unfold faultOp
  split
  · exact hs
  · split
    · exact hs
    · exact hs.after_dropKept
    · exact hs.after_dropKept.after_stopUnits.after_updOp

@[simp] theorem State.Canonical.after_faultOps {d0 : DWord} {cells : List Nat} {uses : OpEntry → Bool}
    (hs : s.Canonical) : (faultOps s d0 cells uses).Canonical :=
  hs.after_foldl fun _ _ ht => ht.after_faultOp

@[simp] theorem State.Canonical.after_refuseHeld (hs : s.Canonical) : (refuseHeld s).Canonical :=
  hs.after_foldl fun _ _ ht => ht.after_dropKept.after_finishOp

@[simp] theorem State.Canonical.after_setFence {r bit store : Nat} (hs : s.Canonical) :
    (setFence s r bit store).Canonical :=
  hs.after_updRegion.frame

@[simp] theorem State.Canonical.after_fenceCellNow {n : Nat} (hs : s.Canonical) : (fenceCellNow s n).Canonical :=
  hs.after_faultOps.after_setFence.after_updCell.after_settleStop.after_refuseHeld

@[simp] theorem State.Canonical.after_markBlock {b : Nat} (hs : s.Canonical) : (markBlock s b).Canonical :=
  hs.after_setFence.after_updRegion

@[simp] theorem State.Canonical.after_fenceBlockNow {b : Nat} (hs : s.Canonical) : (fenceBlockNow s b).Canonical :=
  (hs.after_faultOps.after_markBlock.after_updBlock.after_foldl (fun _ _ ht => ht.after_updCell)).after_refuseHeld

@[simp] theorem State.Canonical.after_deviceFault (hs : s.Canonical) : (deviceFault s).Canonical := hs.after_updMbx

@[simp] theorem State.Canonical.after_refuseHome {r : Nat} (hs : s.Canonical) : (refuseHome s r).Canonical :=
  hs.after_foldl fun _ _ ht => ht.after_finishOp

@[simp] theorem State.Canonical.after_clearRegion {r : Nat} (hs : s.Canonical) : (clearRegion s r).Canonical :=
  ((((hs.after_foldl (fun _ _ ht => ht.after_updCell)).after_foldl (fun _ _ ht => ht.after_updBlock)).after_foldl (fun
    _ _ ht => ht.after_updLink)).after_foldl (fun _ _ ht => ht.after_updHbm)).after_updRegion

@[simp] theorem State.Canonical.after_fenceRegionNow {r : Nat} (hs : s.Canonical) : (fenceRegionNow s r).Canonical :=
  hs.either
    (hs.after_faultOps.after_refuseHome.after_setFence.after_clearRegion.after_refuseHeld.after_deviceFault.either
    hs.after_faultOps.after_refuseHome.after_setFence.after_clearRegion.after_refuseHeld.after_lossVote)

@[simp] theorem State.Canonical.after_poisonWord {a : Nat} (hs : s.Canonical) : (poisonWord s a).Canonical := by
  unfold poisonWord
  split
  · exact hs.either hs.after_setBad.after_updCell
  · exact hs.either hs.after_setBad.after_updBlock
  · exact hs

@[simp] theorem State.Canonical.after_hardwareError {x1 : HwError} (hs : s.Canonical) :
    (hardwareError s x1).Canonical := by
  unfold hardwareError
  split
  · exact hs.after_updCell.either hs
  · exact hs.after_updBlock.either hs
  · exact hs.after_updRegion.either hs
  · exact hs.after_poisonWord
  · exact hs.after_updCell.either hs
  · exact hs.after_fenceCellNow.either hs
  · exact hs.after_fenceBlockNow.either hs
  · exact hs.after_fenceLink.either hs
  · exact hs.after_fenceRegionNow.either hs
  · exact hs.after_deviceFault.after_draw.frame

@[simp] theorem State.Canonical.after_readReturn {h a n : Nat} (hs : s.Canonical) : (readReturn s h a n).Canonical :=
  hs.either (((hs.after_updHbm.after_updHbm.either hs.after_updHbm).after_setBad.after_updHbm.either
    (hs.after_updHbm.after_updHbm.either hs.after_updHbm)).when (fun h => h.after_updHbm))

@[simp] theorem State.Canonical.after_fencedWrite {w : HbmWrite} (hs : s.Canonical) :
    (fencedWrite s w).Canonical := by
  unfold fencedWrite
  split
  · exact hs.either (hs.after_endKernel.either hs.after_addStat)
  · exact hs.after_emit.either hs

@[simp] theorem State.Canonical.after_acceptFor {w : HbmWrite} {e : OpEntry} (hs : s.Canonical) :
    (acceptFor s w e).Canonical :=
  hs.either (hs.after_opWrite.either (hs.after_endKernel.either hs.after_addStat))

@[simp] theorem State.Canonical.after_writeAccept {w : HbmWrite} (hs : s.Canonical) :
    (writeAccept s w).Canonical := by
  unfold writeAccept
  refine hs.either (hs.after_fencedWrite.either ?_)
  split
  · exact hs.after_writeUnit
  · split
    · exact hs.after_acceptFor
    · exact hs

/-! #### Power -/

@[simp] theorem State.Canonical.after_updPwr {f : Power → Power} (hs : s.Canonical) : (s.updPwr f).Canonical :=
  hs.frame

@[simp] theorem State.Canonical.after_powerDown {r : Nat} (hs : s.Canonical) : (powerDown s r).Canonical :=
  hs.after_updPwr

@[simp] theorem State.Canonical.after_heatDown {r : Nat} (hs : s.Canonical) : (heatDown s r).Canonical :=
  hs.after_updPwr

@[simp] theorem State.Canonical.after_powerSample {w : Watts} (hs : s.Canonical) : (powerSample s w).Canonical :=
  (hs.after_updPwr.after_updPwr.after_foldl (fun _ _ ht => ht.after_powerDown)).after_updPwr.after_orderSteps.either
    hs.after_updPwr.after_updPwr

@[simp] theorem State.Canonical.after_trip (hs : s.Canonical) : (trip s).Canonical :=
  hs.after_updPwr.after_deviceFault.frame.after_orderSteps

@[simp] theorem State.Canonical.after_temperatureSample {t : Temps} (hs : s.Canonical) :
    (temperatureSample s t).Canonical :=
  (hs.after_updPwr.after_foldl (fun _ _ ht => ht.after_updHbm)).after_trip.either (hs.after_updPwr.after_foldl (fun _
    _ ht => ht.after_updHbm))

@[simp] theorem State.Canonical.after_sustainedRule (hs : s.Canonical) : (sustainedRule s).Canonical := by
  unfold sustainedRule
  refine either ?_ hs
  split
  · exact hs.after_powerDown.after_updPwr
  · exact hs

@[simp] theorem State.Canonical.after_recoveryRule (hs : s.Canonical) : (recoveryRule s).Canonical := by
  unfold recoveryRule
  refine either ?_ hs.after_updPwr
  split
  · exact hs.after_updPwr.after_updPwr
  · exact hs.after_updPwr

@[simp] theorem State.Canonical.after_heatRule {r : Nat} (hs : s.Canonical) : (heatRule s r).Canonical :=
  (hs.after_updPwr.after_heatDown.after_updPwr.either hs.after_updPwr).either hs.after_updPwr

@[simp] theorem State.Canonical.after_arbiterTick (hs : s.Canonical) : (arbiterTick s).Canonical :=
  (hs.after_sustainedRule.after_recoveryRule.after_foldl (fun _ _ ht => ht.after_heatRule)).after_orderSteps

@[simp] theorem State.Canonical.after_brakeAssert (hs : s.Canonical) : (brakeAssert s).Canonical :=
  hs.either hs.after_updPwr.after_orderSteps

@[simp] theorem State.Canonical.after_brakeRelease (hs : s.Canonical) : (brakeRelease s).Canonical :=
  hs.after_updPwr.after_orderSteps

/-! #### Regs -/

@[simp] theorem State.Canonical.after_mbxWrite {o v : Nat} (hs : s.Canonical) : (mbxWrite s o v).Canonical :=
  hs.after_updMbx.either (hs.after_updMbx.either (hs.either (hs.after_updMbx.either (hs.after_updMbx.either hs))))

@[simp] theorem State.Canonical.after_hubWrite {o v : Nat} (hs : s.Canonical) : (hubWrite s o v).Canonical :=
  hs.either (hs.after_updHub.either (hs.after_updHub.either hs))

@[simp] theorem State.Canonical.after_counterCopy {id : OpId} (hs : s.Canonical) : (counterCopy s id).Canonical := by
  unfold counterCopy
  split
  · exact hs
  · exact hs.after_finishOp.either (hs.after_finishOp.either (hs.after_finishOp.either
      hs.after_opWrite.after_finishOp))

@[simp] theorem State.Canonical.after_cycleSample {id : OpId} (hs : s.Canonical) : (cycleSample s id).Canonical := by
  unfold cycleSample
  split
  · exact hs
  · refine hs.either ?_
    split
    · exact hs.after_finishOp.either (hs.after_finishOp.either (hs.after_finishOp.either (hs.after_updOp.either
        hs.after_strobe.after_updOp)))
    · exact hs.after_updOp.either hs.after_strobe.after_updOp
    · exact hs.either (hs.after_finishOp.either hs.after_opWrite.after_finishOp)
    · exact hs

@[simp] theorem State.Canonical.after_peerLoad {id : OpId} (hs : s.Canonical) : (peerLoad s id).Canonical := by
  unfold peerLoad
  split
  · exact hs
  · exact hs.after_finishOp.either (hs.after_finishOp.either (hs.after_finishOp.either (hs.after_refuseLoad.either
      (hs.after_countReads.after_finishOp.either hs.after_countReads.after_updHub.after_finishOp))))

@[simp] theorem State.Canonical.after_routeLoad {id : OpId} (hs : s.Canonical) : (routeLoad s id).Canonical := by
  unfold routeLoad
  split
  · exact hs
  · exact hs.after_finishOp.either (hs.after_finishOp.either (hs.after_finishOp.either (hs.after_refuseLoad.either
      (hs.after_countReads.after_finishOp.either (hs.after_countReads.after_foldl (fun _ _ ht =>
      ht.after_updRegion)).after_finishOp))))

@[simp] theorem State.Canonical.after_ethConfig {id : OpId} (hs : s.Canonical) : (ethConfig s id).Canonical := by
  unfold ethConfig
  split
  · exact hs
  · exact hs.after_finishOp.either (hs.after_finishOp.either (hs.after_finishOp.either (hs.after_refuseLoad.either
      (hs.after_countReads.after_finishOp.either ((hs.after_countReads.after_updLink.after_foldl (fun _ _ ht =>
      ht.after_leaves)).after_foldl (fun _ _ ht => ht.after_lostMessages)).after_finishOp))))

@[simp] theorem State.Canonical.after_setRing {write : State → Nat → List Byte → State}
    {n log2 notify base head : Nat} (hs : s.Canonical) (hw : ∀ t a b, t.Canonical → (write t a b).Canonical) :
    (setRing s write n log2 notify base head).Canonical :=
  State.Canonical.after_updRing (hw _ _ _ (hw _ _ _ hs))

@[simp] theorem State.Canonical.after_ringSetup {id : OpId} (hs : s.Canonical) : (ringSetup s id).Canonical := by
  unfold ringSetup
  split
  · exact hs
  · exact hs.after_finishOp.either (hs.after_finishOp.either (hs.after_finishOp.either (hs.after_setRing (fun _ _ _ ht
      => ht.after_opWrite)).after_finishOp))

@[simp] theorem State.Canonical.after_identityRead {id : OpId} (hs : s.Canonical) :
    (identityRead s id).Canonical := by
  unfold identityRead
  split
  · exact hs
  · exact hs.after_updOp.after_finishOp

@[simp] theorem State.Canonical.after_lockDevice (hs : s.Canonical) : (lockDevice s).Canonical :=
  hs.either (hs.after_updMbx.frame.after_openStep.either hs.after_updMbx.frame)

@[simp] theorem State.Canonical.after_bindingLock {m : Nat} (hs : s.Canonical) : (bindingLock s m).Canonical :=
  hs.after_lockDevice.after_emit.either hs.after_emit

@[simp] theorem State.Canonical.after_regEffect {a v : Nat} (hs : s.Canonical) : (regEffect s a v).Canonical :=
  (hs.after_lockDevice.either hs).either ((hs.after_strobe.either hs).either (hs.after_hubWrite.either
    (hs.after_mbxWrite.either hs)))

@[simp] theorem State.Canonical.after_registerWrite {m a v : Nat} (hs : s.Canonical) :
    (registerWrite s m a v).Canonical :=
  hs.after_emit.either (hs.after_slotWrite.either (hs.after_emit.either hs.after_regEffect.after_emit))

/-! #### Boot -/

@[simp] theorem State.Canonical.after_updCnt {f : Cantle → Cantle} (hs : s.Canonical) : (s.updCnt f).Canonical :=
  hs.frame

@[simp] theorem State.Canonical.after_updStore {f : Store → Store} (hs : s.Canonical) : (s.updStore f).Canonical :=
  hs.frame

@[simp] theorem State.Canonical.after_updPins {f : Pins → Pins} (hs : s.Canonical) : (s.updPins f).Canonical :=
  hs.frame

/-- A reset clears memory and the tables. -/
@[simp] theorem State.Canonical.after_resetState (_ : s.Canonical) : (resetState s).Canonical := rfl

@[simp] theorem State.Canonical.after_beginStart (hs : s.Canonical) : (beginStart s).Canonical :=
  hs.after_resetState.after_updStore.frame

@[simp] theorem State.Canonical.after_holdReset (hs : s.Canonical) : (holdReset s).Canonical :=
  hs.after_resetState.after_updPins

@[simp] theorem State.Canonical.after_powerGoodRise {p : PowerUp} (hs : s.Canonical) :
    (powerGoodRise s p).Canonical :=
  hs.either (hs.after_updPins.after_updHub.after_beginStart.either hs.after_updPins.after_updHub.after_holdReset)

@[simp] theorem State.Canonical.after_powerGoodFall (hs : s.Canonical) : (powerGoodFall s).Canonical :=
  hs.after_updPins.after_resetState

@[simp] theorem State.Canonical.after_railUndervoltage {r v : Nat} (hs : s.Canonical) :
    (railUndervoltage s r v).Canonical :=
  hs.after_holdReset.either hs

@[simp] theorem State.Canonical.after_sysrefLoss (hs : s.Canonical) : (sysrefLoss s).Canonical :=
  hs.after_holdReset.either hs

@[simp] theorem State.Canonical.after_linkrefLoss {r : Nat} (hs : s.Canonical) : (linkrefLoss s r).Canonical :=
  hs.after_foldl fun _ _ ht => ht.after_signalLoss

@[simp] theorem State.Canonical.after_noBank (hs : s.Canonical) : (noBank s).Canonical := by
  unfold noBank
  split
  · exact hs.after_updCnt.after_updPins
  · exact hs.after_updCnt.after_updPins

@[simp] theorem State.Canonical.after_otherBank (hs : s.Canonical) : (otherBank s).Canonical :=
  hs.after_noBank.either hs.after_updCnt

@[simp] theorem State.Canonical.after_takeBootImage (hs : s.Canonical) : (takeBootImage s).Canonical :=
  hs.either (hs.after_updCnt.either hs.after_updCnt)

@[simp] theorem State.Canonical.after_imageVerify {b t : Nat} (hs : s.Canonical) : (imageVerify s b t).Canonical :=
  hs.either (hs.after_takeBootImage.after_updCnt.either (hs.after_updCnt.either hs.after_otherBank))

@[simp] theorem State.Canonical.after_applyFences (hs : s.Canonical) : (applyFences s).Canonical :=
  (((hs.after_foldl (fun _ _ ht => ht.after_updRegion)).after_foldl (fun _ _ ht => ht.after_updLink.either
    ht)).after_foldl (fun _ _ ht => ht.after_updHbm.either ht)).when fun h => h.after_deviceFault

@[simp] theorem State.Canonical.after_applyBootImage {b : List Byte} (hs : s.Canonical) :
    (applyBootImage s b).Canonical :=
  ((hs.either hs.after_updHub).after_updHub.after_foldl (fun _ _ ht => ht.after_updLink)).frame

@[simp] theorem State.Canonical.after_trainLinks (hs : s.Canonical) : (trainLinks s).Canonical :=
  hs.after_foldl fun _ _ ht => ht.either ht.after_updLink

@[simp] theorem State.Canonical.after_settleStage (hs : s.Canonical) : (settleStage s).Canonical :=
  hs.after_updCnt.either hs

@[simp] theorem State.Canonical.after_bootHold (hs : s.Canonical) : (bootHold s).Canonical :=
  hs.after_updCnt.after_updPins.either hs.after_updCnt

@[simp] theorem State.Canonical.after_afterIdentity (hs : s.Canonical) : (afterIdentity s).Canonical :=
  (hs.after_foldl (fun _ _ ht => ht.after_updHbm.either ht)).after_trainLinks.after_updCnt.after_settleStage.either
    (hs.after_foldl (fun _ _ ht => ht.after_updHbm.either ht)).after_bootHold

@[simp] theorem State.Canonical.after_bootFirmwareStart (hs : s.Canonical) : (bootFirmwareStart s).Canonical := by
  unfold bootFirmwareStart
  refine hs.either (either (after_afterIdentity (after_orderSteps ?_)) (after_orderSteps ?_))
  · split
    · exact hs.after_updCnt.after_applyFences.after_applyBootImage
    · exact hs.after_updCnt.after_applyFences
  · split
    · exact hs.after_updCnt.after_applyFences.after_applyBootImage
    · exact hs.after_updCnt.after_applyFences

@[simp] theorem State.Canonical.after_chunkReserve (hs : s.Canonical) : (chunkReserve s).Canonical :=
  hs.either (((hs.after_updCnt.either hs.after_updStore.after_updCnt).after_afterIdentity.either
    (hs.after_updCnt.either hs.after_updStore.after_updCnt)).either (hs.after_updStore.after_updCnt.either hs))

@[simp] theorem State.Canonical.after_useLeaf (hs : s.Canonical) : (useLeaf s).Canonical :=
  hs.after_updCnt.either (hs.after_updCnt.either hs.after_updCnt)

@[simp] theorem State.Canonical.after_stackTraining {h : Nat} {ok : Bool} (hs : s.Canonical) :
    (stackTraining s h ok).Canonical :=
  hs.either (hs.after_updHbm.either hs.after_updHbm.after_fenceRegionNow.after_settleStage)

/-- Clearing bytes and poison marks keeps the rest in order. -/
theorem State.Canonical.clear {p : Nat × Byte → Bool} {q : Nat × Bool → Bool} (hs : s.Canonical) :
    ({ s with mem := s.mem.filter p, poison := s.poison.filter q } : State).Canonical := by
  obtain ⟨hm, hr⟩ := (mapsWf_iff s).1 hs
  obtain ⟨hmem, hpoison⟩ := (memWf_iff s).1 hm
  exact (mapsWf_iff _).2 ⟨(memWf_iff _).2 ⟨fwf_filter hmem, fwf_filter hpoison⟩, hr⟩

@[simp] theorem State.Canonical.after_hbmInit {h : Nat} (hs : s.Canonical) : (hbmInit s h).Canonical :=
  hs.either hs.clear.after_updHbm.after_settleStage

@[simp] theorem State.Canonical.after_bootRegisters {b : List Byte} (hs : s.Canonical) :
    (bootRegisters s b).Canonical :=
  hs.after_updMbx.after_updHub

@[simp] theorem State.Canonical.after_bootRing {b : List Byte} (hs : s.Canonical) : (bootRing s b).Canonical :=
  hs.after_updRing.either (hs.after_setRing (fun _ _ _ ht => ht.after_memWrite))

@[simp] theorem State.Canonical.after_bindingSetup (hs : s.Canonical) : (bindingSetup s).Canonical := by
  unfold bindingSetup
  split
  · exact hs
  · exact hs.either ((hs.either hs.after_bootRegisters).after_bootRing.after_foldl (fun _ _ ht => ht.either
      ht.after_updCell)).after_updCnt

@[simp] theorem State.Canonical.after_stageTimeout (hs : s.Canonical) : (stageTimeout s).Canonical :=
  hs.after_updCnt.after_updPins.either hs

@[simp] theorem State.Canonical.after_boardReport {domain : Option Nat} {serial : Option (List Byte)}
    (hs : s.Canonical) : (boardReport s domain serial).Canonical := by
  unfold boardReport
  refine hs.either ?_
  dsimp only
  split
  · refine after_updCnt ?_
    split
    · exact hs.after_updHub
    · exact hs
  · split
    · exact hs.after_updHub
    · exact hs

/-! #### InvRoot -/

@[simp] theorem State.Canonical.after_cellEvents {cell c n : Nat} (hs : s.Canonical) :
    (cellEvents s cell c n).Canonical :=
  hs.either hs.after_updCell.after_updTlm

@[simp] theorem State.Canonical.after_readPoison {e : OpEntry} {a n : Nat} (hs : s.Canonical) :
    (readPoison s e a n).Canonical :=
  hs.after_countReads.either hs.after_countReads.after_draw.after_cellEvents.after_addStat

@[simp] theorem State.Canonical.after_freeEvents {e : OpEntry} {classes : List Nat} (hs : s.Canonical) :
    (freeEvents s e classes).Canonical :=
  hs.after_draw.after_countValues.after_foldl (fun _ _ ht => ht.after_foldl (fun _ _ ht =>
    ht.after_draw.after_cellEvents))

@[simp] theorem State.Canonical.after_oneBadEvent {e : OpEntry} (hs : s.Canonical) : (oneBadEvent s e).Canonical :=
  hs.after_draw.after_cellEvents

@[simp] theorem State.Canonical.after_irEvents {e : OpEntry} {finite : Bool} {x : IrEnd} (hs : s.Canonical) :
    (irEvents s e finite x).Canonical :=
  hs.after_freeEvents.either (hs.either (hs.after_freeEvents.after_oneBadEvent.either hs.after_freeEvents))

@[simp] theorem State.Canonical.after_irOutput {e : OpEntry} {reason : Nat} (hs : s.Canonical) :
    (irOutput s e reason).Canonical :=
  hs.after_opWrite.frame.either (hs.either hs.after_readPoison.after_opWrite)

@[simp] theorem State.Canonical.after_invRootRun {e : OpEntry} (hs : s.Canonical) : (invRootRun s e).Canonical :=
  hs.frame.after_readPoison.after_irEvents.after_irOutput.after_opWrite.after_finishOp.after_updOp

@[simp] theorem State.Canonical.after_invRootStart {e : OpEntry} (hs : s.Canonical) : (invRootStart s e).Canonical :=
  hs.after_freeBytes.after_opWrite.after_updOp.either hs

@[simp] theorem State.Canonical.after_invRoot {id : OpId} (hs : s.Canonical) : (invRoot s id).Canonical := by
  unfold invRoot
  split
  · refine hs.either ?_
    split
    · exact hs.after_finishOp.either (hs.after_updOp.after_invRootStart.either hs.after_updOp)
    · exact hs.after_invRootStart.either hs
    · exact hs.after_invRootRun.either hs
    · exact hs
  · exact hs

/-! #### Mgt -/

@[simp] theorem State.Canonical.after_updMgt {f : Mgt → Mgt} (hs : s.Canonical) : (s.updMgt f).Canonical := hs.frame

@[simp] theorem State.Canonical.after_mgtReply {d : Datagram} {st : Nat} {body : List Byte} (hs : s.Canonical) :
    (mgtReply s d st body).Canonical :=
  (hs.after_foldl (fun _ _ ht => ht.after_emit)).after_updMgt.either (hs.after_foldl (fun _ _ ht =>
    ht.after_emit)).after_updMgt

@[simp] theorem State.Canonical.after_mgtAccept {d : Datagram} (hs : s.Canonical) : (mgtAccept s d).Canonical :=
  hs.after_updMgt

@[simp] theorem State.Canonical.after_resetAct {d : Datagram} (hs : s.Canonical) : (resetAct s d).Canonical :=
  hs.after_mgtReply.after_beginStart

@[simp] theorem State.Canonical.after_mgtRequest {typ : Nat} {act : State → Datagram → State} {d : Datagram}
    (hs : s.Canonical) (hact : ∀ t, t.Canonical → (act t d).Canonical) : (mgtRequest typ act s d).Canonical := by
  unfold mgtRequest
  refine hs.either ?_
  split
  · exact hs.after_mgtReply
  · exact hact _ hs.after_mgtAccept

@[simp] theorem State.Canonical.after_malformedDatagram {d : Datagram} (hs : s.Canonical) :
    (malformedDatagram s d).Canonical :=
  hs.after_mgtReply.either hs

@[simp] theorem State.Canonical.after_statusAct {d : Datagram} (hs : s.Canonical) : (statusAct s d).Canonical :=
  hs.after_mgtReply

@[simp] theorem State.Canonical.after_telemetryAct {d : Datagram} (hs : s.Canonical) : (telemetryAct s d).Canonical :=
  hs.after_mgtReply

@[simp] theorem State.Canonical.after_certAct {d : Datagram} (hs : s.Canonical) : (certAct s d).Canonical :=
  hs.after_mgtReply

@[simp] theorem State.Canonical.after_attestAct {d : Datagram} (hs : s.Canonical) : (attestAct s d).Canonical :=
  hs.after_mgtReply.either (hs.after_mgtReply.either hs.after_mgtReply.after_useLeaf)

@[simp] theorem State.Canonical.after_fenceClearAct {d : Datagram} (hs : s.Canonical) :
    (fenceClearAct s d).Canonical :=
  hs.after_updStore.after_mgtReply

@[simp] theorem State.Canonical.after_powerCapAct {d : Datagram} (hs : s.Canonical) : (powerCapAct s d).Canonical :=
  hs.after_updPwr.after_mgtReply

@[simp] theorem State.Canonical.after_updateBeginAct {d : Datagram} (hs : s.Canonical) :
    (updateBeginAct s d).Canonical :=
  hs.after_mgtReply.either hs.after_updStore.after_updMgt.after_mgtReply

@[simp] theorem State.Canonical.after_updateDataAct {d : Datagram} (hs : s.Canonical) :
    (updateDataAct s d).Canonical :=
  hs.after_mgtReply.either (hs.after_draw.after_updMgt.after_mgtReply.either
    hs.after_draw.after_updMgt.after_updStore.after_mgtReply)

@[simp] theorem State.Canonical.after_updateCommitAct {d : Datagram} (hs : s.Canonical) :
    (updateCommitAct s d).Canonical :=
  hs.after_mgtReply.either hs.after_updMgt.after_mgtReply

@[simp] theorem State.Canonical.after_updateVerified (hs : s.Canonical) : (updateVerified s).Canonical := by
  unfold updateVerified
  refine hs.either ?_
  dsimp only
  split
  · exact hs.after_updStore.after_updMgt
  · exact hs.after_draw.after_updMgt

@[simp] theorem State.Canonical.after_resumeStart (hs : s.Canonical) : (resumeStart s).Canonical := by
  unfold resumeStart
  refine hs.either ?_
  dsimp only
  split
  · exact (hs.after_takeBootImage.after_applyBootImage.either
      hs.after_takeBootImage).after_trainLinks.after_updCnt.after_settleStage.either
      (hs.after_takeBootImage.after_applyBootImage.either hs.after_takeBootImage)
  · exact hs.after_takeBootImage.after_bootHold.either hs.after_takeBootImage

@[simp] theorem State.Canonical.after_enrollAct {d : Datagram} (hs : s.Canonical) : (enrollAct s d).Canonical :=
  hs.after_mgtReply.either hs.after_updStore.after_mgtReply.after_resumeStart

@[simp] theorem State.Canonical.after_releaseAct {d : Datagram} (hs : s.Canonical) : (releaseAct s d).Canonical :=
  hs.after_updStore.after_mgtReply.either hs.after_mgtReply

@[simp] theorem State.Canonical.after_portDevice {src : Nat} (hs : s.Canonical) : (portDevice s src).2.Canonical := by
  unfold portDevice
  split
  · exact hs
  · exact hs.after_draw

theorem State.Canonical.after_forwardAct {d : Datagram} (hs : s.Canonical) : (forwardAct s d).Canonical :=
  hs.after_portDevice.after_deliver.after_mgtReply

/-! #### Idle -/

@[simp] theorem State.Canonical.after_settle (hs : s.Canonical) : (settle s).Canonical :=
  (hs.after_foldl (fun _ _ ht => ht.after_endPauses)).after_settleColls.after_lossVote

@[simp] theorem State.Canonical.after_tick (hs : s.Canonical) : (tick s).Canonical :=
  hs.after_tickCounters.after_settle.either hs

end

/-! ### Every command, and the tick -/

section
variable {s t : State}

theorem exec_canonical {c : Instr} (hs : s.Canonical) (h : exec c s = .next t) : t.Canonical := by
  cases c with
  | vcvt | viota | vrand =>
    cases h
    exact hs.after_issueAt (hs.after_vrLanes.go.either_issue hs.fault)
  | vext | vins =>
    cases h
    exact hs.after_issueAt (hs.after_updCtx.after_countValues.go.either_issue hs.fault)
  | mpop | mfirst =>
    cases h
    exact hs.after_issueAt (hs.after_updCtx.go.either_issue hs.fault)
  | streamChunkIssue cx =>
    cases h
    split <;> simp [hs]
  | readResponse region m =>
    cases h
    split
    · split <;> simp [hs]
    · exact hs
  | status | telemetry | attest | cert | mgtReset | fenceClear | powerCap | updateBegin | updateData | updateCommit =>
    cases h
    exact hs.after_mgtRequest fun _ ht => by simp [ht]
  | bridleForward d =>
    cases h
    exact hs.after_mgtRequest fun _ ht => ht.after_forwardAct
  | enroll d enable =>
    cases h
    exact hs.after_updPins.after_mgtRequest fun _ ht => ht.after_enrollAct
  | release =>
    cases h
    exact hs.after_mgtRequest fun _ ht => by simp [ht]
  | _ =>
    cases h
    simp [hs]

/-- The step lemma: no step leaves a table out of its canonical form. -/
theorem step_canonical (hs : s.Canonical) (h : step s = .next t) : t.Canonical := by
  unfold step at h
  split at h
  · cases h
    exact hs.after_tick
  · exact exec_canonical hs.frame h

end

/-- Settles O5: every function that yields a state keeps the canonical form of memory and of the tables, so every
command and the tick do. -/
theorem stepKeepsCanonical : Obligations.StepKeepsCanonical := fun _ _ hs h => step_canonical hs h

/-- Settles O4: at reset memory and the tables are empty. -/
theorem resetCanonical : Obligations.ResetCanonical := rfl

end Sys2Proof.Machine
end

section
/-! SUPPORT. The counters of R38 and the fences: what goes on by itself when no command waits, and all that sends a
message, leaves both as they are. Only the tick itself and a fence change them. -/

namespace Sys2Proof.Machine

/-! ### The counters and the fences -/

/-- The hub counter, the counter and RGN_FENCE of every region, and Cantle's record of the fences (R31, R38). -/
def State.standing (s : State) : DWord × (Nat → DWord × DWord) × Fences :=
  (s.hub.cycle, fun r => ((s.region r).cycle, (s.region r).fence), s.store.fences)

theorem hubCycle_of_standing {s t : State} (h : t.standing = s.standing) : t.hub.cycle = s.hub.cycle :=
  congrArg Prod.fst h

theorem cycle_of_standing {s t : State} (h : t.standing = s.standing) (r : Nat) :
    (t.region r).cycle = (s.region r).cycle := congrArg (fun p => (p.2.1 r).1) h

theorem fence_of_standing {s t : State} (h : t.standing = s.standing) (r : Nat) :
    (t.region r).fence = (s.region r).fence := congrArg (fun p => (p.2.1 r).2) h

theorem fences_of_standing {s t : State} (h : t.standing = s.standing) : t.store.fences = s.store.fences :=
  congrArg (fun p => p.2.2) h

/-- The parts of the state that the counters and fences lie in determine them. -/
theorem standing_congr {s t : State} (hh : t.hub.cycle = s.hub.cycle) (hr : t.regions = s.regions)
    (hs : t.store.fences = s.store.fences) : t.standing = s.standing := by
  simp only [State.standing, State.region, hh, hr, hs]

@[simp] theorem standing_ite (c : Prop) [Decidable c] (s t : State) :
    (if c then s else t).standing = if c then s.standing else t.standing := apply_ite ..

section
variable {α β : Type}

@[simp] theorem foldl_standing (l : List α) (f : State → α → State) (h : ∀ s x, (f s x).standing = s.standing)
    (s : State) : (l.foldl f s).standing = s.standing := foldl_keeps State.standing l f h s

@[simp] theorem foldl_fst_standing (l : List α) (f : State × β → α → State × β)
    (h : ∀ p x, (f p x).1.standing = p.1.standing) (p : State × β) : (l.foldl f p).1.standing = p.1.standing :=
  foldl_keeps (fun p => p.1.standing) l f h p

theorem getD_standing {s d : State} {o : Option State} (h : ∀ t, o = some t → t.standing = s.standing)
    (hd : d.standing = s.standing) : (o.getD d).standing = s.standing := by
  cases o with
  | none => exact hd
  | some t => exact h t rfl

end

/-! ### Every function that what goes on by itself uses -/

variable (s : State)

@[simp] theorem State.updRegion_standing (n : Nat) (f : Region → Region)
    (hc : (f (s.region n)).cycle = (s.region n).cycle) (hf : (f (s.region n)).fence = (s.region n).fence) :
    (s.updRegion n f).standing = s.standing := by
  have h (r : Nat) : (((s.updRegion n f).region r).cycle, ((s.updRegion n f).region r).fence)
      = ((s.region r).cycle, (s.region r).fence) := by
    rw [State.region_updRegion]
    split
    · next e => rw [e, hc, hf]
    · rfl
  exact Prod.ext rfl (Prod.ext (funext h) rfl)

@[simp] theorem State.updHub_standing (f : Hub → Hub) (h : (f s.hub).cycle = s.hub.cycle) :
    (s.updHub f).standing = s.standing := standing_congr h rfl rfl

theorem withHrw_standing (h : Hrw) : ({ s with hrw := h } : State).standing = s.standing := standing_congr rfl rfl rfl

@[simp] theorem State.setCell_standing (n : Nat) (c : Cell) : (s.setCell n c).standing = s.standing :=
  standing_congr rfl rfl rfl
@[simp] theorem State.updCell_standing (n : Nat) (f : Cell → Cell) : (s.updCell n f).standing = s.standing :=
  standing_congr rfl rfl rfl
@[simp] theorem State.setBlock_standing (n : Nat) (b : Block) : (s.setBlock n b).standing = s.standing :=
  standing_congr rfl rfl rfl
@[simp] theorem State.updBlock_standing (n : Nat) (f : Block → Block) :
    (s.updBlock n f).standing = s.standing :=
  standing_congr rfl rfl rfl
@[simp] theorem State.updHbm_standing (n : Nat) (f : Hbm → Hbm) : (s.updHbm n f).standing = s.standing :=
  standing_congr rfl rfl rfl
@[simp] theorem State.updGth_standing (f : Girth → Girth) : (s.updGth f).standing = s.standing :=
  standing_congr rfl rfl rfl
@[simp] theorem State.emit_standing (o : Out) : (s.emit o).standing = s.standing :=
  standing_congr rfl rfl rfl
@[simp] theorem State.updArr_standing (n : Nat) (f : Arr → Arr) : (s.updArr n f).standing = s.standing :=
  standing_congr rfl rfl rfl
@[simp] theorem State.draw_standing : (s.draw).2.standing = s.standing :=
  standing_congr rfl rfl rfl
@[simp] theorem setBad_standing (a : Nat) (b : Bool) : (setBad s a b).standing = s.standing :=
  standing_congr rfl rfl rfl
@[simp] theorem writeUnit_standing (a : Nat) (bs : List Byte) : (writeUnit s a bs).standing = s.standing := by
  unfold writeUnit
  dsimp only
  repeat' split
  all_goals exact standing_congr rfl rfl rfl
@[simp] theorem memWrite_standing (a : Nat) (bs : List Byte) : (memWrite s a bs).standing = s.standing := by
  simp [memWrite]
@[simp] theorem countBlocks_standing (l : List Nat) : (countBlocks s l).standing = s.standing := by
  simp [countBlocks]
@[simp] theorem countReads_standing (a n : Nat) : (countReads s a n).standing = s.standing := by simp [countReads]
@[simp] theorem State.updOp_standing (id : OpId) (f : OpEntry → OpEntry) :
    (s.updOp id f).standing = s.standing :=
  standing_congr rfl rfl rfl
@[simp] theorem State.dropOp_standing (id : OpId) : (s.dropOp id).standing = s.standing :=
  standing_congr rfl rfl rfl
@[simp] theorem State.addStat_standing (id : OpId) (st : Nat) : (s.addStat id st).standing = s.standing :=
  standing_congr rfl rfl rfl
@[simp] theorem State.finishOp_standing (id : OpId) (st : Nat) : (s.finishOp id st).standing = s.standing :=
  standing_congr rfl rfl rfl
@[simp] theorem State.updTlm_standing (r : Nat) (f : Tlm → Tlm) : (s.updTlm r f).standing = s.standing := by
  simp [State.updTlm]
@[simp] theorem freeAcc_standing (n : Nat) : (freeAcc s n).standing = s.standing :=
  standing_congr rfl rfl rfl
@[simp] theorem stopArray_standing (gone : OpId → Bool) (n : Nat) :
    (stopArray gone s n).standing = s.standing := by simp [stopArray]
@[simp] theorem settleStop_standing (b : Nat) : (settleStop s b).standing = s.standing := by
  unfold settleStop
  split <;> simp
@[simp] theorem State.updLink_standing (l : Nat) (f : Link → Link) : (s.updLink l f).standing = s.standing :=
  standing_congr rfl rfl rfl
@[simp] theorem leaves_standing (f : TxFlit) : (leaves s f).standing = s.standing := by
  unfold leaves
  split <;> simp
@[simp] theorem shipped_standing (f : TxFlit) : (shipped s f).standing = s.standing := by
  unfold shipped
  split <;> simp
@[simp] theorem takeTag_standing (r : Nat) : (takeTag s r).2.standing = s.standing := by simp [takeTag]
@[simp] theorem tunnelOut_standing (l t seq : Nat) (fs : List (List Byte)) :
    (tunnelOut s l t seq fs).standing = s.standing := by
  simp only [tunnelOut, State.emit_standing, State.draw_standing]
@[simp] theorem keepFlits_standing (l t n : Nat) (fs : List (List Byte)) :
    (keepFlits s l t n fs).standing = s.standing := by simp [keepFlits]
@[simp] theorem tunnelPut_standing (l t : Nat) (fs : List TxFlit) :
    (tunnelPut s l t fs).standing = s.standing := by simp [tunnelPut]
@[simp] theorem tunnelSend_standing (l t : Nat) (fs : List TxFlit) :
    (tunnelSend s l t fs).standing = s.standing := by simp [tunnelSend]
@[simp] theorem deliver_standing (r : Nat) (d : Deliver) : (deliver s r d).standing = s.standing := by
  simp [deliver]
@[simp] theorem opLinkDown_standing (op : Option OpId) : (opLinkDown s op).standing = s.standing := by
  unfold opLinkDown
  split
  · split <;> simp
  · rfl
@[simp] theorem sendFlits_standing (k p t : Nat) (fs : List TxFlit) :
    (sendFlits s k p t fs).standing = s.standing := by simp [sendFlits]
theorem forwardNoted_standing {s t : State} {r cls : Nat} {op : Option OpId} {x : Option Shipment} {m : Msg}
    (h : forwardNoted s r cls op x m = some t) : t.standing = s.standing := by
  unfold forwardNoted at h
  split at h
  · next => cases h; simp
  · simp at h
theorem forward_standing {s t : State} {r cls : Nat} {op : Option OpId} {m : Msg}
    (h : forward s r cls op m = some t) : t.standing = s.standing := forwardNoted_standing h
@[simp] theorem sendNoted_standing (r : Nat) (op : Option OpId) (x : Option Shipment) (m : Msg) :
    (sendNoted s r op x m).standing = s.standing := by
  have hf := fun t h => @forwardNoted_standing s t r 0 op x { m with srcId := s.hub.deviceId, srcRegion := r } h
  simp [sendNoted, getD_standing hf]
@[simp] theorem sendBridle_standing (r : Nat) (op : Option OpId) (dev region typ : Nat)
    (body : List Byte) : (sendBridle s r op dev region typ body).1.standing = s.standing := by
  unfold sendBridle
  dsimp only
  split
  · split <;> simp
  · split
    · next h => simp [forward_standing h]
    · rfl
@[simp] theorem sendOob_standing (dev typ : Nat) (body : List Byte) :
    (sendOob s dev typ body).1.standing = s.standing := by
  unfold sendOob
  split
  · exact standing_congr rfl rfl rfl
  · rfl
@[simp] theorem reachBridle_standing (r : Nat) (op : Option OpId) (dev region typ : Nat)
    (body : List Byte) : (reachBridle s r op dev region typ body).1.standing = s.standing := by
  unfold reachBridle
  split
  · next h => simpa [h] using sendBridle_standing s r op dev region typ body
  · simp
@[simp] theorem bridleAgain_standing (r mtag : Nat) : (bridleAgain s r mtag).standing = s.standing := by
  simp [bridleAgain]
@[simp] theorem transit_standing (r cls : Nat) (m : Msg) (fs : List TxFlit) :
    (transit s r cls m fs).standing = s.standing := by
  unfold transit
  split <;> simp
@[simp] theorem stopUnits_standing (id : OpId) : (stopUnits s id).standing = s.standing := by simp [stopUnits]
@[simp] theorem dropKept_standing (id : OpId) : (dropKept s id).standing = s.standing := by simp [dropKept]
@[simp] theorem markAbort_standing (id : OpId) : (markAbort s id).standing = s.standing := by
  unfold markAbort
  dsimp only
  repeat' split
  all_goals simp
@[simp] theorem gthCopy_standing (a : Nat) (b : List Byte) : (gthCopy a b s).standing = s.standing := by
  simp [gthCopy]
@[simp] theorem gthOpen_standing (t : Nat) : (gthOpen s t).standing = s.standing := by
  unfold gthOpen
  dsimp only
  repeat' split
  all_goals simp
@[simp] theorem tlmWrite_standing (r : Nat) : (tlmWrite s r).standing = s.standing := by simp [tlmWrite]
@[simp] theorem tlmClose_standing (r flags : Nat) : (tlmClose s r flags).standing = s.standing := by
  simp [tlmClose]
@[simp] theorem openStep_standing (t flags : Nat) (restored : Bool) :
    (openStep s t flags restored).standing = s.standing := by
  unfold openStep
  exact (withHrw_standing _ _).trans (by simp)
@[simp] theorem abortStep_standing (t : DWord) : (abortStep s t).standing = s.standing := by simp [abortStep]
@[simp] theorem dropWaits_standing (id : OpId) : (dropWaits s id).standing = s.standing := by simp [dropWaits]
@[simp] theorem lostMessages_standing (id : OpId) : (lostMessages s id).standing = s.standing := by
  unfold lostMessages
  dsimp only
  split
  · exact (State.finishOp_standing _ _ _).trans ((withHrw_standing _ _).trans (by simp))
  · simp
@[simp] theorem reroute_standing (r : Nat) (fs : List TxFlit) : (reroute s r fs).standing = s.standing := by
  unfold reroute
  dsimp only
  repeat' split
  all_goals simp
@[simp] theorem settleColl_standing (r : Nat) (c : Coll) : (settleColl s r c).standing = s.standing := by
  simp [settleColl]
@[simp] theorem settleColls_standing : (settleColls s).standing = s.standing := by simp [settleColls]
@[simp] theorem abortColls_standing (t : Nat) : (abortColls s t).standing = s.standing := by simp [abortColls]
@[simp] theorem commitColls_standing (t : Nat) : (commitColls s t).standing = s.standing := by simp [commitColls]
@[simp] theorem State.updHrw_standing (f : Hrw → Hrw) : (s.updHrw f).standing = s.standing :=
  standing_congr rfl rfl rfl
@[simp] theorem writeHeaders_standing (slot flags step seed cursor : Nat) :
    (writeHeaders s slot flags step seed cursor).standing = s.standing := by simp [writeHeaders]
@[simp] theorem treeSend_standing (rank typ : Nat) (body : List Byte) :
    (treeSend s rank typ body).standing = s.standing := by simp [treeSend]
@[simp] theorem shipWrite_standing (r : Nat) (marks : List (Nat × Nat)) (a : Nat) (bs : List Byte) :
    (shipWrite s r marks a bs).standing = s.standing := by simp [shipWrite]
@[simp] theorem shipPiece_standing (r a dst : Nat) : (shipPiece s r a dst).standing = s.standing := by
  simp [shipPiece]
@[simp] theorem shipRanges_standing (r step : Nat) : (shipRanges s r step).standing = s.standing := by
  unfold shipRanges
  dsimp only
  rw [State.updHrw_standing, foldl_fst_standing]
  intro p e
  simp
@[simp] theorem shipStart_standing (step : Nat) : (shipStart s step).standing = s.standing := by simp [shipStart]
@[simp] theorem readSlot_standing (slot r : Nat) : (readSlot s slot r).standing = s.standing := by simp [readSlot]
@[simp] theorem nvmeWrites_standing (area step : Nat) : (nvmeWrites s area step).standing = s.standing := by
  simp [nvmeWrites]
@[simp] theorem flashStart_standing (step : Nat) : (flashStart s step).standing = s.standing := by
  unfold flashStart
  dsimp only
  split <;> simp
@[simp] theorem copyStart_standing (step : Nat) : (copyStart s step).standing = s.standing := by simp [copyStart]
@[simp] theorem recoveryRecord_standing (step : Nat) (sts : List Nat) :
    (recoveryRecord s step sts).standing = s.standing :=
  standing_congr rfl rfl rfl
@[simp] theorem endCommit_standing (st result reason firstNo durable : Nat) :
    (endCommit s st result reason firstNo durable).standing = s.standing := by
  unfold endCommit
  split <;> simp
@[simp] theorem abandonStep_standing (t : Nat) : (abandonStep s t).standing = s.standing := by simp [abandonStep]
@[simp] theorem applyCommit_standing (step reason firstNo durable : Nat) :
    (applyCommit s step reason firstNo durable).standing = s.standing := by simp [applyCommit]
@[simp] theorem applyAbandon_standing (step recover reason firstNo durable : Nat) :
    (applyAbandon s step recover reason firstNo durable).standing = s.standing := by simp [applyAbandon]
@[simp] theorem applyWithdraw_standing (step : Nat) : (applyWithdraw s step).standing = s.standing := by
  simp [applyWithdraw]
@[simp] theorem applyResult_standing (result recover reason step durable firstNo : Nat) :
    (applyResult s result recover reason step durable firstNo).standing = s.standing := by
  unfold applyResult
  split <;> simp
@[simp] theorem passResult_standing (result recover reason step durable firstNo : Nat) :
    (passResult s result recover reason step durable firstNo).standing = s.standing := by simp [passResult]
@[simp] theorem putRound_standing (x : Round) : (putRound s x).standing = s.standing :=
  standing_congr rfl rfl rfl
@[simp] theorem settleRound_standing (step phase : Nat) : (settleRound s step phase).standing = s.standing := by
  unfold settleRound
  dsimp only
  repeat' split
  all_goals simp
@[simp] theorem castVote_standing (step phase : Nat) (yes : Bool) (reason : Nat) :
    (castVote s step phase yes reason).standing = s.standing := by simp [castVote]
@[simp] theorem lossVote_standing : (lossVote s).standing = s.standing := by simp [lossVote]
@[simp] theorem drainTunnel_standing (l t n : Nat) (s : State) : (drainTunnel l t n s).standing = s.standing := by
  induction n generalizing s with
  | zero => rfl
  | succ n ih =>
    simp only [drainTunnel]
    split
    · rfl
    · split
      · rw [ih]; simp
      · rfl
@[simp] theorem drainLink_standing (l : Nat) : (drainLink s l).standing = s.standing := by simp [drainLink]
@[simp] theorem endPauses_standing (l : Nat) : (endPauses s l).standing = s.standing := by simp [endPauses]
@[simp] theorem settle_standing : (settle s).standing = s.standing := by simp [settle]

/-! ### One fabric cycle (R38, R39, R401) -/

/-- What no counter of a cell, a block, a link or a region lies in, and the pauses of the links. -/
def State.untimed (s : State) : Hub × FMap Byte × List OpEntry × Hrw × (Nat → FMap DWord) :=
  (s.hub, s.mem, s.ops, s.hrw, fun l => (s.link l).paused)

theorem untimed_congr {s t : State} (hh : t.hub = s.hub) (hm : t.mem = s.mem) (ho : t.ops = s.ops) (hr : t.hrw = s.hrw)
    (hl : ∀ l, (t.link l).paused = (s.link l).paused) : t.untimed = s.untimed := by
  simp only [State.untimed, hh, hm, ho, hr, hl]

theorem tickLink_regions (l : Nat) : (tickLink s l).regions = s.regions := by
  unfold tickLink
  dsimp only
  split <;> rfl

theorem tickLink_untimed (l : Nat) : (tickLink s l).untimed = s.untimed := by
  unfold tickLink
  dsimp only
  split
  · refine untimed_congr rfl rfl rfl rfl fun i => ?_
    rw [State.link_updLink]
    split
    · next h => rw [h]; exact foldl_keeps Link.paused _ _ (by intros; rfl) _
    · rfl
  · rfl

theorem tickCell_regions (n : Nat) : (tickCell s n).regions = s.regions := by unfold tickCell; split <;> rfl
theorem tickCell_untimed (n : Nat) : (tickCell s n).untimed = s.untimed := by unfold tickCell; split <;> rfl
theorem tickBlock_regions (b : Nat) : (tickBlock s b).regions = s.regions := by unfold tickBlock; split <;> rfl
theorem tickBlock_untimed (b : Nat) : (tickBlock s b).untimed = s.untimed := by unfold tickBlock; split <;> rfl

/-- The cells and blocks of a region, one cell cycle on. -/
def tickUnits (s : State) (r : Nat) : State :=
  (List.range 5).foldl (fun s i => tickBlock s (5 * r + i)) ((List.range 40).foldl (fun s i => tickCell s (40 * r + i)) s)

theorem tickUnits_regions (r : Nat) : (tickUnits s r).regions = s.regions :=
  (foldl_keeps State.regions _ _ (fun s _ => tickBlock_regions s _) _).trans
    (foldl_keeps State.regions _ _ (fun s _ => tickCell_regions s _) _)

theorem tickUnits_untimed (r : Nat) : (tickUnits s r).untimed = s.untimed :=
  (foldl_keeps State.untimed _ _ (fun s _ => tickBlock_untimed s _) _).trans
    (foldl_keeps State.untimed _ _ (fun s _ => tickCell_untimed s _) _)

/-- The links of a region, one cycle on. -/
def tickLinks (s : State) (r : Nat) : State := (List.range 6).foldl (fun s i => tickLink s (6 * r + i)) s

theorem tickLinks_regions (r : Nat) : (tickLinks s r).regions = s.regions :=
  foldl_keeps State.regions _ _ (fun s _ => tickLink_regions s _) _

theorem tickLinks_untimed (r : Nat) : (tickLinks s r).untimed = s.untimed :=
  foldl_keeps State.untimed _ _ (fun s _ => tickLink_untimed s _) _

/-- A region's clock phase in a fabric cycle, before it wraps: none in a switch. -/
def nextPhase (g : Region) : Nat := g.clkPhase + if g.clkSwitching then 0 else clkRate g.clkStep

/-- The registers of a released region after a fabric cycle. -/
def cycled (g : Region) : Region := { g with cycle := g.cycle + 1, clkPhase := nextPhase g % 1600 }

/-- A fabric cycle of a region: nothing before boot firmware releases it; then its links, its own registers and, when
its clock passes a cycle, its cells and blocks. -/
theorem tickRegion_eq (r : Nat) :
    tickRegion s r =
      let g := (tickLinks s r).region r
      let t := (tickLinks s r).updRegion r cycled
      if !g.released then s else if 1600 ≤ nextPhase g then tickUnits t r else t := rfl

theorem updRegion_untimed (n : Nat) (f : Region → Region) : (s.updRegion n f).untimed = s.untimed := rfl

theorem tickRegion_untimed (r : Nat) : (tickRegion s r).untimed = s.untimed := by
  rw [tickRegion_eq]
  dsimp only
  split
  · rfl
  · split <;> simp only [tickUnits_untimed, updRegion_untimed, tickLinks_untimed]

theorem tickRegion_region (r i : Nat) :
    (tickRegion s r).region i = if i = r ∧ (s.region i).released then cycled (s.region i) else s.region i := by
  have hl (i : Nat) : (tickLinks s r).region i = s.region i := by simp only [State.region, tickLinks_regions]
  have hu (t : State) : (tickUnits t r).region i = t.region i := by simp only [State.region, tickUnits_regions]
  rw [tickRegion_eq]
  dsimp only
  by_cases e : i = r
  · subst e
    cases h : (s.region i).released with
    | false => simp [hl, h]
    | true =>
      simp only [hl, h, Bool.not_true, Bool.false_eq_true, if_false]
      split <;> simp [hu, hl]
  · simp only [e, false_and, if_false]
    split
    · rfl
    · split <;> simp [hu, hl, e]

/-- A fold of region cycles touches each region that it lists once. -/
theorem foldl_tickRegion_region (l : List Nat) (hl : l.Nodup) (i : Nat) :
    (l.foldl tickRegion s).region i = if i ∈ l ∧ (s.region i).released then cycled (s.region i) else s.region i := by
  induction l generalizing s with
  | nil => simp
  | cons r t ih =>
    obtain ⟨hr, ht⟩ := List.nodup_cons.mp hl
    rw [List.foldl_cons, ih _ ht, tickRegion_region]
    by_cases e : i = r
    · simp [e, hr]
    · simp [e]

/-- The hub's cycle and those of the four regions. -/
def tickRegions (s : State) : State := (List.range 4).foldl tickRegion (s.updHub fun h => { h with cycle := h.cycle + 1 })

theorem tickRegions_untimed : (tickRegions s).untimed = (s.updHub fun h => { h with cycle := h.cycle + 1 }).untimed :=
  foldl_keeps State.untimed _ _ tickRegion_untimed _

/-- A tick is that, and the count of the hold of R360. -/
theorem tickCounters_eq :
    tickCounters s =
      if !s.hub.running then s
      else if holdsUpdate s then (tickRegions s).updHrw fun h => { h with holdCycles := h.holdCycles + 1 }
      else tickRegions s := by
  unfold tickCounters tickRegions State.updHrw
  rfl

/-- The hub's counter advances by one, and memory, the operations, whether Hedgerow is configured, and the links' pauses
stand still. -/
theorem tickCounters_keeps (h : s.hub.running = true) :
    (tickCounters s).hub = { s.hub with cycle := s.hub.cycle + 1 } ∧ (tickCounters s).mem = s.mem
      ∧ (tickCounters s).ops = s.ops ∧ (tickCounters s).hrw.configured = s.hrw.configured
      ∧ ∀ l, ((tickCounters s).link l).paused = (s.link l).paused := by
  have hk := tickRegions_untimed s
  simp only [State.untimed, Prod.mk.injEq] at hk
  obtain ⟨hh, hm, ho, hr, hp⟩ := hk
  have hr' := congrArg Hrw.configured hr
  rw [tickCounters_eq, h]
  simp only [Bool.not_true, Bool.false_eq_true, if_false]
  split
  · simp only [State.link, State.updHrw_links, State.updHrw_hrw, State.updHrw_hub, State.updHrw_mem, State.updHrw_ops]
    exact ⟨hh, hm, ho, hr', congrFun hp⟩
  · exact ⟨hh, hm, ho, hr', congrFun hp⟩

theorem tickRegions_region {r : Nat} (hr : r < 4) :
    (tickRegions s).region r = if (s.region r).released then cycled (s.region r) else s.region r := by
  have hp := foldl_tickRegion_region (s.updHub fun h => { h with cycle := h.cycle + 1 }) (List.range 4) List.nodup_range r
  simp only [List.mem_range, hr, true_and] at hp
  rw [tickRegions, hp]
  rfl

/-- The counter of every released region advances by one. -/
theorem tickCounters_region (h : s.hub.running = true) {r : Nat} (hr : r < 4) :
    (tickCounters s).region r = if (s.region r).released then cycled (s.region r) else s.region r := by
  rw [← tickRegions_region s hr, tickCounters_eq, h]
  simp only [Bool.not_true, Bool.false_eq_true, if_false]
  split
  · simp only [State.region, State.updHrw_regions]
  · rfl

/-! ### What goes on by itself, when nothing waits for the time -/

theorem foldl_idle {α β : Type} (l : List α) (f : β → α → β) (b : β) (h : ∀ x ∈ l, f b x = b) : l.foldl f b = b := by
  induction l with
  | nil => rfl
  | cons a t ih => rw [List.foldl_cons, h a (by simp), ih fun x hx => h x (by simp [hx])]

theorem endPauses_idle {l : Nat} (h : (s.link l).paused = []) : endPauses s l = s := by simp [endPauses, h]

theorem settleColls_idle (h : ∀ r, r < 4 → (s.region r).colls = []) : settleColls s = s :=
  foldl_idle _ _ s fun r hr => by simp [h r (List.mem_range.mp hr)]

theorem lossVote_idle (h : s.hrw.configured = false) : lossVote s = s := by simp [lossVote, h]

theorem settle_idle (hc : ∀ r, r < 4 → (s.region r).colls = []) (hp : ∀ l, l < 24 → (s.link l).paused = [])
    (hh : s.hrw.configured = false) : settle s = s := by
  rw [settle, foldl_idle _ _ s fun l hl => endPauses_idle s (hp l (List.mem_range.mp hl)), settleColls_idle s hc,
    lossVote_idle s hh]

/-! ### O2 -/

/-- Settles O2: the tick advances the counters, and what goes on by itself after it changes none of them. -/
theorem idleStepCounts : Obligations.IdleStepCounts := by
  intro s hq hrun
  have ht : tick s = settle (tickCounters s) := by simp [tick, hrun]
  have hs : (tick s).standing = (tickCounters s).standing := by simp [ht]
  obtain ⟨hhub, hm, ho, hk, hl⟩ := tickCounters_keeps s hrun
  refine ⟨tick s, by simp [step, hq], ?_, fun r hr => ?_, ?_, fun hc hp hh => ?_⟩
  · rw [hubCycle_of_standing hs, hhub]
  · rw [cycle_of_standing hs, tickCounters_region s hrun hr]
    split
    · rfl
    · exact (BitVec.add_zero _).symm
  · exact (congrArg Prod.fst (tick_queueLock s)).trans hq
  · have hi : settle (tickCounters s) = tickCounters s := by
      refine settle_idle _ (fun r hr => ?_) (fun l hl' => ?_) ?_
      · rw [tickCounters_region s hrun hr]
        split <;> exact hc r hr
      · rw [hl, hp l hl']
      · rw [hk, hh]
    rw [ht, hi]
    exact ⟨hm, ho⟩

end Sys2Proof.Machine
end

section
/-! SUPPORT. The heads of record rings (R386), and the sample of the counters (R40). -/

namespace Sys2Proof.Machine

variable (s : State)

/-! ### RING_HEAD_POLL -/

theorem ringHeadPoll_eq {n : Nat} (hn : n < 64) (hv : (s.ring n).valid = true)
    (hf : fencedAddr s (s.ring n).headAddr = false) :
    ringHeadPoll s n = (countReads s (s.ring n).headAddr 8).updRing n fun x =>
      { x with head := BitVec.ofNat 64 (rdNat s (s.ring n).headAddr 8) } := by
  simp [ringHeadPoll, hn, hv, hf]

theorem ring_updRing_same (n : Nat) (f : Ring → Ring) : (s.updRing n f).ring n = f (s.ring n) :=
  fget_fupd_same _ _ _ _

/-- A poll reads HEAD from memory, and leaves memory as it is. -/
theorem ringHeadPoll_spec {n : Nat} (hn : n < 64) (hv : (s.ring n).valid = true)
    (hf : fencedAddr s (s.ring n).headAddr = false) :
    (ringHeadPoll s n).mem = s.mem
      ∧ (ringHeadPoll s n).ring n = { s.ring n with head := BitVec.ofNat 64 (rdNat s (s.ring n).headAddr 8) } := by
  rw [ringHeadPoll_eq s hn hv hf, ring_updRing_same, countReads_eq]
  exact ⟨rfl, rfl⟩

/-! ### The strobe and the latches -/

theorem sampleStrobe_local {m : Nat} (h : localId m = true) :
    sampleStrobe s m = (if s.hub.busy then s else strobe s).emit (.bus m true []) := by simp [sampleStrobe, h]

/-- The region registers that a strobe copies and counts. -/
def latchRegion (g : Region) : Region := { g with latch := g.cycle, seq := g.seq + 1 }

theorem latchDone_eq (h : s.hub.busy = true) :
    latchDone s = (List.range 4).foldl (fun s r => s.updRegion r latchRegion)
      (s.updHub fun h => { h with latch := h.cycle, busy := false }) := by
  unfold latchDone latchRegion
  rw [if_pos h]

theorem latchDone_region (h : s.hub.busy = true) {r : Nat} (hr : r < 4) :
    (latchDone s).region r = latchRegion (s.region r) := by
  rw [latchDone_eq s h, region_foldl_updRegion _ (fun _ => latchRegion) _ List.nodup_range, if_pos (List.mem_range.2 hr)]
  rfl

/-- The latches are filled at once: beside the hub and the regions nothing changes. -/
theorem latchDone_frame (h : s.hub.busy = true) :
    { latchDone s with regions := s.regions } = s.updHub fun h => { h with latch := h.cycle, busy := false } := by
  rw [latchDone_eq s h]
  exact foldl_updRegion_frame (s.updHub _) (fun _ => latchRegion) (List.range 4)

/-! ### CYCLE_SAMPLE -/

theorem length_sampleBytes : (sampleBytes s).length = 48 := by simp [sampleBytes, leBytes, List.range_succ]

/-- An admitted CYCLE_SAMPLE strobes, when no sample runs. -/
theorem cycleSample_admitted {e : OpEntry} (h : s.op? e.id = some e) (hop : e.opcode = 0x602) (hp : e.phase = .admitted)
    (hst : rangeStatus s e.resident (fld e.desc 0x10 8) 48 = stOK) (hz : zeros e.desc 0x18 0x20 = true)
    (hb : s.hub.busy = false) :
    cycleSample s e.id = (strobe s).updOp e.id fun e => { e with phase := .running, started := true } := by
  have hne : stOK ≠ stFENCED := by decide
  simp [cycleSample, h, hop, hp, hst, hz, hb, hne]

/-- One whose sample is done writes it. -/
theorem cycleSample_running {e : OpEntry} (h : s.op? e.id = some e) (hop : e.opcode = 0x602) (hp : e.phase = .running)
    (hb : s.hub.busy = false) (hf : fencedRange s (fld e.desc 0x10 8) 48 = false) :
    cycleSample s e.id
      = (opWrite s e.id e.cls false (fld e.desc 0x10 8) (sampleBytes s)).finishOp e.id stOK := by
  simp [cycleSample, h, hop, hp, hb, hf]

/-! ### O36 -/

theorem cycleSample_starts {e : OpEntry} (h : s.op? e.id = some e) (hop : e.opcode = 0x602) (hp : e.phase = .admitted)
    (hst : rangeStatus s e.resident (fld e.desc 0x10 8) 48 = stOK) (hz : zeros e.desc 0x18 0x20 = true)
    (hb : s.hub.busy = false) :
    ∃ t y, exec (.cycleSample e.id) s = .next t ∧ t.op? e.id = some y ∧ y.phase = .running
      ∧ t.hub = { s.hub with busy := true, seq := s.hub.seq + 1 } ∧ t.mem = s.mem := by
  refine ⟨_, _, congrArg Host.Outcome.next (cycleSample_admitted s h hop hp hst hz hb),
    op?_updOp_self (s := strobe s) (f := fun e => { e with phase := .running, started := true }) (fun _ => rfl) h,
    rfl, rfl, rfl⟩

theorem cycleSample_ends {e : OpEntry} (h : s.op? e.id = some e) (hop : e.opcode = 0x602) (hp : e.phase = .running)
    (hb : s.hub.busy = false) (hf : fencedRange s (fld e.desc 0x10 8) 48 = false) (hc : e.cls ≠ clsUPD) :
    ∃ t y, exec (.cycleSample e.id) s = .next t ∧ t.op? e.id = some y ∧ y.phase = .finished
      ∧ rdBytes t (fld e.desc 0x10 8) 48 = sampleBytes s ∧ OnlyBytes [(fld e.desc 0x10 8, 48)] s t := by
  obtain ⟨y, hy, hyp⟩ := opWrite_op? false (fld e.desc 0x10 8) (sampleBytes s) hc h
  have hm := opWrite_mem s e.id false (fld e.desc 0x10 8) (sampleBytes s) hc
  have hl := length_sampleBytes s
  refine ⟨_, _, congrArg Host.Outcome.next (cycleSample_running s h hop hp hb hf),
    op?_finishOp_self _ hy (by simp [hyp, hp]), rfl, ?_, ?_⟩
  · rw [← hl]
    exact (rdBytes_congr (t := State.finishOp _ _ _) hm _ _).trans (rdBytes_memWrite s _ _)
  · intro x hx hbad
    have := onlyBytes_memWrite s (fld e.desc 0x10 8) (sampleBytes s) x (by rwa [hl]) hbad
    simpa only [rdByte, State.finishOp_mem, hm] using this

/-- Settles O36, an equation of each command at a time. -/
theorem ringsAndSamples : Obligations.RingsAndSamples := by
  refine fun s => ⟨fun n hn hv hf => ⟨_, rfl, ringHeadPoll_spec s hn hv hf⟩, fun m hm hb => ?_, fun m hm hb => ?_,
    fun hb => ?_, fun e he hop => ⟨fun hp hst hz hb => ?_, fun hp hb hf hc => ?_⟩⟩
  · refine ⟨_, congrArg Host.Outcome.next (sampleStrobe_local s hm), ?_, ?_⟩ <;> rw [hb] <;> rfl
  · exact congrArg Host.Outcome.next ((sampleStrobe_local s hm).trans (by rw [hb]; rfl))
  · have hframe := latchDone_frame s hb
    refine ⟨_, rfl, (congrArg State.hub hframe :), fun r hr => latchDone_region s hb hr, ?_⟩
    exact (congrArg (fun t : State => { t with hub := s.hub }) hframe :)
  · exact cycleSample_starts s he hop hp hst hz hb
  · exact cycleSample_ends s he hop hp hb hf hc

end Sys2Proof.Machine
end

section
/-! SUPPORT. What sending a message does: bytes change in the retry areas of tunnels alone (R338), a fenced link stays as
it is, and the rest of the device but the queues of its links and regions is left alone. -/

namespace Sys2Proof.Machine

variable (s : State)

/-! ### The retry areas -/

/-- A message that leaves by link `l` goes through a tunnel, and is kept in the link's retry area. -/
def Link.keeps (k : Link) : Prop := k.mode = 1 ∧ k.tunnels ≠ []

/-- Does a byte lie in the retry area of a link that has tunnels? -/
def inRetry (x : Nat) : Prop :=
  ∃ l, (s.link l).keeps ∧ (s.link l).retryArea ≤ x ∧ x < (s.link l).retryArea + 2 ^ 28

theorem mem_of_fget {α : Type} {d : α} {m : FMap α} {k : Nat} (h : fget d m k ≠ d) : (k, fget d m k) ∈ m := by
  induction m with
  | nil => exact absurd rfl h
  | cons p t ih =>
    obtain ⟨a, v⟩ := p
    unfold fget at h ⊢
    split
    · next e => rw [if_pos e] at h; simp [e]
    · next e => rw [if_neg e] at h; exact List.mem_cons_of_mem _ (ih h)

theorem mem_retryRanges_of_keeps {s : State} {l : Nat} (h : (s.link l).keeps) :
    ((s.link l).retryArea, 2 ^ 28) ∈ retryRanges s := by
  obtain ⟨hm, ht⟩ := h
  have hl : s.link l ≠ {} := fun e => by rw [e] at hm; cases hm
  refine List.mem_map.2 ⟨(l, s.link l), List.mem_filter.2 ⟨mem_of_fget hl, ?_⟩, rfl⟩
  simpa [hm] using ht

/-- What `t` has of `s` after messages have been sent: bytes outside the retry areas, where they are sound, and the areas
themselves. -/
structure OnlyRetry (s t : State) : Prop where
  bytes : ∀ x, ¬ inRetry s x → bad s x = false → rdByte t x = rdByte s x
  sound : ∀ x, bad s x = false → bad t x = false
  area : ∀ l, (t.link l).keeps → (s.link l).keeps ∧ (t.link l).retryArea = (s.link l).retryArea

/-- And every link is up or down as it was, a fenced one wholly as it was. -/
structure Sends (s t : State) : Prop extends OnlyRetry s t where
  st : ∀ l, (t.link l).st = (s.link l).st
  down : ∀ l, (s.link l).st = 4 → t.link l = s.link l

/-- Memory, its poison marks, and the links. -/
def State.media : FMap Byte × FMap Bool × FMap Link := (s.mem, s.poison, s.links)

variable {s} {t u : State}

theorem inRetry_of_area (h : OnlyRetry s t) {x : Nat} (hx : inRetry t x) : inRetry s x := by
  obtain ⟨l, hk, h1, h2⟩ := hx
  obtain ⟨hs, ha⟩ := h.area l hk
  exact ⟨l, hs, ha ▸ h1, ha ▸ h2⟩

theorem OnlyRetry.trans (h : OnlyRetry s t) (k : OnlyRetry t u) : OnlyRetry s u where
  bytes x hx hb := (k.bytes x (fun c => hx (inRetry_of_area h c)) (h.sound x hb)).trans (h.bytes x hx hb)
  sound x hb := k.sound x (h.sound x hb)
  area l hl := by
    obtain ⟨ht, e⟩ := k.area l hl
    obtain ⟨hs, e'⟩ := h.area l ht
    exact ⟨hs, e.trans e'⟩

theorem Sends.trans (h : Sends s t) (k : Sends t u) : Sends s u where
  toOnlyRetry := h.toOnlyRetry.trans k.toOnlyRetry
  st l := (k.st l).trans (h.st l)
  down l hl := by
    have ht := h.down l hl
    rw [k.down l (by rw [ht, hl]), ht]

/-- Messages that have been sent change no sound byte but in the retry areas. -/
theorem OnlyRetry.onlyBytes (h : OnlyRetry s t) : OnlyBytes (retryRanges s) s t := by
  refine fun x hx hb => h.bytes x (fun ⟨l, hk, h1, h2⟩ => ?_) hb
  have := hx _ (mem_retryRanges_of_keeps hk)
  omega

theorem link_congr (h : t.links = s.links) (l : Nat) : t.link l = s.link l := by simp only [State.link, h]

theorem Sends.of_media (h : t.media = s.media) : Sends s t := by
  obtain ⟨hm, hp, hl⟩ : t.mem = s.mem ∧ t.poison = s.poison ∧ t.links = s.links := by
    simpa only [State.media, Prod.mk.injEq] using h
  exact ⟨⟨fun x _ _ => by simp only [rdByte, hm], fun x hb => by simpa only [bad, hp] using hb,
    fun l hk => by rw [link_congr hl] at hk ⊢; exact ⟨hk, rfl⟩⟩,
    fun l => by rw [link_congr hl], fun l _ => link_congr hl l⟩

theorem Sends.refl (s : State) : Sends s s := .of_media rfl

theorem Sends.either {c : Prop} [Decidable c] (ht : Sends s t) (hu : Sends s u) : Sends s (if c then t else u) := by
  split
  · exact ht
  · exact hu

theorem Sends.foldl {α : Type} (l : List α) {f : State → α → State} (hf : ∀ s, ∀ x ∈ l, Sends s (f s x)) (s : State) :
    Sends s (l.foldl f s) := by
  induction l generalizing s with
  | nil => exact .refl s
  | cons a t ih => exact (hf s a (by simp)).trans (ih (fun s x hx => hf s x (by simp [hx])) _)

/-- Only the queues and credits of a link in service change, not its tunnels' retry area. -/
theorem Sends.updLink {l : Nat} {f : Link → Link}
    (ha : (f (s.link l)).keeps → (s.link l).keeps ∧ (f (s.link l)).retryArea = (s.link l).retryArea)
    (hs : (f (s.link l)).st = (s.link l).st) (hd : (s.link l).st = 4 → f (s.link l) = s.link l) :
    Sends s (s.updLink l f) where
  bytes _ _ _ := rfl
  sound _ h := h
  area i hk := by
    rw [State.link_updLink] at hk ⊢
    by_cases e : i = l
    · subst e; rw [if_pos rfl] at hk ⊢; exact ha hk
    · rw [if_neg e] at hk ⊢; exact ⟨hk, rfl⟩
  st i := by
    rw [State.link_updLink]
    split
    · next e => subst e; exact hs
    · rfl
  down i hi := by
    rw [State.link_updLink]
    split
    · next e => subst e; exact hd hi
    · rfl

theorem memWrite_links (s : State) (a : Nat) (bs : List Byte) : (memWrite s a bs).links = s.links :=
  (congrArg State.links (memWrite_frame s a bs) :)

/-- A write in a retry area. -/
theorem Sends.memWrite {l a : Nat} {bs : List Byte} (hk : (s.link l).keeps) (h1 : (s.link l).retryArea ≤ a)
    (h2 : a + bs.length ≤ (s.link l).retryArea + 2 ^ 28) : Sends s (memWrite s a bs) where
  bytes x hx hb := rdByte_memWrite_out s a bs x
    (by by_contra hn; exact hx ⟨l, hk, by omega, by omega⟩) hb
  sound x hb := bad_memWrite s a bs x hb
  area i hi := by rw [link_congr (memWrite_links s a bs)] at hi ⊢; exact ⟨hi, rfl⟩
  st i := by rw [link_congr (memWrite_links s a bs)]
  down i _ := link_congr (memWrite_links s a bs) i

/-! ### A flit leaves the device -/

theorem owe_of_down {k : Link} (key n : Nat) (h : k.st = 4) : owe key n k = k := by simp [owe, h]

theorem owe_keeps (key n : Nat) (k : Link) :
    ((owe key n k).keeps ↔ k.keeps) ∧ (owe key n k).retryArea = k.retryArea ∧ (owe key n k).st = k.st := by
  unfold owe
  split <;> exact ⟨Iff.rfl, rfl, rfl⟩

theorem Sends.leaves (s : State) (f : TxFlit) : Sends s (leaves s f) := by
  unfold Machine.leaves
  split
  · next l key _ =>
    obtain ⟨hk, ha, hs⟩ := owe_keeps key 1 (s.link l)
    exact .updLink (fun h => ⟨hk.1 h, ha⟩) hs (owe_of_down key 1)
  · exact .refl s

theorem Sends.shipped (s : State) (f : TxFlit) : Sends s (shipped s f) := by
  unfold Machine.shipped
  split <;> exact .of_media rfl

/-! ### Tunnels -/

theorem Sends.tunnelOut (s : State) (l t seq : Nat) (fs : List (List Byte)) : Sends s (tunnelOut s l t seq fs) :=
  .of_media rfl

theorem length_flitBytes (h : LinkHead) (payload : List Byte) : (flitBytes h payload).length = 256 := by
  simp only [flitBytes, LinkHead.bytes, List.length_append, length_leBytes, List.length_take, List.length_replicate]
  omega

theorem retrySlot_bounds (k : Link) {t : Nat} (n : Nat) (ht : t < 256) :
    k.retryArea ≤ retrySlot k t n ∧ retrySlot k t n + 256 ≤ k.retryArea + 2 ^ 28 := by
  unfold retrySlot
  omega

theorem Sends.keepFlits {l t n : Nat} (fs : List TxFlit) (hk : (s.link l).keeps) (ht : t < 256) :
    Sends s (keepFlits s l t n (fs.map tunnelFlit)) := by
  unfold Machine.keepFlits
  have hfs : ∀ x ∈ (fs.map tunnelFlit).zip (List.range (fs.map tunnelFlit).length), x.1.length = 256 := by
    intro x hx
    obtain ⟨f, -, hf⟩ := List.mem_map.1 (List.of_mem_zip hx).1
    rw [← hf]
    exact length_flitBytes _ _
  generalize (fs.map tunnelFlit).zip _ = xs at hfs
  induction xs generalizing s with
  | nil => exact .refl s
  | cons x xs ih =>
    have hb := retrySlot_bounds (s.link l) (n + x.2) ht
    have hx := hfs x (by simp)
    rw [List.foldl_cons]
    dsimp only
    split
    · exact ih hk fun y hy => hfs y (by simp [hy])
    · refine Sends.trans (.memWrite hk hb.1 (by rw [hx]; exact hb.2)) (ih ?_ fun y hy => hfs y (by simp [hy]))
      rw [link_congr (memWrite_links s _ _)]
      exact hk

theorem fset_ne_nil {α : Type} [DecidableEq α] {d v : α} (m : FMap α) (k : Nat) (h : v ≠ d) : fset d m k v ≠ [] := by
  intro e
  have := fget_fset_same d m k v
  rw [e] at this
  exact h this.symm

/-- Is a link in service by which messages leave through tunnels? -/
def tunnelled (s : State) (l : Nat) : Prop := (s.link l).keeps ∧ (s.link l).st ≠ 4

theorem Sends.updTunnel {l : Nat} (t : Nat) (f : Tunnel → Tunnel) (h : tunnelled s l) :
    Sends s (s.updLink l fun k => k.updTunnel t f) :=
  .updLink (fun _ => ⟨h.1, rfl⟩) rfl fun e => absurd e h.2

theorem Sends.tunnelPut {l t : Nat} (fs : List TxFlit) (h : tunnelled s l) (ht : t < 256) :
    Sends s (tunnelPut s l t fs) := by
  unfold Machine.tunnelPut
  dsimp only
  refine Sends.trans (Sends.updTunnel t _ h) (.trans (Sends.keepFlits fs ?_ ht) (.trans (.tunnelOut _ _ _ _ _)
    (.foldl _ (fun s f _ => (Sends.leaves s f).trans (.shipped _ f)) _)))
  rw [State.link_updLink, if_pos rfl]
  exact ⟨h.1.1, fset_ne_nil _ _ fun e => by simpa using congrArg Tunnel.window e⟩

theorem Sends.tunnelSend {l t : Nat} (fs : List TxFlit) (h : tunnelled s l) (ht : t < 256) :
    Sends s (tunnelSend s l t fs) :=
  .either (.tunnelPut fs h ht) (.updTunnel t _ h)

/-! ### Routes -/

/-- The output of a route: a native link in service, or a link that has tunnels. -/
def pathOk (s : State) (k p t : Nat) : Prop :=
  (p < 6 ∧ (s.link (6 * k + p)).st ≠ 4) ∨ (6 ≤ p ∧ tunnelled s (6 * k + p - 5) ∧ t < 256)

theorem linkUp_st {l mode : Nat} (h : linkUp s l mode = true) : (s.link l).st ≠ 4 ∧ (s.link l).mode = mode := by
  simp only [linkUp, Bool.and_eq_true, Bool.or_eq_true, beq_iff_eq] at h
  obtain ⟨⟨h | h, hm⟩, -⟩ := h <;> exact ⟨by omega, hm⟩

theorem tunnels_of_valid {k : Link} {t : Nat} (h : (k.tunnel t).valid = true) : k.tunnels ≠ [] := by
  intro e
  simp [Link.tunnel, e, Tunnel.valid, fld, leNat] at h

theorem pathOk_of_usable {r port t : Nat} (ht : t < 256) (h : portUsable s r port t = true) (h6 : port ≠ 6)
    (h7 : port ≠ 7) : pathOk s r port t := by
  unfold portUsable at h
  split at h
  · next hp => exact .inl ⟨hp, (linkUp_st h).1⟩
  · next hp =>
    split at h
    · simp only [Bool.and_eq_true] at h
      obtain ⟨hst, hm⟩ := linkUp_st h.1
      exact .inr ⟨by omega, ⟨⟨hm, tunnels_of_valid h.2⟩, hst⟩, ht⟩
    · cases h

theorem routeOf_usable {r dev cls p c t : Nat} (h : routeOf s r dev cls = some (p, c, t)) :
    t < 256 ∧ portUsable s r p t = true := by
  have ht : (RouteEntry.of (routeWord s r dev)).tunnel < 256 := Nat.mod_lt _ (by decide)
  unfold routeOf at h
  dsimp only at h
  split at h
  · cases h
  · split at h
    · next hu => cases h; exact ⟨ht, hu⟩
    · split at h
      · next hu => cases h; exact ⟨ht, hu⟩
      · cases h

theorem pathFrom_ok {n r dev cls k p c t : Nat} (h : pathFrom n s r dev cls = some (k, p, c, t)) : pathOk s k p t := by
  induction n generalizing r cls with
  | zero => cases h
  | succ n ih =>
    unfold pathFrom at h
    split at h
    · exact ih h
    · exact ih h
    · next h6 h7 hr =>
      cases h
      obtain ⟨ht, hu⟩ := routeOf_usable hr
      exact pathOk_of_usable ht hu h6 h7
    · cases h

/-! ### The queues of a link -/

/-- What the queues of a link do not change. -/
def Link.area (k : Link) : Nat × Nat × FMap Tunnel × Nat := (k.mode, k.retryArea, k.tunnels, k.st)

theorem offerOne_area (now : DWord) (k : Link) : (offerOne now k).area = k.area := by
  unfold offerOne
  split <;> rfl

theorem enqueue_area (now : DWord) (fs : List TxFlit) (k : Link) : (enqueue now fs k).area = k.area := by
  unfold enqueue
  split
  · exact foldl_keeps Link.area _ _ (fun k _ => offerOne_area now k) _
  · rfl

theorem Sends.enqueue {l : Nat} (now : DWord) (fs : List TxFlit) (h : (s.link l).st ≠ 4) :
    Sends s (s.updLink l (Machine.enqueue now fs)) := by
  have ha := enqueue_area now fs (s.link l)
  simp only [Link.area, Prod.mk.injEq] at ha
  obtain ⟨hm, ha, ht, hs⟩ := ha
  exact .updLink (fun hk => by unfold Link.keeps at *; rw [hm, ht] at hk; exact ⟨hk, ha⟩) hs fun e => absurd e h

/-! ### Messages -/

theorem Sends.sendFlits {k p t : Nat} (fs : List TxFlit) (h : pathOk s k p t) : Sends s (sendFlits s k p t fs) := by
  unfold Machine.sendFlits
  obtain ⟨hp, hst⟩ | ⟨hp, htun, ht⟩ := h
  · rw [if_pos hp]; exact .enqueue _ _ hst
  · rw [if_neg (by omega)]; exact .tunnelSend fs htun ht

theorem Sends.forwardNoted {r cls : Nat} {op : Option OpId} {x : Option Shipment} {m : Msg}
    (h : forwardNoted s r cls op x m = some t) : Sends s t := by
  unfold Machine.forwardNoted at h
  split at h
  · next hp => cases h; exact .sendFlits _ (pathFrom_ok hp)
  · cases h

theorem Sends.deliver (s : State) (r : Nat) (d : Deliver) : Sends s (deliver s r d) := .of_media rfl

theorem opLinkDown_media (s : State) (op : Option OpId) : (opLinkDown s op).media = s.media := by
  unfold opLinkDown
  split
  · split
    · split <;> rfl
    · rfl
  · rfl

theorem Sends.sendNoted (s : State) (r : Nat) (op : Option OpId) (x : Option Shipment) (m : Msg) :
    Sends s (sendNoted s r op x m) := by
  unfold Machine.sendNoted
  dsimp only
  split
  · exact .either (.deliver _ _ _) (.of_media (opLinkDown_media s op))
  · cases h : Machine.forwardNoted s r 0 op x { m with srcId := s.hub.deviceId, srcRegion := r } with
    | none => exact .of_media (opLinkDown_media s op)
    | some t => exact .forwardNoted h

theorem Sends.sendMsg (s : State) (r : Nat) (op : Option OpId) (m : Msg) : Sends s (sendMsg s r op m) :=
  .sendNoted s r op none m

theorem Sends.sendOob (s : State) (dev typ : Nat) (body : List Byte) : Sends s (sendOob s dev typ body).1 := by
  unfold Machine.sendOob
  split
  · exact .of_media rfl
  · exact .refl s

theorem Sends.sendBridle (s : State) (r : Nat) (op : Option OpId) (dev region typ : Nat) (body : List Byte) :
    Sends s (sendBridle s r op dev region typ body).1 := by
  unfold Machine.sendBridle
  dsimp only
  split
  · split
    · exact .of_media rfl
    · exact .refl s
  · split
    · next h =>
      have ht : Sends s (takeTag s r).2 := .of_media rfl
      exact (ht.trans (.forwardNoted h)).trans (.of_media rfl)
    · exact .refl s

theorem Sends.reachBridle (s : State) (r : Nat) (op : Option OpId) (dev region typ : Nat) (body : List Byte) :
    Sends s (reachBridle s r op dev region typ body).1 := by
  unfold Machine.reachBridle
  split
  · next h => have := Sends.sendBridle s r op dev region typ body; rwa [h] at this
  · exact .sendOob _ _ _ _

theorem Sends.bridleAgain (s : State) (r mtag : Nat) : Sends s (bridleAgain s r mtag) := by
  unfold Machine.bridleAgain
  dsimp only
  split
  · exact .refl s
  · refine Sends.trans ?_ (.sendOob _ _ _ _)
    exact .of_media rfl

theorem Sends.transit (s : State) (r cls : Nat) (m : Msg) (fs : List TxFlit) : Sends s (transit s r cls m fs) := by
  unfold Machine.transit
  split
  · next h => exact .sendFlits _ (pathFrom_ok h)
  · have hl := Sends.foldl fs (fun s f _ => Sends.leaves s f) s
    exact .either hl (hl.trans (.reachBridle _ _ _ _ _ _ _))

/-! ### The rest of the device -/

/-- All but the memory that a message may be kept in, its poison marks and counters, the links and regions with their
queues, the numbers of free values and of datagrams, and what leaves the device. -/
def State.unsent (s : State) : State :=
  { s with mem := [], poison := [], hbms := [], links := [], regions := [], out := [], fresh := 0, store := {} }

theorem ops_of_unsent (h : t.unsent = s.unsent) : t.ops = s.ops := (congrArg State.ops h :)
theorem mbx_of_unsent (h : t.unsent = s.unsent) : t.mbx = s.mbx := (congrArg State.mbx h :)

theorem leaves_unsent (s : State) (f : TxFlit) : (leaves s f).unsent = s.unsent := by unfold leaves; split <;> rfl
theorem shipped_unsent (s : State) (f : TxFlit) : (shipped s f).unsent = s.unsent := by unfold shipped; split <;> rfl

theorem memWrite_unsent (s : State) (a : Nat) (bs : List Byte) : (memWrite s a bs).unsent = s.unsent :=
  memWrite_keeps_proj s State.unsent (fun _ _ _ _ => rfl) a bs

theorem keepFlits_unsent (s : State) (l t n : Nat) (fs : List (List Byte)) : (keepFlits s l t n fs).unsent = s.unsent :=
  foldl_keeps State.unsent _ _ (fun s x => by
    dsimp only
    split
    · rfl
    · exact memWrite_unsent s _ _) s

theorem tunnelPut_unsent (s : State) (l t : Nat) (fs : List TxFlit) : (tunnelPut s l t fs).unsent = s.unsent :=
  (foldl_keeps State.unsent fs _ (fun s f => (shipped_unsent _ f).trans (leaves_unsent s f)) _).trans
    (keepFlits_unsent _ l t _ _)

theorem tunnelSend_unsent (s : State) (l t : Nat) (fs : List TxFlit) : (tunnelSend s l t fs).unsent = s.unsent := by
  unfold tunnelSend
  dsimp only
  split
  · exact tunnelPut_unsent s l t fs
  · rfl

theorem sendFlits_unsent (s : State) (k p t : Nat) (fs : List TxFlit) : (sendFlits s k p t fs).unsent = s.unsent := by
  unfold sendFlits
  split
  · rfl
  · exact tunnelSend_unsent s _ t fs

theorem forwardNoted_unsent {r cls : Nat} {op : Option OpId} {x : Option Shipment} {m : Msg}
    (h : forwardNoted s r cls op x m = some t) : t.unsent = s.unsent := by
  unfold forwardNoted at h
  split at h
  · cases h; exact sendFlits_unsent s _ _ _ _
  · cases h

/-- A message that is no operation's leaves the operations and the mailbox as they are. -/
theorem sendNoted_unsent (s : State) (r : Nat) (x : Option Shipment) (m : Msg) :
    (sendNoted s r none x m).unsent = s.unsent := by
  unfold sendNoted
  dsimp only
  split
  · split <;> rfl
  · cases h : forwardNoted s r 0 none x { m with srcId := s.hub.deviceId, srcRegion := r } with
    | none => rfl
    | some t => exact forwardNoted_unsent h

theorem sendMsg_unsent (s : State) (r : Nat) (m : Msg) : (sendMsg s r none m).unsent = s.unsent :=
  sendNoted_unsent s r none m

end Sys2Proof.Machine
end

section
/-! SUPPORT. A write to a mailbox slot (R370 to R372). -/

namespace Sys2Proof.Machine

variable (s : State)

/-- Who writes: the local master, or the identity that the source's proxy has (R27). -/
def writerOf (w : SlotWrite) : Nat :=
  match w.remote with
  | some src => proxyId s src
  | none => w.master

/-- The channel whose slot the address lies in. -/
def channelOf (w : SlotWrite) : Nat := (w.addr - slotBase) / 16

/-- May the writer fill the slot, as R371 has it? -/
def mayWrite (w : SlotWrite) : Bool :=
  w.addr % 16 == 0 && w.data.length == 16 && bindValid s (channelOf w) && writerOf s w == bindSend s (channelOf w)

/-- The notice that an accepted write leaves in the slot. -/
def filledBy (w : SlotWrite) : Slot :=
  { full := true, notice := w.data, at_ := s.hub.cycle, remote := w.remote, via := w.via }

/-- What an answer leaves: sound bytes outside the retry areas, the operations and the mailbox; a local master sees `code`
on its bus, and then memory is as it was. -/
structure Answers (s t : State) (w : SlotWrite) (code : Nat) : Prop where
  sends : Sends s t
  ops : t.ops = s.ops
  mbx : t.mbx = s.mbx
  mem : w.remote = none → t.mem = s.mem
  out : w.remote = none → t.out = .bus w.master (code == 0) [] :: s.out

theorem slotAnswer_answers (w : SlotWrite) (code : Nat) : Answers s (slotAnswer s w code) w code := by
  unfold slotAnswer
  split
  · next src h =>
    have hu := sendMsg_unsent s w.via
      { dest := regionAddr src.id src.region, op := 2, length := 1, mtag := w.mtag, data := leBytes 1 code }
    exact ⟨.sendMsg .., ops_of_unsent hu, mbx_of_unsent hu, by simp [h], by simp [h]⟩
  · exact ⟨.of_media rfl, rfl, rfl, fun _ => rfl, fun _ => rfl⟩

section
variable {s} {t : State} {w : SlotWrite} {code : Nat}

/-- An answer after a change to the mailbox alone. -/
theorem Answers.after_updMbx {f : Mbx → Mbx} (h : Answers (s.updMbx f) t w code) :
    (OnlyBytes (retryRanges s) s t ∧ t.ops = s.ops ∧ (w.remote = none → t.mem = s.mem)) ∧ t.mbx = f s.mbx
      ∧ (w.remote = none → t.out = .bus w.master (code == 0) [] :: s.out) :=
  ⟨⟨h.sends.toOnlyRetry.onlyBytes, h.ops, h.mem⟩, h.mbx, h.out⟩

end

/-! ### The cases of a write -/

variable {s} {w : SlotWrite}

theorem slotWrite_eq (s : State) (w : SlotWrite) :
    slotWrite s w =
      if !inSlots w.addr then s
      else if !s.mbx.locked then slotAnswer s w 2
      else if w.addr % 16 ≠ 0 ∨ w.data.length ≠ 16 then slotAnswer (s.updMbx (Mbx.bump 0x28 1)) w 2
      else if !bindValid s (channelOf w) || writerOf s w != bindSend s (channelOf w) then
        slotAnswer (s.updMbx (Mbx.bump 0x28 1)) w 2
      else if (s.slot (channelOf w)).full then slotAnswer (s.updMbx (Mbx.bump 0x20 1)) w 1
      else slotAnswer (s.setSlot (channelOf w) (filledBy s w)) w 0 := rfl

theorem slotWrite_unlocked (hin : inSlots w.addr = true) (hl : s.mbx.locked = false) :
    slotWrite s w = slotAnswer s w 2 := by simp [slotWrite_eq, hin, hl]

theorem slotWrite_refused (hin : inSlots w.addr = true) (hl : s.mbx.locked = true) (ha : mayWrite s w = false) :
    slotWrite s w = slotAnswer (s.updMbx (Mbx.bump 0x28 1)) w 2 := by
  rw [slotWrite_eq, hin, hl]
  simp only [Bool.not_true, Bool.false_eq_true, if_false]
  split
  · rfl
  · next hform =>
    simp only [not_or, not_not] at hform
    rw [if_pos]
    cases hv : bindValid s (channelOf w) <;> simp_all [mayWrite]

theorem slotWrite_allowed (hin : inSlots w.addr = true) (hl : s.mbx.locked = true) (ha : mayWrite s w = true) :
    slotWrite s w = if (s.slot (channelOf w)).full then slotAnswer (s.updMbx (Mbx.bump 0x20 1)) w 1
      else slotAnswer (s.setSlot (channelOf w) (filledBy s w)) w 0 := by
  simp only [mayWrite, Bool.and_eq_true, beq_iff_eq] at ha
  obtain ⟨⟨⟨haddr, hlen⟩, hv⟩, hs⟩ := ha
  simp [slotWrite_eq, hin, hl, haddr, hlen, hv, hs]

theorem slot_congr {s t : State} (h : t.mbx.slots = s.mbx.slots) (ch : Nat) : t.slot ch = s.slot ch := by
  simp only [State.slot, h]

theorem slot_setSlot (ch c : Nat) (x : Slot) : (s.setSlot ch x).slot c = if c = ch then x else s.slot c :=
  fget_fset ..

/-! ### O33 -/

/-- Settles O33: the answer changes nothing that a claim of the statement speaks of, and the write before it is an update of
the mailbox alone. -/
theorem slotWrites : Obligations.SlotWrites := by
  intro s w hin hw
  have hexec {t : State} (h : slotWrite s w = t) : exec (.mailboxSlotWrite w) s = .next t :=
    congrArg Host.Outcome.next ((if_pos hw).trans h)
  refine ⟨fun hl ha hf => ?_, fun hl ha hf => ?_, fun hl ha => ?_, fun hl => ?_⟩
  · have h : slotWrite s w = _ := (slotWrite_allowed hin hl ha).trans (if_neg (by simp [channelOf, hf]))
    obtain ⟨hstill, hm, hout⟩ := Answers.after_updMbx (slotAnswer_answers (s.setSlot (channelOf w) (filledBy s w)) w 0)
    have hslot (c : Nat) := (slot_congr (congrArg Mbx.slots hm :) c).trans (slot_setSlot (channelOf w) c (filledBy s w))
    refine ⟨_, hexec h, ⟨hstill, fun c hc => (hslot c).trans (if_neg hc)⟩, hout, ?_⟩
    exact (hslot _).trans (if_pos rfl)
  · have h : slotWrite s w = _ := (slotWrite_allowed hin hl ha).trans (if_pos hf)
    obtain ⟨hstill, hm, hout⟩ := Answers.after_updMbx (slotAnswer_answers (s.updMbx (Mbx.bump 0x20 1)) w 1)
    have hslot (c : Nat) := slot_congr (s := s) (congrArg Mbx.slots hm :) c
    exact ⟨_, hexec h, ⟨hstill, fun c _ => hslot c⟩, hout, hslot _, by rw [hm]; exact fget_fset_same ..⟩
  · have h := slotWrite_refused hin hl ha
    obtain ⟨hstill, hm, hout⟩ := Answers.after_updMbx (slotAnswer_answers (s.updMbx (Mbx.bump 0x28 1)) w 2)
    have hslot (c : Nat) := slot_congr (s := s) (congrArg Mbx.slots hm :) c
    exact ⟨_, hexec h, ⟨hstill, fun c _ => hslot c⟩, hout, hslot _, by rw [hm]; exact fget_fset_same ..⟩
  · obtain ⟨hs, ho, hm, hmem, hout⟩ := slotAnswer_answers s w 2
    exact ⟨_, hexec (slotWrite_unlocked hin hl), hm, ⟨hs.toOnlyRetry.onlyBytes, ho, hmem⟩, hout⟩

end Sys2Proof.Machine
end

section
/-! SUPPORT. Training, the fence of a link and what is lost with it (R313, R319). -/

namespace Sys2Proof.Machine

variable {s t : State}

/-! ### What is lost with a link, and what takes another route -/

theorem dropWaits_media (s : State) (id : OpId) : (dropWaits s id).media = s.media :=
  (congrArg State.media (dropWaits_frame s id) :)

theorem lostMessages_media (s : State) (id : OpId) : (lostMessages s id).media = s.media := by
  have hd : (dropWaits (opLinkDown s (some id)) id).media = s.media :=
    (dropWaits_media _ id).trans (opLinkDown_media s _)
  unfold lostMessages
  dsimp only
  split <;> exact hd

theorem Sends.reroute (s : State) (r : Nat) (fs : List TxFlit) : Sends s (reroute s r fs) := by
  unfold Machine.reroute
  dsimp only
  split
  · exact .transit _ _ _ _ _
  · split
    · exact .refl s
    · split
      · next h => exact .sendFlits _ (pathFrom_ok h)
      · exact .either (.bridleAgain _ _ _) (.of_media (opLinkDown_media _ _))

/-! ### The fence of a link -/

/-- A fenced link: its queues are empty, and its tunnels are gone. -/
def downLink (k : Link) : Link :=
  { k with st := 4, txq := [], bridleWait := [], offers := [], retry := [], resend := [], rx := [], inbuf := [],
           resv := [], shared := 0, owed := [], tunnels := [] }

/-- RGN_FENCE, Cantle's record and the link itself, at the start of its fence. -/
def markLink (s : State) (l : Nat) : State :=
  let s0 := s.updRegion (l / 6) fun g => { g with fence := g.fence ||| BitVec.ofNat 64 (2 ^ (48 + l % 6)) }
  let s1 := s0.updLink l downLink
  { s1 with store := { s1.store with fences := s1.store.fences ||| fenceBit l } }

/-- The rest of the fence loses messages, frees places in input buffers and sends what waited whole elsewhere. -/
theorem fenceLink_eq {l : Nat} (h : (s.link l).st ≠ 4) :
    ∃ (lost : List OpId) (cut : List TxFlit) (whole : List (List TxFlit)), fenceLink s l
      = whole.foldl (fun s fs => reroute s (l / 6) fs) (cut.foldl leaves (lost.foldl lostMessages (markLink s l))) := by
  unfold fenceLink
  rw [if_neg h]
  exact ⟨_, _, _, rfl⟩

theorem fenceLink_of_down {l : Nat} (h : (s.link l).st = 4) : fenceLink s l = s := if_pos h

theorem fenceLink_after {l : Nat} (h : (s.link l).st ≠ 4) :
    Sends (markLink s l) (fenceLink s l) ∧ (fenceLink s l).standing = (markLink s l).standing := by
  obtain ⟨lost, cut, whole, he⟩ := fenceLink_eq h
  rw [he]
  refine ⟨?_, by simp⟩
  exact ((Sends.foldl lost (fun s id _ => .of_media (lostMessages_media s id)) _).trans
    (.foldl cut (fun s f _ => .leaves s f) _)).trans (.foldl whole (fun s fs _ => .reroute s _ fs) _)

theorem markLink_link (s : State) (l i : Nat) : (markLink s l).link i = if i = l then downLink (s.link l) else s.link i :=
  State.link_updLink (s.updRegion _ _) l i downLink

theorem markLink_region (s : State) (l r : Nat) : (markLink s l).region r
    = if r = l / 6 then { s.region r with fence := (s.region r).fence ||| BitVec.ofNat 64 (2 ^ (48 + l % 6)) }
      else s.region r := by
  refine (State.region_updRegion s (l / 6) r fun g => { g with fence := _ }).trans ?_
  by_cases h : r = l / 6
  · rw [if_pos h, if_pos h, h]
  · rw [if_neg h, if_neg h]

theorem onlyRetry_markLink (s : State) (l : Nat) : OnlyRetry s (markLink s l) where
  bytes _ _ _ := rfl
  sound _ h := h
  area i hi := by
    rw [markLink_link] at hi ⊢
    split at hi
    · exact absurd rfl hi.2
    · next hne => rw [if_neg hne]; exact ⟨hi, rfl⟩

/-- A fence writes no memory but in the retry areas. -/
theorem onlyRetry_fenceLink (s : State) (l : Nat) : OnlyRetry s (fenceLink s l) := by
  by_cases h : (s.link l).st = 4
  · rw [fenceLink_of_down h]; exact (Sends.refl s).toOnlyRetry
  · exact (onlyRetry_markLink s l).trans (fenceLink_after h).1.toOnlyRetry

/-- The link is down, with no flit in its queues, and shows in RGN_FENCE (R30). -/
structure Fallen (s : State) (l : Nat) : Prop where
  st : (s.link l).st = 4
  bit : (s.region (l / 6)).fence.getLsbD (48 + l % 6) = true
  txq : (s.link l).txq = []
  retry : (s.link l).retry = []

theorem getLsbD_or_two_pow (x : DWord) {k : Nat} (h : k < 64) : (x ||| BitVec.ofNat 64 (2 ^ k)).getLsbD k = true := by
  rw [BitVec.getLsbD_or, BitVec.getLsbD_ofNat, Nat.testBit_two_pow_self]
  simp [h]

theorem fallen_markLink (s : State) (l : Nat) : Fallen (markLink s l) l := by
  have hl : (markLink s l).link l = downLink (s.link l) := by rw [markLink_link, if_pos rfl]
  refine ⟨by rw [hl]; rfl, ?_, by rw [hl]; rfl, by rw [hl]; rfl⟩
  rw [markLink_region, if_pos rfl]
  exact getLsbD_or_two_pow _ (by omega)

theorem Fallen.sends {l : Nat} (h : Fallen s l) (hs : Sends s t) (hf : t.standing = s.standing) : Fallen t l := by
  have hl := hs.down l h.st
  exact ⟨hl ▸ h.st, by rw [fence_of_standing hf]; exact h.bit, hl ▸ h.txq, hl ▸ h.retry⟩

theorem fallen_fenceLink {l : Nat} (h : (s.link l).st ≠ 4) : Fallen (fenceLink s l) l :=
  (fallen_markLink s l).sends (fenceLink_after h).1 (fenceLink_after h).2

/-- A fence of another link leaves a fallen one as it is. -/
theorem Fallen.markLink_other {l i : Nat} (h : Fallen s l) (hi : l ≠ i) : Fallen (markLink s i) l := by
  have hl : (markLink s i).link l = s.link l := by rw [markLink_link, if_neg hi]
  refine ⟨hl ▸ h.st, ?_, hl ▸ h.txq, hl ▸ h.retry⟩
  rw [markLink_region]
  split
  · simp [h.bit]
  · exact h.bit

theorem Fallen.fenceLink {l : Nat} (i : Nat) (h : Fallen s l) : Fallen (fenceLink s i) l := by
  by_cases hi : (s.link i).st = 4
  · rwa [fenceLink_of_down hi]
  · exact (h.markLink_other (by rintro rfl; exact hi h.st)).sends (fenceLink_after hi).1 (fenceLink_after hi).2

theorem fenceLink_st_other {l i : Nat} (h : l ≠ i) : ((fenceLink s i).link l).st = (s.link l).st := by
  by_cases hi : (s.link i).st = 4
  · rw [fenceLink_of_down hi]
  · rw [(fenceLink_after hi).1.st l, markLink_link, if_neg h]

/-! ### Loss of signal and of the reference -/

theorem signalLoss_of_service {l : Nat} (h : (s.link l).st = 2 ∨ (s.link l).st = 3) : signalLoss s l = fenceLink s l :=
  if_pos h

theorem onlyRetry_signalLoss (s : State) (l : Nat) : OnlyRetry s (signalLoss s l) := by
  unfold signalLoss
  split
  · exact onlyRetry_fenceLink s l
  · exact (Sends.refl s).toOnlyRetry

theorem Fallen.signalLoss {l : Nat} (i : Nat) (h : Fallen s l) : Fallen (signalLoss s i) l := by
  unfold Machine.signalLoss
  split
  · exact h.fenceLink i
  · exact h

theorem signalLoss_st_other {l i : Nat} (h : l ≠ i) : ((signalLoss s i).link l).st = (s.link l).st := by
  unfold signalLoss
  split
  · exact fenceLink_st_other h
  · rfl

theorem onlyRetry_foldl_signalLoss (ls : List Nat) (s : State) : OnlyRetry s (ls.foldl signalLoss s) := by
  induction ls generalizing s with
  | nil => exact (Sends.refl s).toOnlyRetry
  | cons i ls ih => exact (onlyRetry_signalLoss s i).trans (ih _)

theorem fallen_foldl_signalLoss {l : Nat} {ls : List Nat}
    (h : Fallen s l ∨ ((s.link l).st = 2 ∨ (s.link l).st = 3) ∧ l ∈ ls) : Fallen (ls.foldl signalLoss s) l := by
  induction ls generalizing s with
  | nil => exact h.resolve_right fun c => by simp at c
  | cons i ls ih =>
    refine ih ?_
    obtain h | ⟨hs, hm⟩ := h
    · exact .inl (h.signalLoss i)
    · by_cases e : l = i
      · subst e
        rw [signalLoss_of_service hs]
        exact .inl (fallen_fenceLink (by omega))
      · rw [signalLoss_st_other e]
        exact .inr ⟨hs, (List.mem_cons.1 hm).resolve_left e⟩

/-! ### Training -/

theorem linkSettle_untrained {l : Nat} (h : (s.link l).trained = false) : linkSettle s l = s := by simp [linkSettle, h]

theorem linkSettle_ethernet {l : Nat} (hst : (s.link l).st = 1) (ht : (s.link l).trained = true)
    (hm : (s.link l).mode = 1) : linkSettle s l = s.updLink l fun k => { k with st := 2 } := by
  simp [linkSettle, hst, ht, hm]

theorem linkSettle_unheard {l : Nat} (hm : (s.link l).mode = 0) (hp : (s.link l).peer = none) : linkSettle s l = s := by
  simp [linkSettle, hm, hp]

/-- The link comes up with the peer `p`. -/
def upLink (p : PeerInfo) (now : DWord) (k : Link) : Link :=
  { k with st := if rttFull < k.rtt then 3 else 2, peerId := p.deviceId, peerLink := p.localLink,
           resv := fullCredits, shared := 780, lastRx := now }

theorem linkSettle_native {l : Nat} {p : PeerInfo} (hst : (s.link l).st = 1) (ht : (s.link l).trained = true)
    (hm : (s.link l).mode = 0) (hp : (s.link l).peer = some p) :
    linkSettle s l = if p.mode ≠ 0 ∨ p.deviceId = s.hub.deviceId then fenceLink s l
      else s.updLink l (upLink p (s.region (l / 6)).cycle) := by
  unfold linkSettle
  simp only [hst, ht, hm, hp]
  rfl

/-- A link whose electrical training has ended. -/
def trainedLink (rtt : Nat) (k : Link) : Link := { k with trained := true, rtt := if k.mode = 0 then rtt else 0 }

theorem trainingDone_eq {l : Nat} (ok : Bool) (rtt : Nat) (hst : (s.link l).st = 1) (ht : (s.link l).trained = false) :
    trainingDone s l ok rtt =
      if !ok ∨ ((s.link l).mode = 0 ∧ rttMax < rtt) then fenceLink s l
      else linkSettle (if (s.link l).mode = 0 then sendControl (s.updLink l (trainedLink rtt)) l
        else s.updLink l (trainedLink rtt)) l :=
  if_neg (by simp [hst, ht])

theorem link_updLink_same (s : State) (l : Nat) (f : Link → Link) : (s.updLink l f).link l = f (s.link l) := by
  rw [State.link_updLink, if_pos rfl]

/-- A link that has sent its control flit. -/
def controlLink (p : PeerInfo) (k : Link) : Link :=
  { k.bump 0x08 1 with
    retry := k.retry ++ [(k.txSeq, { typ := 3, control := some p })], txSeq := (k.txSeq + 1) % 4096 }

theorem sendControl_eq (s : State) (l : Nat) :
    sendControl s l = (s.updLink l (controlLink (ownInfo s l))).emit (.control l (ownInfo s l)) := rfl

theorem sendControl_link (s : State) (l : Nat) : (sendControl s l).link l = controlLink (ownInfo s l) (s.link l) :=
  link_updLink_same s l (controlLink (ownInfo s l))

/-- A link that has taken the peer's control flit. -/
def heardControl (p : PeerInfo) (k : Link) : Link :=
  { k.bump 0x10 1 with peer := some p, rxLast := (k.rxLast + 1) % 4096 }

theorem linkControl_eq {l : Nat} (p : PeerInfo) (hst : (s.link l).st = 1) (hm : (s.link l).mode = 0) :
    linkControl s l p = linkSettle (s.updLink l (heardControl p)) l := if_pos ⟨hst, hm⟩

/-- Once training has ended, the peer's say is final. -/
theorem linkControl_trained {l : Nat} (p : PeerInfo) (hst : (s.link l).st = 1) (hm : (s.link l).mode = 0)
    (ht : (s.link l).trained = true) :
    linkControl s l p = if p.mode ≠ 0 ∨ p.deviceId = s.hub.deviceId then fenceLink (s.updLink l (heardControl p)) l
      else (s.updLink l (heardControl p)).updLink l (upLink p (s.region (l / 6)).cycle) := by
  have hk := link_updLink_same s l (heardControl p)
  rw [linkControl_eq p hst hm]
  exact linkSettle_native (by rw [hk]; exact hst) (by rw [hk]; exact ht) (by rw [hk]; exact hm) (by rw [hk]; rfl)

/-! ### O51 -/

/-- What the statement says of a fenced link. -/
theorem Fallen.spec {l : Nat} (h : Fallen t l) (hb : OnlyRetry s t) :
    (t.link l).st = 4 ∧ (t.region (l / 6)).fence.getLsbD (48 + l % 6) = true ∧ (t.link l).txq = []
      ∧ (t.link l).retry = [] ∧ OnlyBytes (retryRanges s) s t := ⟨h.st, h.bit, h.txq, h.retry, hb.onlyBytes⟩

/-- An Ethernet-mode link comes up when its training ends. -/
theorem trainingDone_ethernet {l : Nat} (rtt : Nat) (hst : (s.link l).st = 1) (ht : (s.link l).trained = false)
    (hm : (s.link l).mode = 1) :
    trainingDone s l true rtt = (s.updLink l (trainedLink rtt)).updLink l fun k => { k with st := 2 } := by
  have hk := link_updLink_same s l (trainedLink rtt)
  rw [trainingDone_eq true rtt hst ht, if_neg (by simp [hm]), if_neg (by simp [hm])]
  exact linkSettle_ethernet (by rw [hk]; exact hst) (by rw [hk]; rfl) (by rw [hk]; exact hm)

/-- A native link waits for its peer. -/
theorem trainingDone_native {l rtt : Nat} (hst : (s.link l).st = 1) (ht : (s.link l).trained = false)
    (hm : (s.link l).mode = 0) (hr : rtt ≤ rttMax) (hp : (s.link l).peer = none) :
    trainingDone s l true rtt = sendControl (s.updLink l (trainedLink rtt)) l := by
  have hk := sendControl_link (s.updLink l (trainedLink rtt)) l
  rw [link_updLink_same] at hk
  rw [trainingDone_eq true rtt hst ht, if_neg (by simp [Nat.not_lt.2 hr]), if_pos hm]
  exact linkSettle_unheard (by rw [hk]; exact hm) (by rw [hk]; exact hp)

/-- Settles O51. A fence is `fallen_fenceLink` with its frame; every other clause is an equation of the link's update. -/
theorem linkTraining : Obligations.LinkTraining := by
  intro s l hl
  dsimp only
  have hr : l / 6 < 4 := by omega
  refine ⟨fun hst ht rtt => ⟨?_, fun hm hlong => ?_, fun hm => ?_, fun hm hshort hp => ?_⟩,
    fun p hst hm => ⟨fun ht => ?_, fun ht hpm hpd => ?_, fun ht hbad => ?_⟩, fun hst => ⟨?_, ?_⟩, fun h2 h3 => ?_⟩
  · have h := (trainingDone_eq false rtt hst ht).trans (if_pos (by simp))
    exact ⟨_, congrArg Host.Outcome.next ((if_pos hl).trans h),
      (fallen_fenceLink (by omega)).spec (onlyRetry_fenceLink s l)⟩
  · have h := (trainingDone_eq true rtt hst ht).trans (if_pos (.inr ⟨hm, hlong⟩))
    exact ⟨_, congrArg Host.Outcome.next ((if_pos hl).trans h),
      (fallen_fenceLink (by omega)).spec (onlyRetry_fenceLink s l)⟩
  · refine ⟨_, congrArg Host.Outcome.next ((if_pos hl).trans (trainingDone_ethernet rtt hst ht hm)), ?_, rfl⟩
    rw [link_updLink_same, link_updLink_same]
    simp [trainedLink, hm]
  · have hp' : ownInfo (s.updLink l (trainedLink rtt)) l
        = { deviceId := s.hub.deviceId, localLink := l % 6, mode := 0, rtt := rtt } := by
      simp only [ownInfo, link_updLink_same, trainedLink, hm, if_true]
      rfl
    refine ⟨_, congrArg Host.Outcome.next ((if_pos hl).trans (trainingDone_native hst ht hm hshort hp)), ?_, ?_, rfl⟩
    · rw [sendControl_eq, hp']; rfl
    · rw [sendControl_link, link_updLink_same, hp']
      simp [controlLink, trainedLink, Link.bump, hm]
  · refine ⟨_, congrArg Host.Outcome.next ((if_pos hl).trans ((linkControl_eq p hst hm).trans (linkSettle_untrained ?_))),
      link_updLink_same .., rfl⟩
    rw [link_updLink_same]; exact ht
  · have h := linkControl_trained p hst hm ht
    rw [if_neg (by simp [hpm, hpd])] at h
    refine ⟨_, congrArg Host.Outcome.next ((if_pos hl).trans h), ?_⟩
    rw [link_updLink_same, link_updLink_same]
    exact ⟨rfl, rfl, rfl, rfl, rfl⟩
  · have h := linkControl_trained p hst hm ht
    rw [if_pos hbad] at h
    have hs : Sends s (s.updLink l (heardControl p)) := .updLink (fun h => ⟨h, rfl⟩) rfl (by omega)
    refine ⟨_, congrArg Host.Outcome.next ((if_pos hl).trans h), (fallen_fenceLink ?_).spec
      (hs.toOnlyRetry.trans (onlyRetry_fenceLink _ l))⟩
    rw [hs.st l]; omega
  · have h := signalLoss_of_service hst
    exact ⟨_, congrArg Host.Outcome.next ((if_pos hl).trans h),
      (fallen_fenceLink (by omega)).spec (onlyRetry_fenceLink s l)⟩
  · have hm : l ∈ (List.range 6).map (6 * (l / 6) + ·) := List.mem_map.2 ⟨l % 6, List.mem_range.2 (by omega), by omega⟩
    exact ⟨_, congrArg Host.Outcome.next (if_pos hr), (fallen_foldl_signalLoss (.inr ⟨hst, hm⟩)).spec
      (onlyRetry_foldl_signalLoss _ s)⟩
  · exact congrArg Host.Outcome.next ((if_pos hl).trans (if_neg (by omega)))

end Sys2Proof.Machine
end

section
/-! SUPPORT. Writes, reads and atomic adds from other devices, and the answers to them (R29, R316, R335). -/

namespace Sys2Proof.Machine

variable {s t : State}

/-! ### Routes depend on little -/

/-- What a route depends on: the links, the ring, and the route tables and fences of the regions. -/
def State.ways (s : State) : FMap Link × FMap Bool × (Nat → FMap Nat × DWord) :=
  (s.links, s.ringDown, fun r => ((s.region r).routes, (s.region r).fence))

theorem ringUp_of_ways (h : t.ways = s.ways) (k : Nat) : ringUp t k = ringUp s k := by
  have hr : t.ringDown = s.ringDown := congrArg (fun w => w.2.1) h
  simp only [ringUp, hr]

theorem ringJoins_of_ways (h : t.ways = s.ways) (a b : Nat) : ringJoins t a b = ringJoins s a b := by
  simp only [ringJoins, ringPath, ringHops, ringUp_of_ways h]

theorem linkUp_of_ways (h : t.ways = s.ways) (l mode : Nat) : linkUp t l mode = linkUp s l mode := by
  have hl : t.links = s.links := congrArg Prod.fst h
  have hf (r : Nat) : (t.region r).fence = (s.region r).fence := congrArg (fun w => (w.2.2 r).2) h
  simp only [linkUp, fencedLink, fencedRegion, State.link, hl, hf]

theorem portUsable_of_ways (h : t.ways = s.ways) (r port tn : Nat) : portUsable t r port tn = portUsable s r port tn := by
  have hl : t.links = s.links := congrArg Prod.fst h
  simp only [portUsable, linkUp_of_ways h, ringJoins_of_ways h, State.link, hl]

theorem routeOf_of_ways (h : t.ways = s.ways) (r dev cls : Nat) : routeOf t r dev cls = routeOf s r dev cls := by
  have hw (r : Nat) : (t.region r).routes = (s.region r).routes := congrArg (fun w => (w.2.2 r).1) h
  simp only [routeOf, routeWord, portUsable_of_ways h, hw]
  rfl

theorem pathFrom_of_ways (h : t.ways = s.ways) (n r dev cls : Nat) : pathFrom n t r dev cls = pathFrom n s r dev cls := by
  induction n generalizing r cls with
  | zero => rfl
  | succ n ih => simp only [pathFrom, routeOf_of_ways h, ih]

/-! ### A message takes its place in a native link's queue -/

/-- What the queue of a link is once flits that are no region's Bridle flits have joined it. -/
theorem enqueue_txq (now : DWord) {fs : List TxFlit} (h : ∀ f ∈ fs, f.region = none) (k : Link) :
    (enqueue now fs k).txq = k.txq ++ fs := by
  unfold enqueue
  rw [if_neg]
  · rfl
  · simp only [List.any_eq_true, not_exists, not_and]
    intro f hf
    simp [h f hf]

theorem flitsOf_region {m : Msg} {cls : Nat} {op : Option OpId} {f : TxFlit} (h : f ∈ flitsOf m cls op) :
    f.region = none := by
  obtain ⟨x, -, rfl⟩ := List.mem_map.1 h
  rfl

/-- The fields by which a message names its sender. -/
def signed (s : State) (r : Nat) (m : Msg) : Msg := { m with srcId := s.hub.deviceId, srcRegion := r }

/-- A message that is no Bridle message joins the queue of the native link that its route leads to. -/
theorem sendMsg_txq {r k p c tn : Nat} {m : Msg} (hop : m.op ≠ 6) (hd : devOf m.dest ≠ s.hub.deviceId)
    (hp : pathFrom 8 s r (devOf m.dest) 0 = some (k, p, c, tn)) (h6 : p < 6) :
    ((sendMsg s r none m).link (6 * k + p)).txq = (s.link (6 * k + p)).txq ++ flitsOf (signed s r m) c none := by
  have hs : sendMsg s r none m
      = s.updLink (6 * k + p) (enqueue (s.region k).cycle (flitsOf (signed s r m) c none)) := by
    unfold sendMsg sendNoted forwardNoted
    simp [hd, hp, sendFlits, h6, noted, ownFlits, hop, signed]
  rw [hs, link_updLink_same, enqueue_txq _ fun f => flitsOf_region]

/-! ### Answers -/

theorem devOf_regionAddr {dev r : Nat} (hd : dev < 65536) (hr : r < 4) : devOf (regionAddr dev r) = dev := by
  have h : fabAddr dev (r * regionSpan) / 2 ^ 48 = dev := by unfold fabAddr regionSpan; omega
  rw [devOf, regionAddr, h, Nat.mod_eq_of_lt hd]

/-- The answer `bs` of region `r` to the message `m`. -/
def answerTo (r : Nat) (m : Msg) (dev : Nat) (bs : List Byte) : Msg :=
  { dest := regionAddr m.srcId m.srcRegion, srcId := dev, srcRegion := r, op := 2, length := bs.length, mtag := m.mtag,
    data := bs }

/-- The answer is on its way to another device, where its route leaves by a native link. -/
def answered (s t : State) (r : Nat) (m : Msg) (bs : List Byte) : Prop :=
  m.srcId ≠ s.hub.deviceId → m.srcId < 65536 → m.srcRegion < 4 → ∀ k p c tn,
    pathFrom 8 s r m.srcId 0 = some (k, p, c, tn) → p < 6 →
    (t.link (6 * k + p)).txq = (s.link (6 * k + p)).txq ++ flitsOf (answerTo r m s.hub.deviceId bs) c none

/-- An answer sent from a state that routes as `s` does, with its links as they are. -/
theorem answered_sendMsg {u : State} {r : Nat} {m : Msg} (bs : List Byte) (hw : u.ways = s.ways)
    (hh : u.hub.deviceId = s.hub.deviceId) :
    answered s (sendMsg u r none
      { dest := regionAddr m.srcId m.srcRegion, op := 2, length := bs.length, mtag := m.mtag, data := bs }) r m bs := by
  intro hd hid hr k p c tn hp h6
  have hl : u.links = s.links := congrArg Prod.fst hw
  have hdev := devOf_regionAddr hid hr
  rw [sendMsg_txq (show (2 : Nat) ≠ 6 by decide) (by rw [hdev, hh]; exact hd)
    (by rw [hdev, pathFrom_of_ways hw]; exact hp) h6]
  rw [link_congr hl, signed, hh]
  rfl

/-! ### Taking a message -/

theorem forUs_of_op {op : Nat} {m : Msg} (ho : m.op = op) (hd : devOf m.dest = s.hub.deviceId) : forUs s op m = true := by
  simp [forUs, ho, hd]

theorem takeMsg_ways (s : State) (r : Nat) (d : Deliver) : (takeMsg s r d).ways = s.ways := by
  have h (i : Nat) : (((takeMsg s r d).region i).routes, ((takeMsg s r d).region i).fence)
      = ((s.region i).routes, (s.region i).fence) := by
    unfold takeMsg
    rw [State.region_updRegion]
    split
    · next e => rw [e]
    · rfl
  exact Prod.ext rfl (Prod.ext rfl (funext h))

theorem takeMsg_fence (s : State) (r i : Nat) (d : Deliver) : ((takeMsg s r d).region i).fence = (s.region i).fence :=
  congrArg (fun w => (w.2.2 i).2) (takeMsg_ways s r d)

theorem fencedAddr_takeMsg (s : State) (r a : Nat) (d : Deliver) : fencedAddr (takeMsg s r d) a = fencedAddr s a := by
  simp only [fencedAddr, fencedRegion, takeMsg_fence]

theorem fencedRange_takeMsg (s : State) (r a n : Nat) (d : Deliver) :
    fencedRange (takeMsg s r d) a n = fencedRange s a n := by
  simp only [fencedRange, fencedSpan, fencedAddr_takeMsg, fencedRegion, takeMsg_fence]

theorem remoteReach_takeMsg (s : State) (r a n : Nat) (d : Deliver) :
    remoteReach (takeMsg s r d) a n = remoteReach s a n := by
  simp only [remoteReach, localSpan, fencedSpan, fencedAddr_takeMsg, fencedRegion, takeMsg_fence]
  rfl

theorem Sends.takeMsg (s : State) (r : Nat) (d : Deliver) : Sends s (takeMsg s r d) := .of_media rfl

/-! ### REMOTE_WRITE -/

variable {r : Nat} {m : Msg}

/-- A write to memory. -/
theorem remoteWrite_memory (ho : m.op = 0) (hd : devOf m.dest = s.hub.deviceId) (hs : inSlots (localOf m.dest) = false)
    (hr : remoteReach s (localOf m.dest) m.data.length = true)
    (hf : fencedRange s (localOf m.dest) m.data.length = false) :
    remoteWrite s r m = memWrite (takeMsg s r (.msg m)) (localOf m.dest) m.data := by
  simp [remoteWrite, forUs_of_op ho hd, hs, remoteReach_takeMsg, hr, fencedRange_takeMsg, hf]

theorem remoteWrite_refused (ho : m.op = 0) (hd : devOf m.dest = s.hub.deviceId) (hs : inSlots (localOf m.dest) = false)
    (hr : remoteReach s (localOf m.dest) m.data.length = false) :
    remoteWrite s r m = refuseRemote (takeMsg s r (.msg m)) r m := by
  simp [remoteWrite, forUs_of_op ho hd, hs, remoteReach_takeMsg, hr]

/-- The slot write that a message asks for. -/
def slotRequest (r : Nat) (m : Msg) : SlotWrite :=
  { master := 0xFF, addr := localOf m.dest, data := m.data, remote := some ⟨m.srcId, m.srcRegion⟩, mtag := m.mtag, via := r }

theorem remoteWrite_slot (ho : m.op = 0) (hd : devOf m.dest = s.hub.deviceId) (hs : inSlots (localOf m.dest) = true) :
    remoteWrite s r m = slotWrite (takeMsg s r (.msg m)) (slotRequest r m) := by
  simp [remoteWrite, forUs_of_op ho hd, hs, slotRequest]

/-! ### READ_REQUEST -/

/-- The state after a remote read: the read is counted, and the free values that poisoned bytes may take are used up. -/
def readCounted (s : State) (a n : Nat) : State := { countReads s a n with fresh := s.fresh + n }

/-- The bytes of clean memory. -/
theorem readOut_clean {a n : Nat} (h : badRange s a n = false) : readOut s a n = (rdBytes s a n, readCounted s a n) := by
  have hb : ∀ i, i < n → bad s (a + i) = false := by simpa [badRange] using h
  refine Prod.ext (List.map_congr_left fun i hi => ?_) rfl
  rw [if_neg (by simp [hb i (List.mem_range.1 hi)])]
  rfl

theorem readRequest_clean (ho : m.op = 1) (hd : devOf m.dest = s.hub.deviceId)
    (hr : remoteReach s (localOf m.dest) m.length = true) (hf : fencedRange s (localOf m.dest) m.length = false)
    (hb : badRange s (localOf m.dest) m.length = false) :
    readRequest s r m
      = sendMsg (readCounted (takeMsg s r (.msg m)) (localOf m.dest) m.length) r none
          { dest := regionAddr m.srcId m.srcRegion, op := 2, length := m.length, mtag := m.mtag,
            data := rdBytes (takeMsg s r (.msg m)) (localOf m.dest) m.length } := by
  have hb' : badRange (takeMsg s r (.msg m)) (localOf m.dest) m.length = false := hb
  have hall : ∀ i, i < m.length → bad (takeMsg s r (.msg m)) (localOf m.dest + i) = false := by simpa [badRange] using hb'
  have hmarks : ((List.range m.length).filter fun i => bad (takeMsg s r (.msg m)) (localOf m.dest + i)) = [] :=
    List.filter_eq_nil_iff.2 fun i hi => by simp [hall i (List.mem_range.1 hi)]
  unfold readRequest
  simp only [forUs_of_op ho hd, remoteReach_takeMsg, hr, fencedRange_takeMsg, hf, readOut_clean hb', hmarks]
  simp [sendMsg]

theorem readRequest_refused (ho : m.op = 1) (hd : devOf m.dest = s.hub.deviceId)
    (hr : remoteReach s (localOf m.dest) m.length = false) :
    readRequest s r m = refuseRemote (takeMsg s r (.msg m)) r m := by
  simp [readRequest, forUs_of_op ho hd, remoteReach_takeMsg, hr]

/-- A refusal changes no sound byte outside the retry areas, no operation and nothing of the mailbox, and is on its way. -/
theorem refuseRemote_spec (s : State) (r : Nat) (m : Msg) :
    let t := refuseRemote (takeMsg s r (.msg m)) r m
    OnlyBytes (retryRanges s) s t ∧ t.ops = s.ops ∧ t.mbx = s.mbx
      ∧ answered s t r m (if m.op = 1 ∧ m.length = 1 then [2, 2] else [2]) := by
  have hu := sendMsg_unsent (takeMsg s r (.msg m)) r
    { dest := regionAddr m.srcId m.srcRegion, op := 2, length := (if m.op = 1 ∧ m.length = 1 then [2, 2] else [2] :
        List Byte).length, mtag := m.mtag, data := if m.op = 1 ∧ m.length = 1 then [2, 2] else [2] }
  exact ⟨((Sends.takeMsg s r _).trans (.sendMsg ..)).toOnlyRetry.onlyBytes, ops_of_unsent hu, mbx_of_unsent hu,
    answered_sendMsg _ (takeMsg_ways s r _) rfl⟩

/-! ### READ_RESPONSE -/

theorem execReadResponse_of_free (hr : r < 4) (hf : restoreFor s r m.mtag = none) :
    exec (.readResponse r m) s = .next (readResponse s r m) := by
  refine congrArg Host.Outcome.next ((if_pos hr).trans ?_)
  cases h : forUs s 2 m <;> simp [hf]

theorem takeMsg_dma (s : State) (r : Nat) (d : Deliver) : ((takeMsg s r d).region r).dma = (s.region r).dma := by
  unfold takeMsg
  rw [State.region_updRegion, if_pos rfl]

theorem takeMsg_wrote (s : State) (r : Nat) (d : Deliver) : ((takeMsg s r d).region r).wrote = (s.region r).wrote := by
  unfold takeMsg
  rw [State.region_updRegion, if_pos rfl]

/-- A transfer that has taken the bytes for tag `mtag` at their place `off`. -/
def fetchedItem (it : DmaItem) (mtag off : Nat) (data : List Byte) : DmaItem :=
  { it with fetched := fsets 0 it.fetched off data, waits := it.waits.filter fun x => x.1 != mtag }

/-- Bytes of the length asked for reach a transfer that waits for others too. -/
theorem readResponse_fetches {it : DmaItem} {w : Nat × Nat × Nat} (ho : m.op = 2) (hd : devOf m.dest = s.hub.deviceId)
    (hit : ((s.region r).dma.running.find? fun i => i.waits.any fun w => w.1 == m.mtag) = some it)
    (hw : (it.waits.find? fun w => w.1 == m.mtag) = some w) (hn : w.2.2 = m.data.length)
    (hmore : (it.waits.any fun w => w.1 != m.mtag) = true) :
    readResponse s r m = (takeMsg s r (.msg m)).updDma (.region r) fun q =>
      { q with running := q.running.map fun i => if i == it then fetchedItem it m.mtag w.2.1 m.data else i } := by
  have hne : (it.waits.filter fun x => x.1 != m.mtag) ≠ [] := by
    obtain ⟨x, hx, hm⟩ := List.any_eq_true.1 hmore
    exact List.ne_nil_of_mem (List.mem_filter.2 ⟨hx, hm⟩)
  unfold readResponse dmaResponse
  simp only [forUs_of_op ho hd, State.dma, takeMsg_dma, hit, hw, hn, List.take_length]
  simp [hne, hn, fetchedItem]

theorem readResponse_refusal {it : DmaItem} {w : Nat × Nat × Nat} (ho : m.op = 2) (hd : devOf m.dest = s.hub.deviceId)
    (hit : ((s.region r).dma.running.find? fun i => i.waits.any fun w => w.1 == m.mtag) = some it)
    (hw : (it.waits.find? fun w => w.1 == m.mtag) = some w) (hn : w.2.2 ≠ m.data.length) :
    readResponse s r m = dropWaits ((takeMsg s r (.msg m)).addStat it.op stBOUNDS) it.op := by
  unfold readResponse
  simp only [forUs_of_op ho hd, takeMsg_dma, hit, hw]
  simp [Ne.symm hn]

theorem readResponse_wrote {p : Nat × OpId} (ho : m.op = 2) (hd : devOf m.dest = s.hub.deviceId)
    (hit : ((s.region r).dma.running.find? fun i => i.waits.any fun w => w.1 == m.mtag) = none)
    (hp : ((s.region r).wrote.find? fun p => p.1 == m.mtag) = some p) (hb : m.data = [1] ∨ m.data = [2]) :
    readResponse s r m = (takeMsg s r (.msg m)).addStat p.2 stBOUNDS := by
  unfold readResponse
  simp only [forUs_of_op ho hd, takeMsg_dma, takeMsg_wrote, hit, hp]
  exact if_pos hb

theorem mem_addStat (st : Nat) (e : OpEntry) (h : st ≠ stOK) : st ∈ (e.addStat st).stats := by
  unfold OpEntry.addStat
  split
  · next hc => simpa [h] using hc
  · simp

/-- The operation of a refused request has met BOUNDS. -/
theorem op?_addStat_bounds {id : OpId} {e : OpEntry} (h : s.op? id = some e) :
    ∃ y, (s.addStat id stBOUNDS).op? id = some y ∧ stBOUNDS ∈ y.stats :=
  ⟨_, by rw [State.op?_addStat, if_pos rfl, h, Option.map_some], mem_addStat _ _ (by decide)⟩

/-! ### ATOMIC_ADD -/

/-- A piece lies within its block or word and within the range that is cut. -/
theorem pieces_bounds {k a : Nat} {bs : List Byte} {p : Nat × List Byte} (h : p ∈ pieces k a bs) :
    p.1 + p.2.length ≤ unitBase p.1 + unitSize p.1 ∧ a ≤ p.1 ∧ p.1 + p.2.length ≤ a + bs.length := by
  induction k generalizing a bs with
  | zero => cases h
  | succ k ih =>
    cases bs with
    | nil => cases h
    | cons b bs =>
      have hu := lt_unitBase_add a
      have hv := unitBase_le a
      rw [pieces_cons] at h
      obtain rfl | h := List.mem_cons.1 h
      · simp only [List.length_take]
        omega
      · obtain ⟨h1, h2, h3⟩ := ih h
        rw [List.length_drop] at h3
        refine ⟨h1, by omega, ?_⟩
        by_cases hle : unitSize a - (a - unitBase a) ≤ (b :: bs).length
        · omega
        · rw [List.drop_eq_nil_of_le (by omega), pieces_nil] at h
          cases h

/-- Memory, its poison marks and the table of operations. -/
def State.stored (s : State) : FMap Byte × FMap Bool × List OpEntry := (s.mem, s.poison, s.ops)

theorem chargeEvents_stored (s : State) (r fmt tag : Nat) (evs : List Nat) :
    (chargeEvents s r fmt tag evs).stored = s.stored := by
  unfold chargeEvents
  split <;> rfl

theorem addEvents_stored (s : State) (r a : Nat) : (addEvents s r a).stored = s.stored := by
  unfold addEvents
  dsimp only
  split
  · exact chargeEvents_stored s ..
  · split
    · rfl
    · exact chargeEvents_stored (s.draw).2 ..
    · exact chargeEvents_stored (s.draw).2 ..

theorem freeBytes_stored (n : Nat) (s : State) : (freeBytes n s).2.stored = s.stored := by
  induction n generalizing s with
  | zero => rfl
  | succ n ih => exact ih (s.draw).2

theorem length_freeBytes (n : Nat) (s : State) : (freeBytes n s).1.length = n := by
  induction n generalizing s with
  | zero => rfl
  | succ n ih => exact congrArg (· + 1) (ih (s.draw).2)

/-- What a piece of an addition leaves: poison marks and operations, bytes beside its own, and bytes of poisoned units. -/
structure Adds (a n : Nat) (s t : State) : Prop where
  poison : t.poison = s.poison
  ops : t.ops = s.ops
  out : ∀ x, x < a ∨ a + n ≤ x → rdByte t x = rdByte s x
  bad : ∀ x, bad s x = true → rdByte t x = rdByte s x

theorem Adds.of_stored {a n : Nat} (h : t.stored = s.stored) : Adds a n s t := by
  obtain ⟨hm, hp, ho⟩ : t.mem = s.mem ∧ t.poison = s.poison ∧ t.ops = s.ops := by
    simpa only [State.stored, Prod.mk.injEq] using h
  exact ⟨hp, ho, fun x _ => by simp only [rdByte, hm], fun x _ => by simp only [rdByte, hm]⟩

theorem Adds.trans {a n : Nat} {u : State} (h : Adds a n s t) (k : Adds a n t u) : Adds a n s u where
  poison := k.poison.trans h.poison
  ops := k.ops.trans h.ops
  out x hx := (k.out x hx).trans (h.out x hx)
  bad x hx := (k.bad x (by simpa only [Machine.bad, h.poison] using hx)).trans (h.bad x hx)

/-- A write within one sound block or word. -/
theorem adds_writeUnit {a n b : Nat} {bs : List Byte} (hb : bad s b = false)
    (hu : b + bs.length ≤ unitBase b + unitSize b) (h1 : a ≤ b) (h2 : b + bs.length ≤ a + n) :
    Adds a n s (writeUnit s b bs) where
  poison := by rw [writeUnit_poison, hb]; rfl
  ops := writeUnit_ops s b bs
  out x hx := by
    simp only [rdByte, writeUnit_mem, hb]
    exact fget_fsets_out 0 bs _ b x (by omega)
  bad x hx := by
    simp only [rdByte, writeUnit_mem, hb]
    refine fget_fsets_out 0 bs _ b x ?_
    by_contra hn
    have := (unit_same (a := b) (x := x) (by have := unitBase_le b; omega) (by omega)).2
    rw [bad_congr s this, hb] at hx
    cases hx

theorem adds_addPiece {a n b k : Nat} (r : Nat) (hu : b + k ≤ unitBase b + unitSize b) (h1 : a ≤ b) (h2 : b + k ≤ a + n) :
    Adds a n s (addPiece s r b k) := by
  have he : Adds a n s (addEvents s r b) := .of_stored (addEvents_stored s r b)
  unfold addPiece
  dsimp only
  split
  · exact he
  · next hbad =>
    have hf := freeBytes_stored k (addEvents s r b)
    have hp : (freeBytes k (addEvents s r b)).2.poison = (addEvents s r b).poison := congrArg (fun p => p.2.1) hf
    have hl := length_freeBytes k (addEvents s r b)
    refine he.trans (Adds.trans (.of_stored hf) (adds_writeUnit ?_ (by rw [hl]; exact hu) h1 (by rw [hl]; exact h2)))
    simpa only [bad, hp, Bool.not_eq_true] using hbad

theorem adds_addPieces (r : Nat) {a n : Nat} (l : List (Nat × List Byte))
    (hl : ∀ p ∈ l, p.1 + p.2.length ≤ unitBase p.1 + unitSize p.1 ∧ a ≤ p.1 ∧ p.1 + p.2.length ≤ a + n) (s : State) :
    Adds a n s (l.foldl (fun s p => addPiece s r p.1 p.2.length) s) := by
  induction l generalizing s with
  | nil => exact .of_stored rfl
  | cons p l ih =>
    obtain ⟨hu, h1, h2⟩ := hl p (by simp)
    exact (adds_addPiece r hu h1 h2).trans (ih (fun q hq => hl q (by simp [hq])) _)

theorem atomicAdd_adds (ho : m.op = 3) (hd : devOf m.dest = s.hub.deviceId)
    (hr : remoteReach s (localOf m.dest) m.data.length = true)
    (hf : fencedRange s (localOf m.dest) m.data.length = false) :
    Adds (localOf m.dest) m.data.length s (atomicAdd s r m) := by
  have h : atomicAdd s r m = (pieces m.data.length (localOf m.dest) m.data).foldl
      (fun s p => addPiece s r p.1 p.2.length) (takeMsg s r (.msg m)) := by
    simp [atomicAdd, forUs_of_op ho hd, remoteReach_takeMsg, hr, fencedRange_takeMsg, hf]
  rw [h]
  exact Adds.trans (t := takeMsg s r (.msg m)) (.of_stored rfl) (adds_addPieces r _ (fun p hp => pieces_bounds hp) _)

/-! ### O53 -/

theorem exec_remoteWrite (hr : r < 4) : exec (.remoteWrite r m) s = .next (remoteWrite s r m) :=
  congrArg Host.Outcome.next (if_pos hr)

theorem exec_readRequest (hr : r < 4) : exec (.readRequest r m) s = .next (readRequest s r m) :=
  congrArg Host.Outcome.next (if_pos hr)

/-- The clause on a write to a mailbox slot. -/
theorem remoteWrite_slot_spec (ho : m.op = 0) (hd : devOf m.dest = s.hub.deviceId) (hs : inSlots (localOf m.dest) = true)
    (ha : localOf m.dest % 16 = 0) (hn : m.data.length = 16) (hl : s.mbx.locked = true)
    (hv : bindValid s ((localOf m.dest - slotBase) / 16) = true)
    (hb : bindSend s ((localOf m.dest - slotBase) / 16) = proxyId s ⟨m.srcId, m.srcRegion⟩)
    (hf : (s.slot ((localOf m.dest - slotBase) / 16)).full = false) :
    ((remoteWrite s r m).slot ((localOf m.dest - slotBase) / 16)).full = true
      ∧ ((remoteWrite s r m).slot ((localOf m.dest - slotBase) / 16)).notice = m.data
      ∧ OnlyBytes (retryRanges s) s (remoteWrite s r m) ∧ answered s (remoteWrite s r m) r m [0] := by
  have hmay : mayWrite (takeMsg s r (.msg m)) (slotRequest r m) = true := by
    have hv' : bindValid (takeMsg s r (.msg m)) (channelOf (slotRequest r m)) = true := hv
    have hb' : writerOf (takeMsg s r (.msg m)) (slotRequest r m)
        = bindSend (takeMsg s r (.msg m)) (channelOf (slotRequest r m)) := hb.symm
    simp only [mayWrite, hv', hb']
    simp [slotRequest, ha, hn]
  have hfree : ¬((takeMsg s r (.msg m)).slot (channelOf (slotRequest r m))).full = true :=
    fun h => absurd (h.symm.trans hf) (by decide)
  have h := (remoteWrite_slot (r := r) ho hd hs).trans
    ((slotWrite_allowed (s := takeMsg s r (.msg m)) (w := slotRequest r m) hs hl hmay).trans (if_neg hfree))
  have hans := slotAnswer_answers ((takeMsg s r (.msg m)).setSlot (channelOf (slotRequest r m))
    (filledBy (takeMsg s r (.msg m)) (slotRequest r m))) (slotRequest r m) 0
  have hslot := (slot_congr (congrArg Mbx.slots hans.mbx) (channelOf (slotRequest r m))).trans
    ((slot_setSlot ..).trans (if_pos rfl))
  rw [h]
  refine ⟨(congrArg Slot.full hslot :), (congrArg Slot.notice hslot :), ?_, ?_⟩
  · exact Sends.toOnlyRetry (Sends.trans (t := State.setSlot _ _ _) (.of_media rfl) hans.sends) |>.onlyBytes
  · exact answered_sendMsg (u := State.setSlot _ _ _) [0] (takeMsg_ways s r (.msg m)) rfl

/-- The clause on a read of clean memory. -/
theorem readRequest_clean_spec (ho : m.op = 1) (hd : devOf m.dest = s.hub.deviceId)
    (hr : remoteReach s (localOf m.dest) m.length = true) (hf : fencedRange s (localOf m.dest) m.length = false)
    (hb : badRange s (localOf m.dest) m.length = false) :
    OnlyBytes (retryRanges s) s (readRequest s r m) ∧ (readRequest s r m).ops = s.ops
      ∧ answered s (readRequest s r m) r m (rdBytes s (localOf m.dest) m.length) := by
  rw [readRequest_clean ho hd hr hf hb]
  have hc := countReads_frame (takeMsg s r (.msg m)) (localOf m.dest) m.length
  have hu : { readCounted (takeMsg s r (.msg m)) (localOf m.dest) m.length with hbms := s.hbms, fresh := s.fresh }
      = takeMsg s r (.msg m) := congrArg (fun t : State => { t with fresh := s.fresh }) hc
  have hways : (readCounted (takeMsg s r (.msg m)) (localOf m.dest) m.length).ways = s.ways :=
    (congrArg State.ways hu :).trans (takeMsg_ways s r _)
  have hsends : Sends s (readCounted (takeMsg s r (.msg m)) (localOf m.dest) m.length) :=
    .of_media (congrArg State.media hu :)
  have hans := answered_sendMsg (r := r) (m := m) (rdBytes (takeMsg s r (.msg m)) (localOf m.dest) m.length) hways
    (congrArg (fun t : State => t.hub.deviceId) hu :)
  rw [length_rdBytes] at hans
  exact ⟨(hsends.trans (.sendMsg ..)).toOnlyRetry.onlyBytes,
    (ops_of_unsent (sendMsg_unsent ..)).trans (congrArg State.ops hu :), hans⟩

/-- The clause on bytes that come back. -/
theorem readResponse_fetches_spec {it : DmaItem} {w : Nat × Nat × Nat} (ho : m.op = 2)
    (hd : devOf m.dest = s.hub.deviceId)
    (hit : ((s.region r).dma.running.find? fun i => i.waits.any fun w => w.1 == m.mtag) = some it)
    (hw : (it.waits.find? fun w => w.1 == m.mtag) = some w) (hn : w.2.2 = m.data.length)
    (hmore : (it.waits.any fun w => w.1 != m.mtag) = true) :
    (readResponse s r m).mem = s.mem
      ∧ fetchedItem it m.mtag w.2.1 m.data ∈ ((readResponse s r m).region r).dma.running := by
  rw [readResponse_fetches ho hd hit hw hn hmore]
  refine ⟨rfl, ?_⟩
  rw [State.updDma, State.region_updRegion, if_pos rfl, takeMsg_dma]
  exact List.mem_map.2 ⟨it, List.mem_of_find?_eq_some hit, by simp⟩

/-- Settles O53, a case of each command at a time. -/
theorem remoteMemory : Obligations.RemoteMemory := by
  intro s r m hr hd
  dsimp only
  refine ⟨fun ho hs hreach hf => ?_, fun ho hs hreach => ?_, fun ho hs ha hn hl hv hb hf => ?_, fun ho hreach hf hb => ?_,
    fun ho hreach => ?_,
    fun ho hfree => ⟨fun it w hit hw => ⟨fun hn hmore => ?_, fun hn e he => ?_⟩, fun p e hit hp hb he => ?_⟩,
    fun ho hreach hf => ?_⟩
  · refine ⟨_, exec_remoteWrite hr, ?_⟩
    rw [remoteWrite_memory ho hd hs hreach hf]
    exact ⟨rdBytes_memWrite .., onlyBytes_memWrite (takeMsg s r (.msg m)) _ _,
      (ops_of_unsent (memWrite_unsent ..)).trans rfl⟩
  · refine ⟨_, exec_remoteWrite hr, ?_⟩
    have h := refuseRemote_spec s r m
    rw [if_neg (by simp [ho])] at h
    rw [remoteWrite_refused ho hd hs hreach]
    exact h
  · exact ⟨_, exec_remoteWrite hr, remoteWrite_slot_spec ho hd hs ha hn hl hv hb hf⟩
  · have h := readRequest_clean_spec (r := r) ho hd hreach hf hb
    rw [answered, answerTo] at h
    refine ⟨_, exec_readRequest hr, h⟩
  · refine ⟨_, exec_readRequest hr, ?_⟩
    obtain ⟨hby, hops, -, hans⟩ := refuseRemote_spec s r m
    rw [readRequest_refused ho hd hreach]
    simp only [ho, true_and] at hans
    exact ⟨hby, hops, hans⟩
  · obtain ⟨hm, hmem⟩ := readResponse_fetches_spec ho hd hit hw hn hmore
    refine ⟨_, _, execReadResponse_of_free hr hfree, hm, hmem, rfl, rfl, fun i hi => ?_⟩
    exact fget_fsets_in 0 m.data it.fetched w.2.1 i hi
  · obtain ⟨y, hy, hst⟩ := op?_addStat_bounds (s := takeMsg s r (.msg m)) he
    have h := (execReadResponse_of_free hr hfree).trans (congrArg Host.Outcome.next (readResponse_refusal ho hd hit hw hn))
    have hframe := dropWaits_frame ((takeMsg s r (.msg m)).addStat it.op stBOUNDS) it.op
    exact ⟨_, y, h, (op?_congr (congrArg State.ops hframe :) it.op).trans hy, hst, (congrArg State.mem hframe :)⟩
  · obtain ⟨y, hy, hst⟩ := op?_addStat_bounds (s := takeMsg s r (.msg m)) he
    have h := (execReadResponse_of_free hr hfree).trans (congrArg Host.Outcome.next (readResponse_wrote ho hd hit hp hb))
    exact ⟨_, y, h, hy, hst, rfl⟩
  · obtain ⟨hp, hops, hout, hbad⟩ := atomicAdd_adds (r := r) ho hd hreach hf
    exact ⟨_, congrArg Host.Outcome.next (if_pos hr), hp, hops, hout, hbad⟩

end Sys2Proof.Machine
end

section
/-! SUPPORT. Fences of cells, blocks and regions, with the operations that they end (R30 to R34), and the HBM controllers
(R258 to R262). -/

namespace Sys2Proof.Machine

variable {s t : State}

/-! ### Stopping the units of an operation -/

/-- All but the tables of cells, blocks and regions, and the numbers of free values. -/
def State.besideUnits (s : State) : State := { s with cells := [], blocks := [], regions := [], fresh := 0 }

theorem ops_of_besideUnits (h : t.besideUnits = s.besideUnits) : t.ops = s.ops := (congrArg State.ops h :)
theorem media_of_besideUnits (h : t.besideUnits = s.besideUnits) : t.media = s.media := (congrArg State.media h :)

theorem dropKept_besideUnits (s : State) (id : OpId) : (dropKept s id).besideUnits = s.besideUnits :=
  foldl_keeps State.besideUnits (keysOf s.cells)
    (fun s n => s.updArr n fun a => { a with kept := a.kept.filter fun p => p.op != id }) (fun _ _ => rfl) s

theorem stopArray_besideUnits (gone : OpId → Bool) (s : State) (n : Nat) :
    (stopArray gone s n).besideUnits = s.besideUnits := by
  unfold stopArray
  dsimp only
  split <;> rfl

theorem settleStop_besideUnits (s : State) (b : Nat) : (settleStop s b).besideUnits = s.besideUnits := by
  unfold settleStop
  split
  · split <;> rfl
  · rfl

theorem stopUnits_besideUnits (s : State) (id : OpId) : (stopUnits s id).besideUnits = s.besideUnits := by
  unfold stopUnits
  dsimp only
  rw [foldl_keeps State.besideUnits, foldl_keeps State.besideUnits, foldl_keeps State.besideUnits]
  · intro s n
    split
    · rfl
    · split
      · exact stopArray_besideUnits _ (s.updCell n _) n
      · rfl
  · intro s b
    exact settleStop_besideUnits (s.updBlock b _) b
  · intro s r
    rfl

/-! ### The operations that use a fenced unit -/

/-- The entry of an operation that a fence has ended (R32). -/
def faulted (d0 : DWord) (last : Nat) (e : OpEntry) : OpEntry :=
  { e.addStat stFAULT with phase := .aborting, preempt := false, d0 := d0, d1 := BitVec.ofNat 64 last }

theorem faulted_id (d0 : DWord) (last : Nat) (e : OpEntry) : (faulted d0 last e).id = e.id := by
  unfold faulted OpEntry.addStat
  split <;> rfl

/-- What a fence does to one operation. -/
theorem faultOp_eq {e : OpEntry} {id : OpId} (d0 : DWord) (last : Nat) (h : s.op? id = some e) :
    faultOp s d0 last id =
      match e.phase with
      | .aborting => s
      | .preempted => dropKept s id
      | _ => (stopUnits (dropKept s id) id).updOp id (faulted d0 last) := by
  unfold faultOp
  rw [h]
  rfl

theorem faultOp_of_none {id : OpId} (d0 : DWord) (last : Nat) (h : s.op? id = none) : faultOp s d0 last id = s := by
  unfold faultOp
  rw [h]

theorem stopped_besideUnits (s : State) (id : OpId) : (stopUnits (dropKept s id) id).besideUnits = s.besideUnits :=
  (stopUnits_besideUnits _ id).trans (dropKept_besideUnits s id)

/-- A fence ends an operation as an abort does, or drops what a preempted one has kept, or leaves it alone. -/
theorem faultOp_cases (s : State) (d0 : DWord) (last : Nat) (id : OpId) :
    ∃ u, u.besideUnits = s.besideUnits
      ∧ (faultOp s d0 last id = u ∨ faultOp s d0 last id = u.updOp id (faulted d0 last)) := by
  cases h : s.op? id with
  | none => exact ⟨s, rfl, .inl (faultOp_of_none d0 last h)⟩
  | some e =>
    rw [faultOp_eq d0 last h]
    split
    · exact ⟨s, rfl, .inl rfl⟩
    · exact ⟨_, dropKept_besideUnits s id, .inl rfl⟩
    · exact ⟨_, stopped_besideUnits s id, .inr rfl⟩

theorem faultOp_media (s : State) (d0 : DWord) (last : Nat) (id : OpId) : (faultOp s d0 last id).media = s.media := by
  obtain ⟨u, hu, h | h⟩ := faultOp_cases s d0 last id <;> rw [h]
  · exact media_of_besideUnits hu
  · exact (media_of_besideUnits hu :)

theorem faultOps_media (s : State) (d0 : DWord) (cells : List Nat) (uses : OpEntry → Bool) :
    (faultOps s d0 cells uses).media = s.media :=
  foldl_keeps State.media _ _ (fun a _ => faultOp_media a d0 _ _) s

/-- The operation is ended by a fence of the unit that `d0` names. -/
def Faulted (s : State) (d0 : DWord) (id : OpId) : Prop :=
  ∃ y, s.op? id = some y ∧ y.phase = .aborting ∧ stFAULT ∈ y.stats ∧ y.d0 = d0

variable {d0 : DWord} {id : OpId}

theorem faulted_congr (h : t.ops = s.ops) (hs : Faulted s d0 id) : Faulted t d0 id := by
  rwa [Faulted, op?_congr h]

theorem faulted_faultOp {e : OpEntry} (last : Nat) (h : s.op? id = some e) (ha : e.phase ≠ .aborting)
    (hp : e.phase ≠ .preempted) : Faulted (faultOp s d0 last id) d0 id := by
  have hops := ops_of_besideUnits (stopped_besideUnits s id)
  rw [faultOp_eq d0 last h]
  split
  · contradiction
  · contradiction
  · refine ⟨faulted d0 last e, op?_updOp_self (faulted_id d0 last) ((op?_congr hops id).trans h), rfl,
      mem_addStat _ _ (by decide), rfl⟩

theorem faultOp_op?_other {i : OpId} (last : Nat) (h : id ≠ i) : (faultOp s d0 last i).op? id = s.op? id := by
  obtain ⟨u, hu, he | he⟩ := faultOp_cases s d0 last i <;> rw [he]
  · exact op?_congr (ops_of_besideUnits hu) id
  · rw [State.op?_updOp u i id _ (faulted_id d0 last), if_neg h, op?_congr (ops_of_besideUnits hu)]

/-- A mark that a fence has made stays. -/
theorem Faulted.faultOp (last : Nat) (i : OpId) (h : Faulted s d0 id) : Faulted (faultOp s d0 last i) d0 id := by
  by_cases e : id = i
  · subst e
    have ⟨y, hy, hp, _⟩ := h
    rw [faultOp_eq d0 last hy, hp]
    exact h
  · rwa [Faulted, faultOp_op?_other last e]

theorem faulted_foldl_faultOp {x : OpEntry} {l : List OpEntry} (last : OpEntry → Nat) (ha : x.phase ≠ .aborting)
    (hp : x.phase ≠ .preempted) (h : Faulted s d0 x.id ∨ s.op? x.id = some x ∧ x ∈ l) :
    Faulted (l.foldl (fun a e => Machine.faultOp a d0 (last e) e.id) s) d0 x.id := by
  induction l generalizing s with
  | nil => exact h.resolve_right fun c => by simp at c
  | cons e l ih =>
    refine ih ?_
    obtain h | ⟨hx, hm⟩ := h
    · exact .inl (h.faultOp _ _)
    · by_cases hid : x.id = e.id
      · exact .inl (hid ▸ faulted_faultOp (last e) (hid ▸ hx) ha hp)
      · refine .inr ⟨(faultOp_op?_other _ hid).trans hx, (List.mem_cons.1 hm).resolve_left ?_⟩
        rintro rfl
        exact hid rfl

/-- Every operation that runs, or waits for its record, and uses the unit is ended. -/
theorem faulted_faultOps {x : OpEntry} {uses : OpEntry → Bool} (cells : List Nat) (hx : s.op? x.id = some x)
    (hc : x.isCtrl = false) (hp : x.phase = .running ∨ x.phase = .finished) (hu : uses x = true) :
    Faulted (faultOps s d0 cells uses) d0 x.id := by
  refine faulted_foldl_faultOp (fun e => lastTileOf s cells e.id) ?_ ?_ (.inr ⟨hx, List.mem_filter.2
    ⟨List.mem_of_find?_eq_some hx, by simp [hc, hu]⟩⟩)
  · obtain hp | hp := hp <;> simp [hp]
  · obtain hp | hp := hp <;> simp [hp]

theorem Faulted.finishOp (i : OpId) (st : Nat) (h : Faulted s d0 id) : Faulted (s.finishOp i st) d0 id := by
  obtain ⟨y, hy, hp, hst, hd⟩ := h
  refine ⟨y, ?_, hp, hst, hd⟩
  rw [State.op?_finishOp]
  split
  · next e =>
    subst e
    rw [hy, Option.map_some, OpEntry.finish, hp]
  · exact hy

/-! ### Launches that are held -/

/-- What a refused launch leaves of the units: the blocks, and the contexts of the cells. -/
def State.busy (s : State) : FMap Block × (Nat → FMap Ctx) := (s.blocks, fun n => (s.cell n).ctxs)

theorem dropKept_busy (s : State) (id : OpId) : (dropKept s id).busy = s.busy := by
  refine foldl_keeps State.busy (keysOf s.cells)
    (fun s n => s.updArr n fun a => { a with kept := a.kept.filter fun p => p.op != id }) (fun s n => ?_) s
  refine Prod.ext rfl (funext fun i => ?_)
  dsimp only [State.busy]
  rw [State.updArr, State.cell_updCell]
  split
  · next e => rw [e]; rfl
  · rfl

theorem refuseHeld_media (s : State) : (refuseHeld s).media = s.media :=
  foldl_keeps State.media _ _ (by intro s e; exact (media_of_besideUnits (dropKept_besideUnits s e.id) :)) s

theorem refuseHeld_standing (s : State) : (refuseHeld s).standing = s.standing :=
  foldl_keeps State.standing _ _ (by intro s e; simp) s

theorem refuseHeld_busy (s : State) : (refuseHeld s).busy = s.busy :=
  foldl_keeps State.busy _ _ (by intro s e; exact (dropKept_busy s e.id :)) s

theorem Faulted.refuseHeld (h : Faulted s d0 id) : Faulted (refuseHeld s) d0 id := by
  unfold Machine.refuseHeld
  generalize s.ops.filter _ = l
  induction l generalizing s with
  | nil => exact h
  | cons e l ih =>
    exact ih (Faulted.finishOp e.id stFENCED (faulted_congr (ops_of_besideUnits (dropKept_besideUnits s e.id)) h))

/-! ### RGN_FENCE and Cantle's record -/

theorem setFence_region (s : State) (r bit store i : Nat) : (setFence s r bit store).region i
    = if i = r then { s.region i with fence := (s.region i).fence ||| BitVec.ofNat 64 (2 ^ bit) } else s.region i := by
  refine (State.region_updRegion s r i fun g => { g with fence := _ }).trans ?_
  by_cases h : i = r
  · rw [if_pos h, if_pos h, h]
  · rw [if_neg h, if_neg h]

theorem testBit_setFence (s : State) (r bit store : Nat) : (setFence s r bit store).store.fences.testBit store = true := by
  simp [setFence, Nat.testBit_or, Nat.testBit_two_pow_self]

/-- The bit of a fence in RGN_FENCE, in a state that stands as `setFence` left it. -/
theorem fence_bit_of_standing {r bit store : Nat} (hb : bit < 64) (h : t.standing = (setFence s r bit store).standing) :
    (t.region r).fence.getLsbD bit = true := by
  rw [fence_of_standing h, setFence_region, if_pos rfl]
  exact getLsbD_or_two_pow _ hb

theorem store_bit_of_standing {r bit store : Nat} (h : t.standing = (setFence s r bit store).standing) :
    t.store.fences.testBit store = true := by
  rw [fences_of_standing h]
  exact testBit_setFence ..

/-! ### A cell is fenced -/

/-- The state as the fence of a cell leaves it, but for the launches that are held. -/
def cellFenced (s : State) (n : Nat) : State :=
  settleStop ((setFence (faultOps s (faultUnit 8 n) [n] (usesCell s n)) (n / 40) (n % 40) (48 + n)).updCell n clearedCell)
    (n / 8)

theorem fenceCellNow_eq (s : State) (n : Nat) : fenceCellNow s n = refuseHeld (cellFenced s n) := rfl

theorem fenceCellNow_standing (s : State) (n : Nat) : (fenceCellNow s n).standing
    = (setFence (faultOps s (faultUnit 8 n) [n] (usesCell s n)) (n / 40) (n % 40) (48 + n)).standing := by
  rw [fenceCellNow_eq, refuseHeld_standing, cellFenced, settleStop_standing, State.updCell_standing]

theorem fenceCellNow_media (s : State) (n : Nat) : (fenceCellNow s n).media = s.media := by
  rw [fenceCellNow_eq, refuseHeld_media, cellFenced, media_of_besideUnits (settleStop_besideUnits _ _)]
  exact faultOps_media ..

theorem settleStop_cell (s : State) (b n : Nat) : (settleStop s b).cell n = s.cell n := by
  unfold settleStop
  split
  · split <;> rfl
  · rfl

/-- The contexts of the cell are gone. -/
theorem fenceCellNow_ctxs (s : State) (n : Nat) : ((fenceCellNow s n).cell n).ctxs = [] := by
  have h := congrFun (congrArg Prod.snd (refuseHeld_busy (cellFenced s n))) n
  refine h.trans ?_
  dsimp only [State.busy]
  rw [cellFenced, settleStop_cell, State.cell_updCell, if_pos rfl]
  rfl

theorem fenceCellNow_faults {x : OpEntry} (n : Nat) (hx : s.op? x.id = some x) (hc : x.isCtrl = false)
    (hp : x.phase = .running ∨ x.phase = .finished) (hu : usesCell s n x = true) :
    Faulted (fenceCellNow s n) (faultUnit 8 n) x.id := by
  rw [fenceCellNow_eq]
  refine Faulted.refuseHeld (faulted_congr (ops_of_besideUnits (settleStop_besideUnits _ _)) ?_)
  exact faulted_congr (s := faultOps s (faultUnit 8 n) [n] (usesCell s n)) rfl (faulted_faultOps [n] hx hc hp hu)

/-! ### A block is fenced -/

/-- The cells of a block. -/
def cellsIn (b : Nat) : List Nat := (List.range 8).map (8 * b + ·)

def blockFenced (s : State) (b : Nat) : State :=
  (markBlock (faultOps s (faultUnit 16 b) (cellsIn b) (usesBlock s b)) b).updBlock b clearedBlock

theorem fenceBlockNow_eq (s : State) (b : Nat) :
    fenceBlockNow s b = refuseHeld ((cellsIn b).foldl (fun s n => s.updCell n clearedCell) (blockFenced s b)) := rfl

theorem fenceBlockNow_standing (s : State) (b : Nat) : (fenceBlockNow s b).standing
    = (markBlock (faultOps s (faultUnit 16 b) (cellsIn b) (usesBlock s b)) b).standing := by
  rw [fenceBlockNow_eq, refuseHeld_standing, foldl_standing _ _ fun s n => State.updCell_standing s n _, blockFenced,
    State.updBlock_standing]

theorem fenceBlockNow_media (s : State) (b : Nat) : (fenceBlockNow s b).media = s.media := by
  rw [fenceBlockNow_eq, refuseHeld_media]
  exact (foldl_keeps State.media _ _ (by intro s n; rfl) _).trans (faultOps_media ..)

theorem fenceBlockNow_job (s : State) (b : Nat) : ((fenceBlockNow s b).block b).job = none := by
  have h : (fenceBlockNow s b).blocks = (blockFenced s b).blocks := by
    rw [fenceBlockNow_eq]
    exact (congrArg Prod.fst (refuseHeld_busy _)).trans (foldl_keeps State.blocks _ _ (by intro s n; rfl) _)
  rw [State.block, h, ← State.block, blockFenced, State.block_updBlock, if_pos rfl]
  rfl

/-- RGN_FENCE of the region of a fenced block: its own bit, and those of its eight cells. -/
theorem markBlock_fence (s : State) (b : Nat) : ((markBlock s b).region (b / 5)).fence
    = ((s.region (b / 5)).fence ||| BitVec.ofNat 64 (2 ^ (40 + b % 5)))
      ||| BitVec.ofNat 64 (255 * 2 ^ (8 * (b % 5))) := by
  rw [markBlock, State.region_updRegion, if_pos rfl, setFence_region, if_pos rfl]

theorem testBit_cells {k i : Nat} (hk : k < 5) (hi : i < 8) :
    (BitVec.ofNat 64 (255 * 2 ^ (8 * k))).getLsbD (8 * k + i) = true := by
  rw [BitVec.getLsbD_ofNat, ← Nat.shiftLeft_eq, Nat.testBit_shiftLeft, Nat.add_sub_cancel_left,
    show 255 = 2 ^ 8 - 1 from rfl, Nat.testBit_two_pow_sub_one]
  simp [hi]
  omega

theorem fencedBlock_fenceBlockNow (s : State) (b : Nat) : fencedBlock (fenceBlockNow s b) b = true := by
  have h := fence_of_standing (fenceBlockNow_standing s b) (b / 5)
  rw [markBlock_fence] at h
  rw [fencedBlock, h, BitVec.getLsbD_or, getLsbD_or_two_pow _ (by omega)]
  rfl

theorem fencedCell_fenceBlockNow (s : State) (b : Nat) {i : Nat} (hi : i < 8) :
    fencedCell (fenceBlockNow s b) (8 * b + i) = true := by
  have h := fence_of_standing (fenceBlockNow_standing s b) (b / 5)
  rw [markBlock_fence] at h
  rw [fencedCell, show (8 * b + i) / 40 = b / 5 by omega, show (8 * b + i) % 40 = 8 * (b % 5) + i by omega, h,
    BitVec.getLsbD_or, testBit_cells (Nat.mod_lt _ (by decide)) hi, Bool.or_true]
  rfl

/-! ### A region is fenced -/

theorem Sends.putRound (s : State) (x : Round) : Sends s (putRound s x) := .of_media rfl

theorem Sends.treeSend (s : State) (rank typ : Nat) (body : List Byte) : Sends s (treeSend s rank typ body) :=
  .reachBridle ..

theorem markAbort_media (s : State) (id : OpId) : (markAbort s id).media = s.media := by
  unfold markAbort
  dsimp only
  split
  · rfl
  · split
    · rfl
    · exact (media_of_besideUnits (dropKept_besideUnits s id) :)
    · exact (media_of_besideUnits (stopped_besideUnits s id) :)

theorem abandonStep_media (s : State) (n : Nat) : (abandonStep s n).media = s.media := by
  unfold abandonStep abortColls abortStep
  exact (foldl_keeps State.media _ _ (by intro s r; rfl) _).trans
    ((foldl_keeps State.media _ _ (by intro s e; exact markAbort_media s e.id) _).trans
      (foldl_keeps State.media _ _ (by intro s e; exact markAbort_media s e.id) _))

theorem endCommit_media (s : State) (st result reason firstNo durable : Nat) :
    (endCommit s st result reason firstNo durable).media = s.media := by
  unfold endCommit
  split
  · rfl
  · dsimp only
    split <;> rfl

theorem applyWithdraw_media (s : State) (step : Nat) : (applyWithdraw s step).media = s.media :=
  (endCommit_media (abandonStep s (step + 1)) ..).trans (abandonStep_media s _)

/-- A result of a durability round. -/
theorem Sends.passResult {s : State} {result : Nat} (h : 2 ≤ result) (recover reason step durable firstNo : Nat) :
    Sends s (passResult s result recover reason step durable firstNo) := by
  unfold Machine.passResult
  refine Sends.trans (Sends.foldl (ownChildren s)
    (fun u c _ => .treeSend u c 6 (resultBody s result recover reason step durable firstNo)) s) ?_
  match result, h with
  | 2, _ => exact .of_media rfl
  | _ + 3, _ => exact .of_media (applyWithdraw_media _ _)

theorem Sends.settleRound (s : State) (step : Nat) : Sends s (settleRound s step 1) := by
  unfold Machine.settleRound
  dsimp only
  split
  · exact .refl s
  · split
    · exact .refl s
    · split
      · exact .refl s
      · refine Sends.trans (.putRound s { roundAt s step 1 with sent := true }) ?_
        split
        · refine .passResult ?_ _ _ _ _ _
          split
          · contradiction
          · split <;> decide
        · exact .treeSend ..

/-- The loss of a slot region is a vote for withdrawal at most, and writes no memory but where its messages are kept. -/
theorem Sends.lossVote (s : State) : Sends s (lossVote s) := by
  unfold Machine.lossVote castVote
  dsimp only
  split
  · split
    · exact .refl s
    · exact (Sends.putRound s _).trans (.settleRound _ _)
  · exact .refl s

/-- A link goes down, and its tunnels with it. -/
theorem onlyRetry_updLink_down (s : State) (l : Nat) {f : Link → Link} (h : (f (s.link l)).tunnels = []) :
    OnlyRetry s (s.updLink l f) where
  bytes _ _ _ := rfl
  sound _ h := h
  area i hi := by
    rw [State.link_updLink] at hi ⊢
    split at hi
    · exact absurd h hi.2
    · next hne => rw [if_neg hne]; exact ⟨hi, rfl⟩

theorem OnlyRetry.refl (s : State) : OnlyRetry s s := (Sends.refl s).toOnlyRetry

theorem OnlyRetry.of_media (h : t.media = s.media) : OnlyRetry s t := (Sends.of_media h).toOnlyRetry

theorem OnlyRetry.after_foldl {α : Type} {l : List α} {f : State → α → State} (h : OnlyRetry s t)
    (hf : ∀ u x, OnlyRetry u (f u x)) : OnlyRetry s (l.foldl f t) := by
  induction l generalizing t with
  | nil => exact h
  | cons a l ih => exact ih (h.trans (hf t a))

theorem OnlyRetry.after_updRegion {r : Nat} {f : Region → Region} (h : OnlyRetry s t) : OnlyRetry s (t.updRegion r f) :=
  h.trans (.of_media rfl)

theorem onlyRetry_clearRegion (s : State) (r : Nat) : OnlyRetry s (clearRegion s r) := by
  unfold clearRegion
  refine .after_updRegion (.after_foldl (.after_foldl (.after_foldl (.after_foldl (.refl s) ?_) ?_) ?_) ?_)
  · exact fun u n => .of_media rfl
  · exact fun u b => .of_media rfl
  · exact fun u l => onlyRetry_updLink_down u l rfl
  · exact fun u h => .of_media rfl

theorem clearRegion_standing (s : State) (r : Nat) : (clearRegion s r).standing = s.standing := by
  unfold clearRegion
  simp

theorem refuseHome_media (s : State) (r : Nat) : (refuseHome s r).media = s.media :=
  foldl_keeps State.media _ _ (by intro s e; rfl) s

/-- The state in which a region's fence is marked. -/
def regionMarked (s : State) (r : Nat) : State :=
  setFence (refuseHome (faultOps s (faultUnit 24 r) ((List.range 40).map (40 * r + ·)) (usesRegion s r)) r) r 63 r

theorem fenceRegionNow_eq {r : Nat} (h : fencedRegion s r = false) :
    fenceRegionNow s r = (let t := refuseHeld (clearRegion (regionMarked s r) r)
      if (List.range 4).all (fencedRegion t) then deviceFault t else lossVote t) := by
  unfold fenceRegionNow
  rw [if_neg (by simp [h])]
  rfl

theorem fenceRegionNow_standing {r : Nat} (h : fencedRegion s r = false) :
    (fenceRegionNow s r).standing = (regionMarked s r).standing := by
  rw [fenceRegionNow_eq h]
  have hs : (refuseHeld (clearRegion (regionMarked s r) r)).standing = (regionMarked s r).standing :=
    (refuseHeld_standing _).trans (clearRegion_standing _ r)
  dsimp only
  split
  · exact hs
  · exact (lossVote_standing _).trans hs

theorem onlyRetry_fenceRegionNow {r : Nat} (h : fencedRegion s r = false) : OnlyRetry s (fenceRegionNow s r) := by
  rw [fenceRegionNow_eq h]
  have hm : (regionMarked s r).media = s.media := (refuseHome_media _ r).trans (faultOps_media ..)
  have ht : OnlyRetry s (refuseHeld (clearRegion (regionMarked s r) r)) :=
    ((OnlyRetry.of_media hm).trans (onlyRetry_clearRegion _ r)).trans (.of_media (refuseHeld_media _))
  dsimp only
  split
  · exact ht.trans (.of_media rfl)
  · exact ht.trans (Sends.lossVote _).toOnlyRetry

/-! ### A link is fenced -/

theorem store_bit_fenceLink {l : Nat} (h : (s.link l).st ≠ 4) :
    (fenceLink s l).store.fences.testBit (24 + l) = true := by
  rw [fences_of_standing (fenceLink_after h).2]
  simp [markLink, fenceBit, Nat.testBit_or, Nat.testBit_two_pow_self]

/-! ### The HBM controllers -/

theorem hbmCtr_bump_other (k : Hbm) {o : Nat} (n : Nat) (h : o ≠ 0x08) :
    fget 0 (k.bump o n).ctr 0x08 = fget 0 k.ctr 0x08 := fget_fset_ne _ _ _ h.symm

/-- The failed read of a sound block poisons it. -/
def poisonBlock (s : State) (h a : Nat) : State :=
  (setBad s a true).updHbm h fun k => { k.bump 0x28 1 with poisonLast := unitBase a }

/-- A read that returns, with the counters of its stack. -/
theorem readReturn_eq {h a : Nat} (n : Nat) (ha : a < hbmTop) (hs : stackOf a = h) (hf : fencedAddr s a = false) :
    readReturn s h a n =
      let s1 := s.updHbm h (Hbm.bump 0x08 64)
      let s2 := if !bad s a ∧ 1 ≤ n ∧ n ≤ 3 then s1.updHbm h (Hbm.bump 0x20 1) else s1
      let s3 := if !bad s a && (bad s a || decide (4 ≤ n)) then poisonBlock s2 h a else s2
      if bad s a || decide (4 ≤ n) then s3.updHbm h (Hbm.bump 0x30 1) else s3 := by
  unfold readReturn
  rw [if_neg (by simp [ha, hs, hf])]
  rfl

theorem hbm_updHbm_same (s : State) (h : Nat) (f : Hbm → Hbm) : (s.updHbm h f).hbm h = f (s.hbm h) := by
  rw [State.hbm_updHbm, if_pos rfl]

theorem poisonBlock_hbm (s : State) (h a : Nat) :
    fget 0 ((poisonBlock s h a).hbm h).ctr 0x08 = fget 0 (s.hbm h).ctr 0x08 := by
  rw [poisonBlock, hbm_updHbm_same]
  exact hbmCtr_bump_other _ 1 (by decide)

theorem updHbm_bump_other (s : State) (h : Nat) {o : Nat} (ho : o ≠ 0x08) :
    fget 0 ((s.updHbm h (Hbm.bump o 1)).hbm h).ctr 0x08 = fget 0 (s.hbm h).ctr 0x08 := by
  rw [hbm_updHbm_same]
  exact hbmCtr_bump_other _ 1 ho

theorem readReturn_spec {h a : Nat} (n : Nat) (ha : a < hbmTop) (hs : stackOf a = h) (hf : fencedAddr s a = false) :
    (readReturn s h a n).mem = s.mem
      ∧ fget 0 ((readReturn s h a n).hbm h).ctr 0x08 = fget 0 (s.hbm h).ctr 0x08 + 64
      ∧ (n ≤ 3 → (readReturn s h a n).poison = s.poison) ∧ (4 ≤ n → bad (readReturn s h a n) a = true) := by
  have h1 : fget 0 ((s.updHbm h (Hbm.bump 0x08 64)).hbm h).ctr 0x08 = fget 0 (s.hbm h).ctr 0x08 + 64 := by
    rw [hbm_updHbm_same]
    exact fget_fset_same ..
  rw [readReturn_eq n ha hs hf]
  cases hb : bad s a with
  | true =>
    simp only [Bool.not_true, Bool.false_eq_true, false_and, if_false, Bool.true_or, Bool.false_and, if_true]
    exact ⟨rfl, (updHbm_bump_other _ h (by decide)).trans h1, fun _ => rfl, fun _ => hb⟩
  | false =>
    by_cases hn : n ≤ 3
    · have hn' : ¬ 4 ≤ n := by omega
      simp only [hn, hn', Bool.not_false, decide_false, Bool.or_false, Bool.and_false, Bool.false_eq_true, if_false]
      split
      · exact ⟨rfl, (updHbm_bump_other _ h (by decide)).trans h1, fun _ => rfl, fun c => c.elim⟩
      · exact ⟨rfl, h1, fun _ => rfl, fun c => c.elim⟩
    · have hn' : 4 ≤ n := by omega
      simp only [hn, hn', Bool.not_false, decide_true, Bool.or_true, Bool.and_true, and_false, if_false, if_true]
      exact ⟨rfl, (updHbm_bump_other _ h (by decide)).trans ((poisonBlock_hbm _ h a).trans h1), fun c => c.elim,
        fun _ => (bad_setBad _ a a true).trans (if_pos rfl)⟩

theorem writeAccept_eq {w : HbmWrite} (hid : idOk w.master = true) (hd : w.data ≠ [])
    (hb : w.addr % 64 + w.data.length ≤ 64) (ht : w.addr + w.data.length ≤ hbmTop) :
    writeAccept s w =
      if fencedAddr s w.addr then fencedWrite s w
      else match w.op with
        | none => writeUnit s w.addr w.data
        | some id => match s.op? id with
          | some e => acceptFor s w e
          | none => s :=
  if_neg (by simp [hid, hd, ht, hb])

theorem within_block {a n : Nat} (h : a % 64 + n ≤ 64) (ha : a < hbmTop) : a + n ≤ unitBase a + unitSize a := by
  unfold unitBase unitSize
  rw [if_pos ha]
  omega

/-- A write within one block, by a unit or by a running operation that may write there. -/
theorem writeAccept_mem {w : HbmWrite} (hid : idOk w.master = true) (hd : w.data ≠ [])
    (hb : w.addr % 64 + w.data.length ≤ 64) (ht : w.addr + w.data.length ≤ hbmTop) (hf : fencedAddr s w.addr = false)
    (hop : w.op = none ∨ ∃ e, w.op = some e.id ∧ s.op? e.id = some e ∧ e.phase = .running ∧ e.cls ≠ clsUPD
      ∧ slotOk s e.cls w.addr w.data.length = true) :
    (writeAccept s w).mem = (memWrite s w.addr w.data).mem := by
  rw [writeAccept_eq hid hd hb ht, if_neg (by simp [hf])]
  obtain h | ⟨e, h, he, hp, hc, hs⟩ := hop
  · have h0 : 0 < w.data.length := List.length_pos_iff.2 hd
    rw [h, memWrite_eq, pieces_single h0 h0 (within_block hb (by omega))]
    rfl
  · simp only [h, he]
    rw [acceptFor, hp, hs]
    exact opWrite_mem s e.id w.priv w.addr w.data hc

theorem endKernel_mem (s : State) (id : OpId) (st : Nat) (d0 : DWord) : (endKernel s id st d0).mem = s.mem := by
  unfold endKernel stopKernel
  split
  · exact foldl_keeps State.mem _ _ (by intro u n; rfl) s
  · rfl

theorem fencedWrite_mem (s : State) (w : HbmWrite) : (fencedWrite s w).mem = s.mem := by
  unfold fencedWrite
  split
  · split
    · rfl
    · split
      · exact endKernel_mem ..
      · rfl
  · split <;> rfl

/-- Settles O56, a class of Table 1-7 at a time, and then the two accesses of an HBM controller. -/
theorem errorsAndFences : Obligations.ErrorsAndFences := by
  intro s
  refine ⟨fun n hn => ?_, fun b hb => ?_, fun r hr => ?_, fun a n ha hf => ?_, fun n k hn hk => ?_, fun n hn hf => ?_,
    fun b hb hf => ?_, fun l hl hst => ?_, fun r hr hf => ?_, ?_, fun h a n _ ha hs hf => ?_,
    fun w hid hd hb ht hf hop => ?_, fun w hid hd hb ht hf => ?_⟩
  · exact ⟨_, congrArg Host.Outcome.next (if_pos hn), rfl, (State.cell_updCell ..).trans (if_pos rfl)⟩
  · exact ⟨_, congrArg Host.Outcome.next (if_pos hb), rfl, (State.block_updBlock ..).trans (if_pos rfl)⟩
  · exact ⟨_, congrArg Host.Outcome.next (if_pos hr), rfl, (State.region_updRegion ..).trans (if_pos rfl)⟩
  · have h : poisonWord s a = (setBad s a true).updCell n (Cell.bump offStorePoison 1) := by simp [poisonWord, ha, hf]
    refine ⟨_, congrArg Host.Outcome.next h, (bad_setBad s a a true).trans (if_pos rfl), rfl, fun x hx => ?_⟩
    exact (bad_setBad s a x true).trans (if_neg hx)
  · refine ⟨_, congrArg Host.Outcome.next (if_pos ⟨hn, hk⟩), rfl, ?_⟩
    rw [State.cell_updCell, if_pos rfl]
    exact fget_fupd_same {} (s.cell n).curves k fun v => { v with poisoned := true }
  · have hst := fenceCellNow_standing s n
    refine ⟨_, congrArg Host.Outcome.next (if_pos ⟨hn, by simp [hf]⟩), ?_, store_bit_of_standing hst,
      fenceCellNow_ctxs s n, (congrArg Prod.fst (fenceCellNow_media s n) :),
      fun x hx hc hp hu => fenceCellNow_faults n hx hc hp hu⟩
    rw [fencedCell, fence_bit_of_standing (by omega) hst]
    rfl
  · refine ⟨_, congrArg Host.Outcome.next (if_pos ⟨hb, by simp [hf]⟩), fencedBlock_fenceBlockNow s b, ?_,
      fenceBlockNow_job s b, (congrArg Prod.fst (fenceBlockNow_media s b) :), fun i hi => fencedCell_fenceBlockNow s b hi⟩
    rw [fences_of_standing (fenceBlockNow_standing s b)]
    exact testBit_setFence ..
  · have hfall := fallen_fenceLink hst
    refine ⟨_, congrArg Host.Outcome.next (if_pos hl), hfall.st, ?_, store_bit_fenceLink hst,
      (onlyRetry_fenceLink s l).onlyBytes⟩
    rw [fencedLink, hfall.bit]
    rfl
  · have hst := fenceRegionNow_standing hf
    exact ⟨_, congrArg Host.Outcome.next (if_pos hr), fence_bit_of_standing (by decide) hst, store_bit_of_standing hst,
      (onlyRetry_fenceRegionNow hf).onlyBytes⟩
  · exact ⟨_, rfl, rfl⟩
  · exact ⟨_, rfl, readReturn_spec n ha hs hf⟩
  · have hm := writeAccept_mem hid hd hb ht hf hop
    refine ⟨_, rfl, (rdBytes_congr hm _ _).trans (rdBytes_memWrite ..), fun x hx hbad => ?_⟩
    have := onlyBytes_memWrite s w.addr w.data x hx hbad
    simpa only [rdByte, hm] using this
  · have h := (writeAccept_eq hid hd hb ht).trans (if_pos hf)
    refine ⟨_, congrArg Host.Outcome.next h, fencedWrite_mem s w, fun hop hm => ?_⟩
    have hl : localId w.master = true := by simp [localId, hid]; omega
    simp [fencedWrite, hop, hl, hm]

end Sys2Proof.Machine
end

section
/-! SUPPORT. Loads of codebooks, format descriptors and curves into cells (R54, R56, R58, R178, R187): what the cells hold
until a kernel boundary, and what a boundary makes of it. -/

namespace Sys2Proof.Machine

variable {s t : State} {e : OpEntry}

/-! ### What a cell holds -/

/-- A cell that has one load more to take. -/
def Cell.hold (x : TableLoad) (c : Cell) : Cell := { c with held := c.held ++ [x] }

/-- Cells named once each hold one load more, and the others what they held. -/
theorem cell_holdLoad {cells : List Nat} (hc : cells.Nodup) (x : TableLoad) (n : Nat) :
    (holdLoad s cells x).cell n = if n ∈ cells then (s.cell n).hold x else s.cell n := by
  induction cells generalizing s with
  | nil => rfl
  | cons m ms ih =>
    obtain ⟨hm, hms⟩ := List.nodup_cons.1 hc
    have h : (holdLoad s (m :: ms) x).cell n = (holdLoad (s.updCell m (Cell.hold x)) ms x).cell n := rfl
    rw [h, ih hms, State.cell_updCell]
    by_cases hn : n = m
    · subst hn; simp [hm]
    · simp [hn]

theorem holdLoad_frame (s : State) (cells : List Nat) (x : TableLoad) :
    { holdLoad s cells x with cells := s.cells } = s :=
  foldl_keeps (fun t : State => { t with cells := s.cells }) cells (fun s n => s.updCell n (Cell.hold x))
    (fun _ _ => rfl) s

theorem nodup_cellsOf (r m : Nat) : (cellsOf r m).Nodup :=
  (nodup_bitsOf 40 m).map fun _ _ h => Nat.add_left_cancel h

/-! ### A load that is not refused -/

theorem loadStatus_eq_OK {cells : List Nat} {size : Nat} {img : List Byte → Bool} (hfence : cells.any (fencedCell s) = false)
    (hrange : size ≠ 0 → rangeStatus s e.resident e.tImage size = stOK) (hbad : badRange s e.tImage size = false)
    (himg : img (rdBytes s e.tImage size) = true) : loadStatus s e cells true size img = stOK := by
  have hst : (if size = 0 then stOK else rangeStatus s e.resident e.tImage size) = stOK := by
    split
    · rfl
    · next h => exact hrange h
  simp only [loadStatus, hst, hfence, hbad, himg]
  rfl

theorem imageRead_OK (size : Nat) : imageRead s e size stOK = countReads s e.tImage size := if_pos (.inl rfl)

/-- The named cells hold the load `x`, and the controllers have counted the read of its image. -/
def loadHeld (s : State) (e : OpEntry) (size : Nat) (x : TableLoad) : State :=
  holdLoad (countReads s e.tImage size) (cellsOf e.region e.tCells) x

theorem loadHeld_frame (size : Nat) (x : TableLoad) :
    { loadHeld s e size x with cells := s.cells, hbms := s.hbms } = s := by
  have h := holdLoad_frame (countReads s e.tImage size) (cellsOf e.region e.tCells) x
  rw [countReads_eq] at h
  rw [loadHeld, countReads_eq]
  exact congrArg (fun u : State => { u with hbms := s.hbms }) h

theorem loadHeld_cell {n : Nat} (size : Nat) (x : TableLoad) (hn : n ∈ cellsOf e.region e.tCells) :
    (loadHeld s e size x).cell n = (s.cell n).hold x := by
  rw [loadHeld, cell_holdLoad (nodup_cellsOf ..), if_pos hn, countReads_eq]
  rfl

theorem op?_loadHeld (size : Nat) (x : TableLoad) (id : OpId) : (loadHeld s e size x).op? id = s.op? id :=
  op?_congr (congrArg State.ops (loadHeld_frame size x) :) id

/-- The load has ended with OK, its cells hold it, and beside the counts of the HBM controllers nothing else changes. -/
def LoadWaits (s t : State) (e : OpEntry) (x : TableLoad) : Prop :=
  Ends t e stOK ∧ { t with ops := s.ops, cells := s.cells, hbms := s.hbms } = s
    ∧ ∀ n ∈ cellsOf e.region e.tCells, t.cell n = (s.cell n).hold x

theorem loadWaits_finish {opc : Nat} (h : Admitted s opc e) (size : Nat) (x : TableLoad) :
    LoadWaits s ((loadHeld s e size x).finishOp e.id stOK) e x := by
  obtain ⟨hop, -, hph⟩ := h
  exact ⟨ends_finishOp stOK ((op?_loadHeld size x e.id).trans hop) (by simp [hph]) rfl,
    congrArg (fun u : State => { u with ops := s.ops }) (loadHeld_frame size x), fun n hn => loadHeld_cell size x hn⟩

/-- CURVE_LOAD also sets D0 of its record. -/
theorem LoadWaits.after_d0 {x : TableLoad} (h : LoadWaits s t e x) (d : DWord) :
    LoadWaits s (t.updOp e.id fun y => { y with d0 := d }) e x := by
  obtain ⟨⟨y, hy, hp, hs⟩, hframe, hcells⟩ := h
  exact ⟨⟨_, op?_updOp_self (fun _ => rfl) hy, hp, hs⟩, hframe, hcells⟩

/-! ### CODEBOOK_LOAD, FMT_LOAD, CURVE_LOAD -/

section
variable (hz : tableZeros e = true) (hcells : cellsFieldOk e.tCells = true) (h1 : e.tArg1 = 0)
  (hfence : (cellsOf e.region e.tCells).any (fencedCell s) = false)
include hz hcells h1 hfence

/-- CODEBOOK_LOAD in form (R54): the cells hold the codes of its image. -/
theorem codebookLoad_eq (h : Admitted s 0x301 e) {size : Nat} (hsz : size = if e.tKind = 0 then 16 else 512)
    (h0 : e.tArg0 = 0) (hkind : e.tKind ≤ 1) (hsize : e.tSize = size) (hslot : e.tSlot < if e.tKind = 0 then 4 else 2)
    (hrange : rangeStatus s e.resident e.tImage size = stOK) (hbad : badRange s e.tImage size = false) :
    codebookLoad s e.id = (loadHeld s e size (if e.tKind = 0 then .cb16 e.tSlot (rdBytes s e.tImage size)
      else .cb256 e.tSlot (rdBytes s e.tImage size))).finishOp e.id stOK := by
  have hst := loadStatus_eq_OK (img := fun _ => true) hfence (fun _ => hrange) hbad rfl
  unfold codebookLoad
  rw [admittedOp_of_admitted h]
  simp only [← hsz, hz, hcells, h0, h1, hkind, hsize, hslot, decide_true, beq_self_eq_true, Bool.and_self, hst,
    imageRead_OK, rdBytes_countReads, ne_eq, not_true_eq_false, if_false]
  rfl

/-- FMT_LOAD in form, of descriptors that R59 lets in: the cells hold the words of its image. -/
theorem fmtLoad_eq (h : Admitted s 0x302 e) (h0 : e.tArg0 = 0) (hkind : e.tKind = 0) (hslot : e.tSlot = 0)
    (hsize : e.tSize = 64) (hrange : rangeStatus s e.resident e.tImage 64 = stOK) (hbad : badRange s e.tImage 64 = false)
    (hok : ∀ i, i < 16 → fmtDescOk (rdNat s (e.tImage + 4 * i) 4) = true) :
    fmtLoad s e.id = (loadHeld s e 64 (.fmt ((List.range 16).map fun i =>
      BitVec.ofNat 32 (rdNat s (e.tImage + 4 * i) 4)))).finishOp e.id stOK := by
  have hfld (i) (hi : i < 16) : fld (rdBytes s e.tImage 64) (4 * i) 4 = rdNat s (e.tImage + 4 * i) 4 :=
    fld_rdBytes s _ _ _ _ (by omega)
  have himg : ((List.range 16).all fun i => fmtDescOk (fld (rdBytes s e.tImage 64) (4 * i) 4)) = true := by
    simp only [List.all_eq_true, List.mem_range]
    exact fun i hi => (hfld i hi).symm ▸ hok i hi
  have hwords : ((List.range 16).map fun i => BitVec.ofNat 32 (fld (rdBytes s e.tImage 64) (4 * i) 4))
      = (List.range 16).map fun i => BitVec.ofNat 32 (rdNat s (e.tImage + 4 * i) 4) :=
    List.map_congr_left fun i hi => by rw [hfld i (List.mem_range.1 hi)]
  have hst := loadStatus_eq_OK (img := fun img => (List.range 16).all fun i => fmtDescOk (fld img (4 * i) 4))
    hfence (fun _ => hrange) hbad himg
  unfold fmtLoad
  rw [admittedOp_of_admitted h]
  simp only [hz, hcells, h0, h1, hkind, hslot, hsize, beq_self_eq_true, Bool.and_self, hst, imageRead_OK,
    rdBytes_countReads, hwords, ne_eq, not_true_eq_false, if_false]
  rfl

/-- CURVE_LOAD of a shipped curve, which has no image (R186). -/
theorem curveLoad_shipped (h : Admitted s 0x303 e) (hkind : e.tKind = 0) (hslot : e.tSlot < 16) (h0 : e.tArg0 ≠ 0)
    (hfunc : shippedFuncs.contains e.tArg0 = true) (hsize : e.tSize = 0) (himage : e.tImage = 0) :
    curveLoad s e.id = ((loadHeld s e 0 (.curve e.tSlot (Curve.ofShipped e.tArg0))).finishOp e.id stOK).updOp e.id
      fun y => { y with d0 := BitVec.ofNat 64 (Curve.ofShipped e.tArg0).word } := by
  have hst := loadStatus_eq_OK (s := s) (e := e) (size := 0) (img := fun img => true || imageOk img) hfence
    (fun h => absurd rfl h) rfl rfl
  unfold curveLoad
  rw [admittedOp_of_admitted h]
  simp only [hz, hcells, h1, hkind, hslot, ne_eq, h0, not_false_eq_true, hfunc, hsize, himage, decide_true,
    beq_self_eq_true, Bool.and_self, if_true, hst, imageRead_OK, not_true_eq_false, if_false]
  rfl

/-- CURVE_LOAD of an image that the loader takes (R180). -/
theorem curveLoad_image (h : Admitted s 0x303 e) (hkind : e.tKind = 0) (hslot : e.tSlot < 16) (h0 : e.tArg0 = 0)
    (hmin : 64 ≤ e.tSize) (hmax : e.tSize ≤ 64 + 256 * 40) (hmod : e.tSize % 256 = 64)
    (hrange : rangeStatus s e.resident e.tImage e.tSize = stOK) (hbad : badRange s e.tImage e.tSize = false)
    (hok : imageOk (rdBytes s e.tImage e.tSize) = true) :
    curveLoad s e.id = ((loadHeld s e e.tSize (.curve e.tSlot (Curve.ofImage (rdBytes s e.tImage e.tSize)))).finishOp
      e.id stOK).updOp e.id fun y => { y with d0 := BitVec.ofNat 64 (Curve.ofImage (rdBytes s e.tImage e.tSize)).word } := by
  have hst := loadStatus_eq_OK (img := fun img => false || imageOk img) hfence (fun _ => hrange) hbad hok
  unfold curveLoad
  rw [admittedOp_of_admitted h]
  simp only [hz, hcells, h1, hkind, hslot, ne_eq, h0, not_true_eq_false, hmin, hmax, hmod, decide_true, decide_false,
    beq_self_eq_true, Bool.and_self, Bool.false_eq_true, if_false, hst, imageRead_OK, rdBytes_countReads]
  rfl

end

/-! ### A kernel boundary -/

/-- A cell that is not at a boundary keeps its loads. -/
theorem applyHeld_busy {c : Cell} (h : kernelBoundary c = false) : applyHeld c = c :=
  if_neg (by simp [h])

/-- At a boundary the loads take effect in order, so `x` last. -/
theorem applyHeld_last {c : Cell} {l : List TableLoad} {x : TableLoad} (h : kernelBoundary c = true)
    (hl : c.held = l ++ [x]) : applyHeld c = { applyLoad (l.foldl applyLoad c) x with held := [] } := by
  rw [applyHeld, if_pos h, hl, List.foldl_concat]

theorem exec_tableLoadTakeEffect {n : Nat} (hn : n < 160) (hf : fencedCell s n = false) :
    exec (.tableLoadTakeEffect n) s = .next (s.updCell n applyHeld) :=
  congrArg Host.Outcome.next (if_pos ⟨hn, by simp [hf]⟩)

theorem fget_cb16_applyLoad (c : Cell) (k : Nat) (codes : List Byte) (i : Nat) (h : i < codes.length) :
    fget 0 (applyLoad c (.cb16 k codes)).cb16 (16 * k + i) = codes[i] :=
  fget_fsets_in 0 codes c.cb16 (16 * k) i h

theorem fget_cb256_applyLoad (c : Cell) (k : Nat) (codes : List Byte) {i : Nat} (h : i < 256) :
    fget 0 (applyLoad c (.cb256 k codes)).cb256 (256 * k + i) = BitVec.ofNat 16 (fld codes (2 * i) 2) := by
  rw [applyLoad, fget_fsets_in _ _ _ _ i (by simpa using h), List.getElem_map, List.getElem_range]

theorem fget_fmt_applyLoad (c : Cell) (ws : List Word) (i : Nat) (h : i < ws.length) :
    fget 0 (applyLoad c (.fmt ws)).fmt i = ws[i] := by
  simpa [applyLoad] using fget_fsets_in 0 ws c.fmt 0 i h

theorem fget_curves_applyLoad (c : Cell) (k : Nat) (v : Curve) : fget {} (applyLoad c (.curve k v)).curves k = v :=
  fget_fset_same ..

/-! ### O41 -/

/-- Settles O41: each load by its equation, and the boundary by the last load in order. -/
theorem cellTableLoads : Obligations.CellTableLoads := by
  intro s
  refine ⟨?_, ?_, ?_, ?_, fun n hn hf => ⟨fun hb => ?_, fun hb l x hl => ?_⟩⟩
  · intro e h hz hcells h0 h1 hfence size hkind hsize hslot hrange hbad img load
    have heq := codebookLoad_eq hz hcells h1 hfence h rfl h0 hkind hsize hslot hrange hbad
    exact ⟨_, congrArg Host.Outcome.next heq, loadWaits_finish h ..⟩
  · intro e h hz hcells h0 h1 hfence hkind hslot hsize hrange hbad hok ws
    have heq := fmtLoad_eq hz hcells h1 hfence h h0 hkind hslot hsize hrange hbad hok
    exact ⟨_, congrArg Host.Outcome.next heq, loadWaits_finish h ..⟩
  · intro e h hz hcells h1 hfence hkind hslot h0 hfunc hsize himage
    have heq := curveLoad_shipped hz hcells h1 hfence h hkind hslot h0 hfunc hsize himage
    exact ⟨_, congrArg Host.Outcome.next heq, (loadWaits_finish h ..).after_d0 _⟩
  · intro e h hz hcells h1 hfence hkind hslot h0 hmin hmax hmod hrange hbad img hok
    have heq := curveLoad_image hz hcells h1 hfence h hkind hslot h0 hmin hmax hmod hrange hbad hok
    exact ⟨_, congrArg Host.Outcome.next heq, (loadWaits_finish h ..).after_d0 _⟩
  · refine ⟨_, exec_tableLoadTakeEffect hn hf, ?_⟩
    rw [State.cell_updCell, if_pos rfl, applyHeld_busy hb]
  · have hcell : (s.updCell n applyHeld).cell n = { applyLoad (l.foldl applyLoad (s.cell n)) x with held := [] } := by
      rw [State.cell_updCell, if_pos rfl, applyHeld_last hb hl]
    refine ⟨_, exec_tableLoadTakeEffect hn hf, congrArg Cell.held hcell, rfl,
      fun m hm => (State.cell_updCell ..).trans (if_neg hm), ?_⟩
    rw [hcell]
    dsimp only
    cases x with
    | cb16 k codes => exact fget_cb16_applyLoad _ k codes
    | cb256 k codes => exact fun i hi => fget_cb256_applyLoad _ k codes hi
    | fmt ws => exact fget_fmt_applyLoad _ ws
    | curve k c => exact fget_curves_applyLoad _ k c

end Sys2Proof.Machine
end

section
/-! SUPPORT. AISSUE and DISSUE: a product or a DMA descriptor at the tail of a queue (R73, R228, R277). -/

namespace Sys2Proof.Machine

/-! ### Contexts, arrays and engines after updates of a cell -/

section

variable (s : State)

@[simp] theorem ctx_updCtx_same (cx : Cx) (f : Ctx → Ctx) : (s.updCtx cx f).ctx cx = f (s.ctx cx) := by
  simp [State.ctx, State.updCtx, Cell.updCtx]

theorem ctx_updCell {n : Nat} {f : Cell → Cell} (h : (f (s.cell n)).ctxs = (s.cell n).ctxs) (cx : Cx) :
    (s.updCell n f).ctx cx = s.ctx cx := by
  rw [State.ctx, State.cell_updCell]
  split
  · next e => rw [h, State.ctx, e]
  · rfl

@[simp] theorem ctx_updArr (n : Nat) (f : Arr → Arr) (cx : Cx) : (s.updArr n f).ctx cx = s.ctx cx :=
  ctx_updCell s rfl cx

@[simp] theorem ctx_updBlock (n : Nat) (f : Block → Block) (cx : Cx) : (s.updBlock n f).ctx cx = s.ctx cx := rfl

@[simp] theorem ctx_bump (n o k : Nat) (cx : Cx) : (s.updCell n (Cell.bump o k)).ctx cx = s.ctx cx :=
  ctx_updCell s rfl cx

@[simp] theorem cell_updArr (n : Nat) (f : Arr → Arr) : (s.updArr n f).cell n = (s.cell n).updArr f :=
  (State.cell_updCell ..).trans (if_pos rfl)

@[simp] theorem cell_updCtx (cx : Cx) (f : Ctx → Ctx) :
    (s.updCtx cx f).cell cx.cell = (s.cell cx.cell).updCtx cx.ctx f :=
  (State.cell_updCell ..).trans (if_pos rfl)

@[simp] theorem block_updCell (n : Nat) (f : Cell → Cell) (b : Nat) : (s.updCell n f).block b = s.block b := rfl
@[simp] theorem block_updCtx (cx : Cx) (f : Ctx → Ctx) (b : Nat) : (s.updCtx cx f).block b = s.block b := rfl

end

variable {s : State} {cx : Cx} {f : Sc} {id : OpId}

/-! ### Issue -/

/-- An instruction that waits for a full queue changes nothing. -/
theorem issueAt_wait {w : State → Issue} (h : issues s cx = true) (hw : w s = .wait) : issueAt s cx w = s := by
  simp only [issues, Bool.and_eq_true, decide_eq_true_eq, Bool.not_eq_true'] at h
  obtain ⟨⟨⟨hr, hpc⟩, hbad⟩, hres⟩ := h
  simp [issueAt, hr, Nat.not_lt.mpr hpc, hbad, hres, hw]

/-- An instruction's effect, counted as issued. -/
theorem issueAt_go {w : State → Issue} {t : State} (h : issues s cx = true) (hw : w s = .go t) :
    issueAt s cx w = t.updCell cx.cell (Cell.bump offIssued 1) := by
  simp only [issues, Bool.and_eq_true, decide_eq_true_eq, Bool.not_eq_true'] at h
  obtain ⟨⟨⟨hr, hpc⟩, hbad⟩, hres⟩ := h
  simp [issueAt, hr, Nat.not_lt.mpr hpc, hbad, hres, hw]

/-! ### AISSUE -/

/-- The queue that an operation's products go to (R277). -/
def issueQueue (s : State) (cx : Cx) (id : OpId) : List Product :=
  if issuesDeferred s id then (s.cell cx.cell).arr.dqueue else (s.cell cx.cell).arr.queue

/-- A product at the tail of the ordinary or the deferred queue (R277). -/
def Arr.enqueue (d : Bool) (p : Product) (a : Arr) : Arr :=
  if d then { a with dqueue := a.dqueue ++ [p], nextPid := a.nextPid + 1 }
  else { a with queue := a.queue ++ [p], nextPid := a.nextPid + 1 }

/-- The product that an AISSUE names. -/
def issuedProduct (s : State) (cx : Cx) (f : Sc) (id : OpId) : Product :=
  { pid := (s.cell cx.cell).arr.nextPid, addr := cellAddr cx.cell + scAddr s cx f, issuer := some cx,
    pc := (s.ctx cx).pc, op := id, deferred := issuesDeferred s id }

section

variable (hok : scOk f false true false 40 = true) (hid : (s.ctx cx).op = some id)
include hok hid

theorem scAissue_eq : scAissue s cx f =
    let p := issuedProduct s cx f id
    if 4 ≤ (issueQueue s cx id).length then .wait
    else .go ((s.updArr cx.cell (Arr.enqueue (issuesDeferred s id) p)).updCtx cx Ctx.advance) := by
  simp only [scAissue, hok, hid, Bool.not_true, Bool.false_eq_true, if_false]
  rfl

theorem scAissue_full (h : 4 ≤ (issueQueue s cx id).length) : scAissue s cx f = .wait :=
  (scAissue_eq hok hid).trans (if_pos h)

theorem scAissue_room (h : (issueQueue s cx id).length < 4) : scAissue s cx f =
    .go ((s.updArr cx.cell (Arr.enqueue (issuesDeferred s id) (issuedProduct s cx f id))).updCtx cx Ctx.advance) :=
  (scAissue_eq hok hid).trans (if_neg (Nat.not_le.mpr h))

end

/-! ### DISSUE -/

/-- The descriptor that a DISSUE names. -/
def issuedItem (s : State) (cx : Cx) (f : Sc) (id : OpId) : DmaItem :=
  { addr := scAddr s cx f, op := id, issuer := some cx, pc := (s.ctx cx).pc, seq := (s.cell cx.cell).arr.nextPid }

/-- A descriptor at the tail of an engine's queue. -/
def Dma.enqueue (it : DmaItem) (q : Dma) : Dma := { q with queue := q.queue ++ [it] }

/-- A cell has given out one more number. -/
def Arr.numbered (a : Arr) : Arr := { a with nextPid := a.nextPid + 1 }

/-- Does a DISSUE go to the block's gather/scatter unit (Table 7-3)? -/
def toGather (s : State) (a : Nat) : Bool := (rangeMem a 128).isSome && (rdNat s a 1 % 16 == 2 || rdNat s a 1 % 16 == 3)

section

variable (hok : scOk f false true false 40 = true) (hid : (s.ctx cx).op = some id)
include hok hid

theorem scDissue_eq : scDissue s cx f =
    let u := s.updArr cx.cell Arr.numbered
    let it := issuedItem s cx f id
    if toGather s (scAddr s cx f) then
      if 16 ≤ (s.block (cx.cell / 8)).gs.queue.length then .wait
      else .go ((u.updBlock (cx.cell / 8) fun b => { b with gs := b.gs.enqueue it }).updCtx cx Ctx.advance)
    else if 32 ≤ (u.cell cx.cell).dma.queue.length then .wait
    else .go ((u.updCell cx.cell fun c => { c with dma := c.dma.enqueue it }).updCtx cx Ctx.advance) := by
  simp only [scDissue, hok, hid, Bool.not_true, Bool.false_eq_true, if_false]
  rfl

theorem scDissue_cell (hg : toGather s (scAddr s cx f) = false) (h : (s.cell cx.cell).dma.queue.length < 32) :
    scDissue s cx f = .go (((s.updArr cx.cell Arr.numbered).updCell cx.cell fun c =>
      { c with dma := c.dma.enqueue (issuedItem s cx f id) }).updCtx cx Ctx.advance) := by
  have hq : ¬ 32 ≤ ((s.updArr cx.cell Arr.numbered).cell cx.cell).dma.queue.length := by
    rw [cell_updArr]; exact Nat.not_le.mpr h
  simp only [scDissue_eq hok hid, hg, Bool.false_eq_true, if_false, if_neg hq]

theorem scDissue_gather (hg : toGather s (scAddr s cx f) = true) (h : (s.block (cx.cell / 8)).gs.queue.length < 16) :
    scDissue s cx f = .go (((s.updArr cx.cell Arr.numbered).updBlock (cx.cell / 8) fun b =>
      { b with gs := b.gs.enqueue (issuedItem s cx f id) }).updCtx cx Ctx.advance) := by
  simp only [scDissue_eq hok hid, hg, if_true, if_neg (Nat.not_le.mpr h)]

end

/-! ### O22 -/

/-- Settles O22: each instruction by its equation, and the queue that it appends to read back. -/
theorem issueToQueues : Obligations.IssueToQueues := by
  intro s cx f id hiss hok hid
  refine ⟨fun h => ?_, fun h => ?_, fun hg h => ?_, fun hg h => ?_⟩
  · refine ⟨_, congrArg Host.Outcome.next (issueAt_go hiss (scAissue_room hok hid h)), ?_, ?_, rfl⟩
    · rw [ctx_bump, ctx_updCtx_same, ctx_updArr]
      rfl
    · rw [State.cell_updCell, if_pos rfl, cell_updCtx, cell_updArr]
      rfl
  · exact congrArg Host.Outcome.next (issueAt_wait hiss (scAissue_full hok hid h))
  · refine ⟨_, congrArg Host.Outcome.next (issueAt_go hiss (scDissue_cell hok hid hg h)), ?_, ?_, rfl⟩
    · rw [ctx_bump, ctx_updCtx_same, ctx_updCell _ rfl, ctx_updArr]
      rfl
    · rw [State.cell_updCell, if_pos rfl, cell_updCtx, State.cell_updCell, if_pos rfl, cell_updArr]
      rfl
  · refine ⟨_, congrArg Host.Outcome.next (issueAt_go hiss (scDissue_gather hok hid hg h)), ?_, ?_, rfl⟩
    · rw [ctx_bump, ctx_updCtx_same, ctx_updBlock, ctx_updArr]
      rfl
    · rw [block_updCell, block_updCtx, State.block_updBlock, if_pos rfl]
      rfl

end Sys2Proof.Machine
end

section
/-! SUPPORT. Products enter the array from their queues (R71, R73, R122, R277 to R279). -/

namespace Sys2Proof.Machine

variable {s t u : State} {n : Nat} {p q : Product}

/-! ### Only a cell's array changes -/

theorem onlyArr_refl (n : Nat) (s : State) : OnlyArr n s s := ⟨rfl, fun _ _ => rfl, rfl⟩

theorem onlyArr_trans (h : OnlyArr n s t) (k : OnlyArr n t u) : OnlyArr n s u := by
  obtain ⟨hs, hm, hn⟩ := h
  obtain ⟨ks, km, kn⟩ := k
  refine ⟨?_, fun m e => (km m e).trans (hm m e), ?_⟩
  · exact (congrArg (fun x : State => { x with cells := s.cells }) ks :).trans hs
  · exact (congrArg (fun c : Cell => { c with arr := (s.cell n).arr }) kn :).trans hn

theorem onlyArr_updArr (s : State) (n : Nat) (f : Arr → Arr) : OnlyArr n s (s.updArr n f) :=
  ⟨rfl, fun _ hm => (State.cell_updCell ..).trans (if_neg hm), by rw [cell_updArr]; rfl⟩

/-! ### PRODUCT_START and DEFERRED_PRODUCT_START -/

/-- A product as it enters the array: with copies of its descriptors, and its issuer's seed and step (R71, R164). -/
def entered (s : State) (n : Nat) (p : Product) : Product :=
  { readProduct s (homeCell n) p with seed := (issuerRng s p).1, step := (issuerRng s p).2 }

/-- The array begins with a product. -/
def Arr.begins (q : Product) (a : Arr) : Arr := { a with cur := some q, st := .firstLoad, feed := [], preReq := false }

theorem issuerRng_updArr (f : Arr → Arr) (p : Product) : issuerRng (s.updArr n f) p = issuerRng s p := by
  unfold issuerRng
  split
  · rw [ctx_updArr]
  · rfl

theorem entered_updArr (f : Arr → Arr) (p : Product) : entered (s.updArr n f) n p = entered s n p := by
  simp only [entered, issuerRng_updArr]
  rfl

/-- A new product whose descriptor is accepted leaves its queue for the array. -/
theorem startHead_eq (hs : p.saved = none) (hst : productStatus s (homeCell n) p.op p.addr = 0) (pop : Arr → Arr) :
    startHead s n p pop = (s.updArr n pop).updArr n (Arr.begins (entered s n p)) := by
  simp only [startHead, hs, hst, Option.isSome_none, Bool.false_eq_true, if_false, ← entered_updArr (s := s) pop]
  rfl

theorem startHead_spec (hs : p.saved = none) (hst : productStatus s (homeCell n) p.op p.addr = 0) (pop : Arr → Arr) :
    OnlyArr n s (startHead s n p pop)
      ∧ ((startHead s n p pop).cell n).arr = (pop (s.cell n).arr).begins (entered s n p) := by
  rw [startHead_eq hs hst]
  exact ⟨onlyArr_trans (onlyArr_updArr ..) (onlyArr_updArr ..), by simp only [cell_updArr, Cell.updArr]⟩

theorem productStart_eq {rest : List Product} (hr : cellRuns s n = true) (hc : (s.cell n).arr.cur = none)
    (hi : (s.cell n).arr.st = .idle) (hq : (s.cell n).arr.queue = p :: rest)
    (hh : heldNext (s.cell n).arr false = false) :
    productStart s n = startHead s n p fun a => { a with queue := a.queue.drop 1 } := by
  simp [productStart, hc, hq, hr, hi, hh]

theorem deferredStart_eq {rest : List Product} (hr : cellRuns s n = true) (hc : (s.cell n).arr.cur = none)
    (hi : (s.cell n).arr.st = .idle) (hq : (s.cell n).arr.queue = []) (hy : (s.cell n).arr.yielded = none)
    (hd : (s.cell n).arr.dqueue = p :: rest) (hh : heldNext (s.cell n).arr true = false) :
    deferredStart s n = startHead s n p fun a => { a with dqueue := a.dqueue.drop 1 } := by
  simp [deferredStart, hc, hq, hy, hd, hr, hi, hh]

/-! ### DEFERRED_RESUME and DEFERRED_YIELD -/

theorem deferredResume_eq (hr : cellRuns s n = true) (hc : (s.cell n).arr.cur = none) (hi : (s.cell n).arr.st = .idle)
    (hq : (s.cell n).arr.queue = []) (hy : (s.cell n).arr.yielded = some p) :
    deferredResume s n =
      s.updArr n fun a => { a with cur := some p, yielded := none, st := .restoring, preReq := false } := by
  simp [deferredResume, hc, hq, hy, hr, hi]

/-- The loader changes the background buffer alone. -/
theorem loadBack_spec (s : State) (n : Nat) (p : Product) : OnlyArr n s (loadBack s n p)
    ∧ ((loadBack s n p).cell n).arr = { (s.cell n).arr with back := ((loadBack s n p).cell n).arr.back } := by
  unfold loadBack
  dsimp only
  split
  · exact ⟨onlyArr_refl n s, rfl⟩
  · exact ⟨onlyArr_updArr .., by rw [cell_updArr]; rfl⟩

/-- Rows stop, and the loader may fetch for the ordinary product. -/
theorem deferredYield_spec (hr : cellRuns s n = true) (hc : (s.cell n).arr.cur = some p) (hd : p.deferred = true)
    (hq : (s.cell n).arr.queue ≠ []) (hst : (s.cell n).arr.st = .streaming ∨ (s.cell n).arr.st = .firstLoad) :
    OnlyArr n s (deferredYield s n) ∧ ((deferredYield s n).cell n).arr =
      { (s.cell n).arr with st := .emptying, back := ((deferredYield s n).cell n).arr.back } := by
  have hg : (cellRuns s n && p.deferred && !(s.cell n).arr.queue.isEmpty
      && ((s.cell n).arr.st == .streaming || (s.cell n).arr.st == .firstLoad)) = true := by
    simpa [hr, hd, hq] using hst
  have hu := onlyArr_updArr s n fun a => { a with st := .emptying }
  simp only [deferredYield, hc, if_pos hg]
  split
  · next q _ =>
    obtain ⟨ho, ha⟩ := loadBack_spec (s.updArr n fun a => { a with st := .emptying }) n q
    exact ⟨onlyArr_trans hu ho, ha.trans (by simp only [cell_updArr, Cell.updArr, hc])⟩
  · exact ⟨hu, by simp only [cell_updArr, Cell.updArr, hc]⟩

/-! ### O27 -/

/-- Settles O27: each command by its equation, and the array read back. -/
theorem productQueues : Obligations.ProductQueues := by
  intro s n p rest hr
  refine ⟨fun hc hi hq hh hs hst => ?_, fun hc hi hq hy hd hh hs hst => ?_, fun hc hi hq hy => ?_,
    fun hc hd hq hst => ⟨_, rfl, deferredYield_spec hr hc hd hq hst⟩⟩
  · obtain ⟨ho, ha⟩ := startHead_spec hs hst fun a => { a with queue := a.queue.drop 1 }
    refine ⟨_, congrArg Host.Outcome.next (productStart_eq hr hc hi hq hh), ho, ha.trans ?_⟩
    rw [hq]; rfl
  · obtain ⟨ho, ha⟩ := startHead_spec hs hst fun a => { a with dqueue := a.dqueue.drop 1 }
    refine ⟨_, congrArg Host.Outcome.next (deferredStart_eq hr hc hi hq hy hd hh), ho, ha.trans ?_⟩
    rw [hd]; rfl
  · refine ⟨_, congrArg Host.Outcome.next (deferredResume_eq hr hc hi hq hy), onlyArr_updArr .., ?_⟩
    rw [cell_updArr]; rfl

end Sys2Proof.Machine
end

section
/-! SUPPORT. A pass and its rows: the stationary tile that the pass takes, and the accumulators of a row (R74, R75, R80,
R84, R90). -/

namespace Sys2Proof.Machine

/-! ### Rows of a sparse map -/

section

variable {α : Type} (d : α)

theorem fget_filter (m : FMap α) (q : Nat → Bool) (k : Nat) :
    fget d (m.filter fun p => q p.1) k = if q k then fget d m k else d := by
  induction m with
  | nil => simp
  | cons p t ih =>
    obtain ⟨a, v⟩ := p
    by_cases ha : q a = true
    · rw [List.filter_cons_of_pos (by simpa using ha)]
      by_cases hk : a = k
      · subst hk; simp [fget, ha]
      · simpa [fget, hk] using ih
    · rw [List.filter_cons_of_neg (by simpa using ha), ih]
      by_cases hk : a = k
      · subst hk; simp [ha]
      · simp [fget, hk]

theorem fget_unlisted {m : FMap α} {k : Nat} (h : ∀ p ∈ m, p.1 ≠ k) : fget d m k = d := by
  induction m with
  | nil => rfl
  | cons p t ih =>
    rw [fget, if_neg (h p (List.mem_cons_self ..))]
    exact ih fun x hx => h x (List.mem_cons_of_mem _ hx)

theorem fget_append_left {m l : FMap α} {k : Nat} (h : ∀ p ∈ l, p.1 ≠ k) : fget d (m ++ l) k = fget d m k := by
  induction m with
  | nil => exact fget_unlisted d h
  | cons p t ih => rw [List.cons_append, fget, fget, ih]

theorem fget_append_right {m l : FMap α} {k : Nat} (h : ∀ p ∈ m, p.1 ≠ k) : fget d (m ++ l) k = fget d l k := by
  induction m with
  | nil => rfl
  | cons p t ih =>
    rw [List.cons_append, fget, if_neg (h p (List.mem_cons_self ..))]
    exact ih fun x hx => h x (List.mem_cons_of_mem _ hx)

variable [DecidableEq α]

theorem mem_flisted {vs : List α} {k : Nat} {p : Nat × α} (h : p ∈ flisted d k vs) : k ≤ p.1 ∧ p.1 < k + vs.length := by
  induction vs generalizing k with
  | nil => cases h
  | cons v vs ih =>
    simp only [flisted, List.length_cons] at h ⊢
    split at h
    · have := ih h; omega
    · rcases List.mem_cons.mp h with rfl | h
      · simp
      · have := ih h; omega

theorem fget_flisted (vs : List α) (k i : Nat) : fget d (flisted d k vs) (k + i) = vs.getD i d := by
  induction vs generalizing k i with
  | nil => simp [flisted]
  | cons v vs ih =>
    rw [flisted]
    cases i with
    | zero =>
      split
      · next e => exact (fget_unlisted d fun p hp => by have := mem_flisted d hp; omega).trans (by simp [e])
      · simp [fget]
    | succ i =>
      rw [← Nat.add_assoc, Nat.add_right_comm, List.getD_cons_succ, ← ih]
      split
      · rfl
      · rw [fget, if_neg (by omega)]

/-- A row that is replaced reads as it was put; every other key reads as before. -/
theorem fget_fputRow (m : FMap α) (k : Nat) (vs : List α) (j : Nat) :
    fget d (fputRow d m k vs) j = if k ≤ j ∧ j < k + vs.length then vs.getD (j - k) d else fget d m j := by
  have low (p) (hp : p ∈ m.filter fun p => decide (p.1 < k)) : p.1 < k := by simpa using (List.mem_filter.mp hp).2
  have high (p) (hp : p ∈ m.filter fun p => decide (k + vs.length ≤ p.1)) : k + vs.length ≤ p.1 := by
    simpa using (List.mem_filter.mp hp).2
  unfold fputRow
  rcases Nat.lt_or_ge j k with hj | hj
  · rw [if_neg (by omega), fget_append_left d fun p hp => by have := high p hp; omega,
      fget_append_left d fun p hp => by have := mem_flisted d hp; omega, fget_filter d m (fun x => decide (x < k)),
      if_pos (by simpa using hj)]
  rcases Nat.lt_or_ge j (k + vs.length) with hl | hl
  · rw [if_pos ⟨hj, hl⟩, fget_append_left d fun p hp => by have := high p hp; omega,
      fget_append_right d fun p hp => by have := low p hp; omega, ← fget_flisted d vs k, Nat.add_sub_cancel' hj]
  · rw [if_neg (by omega), fget_append_right d fun p hp => ?_, fget_filter d m (fun x => decide (k + vs.length ≤ x)),
      if_pos (by simpa using hl)]
    rcases List.mem_append.mp hp with hp | hp
    · have := low p hp; omega
    · have := mem_flisted d hp; omega

end

variable {s t : State} {n : Nat} {p q : Product}

/-! ### Cells and memory -/

/-- The cells and the memory: what counting, status and the scheduler's notes leave alone. -/
def State.contents (s : State) : FMap Cell × FMap Byte × FMap Bool := (s.cells, s.mem, s.poison)

theorem contents_iff : t.contents = s.contents ↔ t.cells = s.cells ∧ t.mem = s.mem ∧ t.poison = s.poison := by
  simp only [State.contents, Prod.mk.injEq]

theorem cell_of_contents (h : t.contents = s.contents) (n : Nat) : t.cell n = s.cell n :=
  congrArg (fun c : FMap Cell × FMap Byte × FMap Bool => fget ({} : Cell) c.1 n) h

theorem chargeEvents_contents (s : State) (r fmt tag : Nat) (evs : List Nat) :
    (chargeEvents s r fmt tag evs).contents = s.contents := by
  unfold chargeEvents
  split <;> rfl

theorem countValues_contents (s : State) (r fmt tag k : Nat) : (countValues s r fmt tag k).contents = s.contents := by
  unfold countValues
  split <;> rfl

theorem addStat_if_contents (s : State) (c : Prop) [Decidable c] (id : OpId) (st : Nat) :
    (if c then s.addStat id st else s).contents = s.contents := by
  split <;> rfl

theorem countMispred_contents (s : State) (n : Nat) (p : Product) : (countMispred s n p).contents = s.contents := by
  unfold countMispred
  split
  · dsimp only
    split <;> rfl
  · rfl

/-! ### What a stationary tile is loaded from -/

/-- Memory, the tables of a cell, and its two stationary buffers. -/
def State.tiles (n : Nat) (s : State) : FMap Byte × FMap Bool × Cell × Stat × Stat :=
  (s.mem, s.poison, { s.cell n with arr := {}, ctr := [] }, (s.cell n).arr.active, (s.cell n).arr.back)

theorem tiles_of_contents (h : t.contents = s.contents) : t.tiles n = s.tiles n := by
  obtain ⟨-, hm, hp⟩ := contents_iff.mp h
  simp only [State.tiles, cell_of_contents h, hm, hp]

theorem tiles_updArr {f : Arr → Arr} (ha : (f (s.cell n).arr).active = (s.cell n).arr.active)
    (hb : (f (s.cell n).arr).back = (s.cell n).arr.back) : (s.updArr n f).tiles n = s.tiles n := by
  simp only [State.tiles, cell_updArr, Cell.updArr, ha, hb]
  rfl

/-- What reads memory and a cell's tables gives the same over equal tiles. -/
theorem congr_of_tiles {α : Type} (f : State → Cell → α)
    (hf : ∀ (u v : State) (c : Cell) (a : Arr) (k : FMap DWord),
      f { u with mem := v.mem, poison := v.poison } { c with arr := a, ctr := k } = f v c)
    (h : t.tiles n = s.tiles n) : f t (t.cell n) = f s (s.cell n) := by
  have ht : t = { t with mem := s.mem, poison := s.poison } :=
    congrArg (fun x : FMap Byte × FMap Bool × Cell × Stat × Stat => { t with mem := x.1, poison := x.2.1 }) h
  have hc : t.cell n = { s.cell n with arr := (t.cell n).arr, ctr := (t.cell n).ctr } :=
    congrArg (fun x : FMap Byte × FMap Bool × Cell × Stat × Stat =>
      { x.2.2.1 with arr := (t.cell n).arr, ctr := (t.cell n).ctr }) h
  calc f t (t.cell n)
    _ = f { t with mem := s.mem, poison := s.poison } (t.cell n) := congrArg (fun u => f u (t.cell n)) ht
    _ = f { t with mem := s.mem, poison := s.poison } { s.cell n with arr := (t.cell n).arr, ctr := (t.cell n).ctr } :=
      congrArg (f { t with mem := s.mem, poison := s.poison }) hc
    _ = f s (s.cell n) := hf ..

theorem loadStat_of_tiles (h : t.tiles n = s.tiles n) (p : Product) :
    loadStat t (t.cell n) p = loadStat s (s.cell n) p :=
  congr_of_tiles (fun u c => loadStat u c p) (fun _ _ _ _ _ => rfl) h

/-- The stationary tile of a pass: the active one, the one loaded in the background, or what memory holds (R73, R75). -/
def passTile (s : State) (n : Nat) (p : Product) : Stat :=
  if (s.cell n).arr.active.key = some p.statKey then (s.cell n).arr.active
  else if (s.cell n).arr.back.key = some p.statKey then (s.cell n).arr.back
  else loadStat s (s.cell n) p

theorem passTile_of_tiles (h : t.tiles n = s.tiles n) (p : Product) : passTile t n p = passTile s n p := by
  have ha : (t.cell n).arr.active = (s.cell n).arr.active := congrArg (fun x => x.2.2.2.1) h
  have hb : (t.cell n).arr.back = (s.cell n).arr.back := congrArg (fun x => x.2.2.2.2) h
  simp only [passTile, ha, hb, loadStat_of_tiles h]

theorem openTile_tiles (s : State) (n : Nat) (p : Product) : (openTile s n p).1.tiles n = s.tiles n := by
  unfold openTile
  dsimp only
  split
  · exact (tiles_updArr rfl rfl).trans
      (tiles_of_contents ((addStat_if_contents ..).trans (chargeEvents_contents ..)))
  · exact tiles_updArr rfl rfl

/-- The product goes on with the rescale slice of its tile. -/
theorem openTile_product (s : State) (n : Nat) (p : Product) :
    (openTile s n p).2 = { p with slice := (openTile s n p).2.slice } := by
  unfold openTile
  dsimp only
  split
  · dsimp only
    split <;> rfl
  · rfl

theorem takeHead_tiles (s : State) (n : Nat) (p : Product) : (takeHead s n p).1.tiles n = s.tiles n :=
  (tiles_of_contents ((addStat_if_contents ..).trans (countMispred_contents ..))).trans (tiles_updArr rfl rfl)

/-! ### The loader and the feeders -/

/-- Memory, the active tile, the product in the array and its sums: what the loader and the feeders leave alone. -/
def State.begun (n : Nat) (s : State) : FMap Byte × FMap Bool × Stat × Option Product × FMap Word :=
  (s.mem, s.poison, (s.cell n).arr.active, (s.cell n).arr.cur, (s.cell n).arr.acc)

theorem begun_updCell (h : t.contents = s.contents) (f : Cell → Cell) : (t.updCell n f).begun n =
    (s.mem, s.poison, (f (s.cell n)).arr.active, (f (s.cell n)).arr.cur, (f (s.cell n)).arr.acc) := by
  obtain ⟨-, hm, hp⟩ := contents_iff.mp h
  simp only [State.begun, State.cell_updCell, if_pos, cell_of_contents h, State.updCell_mem, State.updCell_poison, hm,
    hp]

theorem loadBack_begun (s : State) (n : Nat) (p : Product) : (loadBack s n p).begun n = s.begun n := by
  unfold loadBack
  dsimp only
  split
  · rfl
  · exact begun_updCell rfl _

theorem fillFeed_begun (s : State) (n : Nat) (p : Product) : (fillFeed s n p).begun n = s.begun n := by
  unfold fillFeed
  dsimp only
  split
  · rfl
  · exact begun_updCell rfl _

theorem prefetch_begun (s : State) (n : Nat) (p : Product) : (prefetch s n p).begun n = s.begun n := by
  unfold prefetch
  dsimp only
  split
  · exact loadBack_begun ..
  · split
    · exact loadBack_begun ..
    · rfl

theorem begun_updCell_arr {f : Cell → Cell} (h : ∀ c, (f c).arr = c.arr) : (s.updCell n f).begun n = s.begun n := by
  rw [begun_updCell rfl, h]
  rfl

/-! ### PASS_START -/

theorem bump_arr (o k : Nat) (c : Cell) : (c.bump o k).arr = c.arr := rfl

theorem rowCyc_arr (p : Product) (k : Nat) (c : Cell) : (c.rowCyc p k).arr = c.arr := by
  unfold Cell.rowCyc
  split <;> rfl

theorem sparseCount_arr (p : Product) (bits rate : Nat) (c : Cell) : (sparseCount p bits rate c).arr = c.arr := by
  simp only [sparseCount, rowCyc_arr, bump_arr]

/-- Is the head of the K-tile's slot poisoned or in order (R240)? -/
def headTaken (s : State) (c : Cell) (p : Product) : Bool :=
  badRange s (headSlot c p) 16
    || headOk (rdBytes s (headSlot c p) 16) (p.fa c).code (tilePos p.pd p.tile).1 p.ktile p.pd.m p.pd.k

theorem takeHead_snd (s : State) (n : Nat) (p : Product) : (takeHead s n p).2 = headTaken s (s.cell n) p := rfl

theorem headTaken_of_tiles (h : t.tiles n = s.tiles n) (p : Product) :
    headTaken t (t.cell n) p = headTaken s (s.cell n) p :=
  congr_of_tiles (fun u c => headTaken u c p) (fun _ _ _ _ _ => rfl) h

/-- The loaded tile is the one that the swap makes active. -/
theorem loadBack_tile (s : State) (n : Nat) (p : Product) :
    (if ((loadBack s n p).cell n).arr.active.key == some p.statKey then ((loadBack s n p).cell n).arr.active
      else ((loadBack s n p).cell n).arr.back) = passTile s n p := by
  unfold loadBack tileLoaded passTile
  by_cases ha : (s.cell n).arr.active.key = some p.statKey
  · simp [ha]
  · by_cases hb : (s.cell n).arr.back.key = some p.statKey
    · simp [ha, hb]
    · simp [ha, hb, Cell.updArr]

theorem swapIn_begun (s : State) (n : Nat) (p : Product) : (swapIn s n p).begun n =
    (s.mem, s.poison, { passTile s n p with poison := 0 }, some { p with open_ := true }, (s.cell n).arr.acc) := by
  unfold swapIn
  simp only [prefetch_begun, fillFeed_begun, loadBack_tile]
  refine (begun_updCell (s := loadBack s n p) ?_ _).trans ?_
  · exact (addStat_if_contents ..).trans (chargeEvents_contents ..)
  · exact congrArg (fun b => (b.1, b.2.1, _, _, b.2.2.2.2)) (loadBack_begun s n p)

/-- The swap of a pass whose tile and head have been read. -/
theorem swapIn_of_tiles (ht : t.tiles n = s.tiles n) (hq : q = { p with slice := q.slice }) :
    (swapIn t n q).begun n =
      (s.mem, s.poison, { passTile s n p with poison := 0 }, some { q with open_ := true }, (t.cell n).arr.acc) := by
  have hpass : passTile t n q = passTile s n p := by rw [passTile_of_tiles ht, hq]; rfl
  have hm : t.mem = s.mem := congrArg Prod.fst ht
  have hp : t.poison = s.poison := congrArg (fun x => x.2.1) ht
  rw [swapIn_begun, hpass, hm, hp]

/-- What a pass does when rows may enter: its tile is active, and the pass is open. -/
theorem passStart_begun (hc : (s.cell n).arr.cur = some p) (ho : p.open_ = false) (he : p.ended = false)
    (hr : rowsFree s n p = true) (hh : p.pd.sparse = true → headTaken s (s.cell n) p = true) :
    ∃ acc, (passStart s n).begun n = (s.mem, s.poison, { passTile s n p with poison := 0 },
      some { (openTile s n p).2 with open_ := true }, acc) := by
  have hq := openTile_product s n p
  have ht := openTile_tiles s n p
  have hs : (openTile s n p).2.pd.sparse = p.pd.sparse := by rw [hq]; rfl
  have hok (h : p.pd.sparse = true) : (takeHead (openTile s n p).1 n (openTile s n p).2).2 = true := by
    rw [takeHead_snd, headTaken_of_tiles ht, hq]
    exact hh h
  simp only [passStart, hc, ho, he, hr, Bool.or_self, Bool.not_true, Bool.false_eq_true, if_false, hs]
  split
  · next h =>
    rw [if_pos (hok h)]
    refine ⟨_, (begun_updCell_arr fun c => ?_).trans (swapIn_of_tiles ((takeHead_tiles ..).trans ht) hq)⟩
    split
    · exact sparseCount_arr ..
    · rfl
  · exact ⟨_, swapIn_of_tiles ht hq⟩

/-! ### ROW_RESULT_ACCEPT -/

/-- Memory, and the accumulators of a cell. -/
def State.sums (n : Nat) (s : State) : FMap Byte × FMap Bool × FMap Word := (s.mem, s.poison, (s.cell n).arr.acc)

theorem sums_of_contents (h : t.contents = s.contents) : t.sums n = s.sums n := by
  obtain ⟨-, hm, hp⟩ := contents_iff.mp h
  simp only [State.sums, cell_of_contents h, hm, hp]

theorem sums_updCell {f : Cell → Cell} : (s.updCell n f).sums n = (s.mem, s.poison, (f (s.cell n)).arr.acc) := by
  simp only [State.sums, State.cell_updCell, if_pos, State.updCell_mem, State.updCell_poison]

theorem sums_updOp (s : State) (n : Nat) (id : OpId) (f : OpEntry → OpEntry) : (s.updOp id f).sums n = s.sums n := rfl

theorem endStream_sums (s : State) (n : Nat) (p : Product) : (endStream s n p).sums n = s.sums n := by
  unfold endStream
  dsimp only
  refine (sums_of_contents (countValues_contents ..)).trans ?_
  split
  · exact (sums_updOp ..).trans sums_updCell
  · exact sums_updCell

theorem advanceRow_sums (s : State) (n : Nat) (p : Product) : (advanceRow s n p).sums n = s.sums n := by
  unfold advanceRow
  dsimp only
  split
  · exact sums_updCell
  · split
    · exact sums_updCell
    · split
      · exact sums_updCell
      · exact endStream_sums ..

theorem meetRow_sums (s : State) (n : Nat) (p : Product) (r : Nat) (old : List Nat) (ev : List (List Nat)) :
    (meetRow s n p r old ev).sums n = s.sums n := by
  unfold meetRow
  dsimp only
  split
  · rfl
  · exact sums_updCell

/-- The accumulators of a row with the row's products added, and the event classes of each (R80, R84). -/
def rowResults (s : State) (n : Nat) (p : Product) : List (Word × List Nat) :=
  rowSums (s.cell n) p (headRow s (s.cell n) p) (fgetRow 0 (s.cell n).arr.acc (128 * p.row) (colsIn p.pd p.tile))

/-- The event classes that the row's entries meet for the first time in their tile (R81). -/
def rowEvents (s : State) (n : Nat) (p : Product) : List (List Nat) :=
  newEvents (metRow s n p p.row (colsIn p.pd p.tile)) ((rowResults s n p).map Prod.snd)

/-- The row's events and its poisoned elements are charged. -/
def rowCharged (s : State) (n : Nat) (p : Product) : State :=
  let x := headRow s (s.cell n) p
  let u := chargeEvents (chargeEvents s (n / 40) (p.mode (s.cell n)).fmt p.tag (rowEvents s n p).flatten) (n / 40)
    (p.fa (s.cell n)).code p.tag (List.replicate (if p.half then 0 else x.poison) evPoison)
  if 0 < x.poison then u.addStat p.op stPOISON else u

/-- The row is in the accumulators, and leaves the feeders. -/
def rowAdded (s : State) (n : Nat) (p : Product) : State :=
  (meetRow (rowCharged s n p) n p p.row (metRow s n p p.row (colsIn p.pd p.tile)) (rowEvents s n p)).updCell n fun c =>
    (c.updArr fun a => { a with
      acc := fputRow 0 a.acc (128 * p.row) ((rowResults s n p).map Prod.fst), feed := popRow a.feed }).rowCyc p
        (rowCycles c p)

/-- A row of a drained last pass goes on to the drain, and in chained mode back to the feeders (R84, R88); `u` is the
device with the row in the accumulators, `c` the cell as it was before. -/
def rowDrained (c : Cell) (n : Nat) (p : Product) (sums : List Word) (u : State) : State :=
  if lastPass c p && p.pd.drained then
    let v := u.updCell n fun d =>
      (d.updArr fun a => bufPut a p p.row (drainRow u c p (isInt (p.mode c)) p.row sums)).bump offDrnRows 1
    if p.pd.chain && decide (p.link + 1 < p.pd.links) then
      chargeEvents (v.updArr n fun a => { a with fed := fset {} a.fed p.row (returnRow c p sums).1 }) (n / 40)
        (p.fa c).code p.tag (returnRow c p sums).2
    else v
  else u

theorem acceptRow_eq (s : State) (n : Nat) (p : Product) : acceptRow s n p =
    advanceRow (rowDrained (s.cell n) n p ((rowResults s n p).map Prod.fst) (rowAdded s n p)) n p := rfl

theorem rowCharged_contents (s : State) (n : Nat) (p : Product) : (rowCharged s n p).contents = s.contents :=
  (addStat_if_contents ..).trans ((chargeEvents_contents ..).trans (chargeEvents_contents ..))

theorem rowAdded_sums (s : State) (n : Nat) (p : Product) : (rowAdded s n p).sums n =
    (s.mem, s.poison, fputRow 0 (s.cell n).arr.acc (128 * p.row) ((rowResults s n p).map Prod.fst)) := by
  refine sums_updCell.trans ?_
  rw [rowCyc_arr]
  exact congrArg (fun x : FMap Byte × FMap Bool × FMap Word => (x.1, x.2.1, fputRow 0 x.2.2 _ _))
    ((meetRow_sums ..).trans (sums_of_contents (rowCharged_contents s n p)))

theorem bufPut_acc (a : Arr) (p : Product) (r : Nat) (row : DrnRow) : (bufPut a p r row).acc = a.acc := by
  unfold bufPut
  dsimp only
  split <;> rfl

theorem rowDrained_sums (c : Cell) (n : Nat) (p : Product) (sums : List Word) (u : State) :
    (rowDrained c n p sums u).sums n = u.sums n := by
  have hv (row : DrnRow) : (u.updCell n fun d => (d.updArr fun a => bufPut a p p.row row).bump offDrnRows 1).sums n =
      u.sums n := sums_updCell.trans (congrArg (fun a => (u.mem, u.poison, a)) (bufPut_acc ..))
  unfold rowDrained
  dsimp only
  split
  · split
    · exact (sums_of_contents (chargeEvents_contents ..)).trans (sums_updCell.trans (hv _))
    · exact hv _
  · rfl

theorem acceptRow_sums (s : State) (n : Nat) (p : Product) : (acceptRow s n p).sums n =
    (s.mem, s.poison, fputRow 0 (s.cell n).arr.acc (128 * p.row) ((rowResults s n p).map Prod.fst)) := by
  rw [acceptRow_eq, advanceRow_sums, rowDrained_sums, rowAdded_sums]

/-- When rows of the tile remain, the next one is due. -/
theorem acceptRow_cur (h : p.row + 1 < rowsIn p.pd p.tile) :
    ((acceptRow s n p).cell n).arr.cur = some { p with row := p.row + 1 } := by
  rw [acceptRow_eq, advanceRow, if_pos h, cell_updArr]
  rfl

/-- The loader and the feeders go on after a row. -/
theorem rowResult_begun (hc : (s.cell n).arr.cur = some p) (ho : p.open_ = true) (hr : rowsFree s n p = true)
    (hb : lastPass (s.cell n) p = true → p.pd.drained = true → bufRoom (s.cell n).arr p = true) :
    (rowResult s n).begun n = (acceptRow s n p).begun n := by
  have hroom : ¬ (lastPass (s.cell n) p && p.pd.drained && !bufRoom (s.cell n).arr p) = true := by
    simpa using hb
  simp only [rowResult, hc, ho, hr, Bool.and_self, Bool.not_true, Bool.false_eq_true, if_false, if_neg hroom]
  split
  · split
    · exact (prefetch_begun ..).trans (fillFeed_begun ..)
    · rfl
  · rfl

theorem length_rowResults (s : State) (n : Nat) (p : Product) : (rowResults s n p).length = colsIn p.pd p.tile := by
  simp [rowResults, rowSums]

/-! ### O28 -/

/-- Settles O28: the tile that the swap makes active, and the row of accumulators that is replaced. -/
theorem passesAndRows : Obligations.PassesAndRows := by
  intro s n p hc hr
  refine ⟨fun ho he hh => ?_, fun ho hb => ?_⟩
  · obtain ⟨acc, h⟩ := passStart_begun hc ho he hr fun hs => by simpa [headTaken] using hh hs
    simp only [State.begun, Prod.mk.injEq] at h
    obtain ⟨hm, hp, ha, hcur, -⟩ := h
    refine ⟨_, _, rfl, hm, hp, ha, hcur, ?_⟩
    rw [openTile_product]
  · intro k old new
    have hbeg := rowResult_begun hc ho hr hb
    have hs := acceptRow_sums s n p
    simp only [State.begun, State.sums, Prod.mk.injEq] at hbeg hs
    obtain ⟨hm, hp, -, hcur, hacc⟩ := hbeg
    obtain ⟨hm', hp', hacc'⟩ := hs
    have hlen : new.length = k := by rw [List.length_map]; exact length_rowResults s n p
    have hget (j : Nat) : fget 0 ((rowResult s n).cell n).arr.acc j =
        if 128 * p.row ≤ j ∧ j < 128 * p.row + new.length then new.getD (j - 128 * p.row) 0
        else fget 0 (s.cell n).arr.acc j := by
      rw [hacc, hacc']; exact fget_fputRow ..
    refine ⟨_, rfl, hm.trans hm', hp.trans hp', fun j hj => ?_, fun x hx => ?_, fun h => hcur.trans (acceptRow_cur h)⟩
    · rw [hget, if_pos (by omega), Nat.add_sub_cancel_left]
    · rw [hget, if_neg (by omega)]

end Sys2Proof.Machine
end

section
/-! SUPPORT. Preemption, save, restore and abort of the array (R90 to R92, R96, R125). -/

namespace Sys2Proof.Machine

variable {s t : State} {n : Nat} {p : Product}

/-! ### ARRAY_PREEMPT_EFFECT -/

/-- At a boundary the drain is emptied, and the save begins. -/
theorem preemptEffect_spec (hr : cellRuns s n = true) (hc : (s.cell n).arr.cur = some p)
    (hask : (s.cell n).arr.preReq = true ∨ (s.cell n).arr.st = .emptying) (hb : atBoundary (s.cell n) p = true)
    (hk : (s.region (n / 40)).clkTarget = none)
    (hst : (s.cell n).arr.st = .streaming ∨ (s.cell n).arr.st = .firstLoad ∨ (s.cell n).arr.st = .emptying) :
    ((preemptEffect s n).cell n).arr.st = .saving ∧ ((preemptEffect s n).cell n).arr.bufs = [] := by
  have hask' : ((s.cell n).arr.preReq || (s.cell n).arr.st == .emptying) = true := by simpa using hask
  have hst' : ((s.cell n).arr.st == .streaming || (s.cell n).arr.st == .firstLoad
      || (s.cell n).arr.st == .emptying) = true := by simpa [or_assoc] using hst
  have h : preemptEffect s n = (flushDrain s n).updArr n fun a => { a with st := .saving } := by
    simp [preemptEffect, hc, hr, hask', hst', hb, hk]
  rw [h, cell_updArr, flushDrain, cell_updArr]
  exact ⟨rfl, rfl⟩

/-! ### TILE_CONTEXT_SAVE_DONE -/

theorem memWrite_cell (s : State) (a : Nat) (bs : List Byte) (n : Nat) : (memWrite s a bs).cell n = s.cell n :=
  (congrArg (fun u : State => u.cell n) (memWrite_frame s a bs) :)

/-- Where memory is as after a write, the bytes written read back, and no other sound byte has changed. -/
theorem written_of_mem {a : Nat} {bs : List Byte} (h : t.mem = (memWrite s a bs).mem) :
    rdBytes t a bs.length = bs ∧ OnlyBytes [(a, bs.length)] s t :=
  ⟨(rdBytes_congr h ..).trans (rdBytes_memWrite ..), fun x hx hb =>
    (congrArg (fun m : FMap Byte => fget 0 m x) h).trans (onlyBytes_memWrite s a bs x hx hb)⟩

/-- The image is written, and the array is idle, whatever queue the product waits in (R91, R278). -/
theorem saveDone_eq (hr : cellRuns s n = true) (hc : (s.cell n).arr.cur = some p) (hst : (s.cell n).arr.st = .saving) :
    ∃ f, saveDone s n = (memWrite s (cellAddr n + p.pd.ctxSave) (tileImage (s.cell n) p)).updCell n f
      ∧ (f (s.cell n)).arr.cur = none ∧ (f (s.cell n)).arr.st = .idle
      ∧ (f (s.cell n)).arr.saves = (s.cell n).arr.saves + 1 := by
  simp only [saveDone, hc, hr, hst, beq_self_eq_true, Bool.and_self, if_true]
  split
  · exact ⟨_, rfl, rfl, rfl, rfl⟩
  · refine ⟨_, rfl, ?_⟩
    cases p.deferred <;> exact ⟨rfl, rfl, rfl⟩

theorem saveDone_spec (hr : cellRuns s n = true) (hc : (s.cell n).arr.cur = some p)
    (hst : (s.cell n).arr.st = .saving) :
    let at_ := cellAddr n + p.pd.ctxSave
    let img := tileImage (s.cell n) p
    let t := saveDone s n
    rdBytes t at_ img.length = img ∧ OnlyBytes [(at_, img.length)] s t
      ∧ (t.cell n).arr.cur = none ∧ (t.cell n).arr.st = .idle ∧ (t.cell n).arr.saves = (s.cell n).arr.saves + 1 := by
  obtain ⟨f, heq, hf⟩ := saveDone_eq hr hc hst
  obtain ⟨hw, ho⟩ := written_of_mem ((congrArg State.mem heq).trans (State.updCell_mem ..))
  have hcell : (saveDone s n).cell n = f (s.cell n) := by rw [heq, State.cell_updCell, if_pos rfl, memWrite_cell]
  refine ⟨hw, ho, ?_⟩
  rw [hcell]
  exact hf

/-! ### TILE_CONTEXT_RESTORE_DONE -/

/-- Memory, and what a restore sets: the state, the accumulators and the count of resumes. -/
def State.resumed (n : Nat) (s : State) : FMap Byte × ArrState × FMap Word × Word :=
  (s.mem, (s.cell n).arr.st, (s.cell n).arr.acc, (s.cell n).arr.resumes)

theorem resumed_updCell (s : State) (n : Nat) (f : Cell → Cell) : (s.updCell n f).resumed n =
    (s.mem, (f (s.cell n)).arr.st, (f (s.cell n)).arr.acc, (f (s.cell n)).arr.resumes) := by
  simp only [State.resumed, State.cell_updCell, if_pos, State.updCell_mem]

theorem rebuildTile_resumed (s : State) (n : Nat) (p : Product) : (rebuildTile s n p).resumed n = s.resumed n := by
  unfold rebuildTile
  dsimp only
  split
  · exact resumed_updCell ..
  · rfl

theorem rebuildChain_resumed (s : State) (n : Nat) (p : Product) : (rebuildChain s n p).resumed n = s.resumed n := by
  unfold rebuildChain
  dsimp only
  split
  · exact resumed_updCell ..
  · rfl

/-- The accumulators are those of the saved image (Table 3-5). -/
theorem restoreDone_resumed (hr : cellRuns s n = true) (hc : (s.cell n).arr.cur = some p)
    (hst : (s.cell n).arr.st = .restoring) (hb : (s.cell n).arr.bufs.length < 2) :
    (restoreDone s n).resumed n = (s.mem, .streaming, flisted 0 0 ((List.range 16384).map fun i =>
      BitVec.ofNat 32 (rdNat s (p.saved.getD 0 + 0x80 + 4 * i) 4)), (s.cell n).arr.resumes + 1) := by
  have hg : (cellRuns s n && (s.cell n).arr.st == .restoring && decide ((s.cell n).arr.bufs.length < 2)) = true := by
    simp [hr, hst, hb]
  simp only [restoreDone, hc, if_pos hg, rebuildChain_resumed, rebuildTile_resumed]
  refine (resumed_updCell ..).trans ?_
  simp only [Cell.updArr, Arr.countResume]

theorem fget_flisted_range {α : Type} [DecidableEq α] (d : α) (f : Nat → α) {k i : Nat} (h : i < k) :
    fget d (flisted d 0 ((List.range k).map f)) i = f i := by
  have hget := fget_flisted d ((List.range k).map f) 0 i
  rw [Nat.zero_add] at hget
  simp [hget, h]

/-! ### ARRAY_ABORT_STOP -/

/-- The products of the other operations stay, in every place, whether or not the array has to stop. -/
theorem dropProducts_products (gone : OpId → Bool) (a : Arr) :
    (dropProducts gone a).products = a.products.filter fun p => !gone p.op := by
  cases hc : a.cur with
  | none => simp [dropProducts, Arr.products, hc, Option.toList_filter]
  | some p => by_cases hg : gone p.op = true <;> simp [dropProducts, Arr.products, hc, hg, Option.toList_filter]

theorem freeAcc_products (s : State) (n : Nat) : ((freeAcc s n).cell n).arr.products = (s.cell n).arr.products := by
  simp only [freeAcc, State.cell, State.updArr, State.updCell, State.setCell, fget_fset_same, Cell.updArr, Arr.products]

theorem stopArray_products (gone : OpId → Bool) (s : State) (n : Nat) :
    ((stopArray gone s n).cell n).arr.products = (s.cell n).arr.products.filter fun p => !gone p.op := by
  have h (f : OpId → Bool) : ((s.updArr n fun a =>
      { dropProducts gone a with accOwner := (dropProducts gone a).accOwner.filter f }).cell n).arr.products =
      (s.cell n).arr.products.filter fun p => !gone p.op := by
    rw [cell_updArr]
    exact dropProducts_products gone _
  unfold stopArray
  dsimp only
  split
  · exact (freeAcc_products ..).trans (h _)
  · exact h _

theorem abortStop_eq (h : (s.cell n).arr.abortReq ≠ []) : abortStop s n =
    settleStop ((stopArray (fun id => (s.cell n).arr.abortReq.contains id) s n).updArr n fun a =>
      { a with abortReq := [] }) (n / 8) :=
  if_neg (by simpa using h)

/-- The aborted operations' products leave the cell, and the request is done. -/
theorem abortStop_spec (h : (s.cell n).arr.abortReq ≠ []) : (abortStop s n).mem = s.mem
    ∧ ((abortStop s n).cell n).arr.abortReq = []
    ∧ ∀ x ∈ ((abortStop s n).cell n).arr.products, (s.cell n).arr.abortReq.contains x.op = false := by
  rw [abortStop_eq h, settleStop_cell, cell_updArr]
  refine ⟨?_, rfl, fun x hx => ?_⟩
  · exact (congrArg State.mem (settleStop_besideUnits ..) :).trans (congrArg State.mem (stopArray_besideUnits ..) :)
  · have hx' := stopArray_products (fun id => (s.cell n).arr.abortReq.contains id) s n ▸ hx
    simpa using (List.mem_filter.mp hx').2

/-! ### O30 -/

/-- Settles O30: each command by what it leaves in the array. -/
theorem tileContexts : Obligations.TileContexts := by
  intro s n p hn
  refine ⟨fun hr hc => ⟨fun hask hb hk hst => ⟨_, rfl, preemptEffect_spec hr hc hask hb hk hst⟩,
    fun hst => ⟨_, rfl, saveDone_spec hr hc hst⟩, fun hst hb => ?_⟩, fun ha => ?_⟩
  · have h := restoreDone_resumed hr hc hst hb
    simp only [State.resumed, Prod.mk.injEq] at h
    obtain ⟨hm, hs, hacc, hres⟩ := h
    exact ⟨_, rfl, hm, hs, fun i hi => by rw [hacc]; exact fget_flisted_range 0 _ hi, hres⟩
  · exact ⟨_, congrArg Host.Outcome.next (if_pos hn), abortStop_spec ha⟩

end Sys2Proof.Machine
end

section
/-! SUPPORT. Clock steps, and the rules of the power and thermal arbiter (R94, R426 to R428). -/

namespace Sys2Proof.Machine

/-! ### Folds over units of which each step reads and writes its own -/

section

variable {σ α : Type} {view : Nat → σ → α} {f : σ → Nat → σ} (other : ∀ s i j, i ≠ j → view i (f s j) = view i s)
include other

/-- Where step `j` changes only what `view j` shows, a fold leaves every other unit as it was. -/
theorem foldl_away {l : List Nat} {i : Nat} (hi : i ∉ l) (s : σ) : view i (l.foldl f s) = view i s := by
  induction l generalizing s with
  | nil => rfl
  | cons j l ih => exact (ih (List.not_mem_of_not_mem_cons hi) _).trans (other _ _ _ (List.ne_of_not_mem_cons hi))

/-- And of each unit that it lists once, what the unit's own step gives from a state in which it is as at the start. -/
theorem foldl_own {l : List Nat} (hl : l.Nodup) {i : Nat} (hi : i ∈ l) (s : σ) :
    ∃ t, view i t = view i s ∧ view i (l.foldl f s) = view i (f t i) := by
  induction l generalizing s with
  | nil => cases hi
  | cons j l ih =>
    obtain ⟨hj, hl⟩ := List.nodup_cons.mp hl
    by_cases e : i = j
    · subst e
      exact ⟨s, rfl, foldl_away other hj _⟩
    · obtain ⟨t, ht, hf⟩ := ih hl ((List.mem_cons.mp hi).resolve_left e) (f s j)
      exact ⟨t, ht.trans (other _ _ _ e), hf⟩

end

/-! ### What the arbiter knows of a region -/

/-- A region, and what bears on its clock: brake, trip, the holds of the power and heat rules, the cool ticks, and the
temperatures of its dies and stacks. -/
def arbiterView (r : Nat) (s : State) : Region × Bool × Bool × Nat × Nat × Nat × Nat × Nat :=
  (s.region r, s.pwr.brake, s.pwr.trip, fget 0 s.pwr.pwrHold r, fget 0 s.pwr.heatHold r, fget 0 s.pwr.coolTicks r,
    fget 0 s.pwr.temps r, fget 0 s.pwr.stackMax r)

variable {s t : State} {r i : Nat}

theorem arbiterView_iff : arbiterView r t = arbiterView r s ↔
    t.region r = s.region r ∧ t.pwr.brake = s.pwr.brake ∧ t.pwr.trip = s.pwr.trip
      ∧ fget 0 t.pwr.pwrHold r = fget 0 s.pwr.pwrHold r ∧ fget 0 t.pwr.heatHold r = fget 0 s.pwr.heatHold r
      ∧ fget 0 t.pwr.coolTicks r = fget 0 s.pwr.coolTicks r ∧ fget 0 t.pwr.temps r = fget 0 s.pwr.temps r
      ∧ fget 0 t.pwr.stackMax r = fget 0 s.pwr.stackMax r := by
  simp only [arbiterView, Prod.mk.injEq]

theorem requiredStep_of_view (h : arbiterView r t = arbiterView r s) : requiredStep t r = requiredStep s r := by
  obtain ⟨-, hb, ht, hp, hh, -⟩ := arbiterView_iff.mp h
  simp only [requiredStep, hb, ht, hp, hh]

theorem liveRegion_of_view (h : arbiterView r t = arbiterView r s) : liveRegion t r = liveRegion s r := by
  simp only [liveRegion, fencedRegion, (arbiterView_iff.mp h).1]

theorem regionHeat_of_view (h : arbiterView r t = arbiterView r s) (n : Nat) : regionHeat t r n = regionHeat s r n := by
  obtain ⟨-, -, -, -, -, -, ht, hs⟩ := arbiterView_iff.mp h
  simp only [regionHeat, ht, hs]

/-! ### Orders to the clocks -/

theorem orderStep_frame (s : State) (r : Nat) : { orderStep s r with regions := s.regions } = s := by
  unfold orderStep
  dsimp only
  split <;> rfl

theorem orderSteps_frame (s : State) : { orderSteps s with regions := s.regions } = s :=
  foldl_keeps (fun t : State => { t with regions := s.regions }) (List.range 4) orderStep
    (fun t r => congrArg (fun u : State => { u with regions := s.regions }) (orderStep_frame t r)) s

@[simp] theorem orderSteps_mem (s : State) : (orderSteps s).mem = s.mem := (congrArg State.mem (orderSteps_frame s) :)
@[simp] theorem orderSteps_pwr (s : State) : (orderSteps s).pwr = s.pwr := (congrArg State.pwr (orderSteps_frame s) :)
@[simp] theorem orderSteps_pins (s : State) : (orderSteps s).pins = s.pins :=
  (congrArg State.pins (orderSteps_frame s) :)
@[simp] theorem orderSteps_mbx (s : State) : (orderSteps s).mbx = s.mbx := (congrArg State.mbx (orderSteps_frame s) :)

/-- A region's order to step `k`: a live one that is not in a switch takes it. -/
def stepOrdered (k : Nat) (g : Region) : Region :=
  if g.fence.getLsbD 63 || g.clkSwitching || !g.released then g
  else { g with clkTarget := if k = g.clkStep then none else some k }

theorem orderStep_region (s : State) (r : Nat) :
    (orderStep s r).region r = stepOrdered (requiredStep s r) (s.region r) := by
  unfold orderStep stepOrdered fencedRegion
  dsimp only
  split
  · rfl
  · exact (State.region_updRegion ..).trans (if_pos rfl)

/-- An order changes a region's target alone. -/
theorem stepOrdered_target (k : Nat) (g : Region) : { stepOrdered k g with clkTarget := g.clkTarget } = g := by
  unfold stepOrdered
  split <;> rfl

theorem stepOrdered_live {k : Nat} (hl : liveRegion s r = true) (hw : (s.region r).clkSwitching = false)
    (hk : (s.region r).clkStep ≠ k) : (stepOrdered k (s.region r)).clkTarget = some k := by
  obtain ⟨hrel, hf⟩ : (s.region r).released = true ∧ (s.region r).fence.getLsbD 63 = false := by
    simpa [liveRegion, fencedRegion] using hl
  rw [stepOrdered, if_neg (by simp only [hrel, hf, hw]; decide)]
  exact if_neg hk.symm

theorem orderStep_view_other (s : State) (i r : Nat) (h : i ≠ r) : arbiterView i (orderStep s r) = arbiterView i s := by
  have hr : (orderStep s r).region i = s.region i := by
    unfold orderStep
    dsimp only
    split
    · rfl
    · exact (State.region_updRegion ..).trans (if_neg h)
  have hp : (orderStep s r).pwr = s.pwr := (congrArg State.pwr (orderStep_frame s r) :)
  simp only [arbiterView, hr, hp]

/-- Every region is ordered once. -/
theorem orderSteps_region (s : State) (hr : r < 4) :
    (orderSteps s).region r = stepOrdered (requiredStep s r) (s.region r) := by
  obtain ⟨t, ht, hf⟩ := foldl_own orderStep_view_other List.nodup_range (List.mem_range.mpr hr) s
  rw [← requiredStep_of_view ht, ← (arbiterView_iff.mp ht).1, ← orderStep_region]
  exact congrArg Prod.fst hf

/-! ### A switch of the cell clock -/

theorem cellReady_eq (hr : r < 4) (hf : fencedRegion s r = false) (hw : (s.region r).clkSwitching = false)
    (ht : (s.region r).clkTarget ≠ none) (hc : ∀ i, i < 40 → clockReady s (40 * r + i) = true) :
    cellReady s r = s.updRegion r fun g => { g with clkSwitching := true } := by
  have hall : ((List.range 40).all fun i => clockReady s (40 * r + i)) = true := by simpa using hc
  exact if_pos (by simp [hr, hf, hw, Option.isSome_iff_ne_none.mpr ht, hall])

theorem clockSwitchDone_eq {k : Nat} (hw : (s.region r).clkSwitching = true) (hk : (s.region r).clkTarget = some k) :
    clockSwitchDone s r = orderStep (s.updRegion r fun g =>
      { g with clkSwitching := false, clkStep := k, clkTarget := none, clkSteps := g.clkSteps + 1 }) r := by
  simp only [clockSwitchDone, hk, hw, if_true]

theorem clockSwitchDone_spec {k : Nat} (hw : (s.region r).clkSwitching = true) (hk : (s.region r).clkTarget = some k) :
    ((clockSwitchDone s r).region r).clkStep = k ∧ ((clockSwitchDone s r).region r).clkSwitching = false
      ∧ ((clockSwitchDone s r).region r).clkSteps = (s.region r).clkSteps + 1
      ∧ { clockSwitchDone s r with regions := s.regions } = s := by
  rw [clockSwitchDone_eq hw hk]
  refine ⟨?_, ?_, ?_, congrArg (fun u : State => { u with regions := s.regions }) (orderStep_frame (s.updRegion r _) r)⟩
  all_goals
    rw [orderStep_region, State.region_updRegion, if_pos rfl]
  · exact congrArg Region.clkStep (stepOrdered_target ..)
  · exact congrArg Region.clkSwitching (stepOrdered_target ..)
  · exact congrArg Region.clkSteps (stepOrdered_target ..)

/-! ### Steps down -/

theorem powerDown_view_other (s : State) (i r : Nat) (h : i ≠ r) : arbiterView i (powerDown s r) = arbiterView i s :=
  arbiterView_iff.mpr ⟨rfl, rfl, rfl, fget_fset_ne _ _ _ h, rfl, rfl, rfl, rfl⟩

/-- A region that may step down requires one step more. -/
theorem powerDown_hold (h : requiredStep s r < 2) : fget 0 (powerDown s r).pwr.pwrHold r = requiredStep s r + 1 :=
  (fget_fset_same ..).trans (by omega)

theorem mem_aboveLowest : r ∈ aboveLowest s ↔ r < 4 ∧ liveRegion s r = true ∧ requiredStep s r < 2 := by
  simp [aboveLowest]

theorem nodup_aboveLowest (s : State) : (aboveLowest s).Nodup := List.nodup_range.filter _

theorem foldl_powerDown_mem (l : List Nat) (s : State) : (l.foldl powerDown s).mem = s.mem :=
  foldl_keeps State.mem l powerDown (fun _ _ => rfl) s

/-! ### POWER_SAMPLE -/

/-- The samples with one more, and what it tells the recovery rule. -/
def sampled (s : State) (w : Watts) : State :=
  s.updPwr fun p =>
    { p with samples := (w :: p.samples).take 1000, fastSkip := p.fastSkip - 1,
             calm := p.calm && !meanAbove Watts.total ((w :: p.samples).take 10) 2450 }

/-- Every live region above the lowest clock steps down once. -/
def fastDown (s : State) : State :=
  orderSteps (((aboveLowest s).foldl powerDown s).updPwr fun p =>
    { p with fastSkip := 10, fast := bump16 p.fast (aboveLowest s).length })

theorem powerSample_eq (s : State) (w : Watts) : powerSample s w =
    if (sampled s w).pwr.fastSkip = 0 ∧ meanAbove Watts.total ((w :: s.pwr.samples).take 10) 2600 then
      fastDown (sampled s w) else sampled s w := by
  have hl : ((w :: s.pwr.samples).take 1000).take 10 = (w :: s.pwr.samples).take 10 := by
    rw [List.take_take, Nat.min_eq_left (by decide)]
  unfold powerSample
  simp only [last100, State.updPwr, hl]
  rfl

theorem fastDown_samples (s : State) : (fastDown s).pwr.samples = s.pwr.samples := by
  simp only [fastDown, orderSteps_pwr]
  exact foldl_keeps (fun t : State => t.pwr.samples) _ powerDown (fun _ _ => rfl) s

theorem fastDown_mem (s : State) : (fastDown s).mem = s.mem := by
  simp only [fastDown, orderSteps_mem]
  exact foldl_powerDown_mem _ s

theorem fastDown_hold (h : r ∈ aboveLowest s) : fget 0 (fastDown s).pwr.pwrHold r = requiredStep s r + 1 := by
  obtain ⟨-, -, hq⟩ := mem_aboveLowest.mp h
  obtain ⟨t, ht, hf⟩ := foldl_own powerDown_view_other (nodup_aboveLowest s) h s
  obtain ⟨-, -, -, hp, -⟩ := arbiterView_iff.mp hf
  rw [← requiredStep_of_view ht] at hq ⊢
  simp only [fastDown, orderSteps_pwr]
  exact hp.trans (powerDown_hold hq)

theorem powerSample_samples (s : State) (w : Watts) :
    (powerSample s w).pwr.samples = (w :: s.pwr.samples).take 1000 ∧ (powerSample s w).mem = s.mem := by
  rw [powerSample_eq]
  split
  · exact ⟨fastDown_samples _, fastDown_mem _⟩
  · exact ⟨rfl, rfl⟩

/-- A mean of at most 2,600 W steps nothing down. -/
theorem powerSample_low {w : Watts} (h : meanAbove Watts.total ((w :: s.pwr.samples).take 10) 2600 = false) :
    (powerSample s w).pwr.pwrHold = s.pwr.pwrHold := by
  rw [powerSample_eq, if_neg fun hc => Bool.false_ne_true (h ▸ hc.2)]
  rfl

/-- A mean above 2,600 W steps every region that may step down. -/
theorem powerSample_high {w : Watts} (h : meanAbove Watts.total ((w :: s.pwr.samples).take 10) 2600 = true)
    (hskip : s.pwr.fastSkip ≤ 1) (hr : r ∈ aboveLowest s) :
    fget 0 (powerSample s w).pwr.pwrHold r = requiredStep s r + 1 := by
  have hskip' : (sampled s w).pwr.fastSkip = 0 := Nat.sub_eq_zero_of_le hskip
  rw [powerSample_eq, if_pos ⟨hskip', h⟩]
  exact fastDown_hold (s := sampled s w) hr

/-! ### TEMPERATURE_SAMPLE -/

/-- The maxima that a sample leaves with the arbiter. -/
def maxima (c : Temps) (p : Power) : Power :=
  { p with temps := fsets 0 p.temps 0 (c.regions.map hottest), hubTemp := hottest c.hub,
           stackMax := fsets 0 p.stackMax 0 ((List.range 4).map fun r => hottest (stacksOf c r)) }

/-- A sample with the arbiter, and in the sensors of the stacks. -/
def measured (s : State) (c : Temps) : State :=
  (List.range 12).foldl (fun s h => s.updHbm h fun k => { k with temp := c.stackC.getD h 0 % 256 })
    (s.updPwr (maxima c))

theorem measured_frame (s : State) (c : Temps) : { measured s c with hbms := s.hbms } = s.updPwr (maxima c) :=
  foldl_keeps (fun t : State => { t with hbms := s.hbms }) (List.range 12)
    (fun s h => s.updHbm h fun k => { k with temp := c.stackC.getD h 0 % 256 }) (fun _ _ => rfl) _

variable (c : Temps)

theorem measured_mem : (measured s c).mem = s.mem := (congrArg State.mem (measured_frame s c) :)
theorem measured_pins : (measured s c).pins = s.pins := (congrArg State.pins (measured_frame s c) :)
theorem measured_mbx : (measured s c).mbx = s.mbx := (congrArg State.mbx (measured_frame s c) :)
theorem measured_pwr : (measured s c).pwr = maxima c s.pwr := (congrArg State.pwr (measured_frame s c) :)

theorem maxima_temps (p : Power) (h : r < c.regions.length) :
    fget 0 (maxima c p).temps r = hottest c.regions[r] := by
  have hget := fget_fsets_in 0 (c.regions.map hottest) p.temps 0 r (by simpa using h)
  rwa [Nat.zero_add, List.getElem_map] at hget

theorem trip_mem : (trip s).mem = s.mem := by simp only [trip, orderSteps_mem]; rfl
theorem trip_pwr : (trip s).pwr = { s.pwr with trip := true } := by simp only [trip, orderSteps_pwr]; rfl
theorem trip_pins : (trip s).pins = { s.pins with thermTrip := true } := by
  simp only [trip, orderSteps_pins]; rfl
theorem trip_mbx : (trip s).mbx = { s.mbx with quiesced := true } := by simp only [trip, orderSteps_mbx]; rfl

/-- Is a region's die or the hub die at 105 degrees or more? -/
def tripHot (c : Temps) : Bool := (c.regions.any fun l => decide (105 ≤ hottest l)) || decide (105 ≤ hottest c.hub)

variable {c}

theorem temperatureSample_hot (h : tripHot c = true) : temperatureSample s c = trip (measured s c) := if_pos h

theorem temperatureSample_cool (h : tripHot c = false) : temperatureSample s c = measured s c :=
  if_neg fun hc => Bool.false_ne_true (h ▸ hc)

/-- The maxima and memory, whether or not the device trips. -/
theorem temperatureSample_maxima (s : State) (c : Temps) :
    (temperatureSample s c).pwr.hubTemp = hottest c.hub
    ∧ (temperatureSample s c).mem = s.mem
    ∧ ∀ r (h : r < c.regions.length), fget 0 (temperatureSample s c).pwr.temps r = hottest c.regions[r] := by
  cases h : tripHot c with
  | true =>
    rw [temperatureSample_hot h, trip_pwr, trip_mem, measured_pwr]
    exact ⟨rfl, measured_mem c, fun r hr => maxima_temps c s.pwr hr⟩
  | false =>
    rw [temperatureSample_cool h, measured_pwr]
    exact ⟨rfl, measured_mem c, fun r hr => maxima_temps c s.pwr hr⟩

/-! ### ARBITER_TICK -/

/-- A fold that keeps what it has or takes the next element ends with one of the elements. -/
theorem mem_of_foldl_pick {f : Option Nat → Nat → Option Nat} (hf : ∀ b k, f b k = b ∨ f b k = some k) {l : List Nat}
    {b : Option Nat} (h : l.foldl f b = some r) : b = some r ∨ r ∈ l := by
  induction l generalizing b with
  | nil => exact .inl h
  | cons k l ih =>
    rcases ih h, hf b k with ⟨e | e, e' | e'⟩
    · exact .inl (e' ▸ e)
    · exact .inr (List.mem_cons.mpr (.inl (Option.some.inj (e.symm.trans e'))))
    · exact .inr (List.mem_cons_of_mem _ e)
    · exact .inr (List.mem_cons_of_mem _ e)

theorem highestPower_mem {l : List Nat} (h : highestPower s l = some r) : r ∈ l := by
  refine (mem_of_foldl_pick (fun b k => ?_) h).resolve_left (by simp)
  cases b with
  | none => exact .inr rfl
  | some j =>
    dsimp only
    split
    · exact .inr rfl
    · exact .inl rfl

/-- The step down of the sustained-power rule, counted. -/
def sustainedDown (s : State) (r : Nat) : State :=
  (powerDown s r).updPwr fun p => { p with sustained := bump16 p.sustained 1 }

theorem sustainedRule_eq (ha : meanAbove Watts.total (s.pwr.samples.take 1000) s.pwr.cap = true)
    (hr : highestPower s (aboveLowest s) = some r) :
    sustainedRule s = sustainedDown s r := by
  simp only [sustainedRule, last10ms, ha, hr, if_true]
  rfl

theorem sustainedRule_calm (ha : meanAbove Watts.total (s.pwr.samples.take 1000) s.pwr.cap = false) :
    sustainedRule s = s := by
  simp only [sustainedRule, last10ms, ha, Bool.false_eq_true, if_false]

/-- Above CAP the mean is not below CAP less 150 W. -/
theorem not_meanBelow_of_meanAbove {f : Watts → Nat} {l : List Watts} {c : Nat} (h : meanAbove f l c = true) (d : Nat) :
    meanBelow f l (c - d) = false := by
  simp only [meanAbove, meanBelow, decide_eq_true_eq, decide_eq_false_iff_not] at h ⊢
  have := Nat.mul_le_mul_right l.length (Nat.sub_le c d)
  omega

/-- No recovery while the power is high or a sample since the last tick was. -/
theorem recoveryRule_eq (h : s.pwr.calm = false ∨ meanAbove Watts.total (s.pwr.samples.take 1000) s.pwr.cap = true) :
    recoveryRule s = s.updPwr fun p => { p with lowTicks := 0, calm := true } := by
  have hg : (s.pwr.calm && !s.pwr.samples.isEmpty && meanBelow Watts.total (last10ms s) (s.pwr.cap - 150)) = false := by
    rcases h with h | h
    · simp [h]
    · simp [last10ms, not_meanBelow_of_meanAbove h]
  simp [recoveryRule, hg]

/-- Memory, and what the power rules keep: what the heat rule leaves alone. -/
def State.powerRules (s : State) : FMap Byte × FMap Nat × Nat := (s.mem, s.pwr.pwrHold, s.pwr.sustained)

theorem heatRule_powerRules (s : State) (r : Nat) : (heatRule s r).powerRules = s.powerRules := by
  unfold heatRule
  dsimp only
  split
  · split <;> rfl
  · rfl

theorem heatDown_view_other (s : State) (i r : Nat) (h : i ≠ r) : arbiterView i (heatDown s r) = arbiterView i s :=
  arbiterView_iff.mpr ⟨rfl, rfl, rfl, rfl, fget_fset_ne _ _ _ h, rfl, rfl, rfl⟩

theorem heatRule_view_other (s : State) (i r : Nat) (h : i ≠ r) : arbiterView i (heatRule s r) = arbiterView i s := by
  have hcool (v : Nat) :
      arbiterView i (s.updPwr fun p => { p with coolTicks := fset 0 p.coolTicks r v }) = arbiterView i s :=
    arbiterView_iff.mpr ⟨rfl, rfl, rfl, rfl, rfl, fget_fset_ne _ _ _ h, rfl, rfl⟩
  have hheat (c : Prop) [Decidable c] (v : Nat) :
      fget 0 (if c then fset 0 s.pwr.heatHold r v else s.pwr.heatHold) i = fget 0 s.pwr.heatHold i := by
    split
    · exact fget_fset_ne _ _ _ h
    · rfl
  unfold heatRule
  dsimp only
  split
  · split
    · exact (heatDown_view_other _ i r h).trans (hcool 0)
    · exact hcool 0
  · exact arbiterView_iff.mpr ⟨rfl, rfl, rfl, rfl, hheat .., fget_fset_ne _ _ _ h, rfl, rfl⟩

/-- A region at 95 degrees or more that may step down requires one step more. -/
theorem heatRule_hold (hh : regionHeat s r 95 = true) (hl : liveRegion s r = true) (hq : requiredStep s r < 2) :
    fget 0 (heatRule s r).pwr.heatHold r = requiredStep s r + 1 := by
  simp only [heatRule, hh, if_true, hl, hq, and_self]
  exact (fget_fset_same ..).trans (by change min 2 (requiredStep s r + 1) = _; omega)

/-- The heat rule of every region. -/
def heatRules (s : State) : State := (List.range 4).foldl heatRule s

theorem arbiterTick_eq (s : State) : arbiterTick s = orderSteps (heatRules (recoveryRule (sustainedRule s))) := rfl

theorem heatRules_powerRules (s : State) : (heatRules s).powerRules = s.powerRules :=
  foldl_keeps State.powerRules _ _ heatRule_powerRules s

theorem heatRules_hold (hr : r < 4) (hh : regionHeat s r 95 = true) (hl : liveRegion s r = true)
    (hq : requiredStep s r < 2) : fget 0 (heatRules s).pwr.heatHold r = requiredStep s r + 1 := by
  obtain ⟨t, ht, hf⟩ := foldl_own heatRule_view_other List.nodup_range (List.mem_range.mpr hr) s
  obtain ⟨-, -, -, -, hheat, -⟩ := arbiterView_iff.mp hf
  rw [← requiredStep_of_view ht] at hq ⊢
  rw [← regionHeat_of_view ht] at hh
  rw [← liveRegion_of_view ht] at hl
  rw [heatRules, hheat, heatRule_hold hh hl hq]

theorem arbiterTick_powerRules (s : State) :
    (arbiterTick s).powerRules = (recoveryRule (sustainedRule s)).powerRules := by
  refine Eq.trans ?_ (heatRules_powerRules _)
  rw [arbiterTick_eq]
  simp only [State.powerRules, orderSteps_mem, orderSteps_pwr]

/-- A mean above CAP steps the region of the highest power down. -/
theorem arbiterTick_high (ha : meanAbove Watts.total (s.pwr.samples.take 1000) s.pwr.cap = true)
    (hr : highestPower s (aboveLowest s) = some r) :
    fget 0 (arbiterTick s).pwr.pwrHold r = requiredStep s r + 1 ∧ (arbiterTick s).mem = s.mem
      ∧ (arbiterTick s).pwr.sustained = (s.pwr.sustained + 1) % 65536 := by
  have h := arbiterTick_powerRules s
  rw [sustainedRule_eq ha hr, recoveryRule_eq (s := sustainedDown s r) (.inr ha)] at h
  simp only [State.powerRules, Prod.mk.injEq] at h
  obtain ⟨hm, hp, hs⟩ := h
  obtain ⟨-, -, hq⟩ := mem_aboveLowest.mp (highestPower_mem hr)
  exact ⟨(congrArg (fun m => fget 0 m r) hp).trans (powerDown_hold hq), hm, hs⟩

/-- Where the power is not above CAP and nothing recovers, a hot region steps down. -/
theorem arbiterTick_hot (hr : r < 4) (ha : meanAbove Watts.total (s.pwr.samples.take 1000) s.pwr.cap = false)
    (hcalm : s.pwr.calm = false) (hh : regionHeat s r 95 = true) (hl : liveRegion s r = true)
    (hq : requiredStep s r < 2) :
    fget 0 (arbiterTick s).pwr.heatHold r = requiredStep s r + 1 ∧ (arbiterTick s).mem = s.mem := by
  have hm := congrArg Prod.fst (arbiterTick_powerRules s)
  rw [sustainedRule_calm ha, recoveryRule_eq (.inl hcalm)] at hm
  refine ⟨?_, hm⟩
  rw [arbiterTick_eq, sustainedRule_calm ha, recoveryRule_eq (.inl hcalm), orderSteps_pwr]
  exact heatRules_hold (s := s.updPwr _) hr hh hl hq

/-! ### POWER_BRAKE -/

theorem brakeAssert_eq (h : s.pwr.brake = false) : brakeAssert s = orderSteps (s.updPwr fun p => { p with
    brake := true, brakes := bump16 p.brakes 1, pwrHold := fsets 0 p.pwrHold 0 [2, 2, 2, 2], lowTicks := 0 }) :=
  if_neg (by simp [h])

theorem requiredStep_brake (h : s.pwr.brake = true) (r : Nat) : requiredStep s r = 2 := by
  simp only [requiredStep, h, Bool.true_or, if_true]
  omega

/-- The brake requires the lowest clock of every region, and orders it of a live one that is at another. -/
theorem brakeAssert_region (h : s.pwr.brake = false) (hr : r < 4) (hl : liveRegion s r = true)
    (hw : (s.region r).clkSwitching = false) (hk : (s.region r).clkStep ≠ 2) :
    ((brakeAssert s).region r).clkTarget = some 2 := by
  rw [brakeAssert_eq h, orderSteps_region _ hr, requiredStep_brake rfl]
  exact stepOrdered_live hl hw hk

theorem brakeRelease_eq (s : State) : brakeRelease s = orderSteps (s.updPwr fun p => { p with brake := false }) := rfl

/-! ### O57 -/

/-- Settles O57: each command by its equation, with the clocks of the regions ordered last. -/
theorem clocksAndPower : Obligations.ClocksAndPower := by
  intro s
  refine ⟨fun r hr hf hw ht hc => ?_, fun r k hr hw hk => ?_, fun hon => ⟨fun w => ?_, fun c hr hc => ?_,
    fun r ha hh => ?_, fun r hr ha hcalm hheat hl hq => ?_⟩, fun hb => ?_, ?_⟩
  · refine ⟨_, congrArg Host.Outcome.next (cellReady_eq hr hf hw ht hc), ?_, rfl⟩
    exact (State.region_updRegion ..).trans (if_pos rfl)
  · exact ⟨_, congrArg Host.Outcome.next (if_pos hr), clockSwitchDone_spec hw hk⟩
  · obtain ⟨hs, hm⟩ := powerSample_samples s w
    exact ⟨_, congrArg Host.Outcome.next (if_pos hon), hs, hm, powerSample_low,
      fun h hskip r hr hl hq => powerSample_high h hskip (mem_aboveLowest.mpr ⟨hr, hl, hq⟩)⟩
  · obtain ⟨hhub, hm, ht⟩ := temperatureSample_maxima s c
    refine ⟨_, congrArg Host.Outcome.next (if_pos (by simp [hon, hr, hc])), hhub, hm, ht, fun h => ?_, fun h => ?_⟩
    · rw [temperatureSample_hot h, trip_pins, trip_pwr, trip_mbx]
      exact ⟨rfl, rfl, rfl⟩
    · rw [temperatureSample_cool h, measured_pins, measured_pwr, measured_mbx]
      exact ⟨rfl, rfl, rfl⟩
  · exact ⟨_, congrArg Host.Outcome.next (if_pos hon), arbiterTick_high ha hh⟩
  · exact ⟨_, congrArg Host.Outcome.next (if_pos hon), arbiterTick_hot hr ha hcalm hheat hl hq⟩
  · have hpwr := congrArg State.pwr (brakeAssert_eq hb)
    rw [orderSteps_pwr] at hpwr
    have hbrake : (brakeAssert s).pwr.brake = true := congrArg Power.brake hpwr
    refine ⟨_, rfl, hbrake, ?_, congrArg Power.brakes hpwr, fun r _ => requiredStep_brake hbrake r,
      fun r hr hl hw hk => brakeAssert_region hb hr hl hw hk⟩
    rw [brakeAssert_eq hb, orderSteps_mem]
    rfl
  · refine ⟨_, rfl, ?_, ?_⟩
    · rw [brakeRelease_eq, orderSteps_pwr]
      rfl
    · rw [brakeRelease_eq, orderSteps_mem]
      rfl

end Sys2Proof.Machine
end

section
/-! SUPPORT. The drain: the writes of a unit, the encode sweep and the completion of a product (R101, R114, R117, R122,
R123). -/

namespace Sys2Proof.Machine

variable {s t u : State} {n : Nat} {l : List (Nat × Nat)} {b : TileBuf} {rest : List TileBuf}

/-! ### A cell that works -/

theorem cellRuns_iff : cellRuns s n = true ↔
    n < 160 ∧ (!fencedCell s n) = true ∧ (!(s.region (n / 40)).clkSwitching) = true := by
  simp only [cellRuns, Bool.and_eq_true, decide_eq_true_eq, and_assoc]

/-! ### What the writes of a drain leave -/

/-- Sound bytes outside `l` read as before, no byte becomes poisoned, and the arrays of the cells stay. -/
structure Drains (l : List (Nat × Nat)) (s t : State) : Prop where
  bytes : OnlyBytes l s t
  sound : ∀ x, bad s x = false → bad t x = false
  arr : ∀ m, (t.cell m).arr = (s.cell m).arr

theorem Drains.trans (h : Drains l s t) (k : Drains l t u) : Drains l s u where
  bytes x hx hb := (k.bytes x hx (h.sound x hb)).trans (h.bytes x hx hb)
  sound x hb := k.sound x (h.sound x hb)
  arr m := (k.arr m).trans (h.arr m)

theorem Drains.of_mem (hm : t.mem = s.mem) (hp : t.poison = s.poison) (ha : ∀ m, (t.cell m).arr = (s.cell m).arr) :
    Drains l s t where
  bytes x _ _ := by simp only [rdByte, hm]
  sound x hb := by simpa only [bad, hp] using hb
  arr := ha

theorem Drains.of_contents (h : t.contents = s.contents) : Drains l s t := by
  obtain ⟨-, hm, hp⟩ := contents_iff.mp h
  exact .of_mem hm hp fun m => by rw [cell_of_contents h]

theorem Drains.foldl {α : Type} {f : State → α → State} {xs : List α} (h : ∀ x ∈ xs, ∀ s, Drains l s (f s x))
    (s : State) : Drains l s (xs.foldl f s) := by
  induction xs generalizing s with
  | nil => exact .of_contents rfl
  | cons x xs ih => exact (h x (by simp) s).trans (ih (fun y hy => h y (by simp [hy])) _)

/-- A cell's update that keeps its array. -/
theorem drains_updCell {f : Cell → Cell} (hf : ∀ c, (f c).arr = c.arr) (s : State) : Drains l s (s.updCell n f) :=
  .of_mem rfl rfl fun m => by
    rw [State.cell_updCell]
    split
    · next h => rw [hf, h]
    · rfl

/-! ### A write of a drain -/

/-- The run of `k` bytes at `a` lies within one of the ranges. -/
def Covers (l : List (Nat × Nat)) (a k : Nat) : Prop := ∃ r ∈ l, r.1 ≤ a ∧ a + k ≤ r.1 + r.2

theorem drains_writeUnit {a : Nat} {bs : List Byte} (h : Covers l a bs.length) (s : State) :
    Drains l s (writeUnit s a bs) where
  bytes x hx hb := by
    obtain ⟨r, hr, h1, h2⟩ := h
    exact rdByte_writeUnit_out s a bs x (by have := hx r hr; omega) hb
  sound x hb := bad_writeUnit s a bs x hb
  arr m := (congrArg (fun v : State => (v.cell m).arr) (writeUnit_frame s a bs) :)

theorem drains_plainPiece {a : Nat} {bs : List Byte} (h : Covers l a bs.length) (id : OpId) (s : State) :
    Drains l s (plainPiece s id a bs) :=
  (drains_writeUnit h s).trans (.of_contents (addStat_if_contents ..))

/-- A piece in a frozen page is dropped and counted; any other is written (R295). -/
theorem drains_maskedPiece {a : Nat} {bs : List Byte} (h : Covers l a bs.length) (id : OpId) (s : State) :
    Drains l s (maskedPiece s id a bs) := by
  unfold maskedPiece
  split
  · exact .of_contents rfl
  · exact drains_plainPiece h id s

theorem drains_opWrite {a : Nat} {bs : List Byte} (h : Covers l a bs.length) (id : OpId) (cls : Nat) (priv : Bool)
    (s : State) : Drains l s (opWrite s id cls priv a bs) := by
  refine .foldl (fun p hp s => ?_) s
  obtain ⟨r, hr, h1, h2⟩ := h
  obtain ⟨-, h3, h4⟩ := pieces_bounds hp
  have hc : Covers l p.1 p.2.length := ⟨r, hr, by omega, by omega⟩
  split
  · exact drains_maskedPiece hc id s
  · exact drains_plainPiece hc id s

theorem freeCtxs_arr (id : OpId) (c : Cell) : (freeCtxs id c).arr = c.arr := by
  unfold freeCtxs
  generalize List.range 16 = ks
  refine foldl_keeps Cell.arr ks _ (fun _ _ => ?_) c
  rfl

theorem drains_endKernel (id : OpId) (st : Nat) (d0 : DWord) (s : State) : Drains l s (endKernel s id st d0) := by
  refine Drains.trans (t := stopKernel s id) ?_ (.of_contents rfl)
  unfold stopKernel
  split
  · exact .foldl (fun m _ s => drains_updCell (freeCtxs_arr id) s) s
  · exact .of_contents rfl

/-- A write that the slot rules forbid ends the kernel, and any other is made (R286, R306). -/
theorem drains_kernelDrainWrite {a : Nat} {bs : List Byte} (h : Covers l a bs.length) (id : OpId) (s : State) :
    Drains l s (kernelDrainWrite s id a bs) := by
  unfold kernelDrainWrite
  dsimp only
  split
  · exact drains_opWrite h id _ _ s
  · exact drains_endKernel id _ _ s

theorem drains_writes (ws : List (Nat × List Byte)) (id : OpId) (s : State) :
    Drains (ws.map fun w => (w.1, w.2.length)) s (ws.foldl (fun s w => kernelDrainWrite s id w.1 w.2) s) :=
  .foldl (fun _ hw s => drains_kernelDrainWrite ⟨_, List.mem_map_of_mem hw, Nat.le_refl _, Nat.le_refl _⟩ id s) s

theorem chargePairs_contents (s : State) (r tag : Nat) (evs : List (Nat × Nat)) :
    (chargePairs s r tag evs).contents = s.contents := by
  unfold chargePairs
  generalize List.range 14 = fmts
  exact foldl_keeps State.contents _ _ (fun _ _ => chargeEvents_contents ..) s

/-! ### BLOCK_ROW_WRITE -/

/-- Beside its writes a unit changes counters and statuses alone. -/
theorem drains_writeUnitOf (s : State) (n : Nat) (b : TileBuf) (q : Nat) :
    Drains (unitRanges s n b q) s (writeUnitOf s n b q) := by
  unfold writeUnitOf
  refine ((drains_writes _ b.prod.op s).trans (.of_contents ?_)).trans (drains_updCell (fun _ => ?_) _)
  · exact (addStat_if_contents ..).trans ((countValues_contents ..).trans
      ((chargeEvents_contents ..).trans (chargePairs_contents ..)))
  · rfl

/-- The oldest tile's buffer after its unit: freed after the last unit, and else one unit further. -/
def Arr.unitDone (c : Cell) (b : TileBuf) (a : Arr) : Arr :=
  let done := b.units + 1 == unitCount c b.prod
  let a1 := { a with bufs := match a.bufs with
    | x :: t => if done then t else x.wrote c :: t
    | [] => [] }
  if done then markLast b.prod.pid b.prod.tile a1 else a1

theorem writeNextUnit_eq (hb : (s.cell n).arr.bufs = b :: rest) (hu : unitReady (s.cell n) b b.units = true) :
    writeNextUnit s n = (writeUnitOf s n b b.units).updArr n (Arr.unitDone (s.cell n) b) := by
  simp only [writeNextUnit, nextUnit, hb, hu, if_true]
  rfl

theorem unitDone_bufs {c : Cell} {a : Arr} (h : a.bufs = b :: rest) : (a.unitDone c b).bufs =
    if b.units + 1 = unitCount c b.prod then rest else b.wrote c :: rest := by
  by_cases hl : b.units + 1 = unitCount c b.prod
  · simp [Arr.unitDone, markLast, hl, h]
  · simp [Arr.unitDone, hl, h]

theorem blockRowWrite_spec (hb : (s.cell n).arr.bufs = b :: rest) (hu : unitReady (s.cell n) b b.units = true) :
    OnlyBytes (unitRanges s n b b.units) s (writeNextUnit s n) ∧ ((writeNextUnit s n).cell n).arr.bufs =
      if b.units + 1 = unitCount (s.cell n) b.prod then rest else b.wrote (s.cell n) :: rest := by
  have hd := drains_writeUnitOf s n b b.units
  rw [writeNextUnit_eq hb hu]
  refine ⟨hd.bytes, ?_⟩
  rw [cell_updArr]
  exact unitDone_bufs ((congrArg Arr.bufs (hd.arr n)).trans hb)

/-! ### DRAIN_ENCODE_SWEEP and PRODUCT_COMPLETE -/

theorem sweepTile_eq (hb : (s.cell n).arr.bufs = b :: rest) (hw : wholeTile (s.cell n) b.prod.dd = true)
    (hs : b.swept = false) (hu : unitReady (s.cell n) { b with swept := true } 0 = true) :
    sweepTile s n = s.updArr n fun a => { a with bufs := { b with swept := true } :: rest } := by
  simp [sweepTile, hb, hw, hs, hu]

theorem productComplete_eq {p : Product} {ps : List Product} (hr : cellRuns s n = true)
    (hd : (s.cell n).arr.draining = p :: ps) (hb : ((s.cell n).arr.bufs.any fun b => b.prod.pid == p.pid) = false)
    (hu : p.unit = none) : productComplete s n = s.updArr n fun a => { a with draining := ps } := by
  simp only [productComplete, hd, hr, hb, hu, Bool.not_false, Bool.and_self, if_true, Option.isSome_none,
    Bool.false_eq_true, if_false]

/-! ### O29 -/

/-- Settles O29: each command by its equation; the writes of a unit keep the array, so the buffers are those that the
command leaves. -/
theorem drainWrites : Obligations.DrainWrites := by
  intro s n b rest hr
  have hrun := cellRuns_iff.mp hr
  refine ⟨fun hb hu => ⟨_, congrArg Host.Outcome.next (if_pos hrun), blockRowWrite_spec hb hu⟩,
    fun hb hw hs hu => ?_, fun p ps hd hb hu => ?_⟩
  · refine ⟨_, congrArg Host.Outcome.next ((if_pos hrun).trans (sweepTile_eq hb hw hs hu)), onlyArr_updArr .., ?_⟩
    rw [cell_updArr]; rfl
  · refine ⟨_, congrArg Host.Outcome.next (productComplete_eq hr hd hb hu), onlyArr_updArr .., ?_⟩
    rw [cell_updArr]; rfl

end Sys2Proof.Machine
end

section
/-! SUPPORT. Rescale tables, schedules, freeze masks and telemetry (R107, R289, R290, R293, R294, R302, R303). -/

namespace Sys2Proof.Machine

variable {s t : State} {e : OpEntry} {r : Nat}

/-! ### Reads of an image -/

/-- The count of a read is no write. -/
theorem onlyBytes_of_countReads {l : List (Nat × Nat)} {a k : Nat} (h : OnlyBytes l (countReads s a k) t) :
    OnlyBytes l s t := fun x hx hb =>
  (h x hx ((bad_countReads s a k x).trans hb)).trans (rdByte_countReads s a k x)

theorem op?_countReads (a k : Nat) (id : OpId) : (countReads s a k).op? id = s.op? id :=
  op?_congr (congrArg State.ops (countReads_frame s a k) :) id

/-! ### The loads in form -/

theorem bestStatus_OK : bestStatus [stOK, stOK] = stOK := by decide

section
variable (hz : tableZeros e = true) (hcells : e.tCells = 0) (hkind : e.tKind = 0) (hslot : e.tSlot = 0)
include hz hcells hkind hslot

/-- RESCALE_PLACE in form (R107): the image is read, and written to the destination. -/
theorem rescalePlace_eq (h : Admitted s 0x304 e) (h1 : e.tArg1 = 0) (hpos : 0 < e.tSize) (hsize : e.tSize % 8 = 0)
    (hdst : e.tArg0 % 8 = 0) (hto : rangeStatus s e.resident e.tArg0 e.tSize = stOK)
    (hfrom : rangeStatus s e.resident e.tImage e.tSize = stOK) (hbad : badRange s e.tImage e.tSize = false) :
    rescalePlace s e.id = (opWrite (countReads s e.tImage e.tSize) e.id e.cls false e.tArg0
      (rdBytes s e.tImage e.tSize)).finishOp e.id stOK := by
  have hst := loadStatus_eq_OK (cells := []) (img := fun _ => true) rfl (fun _ => hfrom) hbad rfl
  unfold rescalePlace
  rw [admittedOp_of_admitted h]
  simp only [hz, hcells, hkind, hslot, h1, hpos, hsize, hdst, beq_self_eq_true, decide_true, Bool.and_self, hst, hto,
    bestStatus_OK, imageRead_OK, rdBytes_countReads, ne_eq, not_true_eq_false, if_false]

/-- SCHEDULE_LOAD in form, of an image that the loader takes (R289, R290). -/
theorem scheduleLoad_eq (h : Admitted s 0x305 e) (hsize : e.tSize = gthImageBytes) (hdst : e.tArg0 % 64 = 0)
    (hin : e.tArg0 + 64 ≤ blkSize) (hcopy : e.tArg1 % 64 = 0)
    (hto : e.tArg1 ≠ 0 → e.tArg1 + 64 ≤ hbmTop ∧ rangeStatus s false e.tArg1 64 = stOK)
    (hfrom : rangeStatus s e.resident e.tImage gthImageBytes = stOK)
    (hbad : badRange s e.tImage gthImageBytes = false)
    (hok : gthImageOk (rdBytes s e.tImage gthImageBytes) = true) :
    scheduleLoad s e.id = ((countReads s e.tImage gthImageBytes).updGth fun g =>
      { g with gen := g.gen + 1,
               next := some (rdBytes s e.tImage gthImageBytes, e.tArg0, e.tArg1) }).finishOp e.id stOK := by
  have hst := loadStatus_eq_OK (cells := []) (img := gthImageOk) rfl (fun _ => hfrom) hbad hok
  have hcopyTo : (if e.tArg1 = 0 then stOK
      else if hbmTop < e.tArg1 + 64 then stBOUNDS else rangeStatus s false e.tArg1 64) = stOK := by
    by_cases h1 : e.tArg1 = 0
    · rw [if_pos h1]
    · obtain ⟨hle, hran⟩ := hto h1
      rw [if_neg h1, if_neg (Nat.not_lt.mpr hle), hran]
  unfold scheduleLoad
  rw [admittedOp_of_admitted h]
  simp only [hz, hcells, hkind, hslot, hsize, hdst, hin, hcopy, beq_self_eq_true, decide_true, Bool.and_self, hst,
    hcopyTo, bestStatus_OK, imageRead_OK, rdBytes_countReads, ne_eq, not_true_eq_false, if_false]

/-- FREEZE_LOAD in form, with no UPDATE work in flight (R293, R294). -/
theorem freezeLoad_eq (h : Admitted s 0x306 e) (hpages : e.tArg0 + e.tArg1 ≤ freezePages)
    (hsize : e.tSize = ceilDiv e.tArg1 8) (hfrom : e.tSize ≠ 0 → rangeStatus s e.resident e.tImage e.tSize = stOK)
    (hbad : badRange s e.tImage e.tSize = false) (hlive : updateLive s e.id = false) :
    freezeLoad s e.id = applyFreeze (countReads s e.tImage e.tSize) e := by
  have hst := loadStatus_eq_OK (cells := []) (img := fun _ => true) rfl hfrom hbad rfl
  have hlive' : updateLive (countReads s e.tImage e.tSize) e.id = false := by rw [countReads_eq]; exact hlive
  have hsize' : decide (e.tSize = ceilDiv e.tArg1 8) = true := decide_eq_true hsize
  unfold freezeLoad
  rw [admittedOp_of_admitted h]
  simp only [hz, hcells, hkind, hslot, hpages, hsize', beq_self_eq_true, decide_true, Bool.and_self, hst,
    imageRead_OK, hlive', ne_eq, not_true_eq_false, if_false, Bool.false_eq_true]

end

/-! ### RESCALE_PLACE -/

theorem rescalePlace_spec (h : Admitted s 0x304 e) (hc : e.cls ≠ clsUPD)
    (heq : rescalePlace s e.id = (opWrite (countReads s e.tImage e.tSize) e.id e.cls false e.tArg0
      (rdBytes s e.tImage e.tSize)).finishOp e.id stOK) :
    ∃ t y, exec (.rescalePlace e.id) s = .next t ∧ t.op? e.id = some y ∧ y.phase = .finished
      ∧ rdBytes t e.tArg0 e.tSize = rdBytes s e.tImage e.tSize ∧ OnlyBytes [(e.tArg0, e.tSize)] s t := by
  obtain ⟨hop, -, hph⟩ := h
  have hlen := length_rdBytes s e.tImage e.tSize
  generalize rdBytes s e.tImage e.tSize = bs at heq hlen ⊢
  obtain ⟨y, hy, hyp⟩ := opWrite_op? false e.tArg0 bs hc ((op?_countReads e.tImage e.tSize e.id).trans hop)
  obtain ⟨hw, ho⟩ := written_of_mem
    (t := (opWrite (countReads s e.tImage e.tSize) e.id e.cls false e.tArg0 bs).finishOp e.id stOK)
    (opWrite_mem _ e.id false e.tArg0 bs hc)
  rw [hlen] at hw ho
  exact ⟨_, _, congrArg Host.Outcome.next heq, op?_finishOp_self stOK hy (by simp [hyp, hph]), rfl, hw,
    onlyBytes_of_countReads ho⟩

/-! ### SCHEDULE_LOAD and FREEZE_LOAD -/

/-- A load that updates Girth alone. -/
theorem ends_updGth {opc : Nat} (h : Admitted s opc e) (a k : Nat) (f : Girth → Girth) :
    let t := ((countReads s a k).updGth f).finishOp e.id stOK
    Ends t e stOK ∧ { t with ops := s.ops, gth := s.gth, hbms := s.hbms } = s ∧ t.gth = f s.gth := by
  obtain ⟨hop, -, hph⟩ := h
  rw [countReads_eq]
  exact ⟨ends_finishOp stOK hop (by simp [hph]) rfl, rfl, rfl⟩

/-- The bits that a freeze image has for its pages. -/
def freezeBits (s : State) (e : OpEntry) : List Bool :=
  (List.range e.tArg1).map fun i => natBit ((rdBytes s e.tImage e.tSize).getD (i / 8) 0).toNat (i % 8)

theorem applyFreeze_eq (s : State) (e : OpEntry) :
    applyFreeze s e = ({ s with frozen := fputRow false s.frozen e.tArg0 (freezeBits s e) } : State).finishOp e.id stOK :=
  rfl

theorem freezeBits_getD {i : Nat} (hi : i < e.tArg1) (hsize : e.tSize = ceilDiv e.tArg1 8) :
    (freezeBits s e).getD i false = natBit (rdByte s (e.tImage + i / 8)).toNat (i % 8) := by
  have hin : i / 8 < e.tSize := by rw [hsize, ceilDiv]; omega
  simp [freezeBits, hi, rdBytes, fgets, hin, rdByte]

/-- The pages that the load names take its bits, and no other page changes. -/
theorem fget_frozen (hsize : e.tSize = ceilDiv e.tArg1 8) (p : Nat) :
    fget false (fputRow false s.frozen e.tArg0 (freezeBits s e)) p =
      if e.tArg0 ≤ p ∧ p < e.tArg0 + e.tArg1 then
        natBit (rdByte s (e.tImage + (p - e.tArg0) / 8)).toNat ((p - e.tArg0) % 8)
      else fget false s.frozen p := by
  have hlen : (freezeBits s e).length = e.tArg1 := by simp [freezeBits]
  rw [fget_fputRow, hlen]
  split
  · exact freezeBits_getD (by omega) hsize
  · rfl

theorem applyFreeze_spec (h : Admitted s 0x306 e) (hsize : e.tSize = ceilDiv e.tArg1 8) (a k : Nat) :
    let t := applyFreeze (countReads s a k) e
    Ends t e stOK ∧ { t with ops := s.ops, frozen := s.frozen, hbms := s.hbms } = s
      ∧ ∀ p, fget false t.frozen p =
          if e.tArg0 ≤ p ∧ p < e.tArg0 + e.tArg1 then
            natBit (rdByte s (e.tImage + (p - e.tArg0) / 8)).toNat ((p - e.tArg0) % 8)
          else fget false s.frozen p := by
  obtain ⟨hop, -, hph⟩ := h
  rw [applyFreeze_eq, countReads_eq]
  exact ⟨ends_finishOp stOK hop (by simp [hph]) rfl, rfl, fun p => fget_frozen hsize p⟩

/-! ### TELEMETRY_SET -/

/-- A region's telemetry with a ring of `k + 1` records at `base`. -/
def Region.setRing (base k : Nat) (g : Region) : Region := { g with tlm := { g.tlm with base := base, ring := k } }

/-- TELEMETRY_SET in form, for regions in service (R302). -/
theorem telemetrySet_eq (h : Admitted s 0x802 e) (hz : zeros e.desc 0x1A 0x20 = true) (hm : fld e.desc 0x19 1 < 16)
    (hmin : 1 ≤ fld e.desc 0x18 1) (hmax : fld e.desc 0x18 1 ≤ 64) (hpage : fld e.desc 0x10 8 % 4096 = 0)
    (hto : fld e.desc 0x10 8 ≠ 0 → rangeStatus s false (fld e.desc 0x10 8) (fld e.desc 0x18 1 * tlmStride) = stOK)
    (hf : ∀ r, natBit (fld e.desc 0x19 1) r = true → fencedRegion s r = false) :
    telemetrySet s e.id = ((bitsOf 4 (fld e.desc 0x19 1)).foldl (fun u r =>
      u.updRegion r (Region.setRing (fld e.desc 0x10 8) (fld e.desc 0x18 1 - 1))) s).finishOp e.id stOK := by
  have hfence : ((bitsOf 4 (fld e.desc 0x19 1)).any (fencedRegion s)) = false := by
    rw [List.any_eq_false]
    exact fun r hr => by simp [hf r (mem_bitsOf.mp hr).2]
  have hst : (if fld e.desc 0x10 8 = 0 then stOK
      else rangeStatus s false (fld e.desc 0x10 8) (fld e.desc 0x18 1 * tlmStride)) = stOK := by
    by_cases h0 : fld e.desc 0x10 8 = 0
    · rw [if_pos h0]
    · rw [if_neg h0, hto h0]
  have hne : (stOK == stFENCED) = false := by decide
  unfold telemetrySet
  rw [admittedOp_of_admitted h]
  simp only [hst, hfence, hne, hz, hm, hmin, hmax, hpage, decide_true, Bool.and_self, Bool.or_self, Bool.not_true,
    Bool.false_eq_true, ne_eq, not_true_eq_false, if_false]
  rfl

theorem setRing_spec (h : Admitted s 0x802 e) (m base k : Nat) :
    let t := ((bitsOf 4 m).foldl (fun u r => u.updRegion r (Region.setRing base k)) s).finishOp e.id stOK
    Ends t e stOK ∧ t.mem = s.mem ∧ ∀ r, r < 4 → (t.region r).tlm =
      if natBit m r then { (s.region r).tlm with base := base, ring := k } else (s.region r).tlm := by
  obtain ⟨hop, -, hph⟩ := h
  have hframe := foldl_updRegion_frame s (fun _ => Region.setRing base k) (bitsOf 4 m)
  have hregion := region_foldl_updRegion s (fun _ => Region.setRing base k) (bitsOf 4 m) (nodup_bitsOf 4 m)
  generalize (bitsOf 4 m).foldl (fun u r => u.updRegion r (Region.setRing base k)) s = u at hframe hregion ⊢
  have hops : u.ops = s.ops := (congrArg State.ops hframe :)
  refine ⟨ends_finishOp stOK ((op?_congr hops e.id).trans hop) (by simp [hph]) rfl, (congrArg State.mem hframe :),
    fun r hr => ?_⟩
  change (u.region r).tlm = _
  rw [hregion]
  simp only [mem_bitsOf, hr, true_and]
  split <;> rfl

/-! ### TELEMETRY_RECORD_WRITE -/

theorem length_tlmEntry (m : FMap Word) (tag : Nat) : (tlmEntry m tag).length = 320 := by
  simp only [tlmEntry, List.length_append, List.length_flatMap, length_leBytes, List.map_const', List.sum_replicate,
    List.length_range, List.length_replicate, smul_eq_mul]

theorem length_tlmRecord (s : State) (r : Nat) : (tlmRecord s r).length = tlmRecordBytes := by
  simp only [tlmRecord, tlmRecordBytes, List.length_append, List.length_flatMap, length_leBytes, length_tlmEntry,
    List.map_const', List.sum_replicate, List.length_range, smul_eq_mul]

/-- The place in the ring of the record that waits. -/
def recordAddr (s : State) (r : Nat) : Nat :=
  (s.region r).tlm.base + (s.region r).tlm.closedStep.toNat % ((s.region r).tlm.ring + 1) * tlmStride

/-- The closed bank is cleared, and `k` records more have been written. -/
def Tlm.recorded (k : Nat) (m : Tlm) : Tlm :=
  { m with writing := false, closed := [], records := m.records + BitVec.ofNat 32 k }

/-- The record is written where a ring is set in memory that is in service; the bank is cleared in any case. -/
theorem tlmWrite_eq (hr : r < 4) (hw : (s.region r).tlm.writing = true) {wr : Bool}
    (h : (decide ((s.region r).tlm.base ≠ 0) && !fencedAddr s (recordAddr s r) && !fencedRegion s r) = wr) :
    tlmWrite s r =
      (if wr then memWrite s (recordAddr s r) (tlmRecord s r) else s).updTlm r (Tlm.recorded (b2n wr)) := by
  subst h
  unfold tlmWrite
  rw [if_pos (by simp [hr, hw])]
  rfl

theorem tlm_updTlm (s : State) (r : Nat) (f : Tlm → Tlm) : ((s.updTlm r f).region r).tlm = f (s.region r).tlm := by
  rw [State.updTlm, State.region_updRegion, if_pos rfl]

theorem memWrite_region (s : State) (a : Nat) (bs : List Byte) (r : Nat) : (memWrite s a bs).region r = s.region r :=
  (congrArg (fun u : State => u.region r) (memWrite_frame s a bs) :)

theorem recordWrite_ring (hr : r < 4) (hw : (s.region r).tlm.writing = true) (hb : (s.region r).tlm.base ≠ 0)
    (ha : fencedAddr s (recordAddr s r) = false) (hf : fencedRegion s r = false) :
    rdBytes (tlmWrite s r) (recordAddr s r) tlmRecordBytes = tlmRecord s r
      ∧ OnlyBytes [(recordAddr s r, tlmRecordBytes)] s (tlmWrite s r)
      ∧ ((tlmWrite s r).region r).tlm = Tlm.recorded 1 (s.region r).tlm := by
  have heq := tlmWrite_eq hr hw (wr := true) (by simp [hb, ha, hf])
  rw [if_pos rfl] at heq
  have hmem : (tlmWrite s r).mem = (memWrite s (recordAddr s r) (tlmRecord s r)).mem := by rw [heq, State.updTlm_mem]
  obtain ⟨hget, ho⟩ := written_of_mem hmem
  rw [length_tlmRecord] at hget ho
  refine ⟨hget, ho, ?_⟩
  rw [heq, tlm_updTlm, memWrite_region]
  rfl

theorem recordWrite_none (hr : r < 4) (hw : (s.region r).tlm.writing = true) (hb : (s.region r).tlm.base = 0) :
    (tlmWrite s r).mem = s.mem ∧ ((tlmWrite s r).region r).tlm = Tlm.recorded 0 (s.region r).tlm := by
  have heq := tlmWrite_eq hr hw (wr := false) (by simp [hb])
  rw [if_neg Bool.false_ne_true] at heq
  exact ⟨(congrArg State.mem heq :), by rw [heq, tlm_updTlm]; rfl⟩

/-! ### O42 -/

/-- Settles O42: each load by its equation, and the record by its length and place. -/
theorem otherLoads : Obligations.OtherLoads := by
  intro s e
  refine ⟨fun h hc hz hcells hkind hslot h1 hpos hsize hdst hto hfrom hbad => ?_,
    fun h hz hcells hkind hslot hsize hdst hin hcopy hto hfrom hbad hok => ?_,
    fun h hz hcells hkind hslot hpages hsize hfrom hbad hlive => ?_,
    fun h hz hm hmin hmax hpage hto hf => ?_,
    fun r hr hw => ⟨fun hb ha hf => ⟨_, rfl, recordWrite_ring hr hw hb ha hf⟩, fun hb => ⟨_, rfl, ?_⟩⟩⟩
  · exact rescalePlace_spec h hc (rescalePlace_eq hz hcells hkind hslot h h1 hpos hsize hdst hto hfrom hbad)
  · have heq := scheduleLoad_eq hz hcells hkind hslot h hsize hdst hin hcopy hto hfrom hbad hok
    exact ⟨_, congrArg Host.Outcome.next heq, ends_updGth h ..⟩
  · have heq := freezeLoad_eq hz hcells hkind hslot h hpages hsize hfrom hbad hlive
    exact ⟨_, congrArg Host.Outcome.next heq, applyFreeze_spec h hsize ..⟩
  · exact ⟨_, congrArg Host.Outcome.next (telemetrySet_eq h hz hm hmin hmax hpage hto hf), setRing_spec h ..⟩
  · obtain ⟨hmem, htlm⟩ := recordWrite_none hr hw hb
    refine ⟨hmem, htlm.trans ?_⟩
    simp [Tlm.recorded]

end Sys2Proof.Machine
end

section
/-! SUPPORT. The queues of the DMA engines (Table 7-3, R218, R227, R228, R231): what leaves them as they are, and how
many items an operation has in them. -/

namespace Sys2Proof.Machine

variable {s t : State} {e : Engine}

/-! ### The queues of one engine -/

/-- An engine's queues lie in its cell, block or region. -/
theorem dma_congr (hc : t.cells = s.cells) (hb : t.blocks = s.blocks) (hr : t.regions = s.regions) (e : Engine) :
    t.dma e = s.dma e := by
  cases e with
  | cell n => simp only [State.dma, State.cell, hc]
  | gs b => simp only [State.dma, State.block, hb]
  | block b => simp only [State.dma, State.block, hb]
  | region r => simp only [State.dma, State.region, hr]

@[simp] theorem State.updDma_dma (s : State) (e : Engine) (f : Dma → Dma) : (s.updDma e f).dma e = f (s.dma e) := by
  cases e with
  | cell n => simp [State.updDma, State.dma]
  | gs b => simp [State.updDma, State.dma]
  | block b => simp [State.updDma, State.dma]
  | region r => simp [State.updDma, State.dma]

theorem updDma_mem (s : State) (e : Engine) (f : Dma → Dma) : (s.updDma e f).mem = s.mem := by cases e <;> rfl

theorem updDma_ops (s : State) (e : Engine) (f : Dma → Dma) : (s.updDma e f).ops = s.ops := by cases e <;> rfl

@[simp] theorem State.updCell_dma (s : State) (n : Nat) (f : Cell → Cell) (e : Engine) (hf : ∀ c, (f c).dma = c.dma) :
    (s.updCell n f).dma e = s.dma e := by
  cases e with
  | cell m =>
    simp only [State.dma, State.cell_updCell]
    split
    · next h => rw [hf, h]
    · rfl
  | gs b => rfl
  | block b => rfl
  | region r => rfl

@[simp] theorem State.updBlock_dma (s : State) (n : Nat) (f : Block → Block) (e : Engine)
    (hf : ∀ b, (f b).dma = b.dma) (hg : ∀ b, (f b).gs = b.gs) : (s.updBlock n f).dma e = s.dma e := by
  cases e with
  | cell m => rfl
  | gs b =>
    simp only [State.dma, State.block_updBlock]
    split
    · next h => rw [hg, h]
    · rfl
  | block b =>
    simp only [State.dma, State.block_updBlock]
    split
    · next h => rw [hf, h]
    · rfl
  | region r => rfl

@[simp] theorem State.updRegion_dma (s : State) (n : Nat) (f : Region → Region) (e : Engine)
    (hf : ∀ g, (f g).dma = g.dma) : (s.updRegion n f).dma e = s.dma e := by
  cases e with
  | cell m => rfl
  | gs b => rfl
  | block b => rfl
  | region r =>
    simp only [State.dma, State.region_updRegion]
    split
    · next h => rw [hf, h]
    · rfl

/-! ### What leaves every queue as it is -/

@[simp] theorem ite_dma (c : Prop) [Decidable c] (s t : State) (e : Engine) :
    (if c then s else t).dma e = if c then s.dma e else t.dma e :=
  apply_ite (fun u : State => u.dma e) ..

section
variable {α β : Type}

@[simp] theorem foldl_dma (l : List α) (f : State → α → State) (h : ∀ s x, (f s x).dma e = s.dma e) (s : State) :
    (l.foldl f s).dma e = s.dma e := foldl_keeps (fun s => s.dma e) l f h s

theorem foldl_snd_dma (l : List α) (f : β × State → α → β × State) (h : ∀ p x, (f p x).2.dma e = p.2.dma e)
    (p : β × State) : (l.foldl f p).2.dma e = p.2.dma e := foldl_keeps (fun p => p.2.dma e) l f h p

end

variable (s) (e)

@[simp] theorem State.draw_dma : s.draw.2.dma e = s.dma e := dma_congr rfl rfl rfl e
@[simp] theorem State.updOp_dma (id : OpId) (f : OpEntry → OpEntry) : (s.updOp id f).dma e = s.dma e :=
  dma_congr rfl rfl rfl e
@[simp] theorem State.addStat_dma (id : OpId) (st : Nat) : (s.addStat id st).dma e = s.dma e := State.updOp_dma ..
@[simp] theorem State.finishOp_dma (id : OpId) (st : Nat) : (s.finishOp id st).dma e = s.dma e := State.updOp_dma ..
@[simp] theorem State.updHbm_dma (n : Nat) (f : Hbm → Hbm) : (s.updHbm n f).dma e = s.dma e := dma_congr rfl rfl rfl e
@[simp] theorem State.updLink_dma (n : Nat) (f : Link → Link) : (s.updLink n f).dma e = s.dma e :=
  dma_congr rfl rfl rfl e
@[simp] theorem State.updTlm_dma (n : Nat) (f : Tlm → Tlm) : (s.updTlm n f).dma e = s.dma e := by simp [State.updTlm]
@[simp] theorem setBad_dma (a : Nat) (b : Bool) : (setBad s a b).dma e = s.dma e := dma_congr rfl rfl rfl e

@[simp] theorem writeUnit_dma (a : Nat) (bs : List Byte) : (writeUnit s a bs).dma e = s.dma e :=
  (congrArg (fun u : State => u.dma e) (writeUnit_frame s a bs) :)

@[simp] theorem memWrite_dma (a : Nat) (bs : List Byte) : (memWrite s a bs).dma e = s.dma e :=
  (congrArg (fun u : State => u.dma e) (memWrite_frame s a bs) :)

@[simp] theorem countBlocks_dma (l : List Nat) : (countBlocks s l).dma e = s.dma e := by simp [countBlocks]
@[simp] theorem countReads_dma (a n : Nat) : (countReads s a n).dma e = s.dma e := countBlocks_dma ..
@[simp] theorem chargeEvents_dma (r fmt tag : Nat) (evs : List Nat) :
    (chargeEvents s r fmt tag evs).dma e = s.dma e := by simp [chargeEvents]
@[simp] theorem countValues_dma (r fmt tag n : Nat) : (countValues s r fmt tag n).dma e = s.dma e := by
  simp [countValues]

/-! #### Writes of an operation -/

@[simp] theorem plainPiece_dma (id : OpId) (a : Nat) (bs : List Byte) : (plainPiece s id a bs).dma e = s.dma e := by
  simp [plainPiece]

@[simp] theorem maskedPiece_dma (id : OpId) (a : Nat) (bs : List Byte) : (maskedPiece s id a bs).dma e = s.dma e := by
  unfold maskedPiece
  split
  · simp
  · exact plainPiece_dma ..

@[simp] theorem opWrite_dma (id : OpId) (cls : Nat) (priv : Bool) (a : Nat) (bs : List Byte) :
    (opWrite s id cls priv a bs).dma e = s.dma e := by simp [opWrite]

/-! #### Messages -/

@[simp] theorem takeTag_dma (r : Nat) : (takeTag s r).2.dma e = s.dma e := by simp [takeTag]

@[simp] theorem leaves_dma (f : TxFlit) : (leaves s f).dma e = s.dma e := by
  unfold leaves
  split
  · exact State.updLink_dma ..
  · rfl

@[simp] theorem shipped_dma (f : TxFlit) : (shipped s f).dma e = s.dma e := dma_congr
  (by unfold shipped; split <;> rfl) (by unfold shipped; split <;> rfl) (by unfold shipped; split <;> rfl) e

@[simp] theorem tunnelOut_dma (l t seq : Nat) (fs : List (List Byte)) : (tunnelOut s l t seq fs).dma e = s.dma e :=
  dma_congr rfl rfl rfl e

@[simp] theorem keepFlits_dma (l t n : Nat) (fs : List (List Byte)) : (keepFlits s l t n fs).dma e = s.dma e := by
  simp [keepFlits]

@[simp] theorem tunnelPut_dma (l t : Nat) (fs : List TxFlit) : (tunnelPut s l t fs).dma e = s.dma e := by
  simp [tunnelPut]

@[simp] theorem tunnelSend_dma (l t : Nat) (fs : List TxFlit) : (tunnelSend s l t fs).dma e = s.dma e := by
  simp [tunnelSend]

@[simp] theorem sendFlits_dma (k p t : Nat) (fs : List TxFlit) : (sendFlits s k p t fs).dma e = s.dma e := by
  simp [sendFlits]

@[simp] theorem deliver_dma (r : Nat) (d : Deliver) : (deliver s r d).dma e = s.dma e := by simp [deliver]

@[simp] theorem opLinkDown_dma (op : Option OpId) : (opLinkDown s op).dma e = s.dma e := by
  unfold opLinkDown
  split
  · split
    · simp
    · rfl
  · rfl

theorem forwardNoted_dma {r cls : Nat} {op : Option OpId} {x : Option Shipment} {m : Msg}
    (h : forwardNoted s r cls op x m = some t) : t.dma e = s.dma e := by
  unfold forwardNoted at h
  split at h
  · cases h; exact sendFlits_dma ..
  · cases h

@[simp] theorem sendNoted_dma (r : Nat) (op : Option OpId) (x : Option Shipment) (m : Msg) :
    (sendNoted s r op x m).dma e = s.dma e := by
  unfold sendNoted
  dsimp only
  split
  · simp
  · cases h : forwardNoted s r 0 op x { m with srcId := s.hub.deviceId, srcRegion := r } with
    | none => exact opLinkDown_dma ..
    | some t => exact forwardNoted_dma s e h

@[simp] theorem sendWrite_dma (r : Nat) (op : OpId) (marks : List (Nat × Nat)) (a : Nat) (bs : List Byte) :
    (sendWrite s r op marks a bs).dma e = s.dma e := by simp [sendWrite]

@[simp] theorem sendRun_dma (r : Nat) (op : OpId) (marks : List (Nat × Nat)) (a : Nat) (bs : List Byte) :
    (sendRun s r op marks a bs).dma e = s.dma e := by simp [sendRun]

/-! #### Transfers -/

@[simp] theorem freeOrder_dma (k : Nat) (l : List Nat) : (freeOrder k s l).2.dma e = s.dma e := by
  induction k generalizing s l with
  | zero => rfl
  | succ k ih =>
    match l with
    | [] => rfl
    | [x] => rfl
    | x :: y :: l => exact (ih ..).trans (State.draw_dma ..)

@[simp] theorem freeShape_dma (d : TD) (c : TC) : (freeShape s d c).2.dma e = s.dma e := by
  unfold freeShape
  split
  · rfl
  · exact dma_congr rfl rfl rfl e

@[simp] theorem freeBytes_dma (k : Nat) : (freeBytes k s).2.dma e = s.dma e := by
  induction k generalizing s with
  | zero => rfl
  | succ k ih => exact (ih _).trans (State.draw_dma ..)

@[simp] theorem xfer3_dma (sv : State) (d : TD) (raw : List Byte) : (xfer3 sv s d raw).2.dma e = s.dma e := by
  unfold xfer3
  dsimp only
  refine foldl_snd_dma _ _ (fun p t => ?_) _
  split
  · rfl
  · exact State.draw_dma ..

@[simp] theorem xferAdd_dma (sv : State) (d : TD) (raw : List Byte) : (xferAdd sv s d raw).2.dma e = s.dma e := by
  unfold xferAdd
  dsimp only
  refine foldl_keeps (fun p : Xfer × State × State => p.2.1.dma e) _ _ (fun p t => ?_) _
  split
  · rfl
  · exact freeOrder_dma ..

@[simp] theorem xferOf_dma (sv : State) (d : TD) (raw : List Byte) : (xferOf sv s d raw).2.dma e = s.dma e := by
  unfold xferOf
  split
  · rfl
  · exact freeShape_dma ..
  · rfl
  · split
    · exact xferAdd_dma ..
    · exact xfer3_dma ..

@[simp] theorem countXfer_dma (g : Engine) (x : Xfer) (bytes far : Nat) :
    (countXfer g x bytes far s).dma e = s.dma e := by
  cases g with
  | cell n => exact State.updCell_dma s n _ e fun _ => rfl
  | gs b => exact State.updBlock_dma s b _ e (fun _ => rfl) fun _ => rfl
  | block b => exact State.updBlock_dma s b _ e (fun _ => rfl) fun _ => rfl
  | region r => exact State.updRegion_dma s r _ e fun _ => rfl

/-- A transfer writes, sends, marks and counts; no engine's queue changes (R228). -/
@[simp] theorem performXfer_dma (g : Engine) (it : DmaItem) (raw : List Byte) :
    (performXfer s g it raw).dma e = s.dma e := by
  unfold performXfer
  simp [apply_ite Prod.snd]

variable {s e}

/-! ### DMA_DESCRIPTOR_START -/

/-- The queue of an engine after the descriptor at its head has started: the next one of its chain comes first (R227). -/
def DmaItem.followed (it : DmaItem) (next : Nat) (rest : List DmaItem) : List DmaItem :=
  if next = 0 then rest else { it with addr := next, pos := it.pos + 1, fetched := [], waits := [] } :: rest

/-- The running item, with the outcome of R222's test. -/
def DmaItem.tested (it : DmaItem) (raw : List Byte) : DmaItem :=
  { it with overlap := (TD.of raw).kind == 0 && !mapPasses (k0Counts raw) (k0Dst raw) }

theorem DmaItem.tested_eq (it : DmaItem) (raw : List Byte) :
    it.tested raw = { it with overlap := (it.tested raw).overlap } := rfl

/-- An engine's queues when the descriptor at the head, with bytes `raw`, has started. -/
def Dma.started (it : DmaItem) (rest : List DmaItem) (raw : List Byte) (q : Dma) : Dma :=
  { q with queue := it.followed (TD.of raw).next rest, running := q.running ++ [it.tested raw] }

/-- The state in which the transfer of an accepted descriptor is made. -/
def startedDma (s : State) (e : Engine) (it : DmaItem) (rest : List DmaItem) (raw : List Byte) : State :=
  let sr := countReads s it.addr 128
  (if (it.tested raw).overlap then sr.addStat it.op stOVERLAP else sr).updDma e (Dma.started it rest raw)

theorem startedDma_dma (it : DmaItem) (rest : List DmaItem) (raw : List Byte) :
    (startedDma s e it rest raw).dma e = (s.dma e).started it rest raw := by
  rw [startedDma, State.updDma_dma, ite_dma, State.addStat_dma, countReads_dma, ite_self]

section
variable {it : DmaItem} {rest : List DmaItem} {raw : List Byte} (hraw : rdBytes s it.addr 128 = raw)
  (hq : (s.dma e).queue = it :: rest) (hrun : engineRuns s e = true) (hroom : (s.dma e).running.length < e.width)
  (hstop : (s.dma e).stopping = false) (hst : dmaStatus s e it = 0)
  (hord : (TD.of raw).order = true → (s.dma e).running = [])
  (hsrc : ownAddr s (TD.of raw).remS (TD.of raw).src = true)
include hraw hq hrun hroom hstop hst hord hsrc

/-- An accepted descriptor with a local source is transferred at once (log entry 34). -/
theorem dmaStart_eq : dmaStart s e = performXfer (startedDma s e it rest raw) e (it.tested raw) raw := by
  have hgo : ((TD.of raw).order && !(s.dma e).running.isEmpty) = false := by
    cases ho : (TD.of raw).order with
    | false => rfl
    | true => simp [hord ho]
  unfold dmaStart
  simp only [hraw, hq, hrun, hstop, hst, hgo, hsrc, decide_eq_false (Nat.not_le.mpr hroom), Bool.not_true, Bool.or_self,
    Bool.false_eq_true, if_false]
  rfl

theorem dmaStart_dma : (dmaStart s e).dma e = (s.dma e).started it rest raw := by
  rw [dmaStart_eq hraw hq hrun hroom hstop hst hord hsrc, performXfer_dma, startedDma_dma]

end

/-! ### The items of an operation -/

section
variable {α β : Type} {d : α} {g : α → List β}

theorem fget_of_fabove {m : FMap α} {k : Nat} (h : fabove k m = true) : fget d m k = d := by
  induction m with
  | nil => rfl
  | cons p m ih =>
    simp only [fabove, Bool.and_eq_true, decide_eq_true_eq] at h
    rw [fget, if_neg (by omega), ih h.2]

variable [DecidableEq α]

/-- A write at one key changes what hangs on the map's values by what hangs on the value there. -/
theorem length_flatMap_fset (hg : g d = []) {m : FMap α} (hm : fwf d m = true) (k : Nat) (v : α) :
    ((fset d m k v).flatMap fun p => g p.2).length + (g (fget d m k)).length
      = (m.flatMap fun p => g p.2).length + (g v).length := by
  induction m with
  | nil => by_cases hv : v = d <;> simp [fset, hv, hg]
  | cons p m ih =>
    obtain ⟨a, w⟩ := p
    simp only [fwf, Bool.and_eq_true] at hm
    obtain ⟨⟨ha, -⟩, hm⟩ := hm
    have ih := ih hm
    simp only [fset, fget, List.flatMap_cons, List.length_append]
    by_cases hv : v = d
    · by_cases hk : a = k
      · subst hk
        rw [fget_of_fabove ha, hg, hv] at ih
        simp only [hv, if_true, hg, List.length_nil] at ih ⊢
        omega
      · simp only [if_pos hv, if_neg hk, List.flatMap_cons, List.length_append]
        omega
    · by_cases hlt : k < a
      · rw [if_neg hv, if_pos hlt, if_neg (by omega), fget_of_fabove (fabove_mono (Nat.le_of_lt hlt) ha), hg]
        simp only [List.flatMap_cons, List.length_append, List.length_nil]
        omega
      · by_cases hk : a = k
        · simp only [if_neg hv, if_neg hlt, if_pos hk, List.flatMap_cons, List.length_append]
          omega
        · simp only [if_neg hv, if_neg hlt, if_neg hk, List.flatMap_cons, List.length_append]
          omega

end

/-- The items of an operation in one engine. -/
def Dma.itemsOf (id : OpId) (q : Dma) : List DmaItem := q.items.filter fun i => i.op == id

theorem itemsOf_eq (s : State) (id : OpId) : itemsOf s id =
    (s.cells.flatMap fun c => c.2.dma.itemsOf id)
      ++ (s.blocks.flatMap fun b => b.2.dma.itemsOf id ++ b.2.gs.itemsOf id)
      ++ s.regions.flatMap fun g => g.2.dma.itemsOf id := rfl

/-- An update of one engine changes the number of an operation's items by what it changes there. -/
theorem length_itemsOf_updDma (hs : s.mapsWf = true) (e : Engine) (f : Dma → Dma) (id : OpId) :
    (itemsOf (s.updDma e f) id).length + ((s.dma e).itemsOf id).length
      = (itemsOf s id).length + ((f (s.dma e)).itemsOf id).length := by
  obtain ⟨-, hc, hb, hr, -, -⟩ := (mapsWf_iff s).mp hs
  simp only [itemsOf_eq, List.length_append]
  cases e with
  | cell n =>
    have := length_flatMap_fset (g := fun c : Cell => c.dma.itemsOf id) rfl hc n
      { s.cell n with dma := f (s.cell n).dma }
    simp only [State.updDma, State.updCell, State.setCell, State.dma, State.cell] at this ⊢
    omega
  | gs b =>
    have := length_flatMap_fset (g := fun x : Block => x.dma.itemsOf id ++ x.gs.itemsOf id) rfl hb b
      { s.block b with gs := f (s.block b).gs }
    simp only [State.updDma, State.updBlock, State.setBlock, State.dma, State.block, List.length_append] at this ⊢
    omega
  | block b =>
    have := length_flatMap_fset (g := fun x : Block => x.dma.itemsOf id ++ x.gs.itemsOf id) rfl hb b
      { s.block b with dma := f (s.block b).dma }
    simp only [State.updDma, State.updBlock, State.setBlock, State.dma, State.block, List.length_append] at this ⊢
    omega
  | region r =>
    have := length_flatMap_fset (g := fun x : Region => x.dma.itemsOf id) rfl hr r
      { s.region r with dma := f (s.region r).dma }
    simp only [State.updDma, State.updRegion, State.setRegion, State.dma, State.region] at this ⊢
    omega

/-! ### DMA_DESCRIPTOR_COMPLETE -/

/-- An engine's queues when a running descriptor has completed. -/
def Dma.completed (it : DmaItem) (q : Dma) : Dma :=
  { q with running := q.running.erase it, done := q.done + 1, overlap := q.overlap + BitVec.ofNat 32 (b2n it.overlap) }

theorem length_itemsOf_completed {it : DmaItem} {q : Dma} (h : it ∈ q.running) :
    ((q.completed it).itemsOf it.op).length + 1 = (q.itemsOf it.op).length := by
  have hp := ((List.perm_cons_erase h).filter fun i => i.op == it.op).length_eq
  simp only [List.filter_cons, beq_self_eq_true, if_true, List.length_cons] at hp
  simp only [Dma.itemsOf, Dma.items, Dma.completed, List.filter_append, List.length_append]
  omega

/-- The operation's only item was this one. -/
theorem itemsOf_completed {it : DmaItem} (hs : s.mapsWf = true) (h : it ∈ (s.dma e).running)
    (hi : itemsOf s it.op = [it]) : itemsOf (s.updDma e (Dma.completed it)) it.op = [] := by
  have h1 := length_itemsOf_updDma hs e (Dma.completed it) it.op
  have h2 := length_itemsOf_completed h
  rw [hi, List.length_singleton] at h1
  exact List.length_eq_zero_iff.mp (by omega)

@[simp] theorem settleDma_dma (s : State) (id : OpId) (e : Engine) : (settleDma s id).dma e = s.dma e := by
  unfold settleDma
  split
  · simp
  · rfl

theorem settleDma_mem (s : State) (id : OpId) : (settleDma s id).mem = s.mem := by
  unfold settleDma
  split
  · split <;> rfl
  · rfl

/-- A running DMA operation that has no item left ends with the statuses that it has (R228). -/
theorem settleDma_last {id : OpId} {x : OpEntry} (hx : s.op? id = some x) (hg : x.opcode / 256 = 1)
    (hp : x.phase = .running) (hi : itemsOf s id = []) :
    (settleDma s id).op? id = some { x with phase := .finished } := by
  have heq : settleDma s id = s.finishOp id stOK := by simp [settleDma, hx, isDmaOp, hg, hp, hi]
  rw [heq, op?_finishOp_self stOK hx (by simp [hp]), addStat_OK]

section
variable {it : DmaItem} (hit : (s.dma e).running.find? (itemWhole s) = some it) (hrun : engineRuns s e = true)
include hit hrun

theorem dmaComplete_eq : dmaComplete s e = settleDma (s.updDma e (Dma.completed it)) it.op := by
  simp only [dmaComplete, hit, hrun, Bool.not_true, Bool.false_eq_true, if_false]
  rfl

theorem dmaComplete_dma : (dmaComplete s e).dma e = (s.dma e).completed it := by
  rw [dmaComplete_eq hit hrun, settleDma_dma, State.updDma_dma]

theorem dmaComplete_mem : (dmaComplete s e).mem = s.mem := by
  rw [dmaComplete_eq hit hrun, settleDma_mem, updDma_mem]

/-- The operation whose last item completes has finished. -/
theorem dmaComplete_last {x : OpEntry} (hs : s.mapsWf = true) (hx : s.op? it.op = some x) (hg : x.opcode / 256 = 1)
    (hp : x.phase = .running) (hi : itemsOf s it.op = [it]) :
    (dmaComplete s e).op? it.op = some { x with phase := .finished } := by
  rw [dmaComplete_eq hit hrun]
  exact settleDma_last ((op?_congr (updDma_ops ..) it.op).trans hx) hg hp
    (itemsOf_completed hs (List.mem_of_find?_eq_some hit) hi)

end

/-! ### DMA_ABORT_STOP -/

/-- An engine's queues without the items of the operations in `gone`. -/
def Dma.dropped (gone : OpId → Bool) (q : Dma) : Dma :=
  { q with stopping := false, queue := q.queue.filter fun i => !gone i.op,
           running := q.running.filter fun i => !gone i.op }

theorem dmaAbort_eq (h : (s.dma e).stopping = true) : dmaAbort s e = s.updDma e (Dma.dropped (isAborting s)) := if_pos h

theorem dmaAbort_dma (h : (s.dma e).stopping = true) : (dmaAbort s e).dma e = (s.dma e).dropped (isAborting s) := by
  rw [dmaAbort_eq h, State.updDma_dma]

/-! ### O31 -/

/-- Settles O31: what each step leaves of the engine's queues, and the last item of an operation counted away. -/
theorem dmaChains : Obligations.DmaChains := by
  intro s e it rest
  refine ⟨fun hq hrun hroom hstop hst hord hsrc => ?_, fun hit hrun hs => ?_, fun hstop => ?_⟩
  · have hdma := dmaStart_dma rfl hq hrun hroom hstop hst hord hsrc
    refine ⟨dmaStart s e, it.tested (rdBytes s it.addr 128), rfl, ?_, ?_, it.tested_eq _⟩
    · rw [hdma, Dma.started, DmaItem.followed]
    · rw [hdma, Dma.started]
  · have hdma := dmaComplete_dma hit hrun
    exact ⟨dmaComplete s e, rfl, congrArg Dma.running hdma, congrArg Dma.done hdma, dmaComplete_mem hit hrun,
      fun x hx hg hp hi => ⟨_, dmaComplete_last hit hrun hs hx hg hp hi, rfl, rfl⟩⟩
  · have hdma := dmaAbort_dma hstop
    have hmem : (dmaAbort s e).mem = s.mem := by rw [dmaAbort_eq hstop, updDma_mem]
    exact ⟨dmaAbort s e, rfl, congrArg Dma.stopping hdma, hmem, congrArg Dma.queue hdma, congrArg Dma.running hdma⟩

end Sys2Proof.Machine
end

section
/-! SUPPORT. The sparse-work scheduler of a block: a job's plan, the dispatch and the finish of its units, and its
preemption (R244 to R247, R250). -/

namespace Sys2Proof.Machine

variable {s t : State} {b c : Nat} {j : SpsJob} {u : WUnit}

/-! ### A block's job and the words that its scheduler writes -/

theorem job_updBlock (s : State) (b : Nat) (f : Block → Block) :
    ((s.updBlock b f).block b).job = (f (s.block b)).job := by
  rw [State.block_updBlock, if_pos rfl]

theorem job_updJob (h : (s.block b).job = some j) (f : SpsJob → SpsJob) :
    ((s.updJob b f).block b).job = some (f j) := by
  rw [State.updJob, job_updBlock, h, Option.map_some]

theorem block_updOp (s : State) (id : OpId) (f : OpEntry → OpEntry) (b : Nat) :
    (s.updOp id f).block b = s.block b := rfl

theorem settleJob_mem (s : State) (b : Nat) : (settleJob s b).mem = s.mem := by
  unfold settleJob
  split
  · rfl
  · split
    · rw [State.finishOp_mem, State.updBlock_mem]
    · rfl

/-- A word of the job's descriptor reads back, and no other sound byte has changed. -/
theorem jobWord_written {id : OpId} {a v : Nat} (h : t.mem = (jobWrite s id a (leBytes 4 v)).mem) :
    rdBytes t a 4 = leBytes 4 v ∧ OnlyBytes [(a, 4)] s t := by
  have hw := written_of_mem (h.trans (opWrite_mem s id false a (leBytes 4 v) (by decide)))
  rwa [length_leBytes] at hw

/-! ### SPARSE_JOB_PLAN -/

/-- The units that planning lists, those before NEXT_UNIT as done (R245, R250). -/
def SpsJob.plan (s : State) (b : Nat) (j : SpsJob) : List WUnit :=
  let n := 8 * b + ((List.range 8).find? fun c => natBit j.cells c).getD 0
  let us := planUnits s { j with preds := readPreds s j } (fmtOf (s.cell n) j.pd.fmtA)
  (us.zip (List.range us.length)).map fun u => { u.1 with done := decide (u.2 < j.next) }

/-- The job once planned. -/
def SpsJob.withPlan (s : State) (b : Nat) (j : SpsJob) : SpsJob :=
  { j with preds := readPreds s j, units := j.plan s b, planned := true }

/-- Scratch for every unit of a tile but one is scratch enough (R247). -/
theorem slots_suffice {us : List WUnit} (h : (us.all fun u => decide ((j.tileOf u).length ≤ j.slots + 1)) = true) :
    (us.any fun u => decide (j.slots < j.slotsOf u)) = false := by
  refine List.any_eq_false.mpr fun u hu hshort => ?_
  have hlen : (j.tileOf u).length ≤ j.slots + 1 := of_decide_eq_true (List.all_eq_true.mp h u hu)
  have hlt : j.slots < (j.tileOf u).length - 1 := of_decide_eq_true hshort
  omega

theorem planJob_eq (hj : (s.block b).job = some j) (hr : schedRuns s b = true) (ha : j.aborting = false)
    (hp : j.planned = false) (hs : j.stopping = false)
    (hfit : ((j.plan s b).all fun u =>
      decide (((j.withPlan s b).tileOf u).length ≤ (j.withPlan s b).slots + 1)) = true) :
    planJob s b = settleJob ((jobWrite s j.op (j.addr + 0x24) (leBytes 4 (j.plan s b).length)).updBlock b
      fun k => { k with job := some (j.withPlan s b) }) b := by
  have hgo : (j.planned || j.stopping || j.aborting || !schedRuns s b) = false := by simp [hp, hs, ha, hr]
  simp only [planJob, hj, hgo, Bool.false_eq_true, if_false]
  exact if_neg (Bool.not_eq_true _ ▸ slots_suffice hfit)

/-! ### WORK_UNIT_DISPATCH -/

/-- The product that runs unit `ix` of the job in the array `a` of a cell of block `b`. -/
def SpsJob.unitProduct (j : SpsJob) (b : Nat) (a : Arr) (ix : Nat) (u : WUnit) : Product :=
  { pid := a.nextPid, addr := blkAddr b + fld j.prod 0x30 4, op := j.op, desc := j.prod, drn := j.drn,
    tile := u.rt * j.pd.nt + u.ct, ktile := u.a,
    unit := some { ix := ix, a := u.a, b := u.b, split := decide (1 < (j.tileOf u).length) } }

theorem dispatchUnit_eq {ix : Nat} (hj : (s.block b).job = some j) (hr : schedRuns s b = true) (ha : j.aborting = false)
    (hp : j.planned = true) (hn : j.nextUnit = some (ix, u)) (hc : natBit j.cells c = true) (hm : j.mayStart u = true)
    (hcell : cellRuns s (8 * b + c) = true) (hcur : (s.cell (8 * b + c)).arr.cur = none)
    (hst : (s.cell (8 * b + c)).arr.st = .idle) (hh : heldNext (s.cell (8 * b + c)).arr false = false) :
    dispatchUnit s b c = (s.updArr (8 * b + c) fun a =>
        { a with cur := some (j.unitProduct b (s.cell (8 * b + c)).arr ix u), st := .firstLoad,
                 nextPid := a.nextPid + 1 }).updJob
      b fun j => { j with units := j.units.set ix { u with cell := some c } } := by
  simp only [dispatchUnit, hj, hn]
  exact if_pos (by simp [hp, ha, hr, hc, hm, hcell, hcur, hst, hh])

/-! ### WORK_UNIT_FINISH -/

/-- A unit of an unsplit tile leaves the array for the drain at once (R247). -/
theorem finishUnit_unsplit {p : Product} {r : UnitRef} (hj : (s.block b).job = some j) (hr : schedRuns s b = true)
    (ha : j.aborting = false) (hcur : (s.cell (8 * b + c)).arr.cur = some p) (hu : p.unit = some r)
    (he : p.ended = true) (hop : p.op = j.op) (hsplit : r.split = false) (hcell : cellRuns s (8 * b + c) = true) :
    finishUnit s b c =
      (((countValues s ((8 * b + c) / 40) (p.mode (s.cell (8 * b + c))).fmt p.tag (leftValues p)).updArr (8 * b + c)
        fun a =>
          { a with cur := none, st := .idle, draining := a.draining ++ [{ p with ended := false }] }).updJob b fun j =>
        { j with units := j.units.modify r.ix fun v => { v with done := true } }).updBlock b (Block.bump 0x508 1) := by
  simp [finishUnit, hj, hcur, hu, he, hop, ha, hr, hcell, hsplit]

theorem countValues_block (s : State) (r fmt tag n b : Nat) : (countValues s r fmt tag n).block b = s.block b := by
  unfold countValues
  split <;> rfl

/-! ### BLOCK_JOB_PREEMPT_DONE -/

theorem jobPreempted_eq {ix : Nat} (hj : (s.block b).job = some j) (hr : schedRuns s b = true) (ha : j.aborting = false)
    (hs : j.stopping = true) (hp : j.planned = true) (hn : j.nextUnit = some (ix, u)) (hb : jobBusy s b j.op = false)
    (hd : (j.units.all fun v => v.done || !(j.tileOf v).any WUnit.started) = true) :
    jobPreempted s b = ((jobWrite s j.op (j.addr + 0x20) (leBytes 4 ix)).updBlock b
      fun k => { k with job := none }).updOp j.op
      fun e => { e.addStat stPREEMPTED with phase := .finished, preempt := true } := by
  have hgo : (j.stopping && !j.aborting && !jobBusy s b j.op && schedRuns s b
      && (j.units.all fun v => v.done || !(j.tileOf v).any WUnit.started)) = true := by
    simp only [hs, ha, hb, hr, hd]
    rfl
  simp only [jobPreempted, hj, if_pos hgo, hp, hn, if_true, Option.map_some, Option.getD_some]

/-! ### O32 -/

/-- Settles O32: each command by its equation, and what it leaves read off the updates. -/
theorem blockJobs : Obligations.BlockJobs := by
  intro s b j hj hr ha
  refine ⟨fun hp hs hfit => ?_, fun c ix u hlt hp hn hc hm hcell hcur hst hh => ?_,
    fun c p r hlt hcur hu he hop hsplit hcell => ?_, fun ix u hs hp hn _ hb hd => ?_⟩
  · have hmem := congrArg State.mem (planJob_eq hj hr ha hp hs hfit)
    rw [settleJob_mem, State.updBlock_mem] at hmem
    exact ⟨_, rfl, jobWord_written hmem⟩
  · refine ⟨_, j.unitProduct b (s.cell (8 * b + c)).arr ix u, congrArg Host.Outcome.next ((if_pos hlt).trans
      (dispatchUnit_eq hj hr ha hp hn hc hm hcell hcur hst hh)), ?_, rfl, rfl, rfl, job_updJob hj _, rfl⟩
    exact congrArg (fun x : Cell => x.arr.cur) (cell_updArr ..)
  · refine ⟨_, congrArg Host.Outcome.next ((if_pos hlt).trans
      (finishUnit_unsplit hj hr ha hcur hu he hop hsplit hcell)), ?_, ?_, ?_, ?_⟩
    · exact congrArg (fun x : Cell => x.arr.cur) (cell_updArr ..)
    · exact congrArg (fun x : Cell => x.arr.st) (cell_updArr ..)
    · exact (contents_iff.mp (countValues_contents ..)).2.1
    · rw [job_updBlock]
      exact job_updJob ((congrArg Block.job (countValues_block ..)).trans hj) _
  · have heq := jobPreempted_eq hj hr ha hs hp hn hb hd
    have hmem := congrArg State.mem heq
    rw [State.updOp_mem, State.updBlock_mem] at hmem
    refine ⟨_, rfl, ?_, jobWord_written hmem⟩
    rw [heq, block_updOp, job_updBlock]

end Sys2Proof.Machine
end

section
/-! SUPPORT. The ends of holds: of UPDATE launches, of deferred products at their deadline, of residency sizes and of freeze
masks (R270, R274, R281, R294, R307, R360). -/

namespace Sys2Proof.Machine

variable {s : State} {e : OpEntry}

/-! ### UPDATE_HOLD_RELEASE -/

theorem holdRelease_eq (h : s.op? e.id = some e) (hp : e.phase = .held) (hr : e.released = false)
    (hf : updateFree s e = true) :
    holdRelease s e.id = s.updOp e.id fun x => { x with released := true } := by
  simp [holdRelease, h, hp, hr, hf]

/-! ### DEADLINE_PROMOTION -/

/-- What promotion makes of the products that array `a` had deferred: none of the operation's is left among those of
`b`, and each has its place in the ordinary queue. -/
def Arr.Promoted (id : OpId) (a b : Arr) : Prop :=
  (∀ p ∈ b.dqueue, p.op ≠ id) ∧ ∀ p ∈ a.dqueue, p.op = id → { p with deferred := false } ∈ b.queue

theorem promoteArr_promoted (id : OpId) (a : Arr) : a.Promoted id (promoteArr id a) := by
  refine ⟨fun p hp => by simpa using (List.mem_filter.mp hp).2, fun p hp hid => ?_⟩
  refine List.mem_append_right _ (List.mem_map.mpr ⟨p, List.mem_filter.mpr ⟨hp, by simpa using hid⟩, ?_⟩)
  simp [hid]

theorem Arr.Promoted.promoteArr {id : OpId} {a b : Arr} (h : a.Promoted id b) : a.Promoted id (promoteArr id b) :=
  ⟨(promoteArr_promoted id b).1, fun p hp hid =>
    List.mem_append_left _ (List.mem_append_right _ (h.2 p hp hid))⟩

/-- A fold that updates arrays, an array as often as its cell is listed. -/
theorem arr_foldl_updArr (f : Arr → Arr) (l : List Nat) (s : State) (n : Nat) :
    ((l.foldl (fun s n => s.updArr n f) s).cell n).arr = f^[l.count n] (s.cell n).arr := by
  induction l generalizing s with
  | nil => rfl
  | cons m l ih =>
    rw [List.foldl_cons, ih, State.updArr, State.cell_updCell]
    by_cases h : n = m
    · subst h
      rw [if_pos rfl, List.count_cons_self, Function.iterate_succ_apply]
      rfl
    · rw [if_neg h, List.count_cons_of_ne (Ne.symm h)]

theorem promoted_foldl {l : List Nat} {n : Nat} (hn : n ∈ l) (id : OpId) (s : State) :
    (s.cell n).arr.Promoted id ((l.foldl (fun s n => s.updArr n (promoteArr id)) s).cell n).arr := by
  obtain ⟨k, hk⟩ := Nat.exists_eq_succ_of_ne_zero (List.count_pos_iff.mpr hn).ne'
  rw [arr_foldl_updArr, hk, Function.iterate_succ_apply]
  exact Function.Iterate.rec (fun b => (s.cell n).arr.Promoted id b) (promoteArr_promoted id _) (fun _ h => h.promoteArr) k

theorem promote_eq (h : s.op? e.id = some e) :
    promote s e.id = e.cells.foldl (fun s n => s.updArr n (promoteArr e.id))
      (s.updOp e.id fun x => { x with promoted := true }) := by
  simp only [promote, h]

theorem foldl_updArr_frame (f : Arr → Arr) (l : List Nat) (s : State) :
    { l.foldl (fun s n => s.updArr n f) s with cells := s.cells } = s :=
  foldl_keeps (fun t : State => { t with cells := s.cells }) l (fun s n => s.updArr n f) (fun _ _ => rfl) s

theorem promote_spec (h : s.op? e.id = some e) :
    let t := promote s e.id
    t.op? e.id = some { e with promoted := true } ∧ t.mem = s.mem
      ∧ ∀ n ∈ e.cells, (s.cell n).arr.Promoted e.id (t.cell n).arr := by
  have hframe := foldl_updArr_frame (promoteArr e.id) e.cells (s.updOp e.id fun x => { x with promoted := true })
  dsimp only
  rw [promote_eq h]
  exact ⟨(op?_congr (congrArg State.ops hframe :) e.id).trans (op?_updOp_self (fun _ => rfl) h),
    (congrArg State.mem hframe :), fun n hn => promoted_foldl hn e.id _⟩

theorem deadlinePromotion_eq (h : s.op? e.id = some e) (hd : e.deferredKernel = true) (h0 : e.deadline ≠ 0)
    (ht : e.isTarget = true) (ha : e.phase ≠ .aborting)
    (hc : e.accepted.toNat + e.deadline * 1600 ≤ s.hub.cycle.toNat) : deadlinePromotion s e.id = promote s e.id := by
  simp [deadlinePromotion, h, hd, h0, ht, ha, hc]

/-! ### Residency -/

/-- A block with the pool size and layer count of an entry. -/
def Block.residency (e : OpEntry) (k : Block) : Block :=
  { k with resLayers := fld e.desc 0x11 1, resBase := blkSize - fld e.desc 0x10 1 * 0x100000 }

theorem block_foldl_updBlock (f : Block → Block) {l : List Nat} (hl : l.Nodup) {b : Nat} (hb : b ∈ l) (s : State) :
    (l.foldl (fun s b => s.updBlock b f) s).block b = f (s.block b) := by
  obtain ⟨t, ht, h⟩ := foldl_own (view := fun i s => State.block s i) (f := fun s b => s.updBlock b f)
    (fun s i j hij => by rw [State.block_updBlock, if_neg hij]) hl hb s
  rw [h, State.block_updBlock, if_pos rfl, ht]

/-- The pool size and layer count of an entry in every block. -/
def residencyGiven (s : State) (e : OpEntry) : State :=
  (List.range 20).foldl (fun s b => s.updBlock b (Block.residency e)) s

theorem residencyGiven_mem (s : State) (e : OpEntry) : (residencyGiven s e).mem = s.mem :=
  foldl_keeps State.mem (List.range 20) (fun s b => s.updBlock b (Block.residency e)) (fun _ _ => rfl) s

theorem residencyGiven_ops (s : State) (e : OpEntry) : (residencyGiven s e).ops = s.ops :=
  foldl_keeps State.ops (List.range 20) (fun s b => s.updBlock b (Block.residency e)) (fun _ _ => rfl) s

theorem residencyGiven_block (s : State) (e : OpEntry) {b : Nat} (hb : b < 20) :
    (residencyGiven s e).block b = (s.block b).residency e :=
  block_foldl_updBlock (Block.residency e) List.nodup_range (List.mem_range.mpr hb) s

theorem applyResidency_eq (s : State) (e : OpEntry) : applyResidency s e = (residencyGiven s e).finishOp e.id stOK := rfl

/-- The size takes effect in every block, and its operation ends. -/
theorem applyResidency_spec (h : s.op? e.id = some e) (hp : e.phase ≠ .aborting) :
    let t := applyResidency s e
    Ends t e stOK ∧ t.mem = s.mem ∧ ∀ b, b < 20 → t.block b = (s.block b).residency e := by
  dsimp only
  rw [applyResidency_eq]
  refine ⟨ends_finishOp stOK ((op?_congr (residencyGiven_ops s e) e.id).trans h) hp rfl, ?_, fun b hb => ?_⟩
  · rw [State.finishOp_mem, residencyGiven_mem]
  · rw [State.finishOp, block_updOp, residencyGiven_block s e hb]

theorem residencySet_eq (h : Admitted s 0x801 e) (hpool : fld e.desc 0x10 1 ≤ 16) (hlayers : fld e.desc 0x11 1 ≤ 16)
    (hz : zeros e.desc 0x12 0x20 = true) :
    residencySet s e.id =
      if residentLive s e.id then s.updOp e.id fun x => { x with phase := .held } else applyResidency s e := by
  simp [residencySet, admittedOp_of_admitted h, hpool, hlayers, hz]

/-! ### Operations that are held -/

/-- Of the operations that satisfy `p`, the one there is satisfies `q` also. -/
theorem filter_and_of_single {l : List OpEntry} {p q : OpEntry → Bool} (h : l.filter p = [e]) (hq : q e = true) :
    (l.filter fun x => p x && q x) = [e] := by
  rw [← List.filter_filter, List.filter_comm, h, List.filter_cons_of_pos hq, List.filter_nil]

theorem residencyTakeEffect_eq (hlive : residentLive s e.id = false)
    (h : (s.ops.filter fun x => x.opcode == 0x801 && x.phase == .held) = [e]) :
    residencyTakeEffect s = applyResidency s e := by
  rw [residencyTakeEffect, filter_and_of_single h (q := fun x => !residentLive s x.id) (by simp [hlive])]
  rfl

theorem freezeTakeEffect_eq (hlive : updateLive s e.id = false)
    (h : (s.ops.filter fun x => x.opcode == 0x306 && x.phase == .held) = [e]) :
    freezeTakeEffect s = applyFreeze s e := by
  rw [freezeTakeEffect, filter_and_of_single h (q := fun x => !updateLive s x.id) (by simp [hlive])]
  rfl

/-- The pages that a freeze mask names take the bits of its image, those past the image none. -/
theorem fget_freezeBits (s : State) (e : OpEntry) (p : Nat) :
    fget false (fputRow false s.frozen e.tArg0 (freezeBits s e)) p =
      if e.tArg0 ≤ p ∧ p < e.tArg0 + e.tArg1 then
        natBit ((rdBytes s e.tImage e.tSize).getD ((p - e.tArg0) / 8) 0).toNat ((p - e.tArg0) % 8)
      else fget false s.frozen p := by
  rw [fget_fputRow, show (freezeBits s e).length = e.tArg1 by simp [freezeBits]]
  split
  · next h => simp [freezeBits, show p - e.tArg0 < e.tArg1 by omega]
  · rfl

/-! ### O40 -/

/-- Settles O40: each command by its equation on the entry, and what the products, blocks and pages then hold. -/
theorem holdsEnd : Obligations.HoldsEnd := by
  intro s e h
  refine ⟨fun hp hr hf => ?_, fun hd h0 ht ha hc => ?_, fun ho hp hpool hlayers hz => ⟨fun hl => ?_, fun hl => ?_⟩,
    fun _ hp hl h1 => ?_, fun _ hp hl h1 => ?_⟩
  · exact ⟨_, congrArg Host.Outcome.next (holdRelease_eq h hp hr hf), rfl, op?_updOp_self (fun _ => rfl) h⟩
  · obtain ⟨hop, hmem, harr⟩ := promote_spec h
    exact ⟨_, _, congrArg Host.Outcome.next (deadlinePromotion_eq h hd h0 ht ha hc), hop, rfl, hmem, harr⟩
  · exact ⟨_, congrArg Host.Outcome.next ((residencySet_eq ⟨h, ho, hp⟩ hpool hlayers hz).trans (if_neg (by simp [hl]))),
      applyResidency_spec h (by simp [hp])⟩
  · exact ⟨_, congrArg Host.Outcome.next ((residencySet_eq ⟨h, ho, hp⟩ hpool hlayers hz).trans (if_pos hl)), rfl,
      op?_updOp_self (fun _ => rfl) h⟩
  · exact ⟨_, congrArg Host.Outcome.next (residencyTakeEffect_eq hl h1), applyResidency_spec h (by simp [hp])⟩
  · exact ⟨_, congrArg Host.Outcome.next (freezeTakeEffect_eq hl h1), ends_finishOp stOK h (by simp [hp]) rfl, rfl,
      fget_freezeBits s e⟩

end Sys2Proof.Machine
end

section
/-! SUPPORT. The training failures of the stacks (R255): sending messages, ending operations and fencing a region leave
each stack's mark as it is. -/

namespace Sys2Proof.Machine

variable {s t : State}

/-- Which stacks have failed their training. -/
def State.trainFails (s : State) : Nat → Bool := fun h => (s.hbm h).trainFail

theorem trainFails_congr (h : t.hbms = s.hbms) : t.trainFails = s.trainFails :=
  congrArg (fun m h => (fget ({} : Hbm) m h).trainFail) h

theorem trainFails_of_besideUnits (h : t.besideUnits = s.besideUnits) : t.trainFails = s.trainFails :=
  trainFails_congr (congrArg State.hbms h :)

theorem updHbm_trainFails (s : State) (n : Nat) {f : Hbm → Hbm} (hf : ∀ k, (f k).trainFail = k.trainFail) :
    (s.updHbm n f).trainFails = s.trainFails := by
  funext h
  rw [State.trainFails, State.hbm_updHbm]
  split
  · next e => rw [hf, e]; rfl
  · rfl

theorem updRegion_trainFails (s : State) (r : Nat) (f : Region → Region) :
    (s.updRegion r f).trainFails = s.trainFails := rfl

/-! ### Messages -/

theorem writeUnit_trainFails (s : State) (a : Nat) (bs : List Byte) : (writeUnit s a bs).trainFails = s.trainFails := by
  unfold writeUnit
  dsimp only
  split
  · refine (updHbm_trainFails _ _ ?_).trans ?_
    · exact fun _ => rfl
    · split <;> rfl
  · split <;> rfl

theorem memWrite_trainFails (s : State) (a : Nat) (bs : List Byte) : (memWrite s a bs).trainFails = s.trainFails :=
  foldl_keeps State.trainFails _ (fun s (p : Nat × List Byte) => writeUnit s p.1 p.2)
    (fun s p => writeUnit_trainFails s p.1 p.2) s

theorem leaves_trainFails (s : State) (f : TxFlit) : (leaves s f).trainFails = s.trainFails := by
  unfold leaves
  split <;> rfl

theorem shipped_trainFails (s : State) (f : TxFlit) : (shipped s f).trainFails = s.trainFails := by
  unfold shipped
  split <;> rfl

theorem keepFlits_trainFails (s : State) (l t n : Nat) (fs : List (List Byte)) :
    (keepFlits s l t n fs).trainFails = s.trainFails :=
  foldl_keeps State.trainFails _ _ (fun s x => by
    dsimp only
    split
    · rfl
    · exact memWrite_trainFails s _ _) s

theorem tunnelSend_trainFails (s : State) (l t : Nat) (fs : List TxFlit) :
    (tunnelSend s l t fs).trainFails = s.trainFails := by
  unfold tunnelSend
  dsimp only
  split
  · exact (foldl_keeps State.trainFails fs _
      (fun s f => (shipped_trainFails _ f).trans (leaves_trainFails s f)) _).trans (keepFlits_trainFails _ l t _ _)
  · rfl

theorem forwardNoted_trainFails {r cls : Nat} {op : Option OpId} {x : Option Shipment} {m : Msg}
    (h : forwardNoted s r cls op x m = some t) : t.trainFails = s.trainFails := by
  unfold forwardNoted at h
  split at h
  · cases h
    unfold sendFlits
    split
    · rfl
    · exact tunnelSend_trainFails s _ _ _
  · cases h

theorem sendBridle_trainFails (s : State) (r : Nat) (op : Option OpId) (dev region typ : Nat) (body : List Byte) :
    (sendBridle s r op dev region typ body).1.trainFails = s.trainFails := by
  unfold sendBridle
  dsimp only
  split
  · split <;> rfl
  · split
    · next h => exact (forwardNoted_trainFails h :)
    · rfl

theorem sendOob_trainFails (s : State) (dev typ : Nat) (body : List Byte) :
    (sendOob s dev typ body).1.trainFails = s.trainFails := by
  unfold sendOob
  split <;> rfl

theorem treeSend_trainFails (s : State) (rank typ : Nat) (body : List Byte) :
    (treeSend s rank typ body).trainFails = s.trainFails := by
  unfold treeSend reachBridle
  dsimp only
  split
  · next h => exact (congrArg (fun x => x.1.trainFails) h.symm).trans (sendBridle_trainFails ..)
  · exact sendOob_trainFails ..

/-! ### The end of a step and the vote on a loss -/

theorem markAbort_trainFails (s : State) (id : OpId) : (markAbort s id).trainFails = s.trainFails := by
  unfold markAbort
  split
  · rfl
  · split
    · rfl
    · exact (trainFails_of_besideUnits (dropKept_besideUnits s id) :)
    · exact (trainFails_of_besideUnits (stopped_besideUnits s id) :)

theorem abandonStep_trainFails (s : State) (n : Nat) : (abandonStep s n).trainFails = s.trainFails := by
  unfold abandonStep abortColls abortStep
  exact (foldl_keeps State.trainFails _ _ (by intro s r; rfl) _).trans
    ((foldl_keeps State.trainFails _ _ (by intro s e; exact markAbort_trainFails s e.id) _).trans
      (foldl_keeps State.trainFails _ _ (by intro s e; exact markAbort_trainFails s e.id) _))

theorem endCommit_trainFails (s : State) (st result reason firstNo durable : Nat) :
    (endCommit s st result reason firstNo durable).trainFails = s.trainFails := by
  unfold endCommit
  split
  · rfl
  · dsimp only
    split <;> rfl

theorem applyWithdraw_trainFails (s : State) (step : Nat) : (applyWithdraw s step).trainFails = s.trainFails :=
  (endCommit_trainFails (abandonStep s (step + 1)) ..).trans (abandonStep_trainFails s _)

/-- The result of a durability round. -/
theorem applyResult_trainFails (s : State) {result : Nat} (h : 2 ≤ result) (recover reason step durable firstNo : Nat) :
    (applyResult s result recover reason step durable firstNo).trainFails = s.trainFails := by
  match result, h with
  | 2, _ => rfl
  | _ + 3, _ => exact applyWithdraw_trainFails s step

theorem passResult_trainFails (s : State) {result : Nat} (h : 2 ≤ result) (recover reason step durable firstNo : Nat) :
    (passResult s result recover reason step durable firstNo).trainFails = s.trainFails :=
  (applyResult_trainFails _ h ..).trans <|
    foldl_keeps State.trainFails (ownChildren s) (fun u c => treeSend u c 6 _) (fun u c => treeSend_trainFails u c 6 _) s

theorem settleRound_trainFails (s : State) (step : Nat) : (settleRound s step 1).trainFails = s.trainFails := by
  unfold settleRound
  dsimp only
  split
  · rfl
  · split
    · rfl
    · split
      · rfl
      · split
        · refine passResult_trainFails (putRound s _) ?_ _ _ _ _ _
          split
          · contradiction
          · split <;> decide
        · exact (treeSend_trainFails (putRound s _) _ 5 _ :)

theorem lossVote_trainFails (s : State) : (lossVote s).trainFails = s.trainFails := by
  unfold lossVote castVote
  dsimp only
  split
  · split
    · rfl
    · exact (settleRound_trainFails (putRound s _) _ :)
  · rfl

/-! ### A region is fenced -/

theorem faultOp_trainFails (s : State) (d0 : DWord) (last : Nat) (id : OpId) :
    (faultOp s d0 last id).trainFails = s.trainFails := by
  obtain ⟨u, hu, h | h⟩ := faultOp_cases s d0 last id <;> rw [h]
  · exact trainFails_of_besideUnits hu
  · exact (trainFails_of_besideUnits hu :)

theorem faultOps_trainFails (s : State) (d0 : DWord) (cells : List Nat) (uses : OpEntry → Bool) :
    (faultOps s d0 cells uses).trainFails = s.trainFails :=
  foldl_keeps State.trainFails _ _ (by
    intro s e
    exact faultOp_trainFails s d0 _ e.id) s

theorem clearRegion_trainFails (s : State) (r : Nat) : (clearRegion s r).trainFails = s.trainFails := by
  unfold clearRegion
  rw [updRegion_trainFails, foldl_keeps State.trainFails, foldl_keeps State.trainFails, foldl_keeps State.trainFails,
    foldl_keeps State.trainFails]
  · exact fun _ _ => rfl
  · exact fun _ _ => rfl
  · exact fun _ _ => rfl
  · exact fun s h => updHbm_trainFails s h fun _ => rfl

theorem refuseHeld_trainFails (s : State) : (refuseHeld s).trainFails = s.trainFails :=
  foldl_keeps State.trainFails _ _
    (by intro s e; exact (trainFails_of_besideUnits (dropKept_besideUnits s e.id) :)) s

theorem regionMarked_trainFails (s : State) (r : Nat) : (regionMarked s r).trainFails = s.trainFails :=
  (foldl_keeps State.trainFails _ _ (by intro s e; rfl) _).trans (faultOps_trainFails s ..)

theorem fenceRegionNow_trainFails {r : Nat} (h : fencedRegion s r = false) :
    (fenceRegionNow s r).trainFails = s.trainFails := by
  have ht : (refuseHeld (clearRegion (regionMarked s r) r)).trainFails = s.trainFails :=
    (refuseHeld_trainFails _).trans ((clearRegion_trainFails _ r).trans (regionMarked_trainFails s r))
  rw [fenceRegionNow_eq h]
  dsimp only
  split
  · exact ht
  · exact (lossVote_trainFails _).trans ht

end Sys2Proof.Machine
end

section
/-! SUPPORT. The board's power events and the stages of start-up (R255, R401, R405, R408 to R414, R419, R435). -/

namespace Sys2Proof.Machine

variable {s : State}

/-! ### Power events -/

/-- The lands and straps as POWER_GOOD_RISE samples them. -/
def sampledStraps (s : State) (p : PowerUp) : State :=
  (s.updPins fun x => { x with powerGood := true, enroll := p.enrollEnable }).updHub fun h =>
    { h with position := p.position % 4 }

theorem powerGoodRise_eq (p : PowerUp) (h : s.pins.powerGood = false) :
    powerGoodRise s p = if railsOk p then beginStart (sampledStraps s p) else holdReset (sampledStraps s p) :=
  if_neg (by simp [h])

theorem railUndervoltage_eq {rail mv : Nat} (h : s.pins.powerGood = true) (hmv : mv < railLimit rail) :
    railUndervoltage s rail mv = holdReset s := if_pos (by simp [h, hmv])

theorem sysrefLoss_eq (h : s.pins.powerGood = true) : sysrefLoss s = holdReset s := if_pos h

/-! ### IMAGE_VERIFY -/

/-- An image is checked whose turn it is, in stages 2 to 4. -/
theorem imageVerify_eq {ty : Nat} (h1 : 1 ≤ s.cnt.stage) (h4 : s.cnt.stage ≤ 4) (hr : s.cnt.recovery = false)
    (hn : s.cnt.nextType = ty) (ht : ty < 4) :
    imageVerify s s.cnt.bank ty =
      if verifyImage s s.cnt.bank ty then
        s.updCnt fun c =>
          { c with nextType := ty + 1, stage := if ty = 0 then 3 else 4,
                   measure := fset [] c.measure ty (imageDigest (imageBytes s s.cnt.bank ty)) }
      else otherBank s := by
  unfold imageVerify
  dsimp only
  rw [if_neg (by simp [h1, h4, hr, hn]; omega), if_neg (by omega)]

theorem otherBank_eq (h : s.cnt.fallback = false) :
    otherBank s = s.updCnt fun c =>
      { c with bank := 1 - c.bank, fallback := true, nextType := 0, measure := [], stage := 2 } := if_neg (by simp [h])

/-! ### Stages 5 and 6 -/

/-- What the stacks' and links' training does not change, and Cantle's registers but for the stage. -/
def State.booted (s : State) : FMap Byte × FMap Region × Store × Cantle :=
  (s.mem, s.regions, s.store, { s.cnt with stage := 0 })

theorem of_booted {t u : State} (h : t.booted = u.booted) : t.mem = u.mem ∧ t.regions = u.regions ∧ t.store = u.store
    ∧ { t.cnt with stage := 0 } = { u.cnt with stage := 0 } := by
  simpa only [State.booted, Prod.mk.injEq] using h

theorem settleStage_frame (s : State) : { settleStage s with cnt := s.cnt } = s := by
  unfold settleStage
  split <;> rfl

theorem settleStage_booted (s : State) : (settleStage s).booted = s.booted := by
  unfold settleStage
  split <;> rfl

theorem bootHold_booted (s : State) : (bootHold s).booted = s.booted := by
  unfold bootHold
  split <;> rfl

theorem trainLinks_booted (s : State) : (trainLinks s).booted = s.booted :=
  foldl_keeps State.booted _ _ (by intro s l; split <;> rfl) s

theorem afterIdentity_booted (s : State) : (afterIdentity s).booted = s.booted := by
  unfold afterIdentity
  dsimp only
  refine Eq.trans ?_ (foldl_keeps State.booted (List.range 12)
    (fun s h => if (s.hbm h).st = 0 then s.updHbm h fun k => { k with st := 1 } else s)
    (by intro s h; split <;> rfl) s)
  generalize List.foldl _ s _ = u
  split
  · exact (settleStage_booted _).trans (trainLinks_booted u :)
  · exact bootHold_booted u

/-- A region with its fences from Cantle's record, released when it is in service (R31, R401). -/
def Region.recorded (f : Fences) (r : Nat) (g : Region) : Region :=
  { g with fence := BitVec.ofNat 64 (fenceWord f r), released := !natBit f r }

/-- Cantle's record is applied. -/
def fencesRecorded (s : State) : State :=
  (List.range 4).foldl (fun s r => s.updRegion r (Region.recorded s.store.fences r)) s

/-- Memory and Cantle's registers and store. -/
def State.vault (s : State) : FMap Byte × Cantle × Store := (s.mem, s.cnt, s.store)

theorem of_vault {t u : State} (h : t.vault = u.vault) : t.mem = u.mem ∧ t.cnt = u.cnt ∧ t.store = u.store := by
  simpa only [State.vault, Prod.mk.injEq] using h

theorem fencesRecorded_vault (s : State) : (fencesRecorded s).vault = s.vault :=
  foldl_keeps State.vault (List.range 4) (fun s r => s.updRegion r (Region.recorded s.store.fences r)) (fun _ _ => rfl) s

theorem fencesRecorded_released (s : State) {r : Nat} (hr : r < 4) :
    ((fencesRecorded s).region r).released = !natBit s.store.fences r := by
  obtain ⟨t, ht, hf⟩ := foldl_own (view := fun i s => (State.region s i, s.store))
    (f := fun s r => s.updRegion r (Region.recorded s.store.fences r))
    (fun s i j hij => Prod.ext ((State.region_updRegion ..).trans (if_neg hij)) rfl) List.nodup_range
    (List.mem_range.mpr hr) s
  have hreg := congrArg Prod.fst hf
  have hst := congrArg Prod.snd ht
  dsimp only at hreg hst
  rw [fencesRecorded, hreg, State.region_updRegion, if_pos rfl, hst]
  rfl

/-- And beside these the regions. -/
def State.vaultRegions (s : State) : (FMap Byte × Cantle × Store) × FMap Region := (s.vault, s.regions)

theorem applyFences_vaultRegions (s : State) : (applyFences s).vaultRegions = (fencesRecorded s).vaultRegions := by
  have hl := foldl_keeps State.vaultRegions (List.range 24)
    (fun s l => if fencedLink s l then s.updLink l fun k => { k with st := 4 } else s) (by intro s l; split <;> rfl)
  have hh := foldl_keeps State.vaultRegions (List.range 12)
    (fun s h => if fencedRegion s (h / 3) then s.updHbm h fun k => { k with st := 4 } else s) (by intro s h; split <;> rfl)
  refine Eq.trans ?_ ((hh _).trans (hl (fencesRecorded s)))
  unfold applyFences
  dsimp only
  split <;> rfl

theorem applyBootImage_vaultRegions (s : State) (b : List Byte) :
    (applyBootImage s b).vaultRegions = s.vaultRegions := by
  unfold applyBootImage
  dsimp only
  generalize hu : List.foldl _ _ _ = u
  have hkeep : u.vaultRegions = s.vaultRegions := by
    rw [← hu, foldl_keeps State.vaultRegions]
    · split <;> rfl
    · exact fun _ _ => rfl
  exact (hkeep :)

/-- Stage 5's settings from the boot image, when there is one. -/
def bootConfigured (s : State) : State :=
  match s.cnt.bootImage with
  | some b => applyBootImage s b
  | none => s

theorem bootConfigured_vaultRegions (s : State) : (bootConfigured s).vaultRegions = s.vaultRegions := by
  unfold bootConfigured
  split
  · exact applyBootImage_vaultRegions s _
  · rfl

/-- The device at the end of stage 5. -/
def bootLoaded (s : State) : State :=
  orderSteps (bootConfigured (applyFences (s.updCnt fun c => { c with stage := 6 })))

theorem bootFirmwareStart_eq (hs : s.cnt.stage = 4) (hn : s.cnt.nextType = 5) (hr : s.cnt.recovery = false) :
    bootFirmwareStart s =
      let t := bootLoaded s
      if t.cnt.ready ∨ t.cnt.exhausted then afterIdentity t else t :=
  if_neg (by simp [hs, hn, hr])

theorem orderSteps_vault (s : State) : (orderSteps s).vault = s.vault := by
  have h := orderSteps_frame s
  exact (congrArg State.vault h :)

theorem bootLoaded_vault (s : State) :
    (bootLoaded s).vault = (s.updCnt fun c => { c with stage := 6 }).vault :=
  (orderSteps_vault _).trans <| (congrArg Prod.fst (bootConfigured_vaultRegions _)).trans <|
    (congrArg Prod.fst (applyFences_vaultRegions _)).trans (fencesRecorded_vault _)

theorem orderSteps_regionReleased (s : State) {r : Nat} (hr : r < 4) :
    ((orderSteps s).region r).released = (s.region r).released := by
  rw [orderSteps_region s hr]
  exact (congrArg Region.released (stepOrdered_target (requiredStep s r) (s.region r)) :)

theorem bootLoaded_regionReleased (s : State) {r : Nat} (hr : r < 4) :
    ((bootLoaded s).region r).released = !s.store.fences.testBit r := by
  have h : (bootConfigured (applyFences (s.updCnt fun c => { c with stage := 6 }))).regions
      = (fencesRecorded (s.updCnt fun c => { c with stage := 6 })).regions :=
    (congrArg Prod.snd (bootConfigured_vaultRegions _)).trans (congrArg Prod.snd (applyFences_vaultRegions _))
  rw [bootLoaded, orderSteps_regionReleased _ hr]
  exact (congrArg (fun m => (fget ({} : Region) m r).released) h).trans (fencesRecorded_released _ hr)

theorem bootFirmwareStart_spec (hs : s.cnt.stage = 4) (hn : s.cnt.nextType = 5) (hr : s.cnt.recovery = false) :
    let t := bootFirmwareStart s
    t.mem = s.mem ∧ (s.cnt.ready = false → s.cnt.exhausted = false → t.cnt.stage = 6)
      ∧ ∀ r, r < 4 → (t.region r).released = !s.store.fences.testBit r := by
  obtain ⟨hmem, hcnt, -⟩ := of_vault (bootLoaded_vault s)
  dsimp only
  rw [bootFirmwareStart_eq hs hn hr]
  dsimp only
  split
  · next hid =>
    obtain ⟨hmem', hreg, -⟩ := of_booted (afterIdentity_booted (bootLoaded s))
    refine ⟨hmem'.trans hmem, fun h1 h2 => ?_, fun r hr => ?_⟩
    · simp [hcnt, h1, h2] at hid
    · rw [State.region, hreg]
      exact bootLoaded_regionReleased s hr
  · exact ⟨hmem, fun _ _ => by rw [hcnt]; rfl, fun r hr => bootLoaded_regionReleased s hr⟩

/-- The chunk of a start-up is reserved. -/
def chunkTaken (s : State) : State :=
  (s.updStore fun x => { x with nextChunk := s.store.nextChunk + 1 }).updCnt fun c =>
    { c with ready := true, leaf := 1024 * s.store.nextChunk }

theorem chunkReserve_eq (hon : cantleOn s = true) (he : s.cnt.exhausted = false) (hr : s.cnt.ready = false)
    (hk : s.store.nextChunk < 2 ^ 20) :
    chunkReserve s = if (chunkTaken s).cnt.stage = 6 then afterIdentity (chunkTaken s) else chunkTaken s := by
  have hk' : ¬ 2 ^ 20 ≤ s.store.nextChunk := Nat.not_le.mpr hk
  unfold chunkReserve
  simp only [hon, he, hr, if_neg hk']
  rfl

theorem chunkReserve_booted (hon : cantleOn s = true) (he : s.cnt.exhausted = false) (hr : s.cnt.ready = false)
    (hk : s.store.nextChunk < 2 ^ 20) : (chunkReserve s).booted = (chunkTaken s).booted := by
  rw [chunkReserve_eq hon he hr hk]
  split
  · exact afterIdentity_booted _
  · rfl

/-! ### Stage 7 -/

theorem stackTraining_done {h : Nat} (hst : (s.hbm h).st = 1) :
    stackTraining s h true = s.updHbm h fun k => { k with st := 2 } := by
  simp [stackTraining, hst]

/-- The stack's failure is marked. -/
def trainFailed (s : State) (h : Nat) : State := s.updHbm h fun k => { k with trainFail := true }

theorem stackTraining_failed {h : Nat} (hst : (s.hbm h).st = 1) :
    stackTraining s h false = settleStage (fenceRegionNow (trainFailed s h) (h / 3)) := by
  simp [stackTraining, trainFailed, hst]

/-- The region of a stack that fails is fenced, and the failure stays on record (R255). -/
theorem stackTraining_failed_spec {h : Nat} (hst : (s.hbm h).st = 1) (hf : fencedRegion s (h / 3) = false) :
    let t := stackTraining s h false
    (t.hbm h).trainFail = true ∧ fencedRegion t (h / 3) = true ∧ OnlyBytes (retryRanges s) s t := by
  have hfu : fencedRegion (trainFailed s h) (h / 3) = false := hf
  have hset := settleStage_frame (fenceRegionNow (trainFailed s h) (h / 3))
  have hfail : (trainFailed s h).trainFails h = true :=
    congrArg Hbm.trainFail ((State.hbm_updHbm ..).trans (if_pos rfl))
  dsimp only
  rw [stackTraining_failed hst]
  refine ⟨?_, ?_, ?_⟩
  · exact (congrArg (fun x : State => x.trainFails h) hset).trans
      ((congrFun (fenceRegionNow_trainFails hfu) h).trans hfail)
  · exact (congrArg (fun x : State => fencedRegion x (h / 3)) hset).trans
      (fence_bit_of_standing (by decide) (fenceRegionNow_standing hfu))
  · exact ((OnlyRetry.of_media rfl).trans ((onlyRetry_fenceRegionNow hfu).trans
      (.of_media (congrArg State.media hset)))).onlyBytes

/-- Does an address lie outside the stack? -/
def outsideStack (h a : Nat) : Bool := !(decide (a < hbmTop) && stackOf a == h)

/-- The stack is ready: its bytes and poison marks are gone. -/
def stackCleared (s : State) (h : Nat) : State :=
  ({ s with mem := s.mem.filter fun p => outsideStack h p.1, poison := s.poison.filter fun p => outsideStack h p.1 } :
    State).updHbm h fun k => { k with st := 3 }

theorem rdByte_stackCleared (s : State) (h a : Nat) :
    rdByte (stackCleared s h) a = if a < hbmTop ∧ stackOf a = h then 0 else rdByte s a := by
  refine (fget_filter 0 s.mem (outsideStack h) a).trans ?_
  by_cases ha : a < hbmTop ∧ stackOf a = h
  · rw [if_pos ha, if_neg (by simp [outsideStack, ha])]
  · rw [if_neg ha, if_pos (by simpa [outsideStack, imp_iff_not_or] using ha)]
    rfl

theorem hbmInit_eq {h : Nat} (hst : (s.hbm h).st = 2) : hbmInit s h = settleStage (stackCleared s h) :=
  if_neg (by simp [hst])

theorem hbmInit_spec {h : Nat} (hst : (s.hbm h).st = 2) :
    ((hbmInit s h).hbm h).st = 3
      ∧ ∀ a, rdByte (hbmInit s h) a = if a < hbmTop ∧ stackOf a = h then 0 else rdByte s a := by
  have hset := settleStage_frame (stackCleared s h)
  have hst3 : ((stackCleared s h).hbm h).st = 3 := congrArg Hbm.st ((State.hbm_updHbm ..).trans (if_pos rfl))
  rw [hbmInit_eq hst]
  exact ⟨(congrArg (fun x : State => (x.hbm h).st) hset).trans hst3,
    fun a => (congrArg (fun x : State => rdByte x a) hset).trans (rdByte_stackCleared s h a)⟩

/-! ### Stage 9 -/

theorem leNat_lt (l : List Byte) : leNat l < 256 ^ l.length := by
  induction l with
  | nil => exact Nat.one_pos
  | cons b l ih =>
    have hb := b.isLt
    rw [leNat, List.length_cons, Nat.pow_succ]
    omega

theorem fld_lt (d : List Byte) (off n : Nat) : fld d off n < 256 ^ n :=
  (leNat_lt _).trans_le (Nat.pow_le_pow_right (by decide) (List.length_take_le ..))

/-- The binding table that boot firmware writes (Table 14-11). -/
theorem bootRegisters_bind (s : State) (b : List Byte) {n : Nat} (hn : n < 256) :
    (fget 0 (bootRegisters s b).mbx.bind n).toNat = bindWrite 0 (fld b (0x80 + 8 * n) 8) % 2 ^ 64 := by
  have hw : (BitVec.ofNat 64 (fld b (0x80 + 8 * n) 8)).toNat = fld b (0x80 + 8 * n) 8 :=
    (BitVec.toNat_ofNat ..).trans (Nat.mod_eq_of_lt (fld_lt b (0x80 + 8 * n) 8))
  have hbind : (bootRegisters s b).mbx.bind = fsets 0 [] 0 ((List.range 256).map fun i =>
      BitVec.ofNat 64 (bindWrite 0 (BitVec.ofNat 64 (fld b (0x80 + 8 * i) 8)).toNat)) := by
    simp only [bootRegisters, State.updHub_mbx, State.updMbx_mbx]
  rw [hbind, fget_fsets, if_pos (by simp [hn]), List.getD_eq_getElem _ _ (by simpa using hn), List.getElem_map,
    List.getElem_range, Nat.sub_zero, hw, BitVec.toNat_ofNat]

theorem bootRegisters_regions (s : State) (b : List Byte) : (bootRegisters s b).regions = s.regions := by
  rw [bootRegisters, State.updHub_regions, State.updMbx_regions]

/-- Ring 0 as a boot image gives it (R379). -/
def imageRing (b : List Byte) : Ring :=
  { valid := true, log2 := fld b 0x20 1, notify := fld b 0x21 1, base := fld b 0x10 8, headAddr := fld b 0x18 8 }

/-- The mailbox block and the regions. -/
def State.boxRegions (s : State) : Mbx × FMap Region := (s.mbx, s.regions)

theorem clearRing_boxRegions (s : State) (base head n : Nat) : (clearRing s base head n).boxRegions = s.boxRegions :=
  (memWrite_keeps_proj _ State.boxRegions (fun _ _ _ _ => rfl) head _).trans
    (memWrite_keeps_proj s State.boxRegions (fun _ _ _ _ => rfl) base _)

theorem updRing_boxRegions {s t : State} (h : t.boxRegions = s.boxRegions) (n : Nat) (f : Ring → Ring) :
    (t.updRing n f).boxRegions = (s.updRing n f).boxRegions :=
  congrArg (fun x : Mbx × FMap Region => ({ x.1 with rings := fupd {} x.1.rings n f }, x.2)) h

/-- Whether its memory is in service or not, the ring is set up. -/
theorem bootRing_boxRegions (s : State) (b : List Byte) :
    (bootRing s b).boxRegions = (s.updRing 0 fun _ => imageRing b).boxRegions := by
  unfold bootRing
  dsimp only
  split
  · rfl
  · rw [setRing, leBytes_zero]
    exact updRing_boxRegions (clearRing_boxRegions s ..) 0 fun _ => imageRing b

/-- The shipped curves are put into the cells that are in service (R178). -/
def curvesLoaded (s : State) : State :=
  (List.range 160).foldl
    (fun s n => if fencedCell s n then s else s.updCell n fun c => { c with curves := bootCurves }) s

theorem curvesLoaded_mbx (s : State) : (curvesLoaded s).mbx = s.mbx :=
  foldl_keeps State.mbx _ _ (by intro s n; split <;> rfl) s

theorem curvesLoaded_cell (s : State) {n : Nat} (hn : n < 160) (hf : fencedCell s n = false) :
    ((curvesLoaded s).cell n).curves = bootCurves := by
  obtain ⟨t, ht, h⟩ := foldl_own (view := fun i s => (State.cell s i, fencedCell s i))
    (f := fun s n => if fencedCell s n then s else s.updCell n fun c => { c with curves := bootCurves })
    (fun s i j hij => by
      split
      · rfl
      · exact Prod.ext ((State.cell_updCell ..).trans (if_neg hij)) rfl) List.nodup_range (List.mem_range.mpr hn) s
  have hft : fencedCell t n = false := (congrArg Prod.snd ht).trans hf
  have hc := congrArg Prod.fst h
  dsimp only at hc
  rw [curvesLoaded, hc, hft, if_neg (by decide), State.cell_updCell, if_pos rfl]

theorem fget_bootCurves {k : Nat} (hk : k < 12) : fget {} bootCurves k = Curve.ofShipped (k + 1) := by
  rw [bootCurves, fget_fsets, if_pos (by simp [hk])]
  simp [hk]

theorem bindingSetup_eq {b : List Byte} (hb : s.cnt.bootImage = some b) (hst : s.cnt.stage = 7 ∨ s.cnt.stage = 8)
    (hr : stacksReady s = true) (hl : ∀ l, l < 24 → (s.link l).st ≠ 1) (hm : s.mbx.locked = false) :
    bindingSetup s = (curvesLoaded (bootRing (bootRegisters s b) b)).updCnt fun c => { c with stage := 9 } := by
  have hstage : (s.cnt.stage == 7 || s.cnt.stage == 8) = true := by simpa using hst
  have hlinks : ((List.range 24).any fun l => (s.link l).st == 1) = false := by simpa using hl
  unfold bindingSetup
  rw [hb]
  dsimp only
  rw [hstage, hr, hlinks, if_neg (by decide), hm]
  rfl

theorem bindingSetup_spec {b : List Byte} (hb : s.cnt.bootImage = some b) (hst : s.cnt.stage = 7 ∨ s.cnt.stage = 8)
    (hr : stacksReady s = true) (hl : ∀ l, l < 24 → (s.link l).st ≠ 1) (hm : s.mbx.locked = false) :
    let t := bindingSetup s
    t.cnt.stage = 9 ∧ t.ring 0 = imageRing b
      ∧ (∀ n, n < 256 → (fget 0 t.mbx.bind n).toNat = bindWrite 0 (fld b (0x80 + 8 * n) 8) % 2 ^ 64)
      ∧ ∀ n k, n < 160 → fencedCell s n = false → k < 12 → fget {} (t.cell n).curves k = Curve.ofShipped (k + 1) := by
  obtain ⟨hmbx, hreg⟩ : (bootRing (bootRegisters s b) b).mbx = _ ∧ (bootRing (bootRegisters s b) b).regions = _ :=
    Prod.mk.inj (bootRing_boxRegions (bootRegisters s b) b)
  have hbox := (curvesLoaded_mbx _).trans hmbx
  dsimp only
  rw [bindingSetup_eq hb hst hr hl hm]
  refine ⟨rfl, ?_, fun n hn => ?_, fun n k hn hf hk => ?_⟩
  · rw [State.ring, State.updCnt_mbx, hbox, State.updRing, State.updMbx_mbx, fget_fupd_same]
  · rw [State.updCnt_mbx, hbox, State.updRing, State.updMbx_mbx, bootRegisters_bind s b hn]
  · have hf' : fencedCell (bootRing (bootRegisters s b) b) n = false := by
      simpa only [fencedCell, fencedRegion, State.region, hreg, State.updRing, State.updMbx_regions,
        bootRegisters_regions] using hf
    rw [State.cell, State.updCnt_cells, ← State.cell, curvesLoaded_cell _ hn hf', fget_bootCurves hk]

/-! ### The board's report -/

/-- The domain is the hub's, the serial number Cantle's, and another one than the stored is a relocation (R405, R419). -/
theorem boardReport_eq (d : Nat) (x : List Byte) (hr : s.hub.running = true) (hm : s.mbx.locked = false) :
    boardReport s (some d) (some x) = (s.updHub fun h => { h with domain := some (d % 65536) }).updCnt fun c =>
      { c with serial := some (x.take 16),
               relocated := c.relocated || (s.store.serial.isSome && s.store.serial != some (x.take 16)) } :=
  if_neg (by simp [hr, hm])

/-! ### O58 -/

/-- Settles O58: each event by its equation in its stage, and what start-up keeps of memory, store and regions. -/
theorem startUp : Obligations.StartUp := by
  intro s
  refine ⟨fun p hp => ⟨fun hok => ?_, fun hbad => ?_⟩, ⟨_, rfl, rfl, rfl, rfl⟩,
    fun hp => ⟨?_, fun rail mv hmv => ?_⟩, fun ty h1 h4 hr hn ht => ⟨fun hv => ?_, fun hv hfb => ?_⟩, fun hs hn hr => ?_, fun hon he hr hk => ?_,
    fun h hh hst => ⟨?_, fun hf => ?_⟩, fun h hh hst => ?_, fun b hb hst hr hl hm => ?_, fun h1 h9 => ?_,
    fun d x hr hm => ?_⟩
  · exact ⟨_, congrArg Host.Outcome.next ((powerGoodRise_eq p hp).trans (if_pos hok)), rfl, rfl, rfl, rfl, rfl, rfl⟩
  · exact ⟨_, congrArg Host.Outcome.next ((powerGoodRise_eq p hp).trans (if_neg (by simp [hbad]))),
      rfl, rfl, rfl, rfl, rfl⟩
  · exact ⟨_, congrArg Host.Outcome.next (sysrefLoss_eq hp), rfl, rfl, rfl⟩
  · exact ⟨_, congrArg Host.Outcome.next (railUndervoltage_eq hp hmv), rfl, rfl, rfl⟩
  · exact ⟨_, congrArg Host.Outcome.next ((imageVerify_eq h1 h4 hr hn ht).trans (if_pos hv)), rfl, rfl,
      fget_fset_same ..⟩
  · exact ⟨_, congrArg Host.Outcome.next ((imageVerify_eq h1 h4 hr hn ht).trans
      ((if_neg (by simp [hv])).trans (otherBank_eq hfb))), rfl, rfl, rfl⟩
  · exact ⟨_, rfl, bootFirmwareStart_spec hs hn hr⟩
  · obtain ⟨-, -, hstore, hcnt⟩ := of_booted (chunkReserve_booted hon he hr hk)
    exact ⟨_, rfl, (congrArg Cantle.ready hcnt :), (congrArg Cantle.leaf hcnt :), congrArg Store.nextChunk hstore⟩
  · exact ⟨_, congrArg Host.Outcome.next ((if_pos hh).trans (stackTraining_done hst)),
      (State.hbm_updHbm ..).trans (if_pos rfl), rfl⟩
  · exact ⟨_, congrArg Host.Outcome.next (if_pos hh), stackTraining_failed_spec hst hf⟩
  · exact ⟨_, congrArg Host.Outcome.next (if_pos hh), hbmInit_spec hst⟩
  · obtain ⟨hstage, hring, hrest⟩ := bindingSetup_spec hb hst hr hl hm
    exact ⟨_, rfl, hstage, congrArg Ring.valid hring, congrArg Ring.tail hring, congrArg Ring.base hring,
      congrArg Ring.log2 hring, hrest⟩
  · exact ⟨_, congrArg Host.Outcome.next (if_pos ⟨h1, h9⟩), rfl, rfl, rfl⟩
  · refine ⟨_, congrArg Host.Outcome.next (boardReport_eq d x hr hm), rfl, rfl, fun h0 hne => ?_⟩
    have hsome : s.store.serial.isSome = true := Option.isSome_iff_ne_none.mpr h0
    have hother : (s.store.serial != some (x.take 16)) = true := bne_iff_ne.mpr hne
    exact (congrArg₂ (fun p q => s.cnt.relocated || (p && q)) hsome hother).trans (Bool.or_true _)

end Sys2Proof.Machine
end

section
/-! SUPPORT. A collective starts after contributions have come early, and one of them is late: it goes into the shard's
deferral area (R325, R340, R343, R344). -/

namespace Sys2Proof.Machine

variable {s t : State} {e : OpEntry} {g : List Nat} {r rank : Nat} {x : Shard} {c : Contribution}

/-! ### Fences and free values -/

theorem fencedRange_of_standing (h : t.standing = s.standing) (a n : Nat) : fencedRange t a n = fencedRange s a n := by
  have hf (r : Nat) : fencedRegion t r = fencedRegion s r := congrArg (·.getLsbD 63) (fence_of_standing h r)
  simp only [fencedRange, fencedSpan, fencedAddr, hf]

theorem freeBytes_eq (n : Nat) (s : State) : (freeBytes n s).2 = { s with fresh := s.fresh + n } := by
  induction n generalizing s with
  | zero => rfl
  | succ n ih =>
    refine (ih s.draw.2).trans ?_
    simp only [State.draw, Nat.add_assoc, Nat.add_comm 1]

theorem freeBytes_media (n : Nat) (s : State) : (freeBytes n s).2.media = s.media := by rw [freeBytes_eq]; rfl
theorem freeBytes_standing (n : Nat) (s : State) : (freeBytes n s).2.standing = s.standing := by rw [freeBytes_eq]; rfl

theorem bumpPlc_media (s : State) (r off n : Nat) : (bumpPlc s r off n).media = s.media := rfl
theorem bumpPlc_standing (s : State) (r off n : Nat) : (bumpPlc s r off n).standing = s.standing :=
  State.updRegion_standing s r _ rfl rfl

/-! ### A late contribution (R343, R344) -/

/-- A write of Pleacher changes memory, poison marks and links as any write does. -/
theorem plcWrite_media (s : State) (op : Option OpId) (a : Nat) (bs : List Byte) :
    (plcWrite s op a bs).media = (memWrite s a bs).media := by
  unfold plcWrite
  split
  · next id => exact (congrArg State.media (opWrite_frame s id (cls := 0) false a bs (by decide)) :)
  · rfl

theorem rdByte_of_media (h : t.media = s.media) (y : Nat) : rdByte t y = rdByte s y :=
  congrArg (fun m : FMap Byte × FMap Bool × FMap Link => fget 0 m.1 y) h

theorem bad_of_media (h : t.media = s.media) (y : Nat) : bad t y = bad s y :=
  congrArg (fun m : FMap Byte × FMap Bool × FMap Link => fget false m.2.1 (unitBase y)) h

/-- Of two writes of Pleacher, one after the other, the bytes of the first stay, where the second does not reach. -/
theorem rdByte_plcWrite_twice {op : Option OpId} {a b i : Nat} {bs cs : List Byte} (hi : i < bs.length)
    (hab : a + bs.length ≤ b) (hb : bad s (a + i) = false) :
    rdByte (plcWrite (plcWrite s op a bs) op b cs) (a + i) = bs[i] := by
  have hm := plcWrite_media s op a bs
  rw [rdByte_of_media (plcWrite_media _ op b cs), rdByte_memWrite_out _ _ _ _ (.inl (by omega)), rdByte_of_media hm,
    rdByte_memWrite_in s a bs i hi]
  rw [bad_of_media hm]
  exact bad_memWrite s a bs _ hb

/-- What a late contribution leaves before its bytes are written: it is counted, and `y` holds its sums. -/
def deferNoted (s : State) (r : Nat) (x : Shard) (c : Contribution) : State :=
  let y : Deferral :=
    { cid := c.cid, shard := c.shard, step := c.step, base := cDefer x.body, sums := widenAll (cIn x.body) c.data, count := 1 }
  bumpPlc ((bumpPlc s r 0x08 1).updRegion r fun g =>
    { g with defers := g.defers.filter (fun y => !(y.cid == c.cid && y.shard == c.shard && y.step == c.step)) ++ [y] }) r 0x10 1

/-- The first contribution that is deferred: it is counted, and its sums and 64 bytes go into the deferral area. -/
theorem lateContribution_eq (hpol : cPolicy x.body = 1) (hnext : shardAt s r c.cid (c.step + 1) c.shard = none)
    (hold : (s.region r).defers = [])
    (hfence : fencedRange s (cDefer x.body) (4 * (widenAll (cIn x.body) c.data).length + 64) = false) :
    lateContribution s r x c =
      let u := freeBytes 64 (deferNoted s r x c)
      let op := collOpOf u.2 r c.cid c.step
      plcWrite (plcWrite u.2 op (cDefer x.body) (lateContribution.wordBytes32 (widenAll (cIn x.body) c.data))) op
          (cDefer x.body + 4 * shardSize x.body) u.1 := by
  have hshard : shardAt (bumpPlc s r 0x08 1) r c.cid (c.step + 1) c.shard = none := by
    rw [← hnext, shardAt, bumpPlc, State.region_updRegion, if_pos rfl, shardAt]
  have hdefers : ((bumpPlc s r 0x08 1).region r).defers = [] := by
    rw [← hold, bumpPlc, State.region_updRegion, if_pos rfl]
  have hf : fencedRange (freeBytes 64 (deferNoted s r x c)).2 (cDefer x.body)
      (4 * (widenAll (cIn x.body) c.data).length + 64) = false := by
    refine (fencedRange_of_standing ?_ _ _).trans hfence
    refine (freeBytes_standing ..).trans ((bumpPlc_standing ..).trans ?_)
    exact (State.updRegion_standing _ r _ rfl rfl).trans (bumpPlc_standing ..)
  unfold lateContribution
  rw [if_pos ⟨hpol, by rw [hshard]; rfl⟩]
  simp only [hdefers, List.find?_nil, Option.getD_none, combineAll, List.isEmpty_nil, if_true, chargeEvents]
  exact if_neg (Bool.eq_false_iff.mp hf)

/-- A sound byte of its sums reads back. -/
theorem rdByte_lateContribution {i : Nat} {bs : List Byte}
    (hbs : lateContribution.wordBytes32 (widenAll (cIn x.body) c.data) = bs) (hpol : cPolicy x.body = 1)
    (hnext : shardAt s r c.cid (c.step + 1) c.shard = none) (hold : (s.region r).defers = [])
    (hfence : fencedRange s (cDefer x.body) (4 * (widenAll (cIn x.body) c.data).length + 64) = false)
    (hbad : bad s (cDefer x.body + i) = false) (hi : i < bs.length) (hlen : bs.length ≤ 4 * shardSize x.body) :
    rdByte (lateContribution s r x c) (cDefer x.body + i) = bs[i] := by
  subst hbs
  rw [lateContribution_eq hpol hnext hold hfence]
  refine rdByte_plcWrite_twice hi (by omega) ?_
  rw [bad_of_media (freeBytes_media ..)]
  exact hbad

/-! ### The start of a reduction -/

/-- The state in which the member of `e` is active, in group `g` with rank `rank`. -/
def joined (s : State) (e : OpEntry) (g : List Nat) (rank : Nat) : State :=
  let s1 := countReads s (cGroup e.desc) (4 * cMembers e.desc)
  let near := (shardsOf e.desc).filter fun k => memberDev (g.getD k 0) == s1.hub.deviceId
  let c : Coll :=
    { op := e.id, body := e.desc, group := g, rank := rank, step := e.step.toNat,
      unsettled := near.filter fun k => !(s1.region e.region).finals.contains (cCid e.desc, e.step.toNat, k, 2) }
  (s1.updRegion e.region fun h => { h with colls := (s.region e.region).colls.filter (liveColl s) ++ [c] }).updOp e.id
    fun e => { e with phase := .running, started := true }

/-- A reduction that may start sends its shards, and opens its own. -/
theorem collectiveStart_eq (hop : s.op? e.id = some e) (hg : e.group = 4) (hp : e.phase = .held)
    (hb : bucketBusy s e = false) (hl : ((s.region e.region).colls.filter (liveColl s)).length < 64)
    (hr : cReduces e.desc = true) (hgr : groupOf s (cGroup e.desc) (cMembers e.desc) = g)
    (hrank : (g.findIdx? fun w => w == selfWord (countReads s (cGroup e.desc) (4 * cMembers e.desc)) e.region).getD 0 = rank) :
    collectiveStart s e.id = openShard (sendShards (joined s e g rank) e g rank) e g rank := by
  subst hgr hrank
  unfold collectiveStart
  simp only [hop, hg, hp, hb, hr, bne_self_eq_false, Bool.or_false, decide_eq_false (Nat.not_le.mpr hl), Bool.false_eq_true,
    if_false, if_true]
  rfl

/-- A contribution that came before the member's shard `rank` was open. -/
def cameEarly (e : OpEntry) (rank : Nat) (p : DWord × Contribution) : Bool :=
  p.2.cid == cCid e.desc && p.2.step == e.step.toNat && p.2.shard == rank

/-- The state in which the member's own shard has come to be. -/
def shardOpened (s : State) (e : OpEntry) (g : List Nat) (rank : Nat) : State :=
  s.updRegion e.region fun h =>
    { h with early := (s.region e.region).early.filter fun p => !cameEarly e rank p,
             shards := h.shards ++ [{ body := e.desc, group := g, cid := cCid e.desc, step := e.step.toNat, shard := rank }] }

/-- The contributions that came early count in their order. -/
theorem openShard_eq (hlen : shardLen e.desc rank ≠ 0)
    (hnone : shardAt s e.region (cCid e.desc) e.step.toNat rank = none) :
    openShard s e g rank = ((s.region e.region).early.filter (cameEarly e rank)).foldl
      (fun s p => contribute s e.region p.1 p.2) (shardOpened s e g rank) := by
  unfold openShard
  rw [if_neg (by simp [hlen, hnone])]
  rfl

/-- A contribution after the deadline finalises the shard, and is late. -/
theorem contribute_overdue {at_ : DWord} (hx : shardAt s r c.cid c.step c.shard = some x) (hc : x.ranks.contains c.rank = false)
    (hf : x.final = false) (ho : overdue x at_ = true) :
    contribute s r at_ c = accountFor (lateContribution (finaliseLate s r x) r x c) c := by
  simp only [contribute, hx, hc, hf, ho, Bool.false_eq_true, if_false, if_true]

theorem accountFor_mem (s : State) (c : Contribution) : (accountFor s c).mem = s.mem :=
  foldl_keeps State.mem _ _ (by intro s r; rfl) s

/-! ### O43 -/

/-- An all-reduce with deferral: one INT32 element, three members, and a deadline of 1 µs; its deferral area is at 0x40000. -/
def lateBody : List Byte :=
  leBytes 16 0x401 ++ leBytes 4 (2 ^ 13 + fINT32 * 2 ^ 9 + fINT32 * 2 ^ 5) ++ leBytes 4 0 ++ leBytes 4 7 ++ leBytes 4 1
    ++ leBytes 8 0x6000 ++ leBytes 4 3 ++ leBytes 4 0 ++ leBytes 8 1 ++ leBytes 8 0x10000 ++ leBytes 8 0x20000 ++ leBytes 8 0x30000
    ++ leBytes 8 0x40000 ++ List.replicate 56 0

def lateEntry : OpEntry := { id := ⟨5, 77⟩, phase := .held, opcode := 0x401, desc := lateBody, step := 3, admitted := true }

/-- Regions 0, 1 and 2 of device 8. -/
def lateGroup : List Nat := [8, 8 + 2 ^ 16, 8 + 2 ^ 17]

def earlyFrom (rank : Nat) : Contribution := { cid := 7, step := 3, shard := 0, rank := rank, data := leBytes 4 1 }

/-- The collective is held in region 0; rank 1 contributed at cycle 0, and rank 2 one cycle after the deadline. -/
def lateState : State :=
  { hub := { step := 3, deviceId := 8 },
    regions := [(0, { early := [(0, earlyFrom 1), (1601, earlyFrom 2)] })],
    mem := flisted 0 0x6000 (lateGroup.flatMap (leBytes 4)),
    ops := [lateEntry] }

/-- The member has started, and the contribution of rank 1 is in its shard. -/
def firstIn : State :=
  contribute (shardOpened (sendShards (joined lateState lateEntry lateGroup 0) lateEntry lateGroup 0) lateEntry lateGroup 0)
    lateEntry.region 0 (earlyFrom 1)

def firstInShard : Shard :=
  { body := lateBody, group := lateGroup, cid := 7, step := 3, shard := 0, sums := [1], ranks := [1] }

theorem lateStart_eq : collectiveStart lateState lateEntry.id = contribute firstIn lateEntry.region 1601 (earlyFrom 2) := by
  have hsent : ((sendShards (joined lateState lateEntry lateGroup 0) lateEntry lateGroup 0).region lateEntry.region).early.filter
      (cameEarly lateEntry 0) = [(0, earlyFrom 1), (1601, earlyFrom 2)] := by decide +kernel
  rw [collectiveStart_eq (g := lateGroup) (rank := 0) (by decide +kernel) (by decide +kernel) (by decide +kernel) (by decide +kernel)
    (by decide +kernel) (by decide +kernel) (by decide +kernel) (by decide +kernel),
    openShard_eq (by decide +kernel) (by decide +kernel), hsent, List.foldl_cons, List.foldl_cons, List.foldl_nil, firstIn]

theorem firstIn_shard : shardAt firstIn 0 7 3 0 = some firstInShard := by decide +kernel

/-- The contribution of rank 2 goes into the deferral area. -/
theorem lateStart_byte : rdByte (collectiveStart lateState lateEntry.id) 0x40000 = 1 := by
  rw [lateStart_eq, contribute_overdue (x := firstInShard) (by decide +kernel) (by decide +kernel) (by decide +kernel)
    (by decide +kernel), rdByte, accountFor_mem]
  exact rdByte_lateContribution (s := finaliseLate firstIn 0 firstInShard) (r := 0) (x := firstInShard) (c := earlyFrom 2) (i := 0)
    (bs := leBytes 4 1) (by decide +kernel) (by decide +kernel) (by decide +kernel) (by decide +kernel) (by decide +kernel)
    (by decide +kernel) (by decide +kernel) (by decide +kernel)

/-- Refutes O43: in `lateState` a contribution came after the deadline of the member's shard, before the member started; as
the shard opens, that contribution goes into the deferral area (R343), which is no retry area. -/
theorem not_collectiveStarts : ¬ Obligations.CollectiveStarts := by
  unfold Obligations.CollectiveStarts
  intro h
  obtain ⟨t, y, ht, -, hbytes, -⟩ := (h lateState lateEntry).2 (by decide +kernel) (by decide +kernel) (by decide +kernel)
    (by decide +kernel) (by decide +kernel) (by decide +kernel)
  have hstart : exec (.collectiveStart lateEntry.id) lateState = .next (collectiveStart lateState lateEntry.id) := rfl
  obtain rfl := Host.Outcome.next.inj (ht.symm.trans hstart)
  have hmem := hbytes 0x40000 (by decide +kernel) (by decide +kernel)
  rw [lateStart_byte] at hmem
  exact absurd hmem (by decide +kernel)

end Sys2Proof.Machine
end

section
/-! SUPPORT. The damped inverse-root routine (R298 to R300): what its reads, events and writes leave, and how it ends. -/

namespace Sys2Proof.Machine

variable {s t u : State} {id : OpId} {e y : OpEntry} {l : List (Nat × Nat)}

/-! ### The phase of an operation -/

/-- How far an operation is, if it is in the table. -/
def State.phaseOf (s : State) (id : OpId) : Option Phase := (s.op? id).map OpEntry.phase

theorem phaseOf_congr (h : t.ops = s.ops) (id : OpId) : t.phaseOf id = s.phaseOf id := by
  rw [State.phaseOf, op?_congr h, State.phaseOf]

theorem phaseOf_eq_some {p : Phase} (h : s.phaseOf id = some p) : ∃ y, s.op? id = some y ∧ y.phase = p :=
  Option.map_eq_some_iff.mp h

theorem phaseOf_of_op? (h : s.op? id = some e) : s.phaseOf id = some e.phase := by rw [State.phaseOf, h, Option.map_some]

theorem addStat_id (st : Nat) (e : OpEntry) : (e.addStat st).id = e.id := by unfold OpEntry.addStat; split <;> rfl
theorem addStat_phase (st : Nat) (e : OpEntry) : (e.addStat st).phase = e.phase := by unfold OpEntry.addStat; split <;> rfl

/-- An update of one entry, of whatever operation, that decides no outcome. -/
theorem phaseOf_updOp {i : OpId} {f : OpEntry → OpEntry} (hid : ∀ e, (f e).id = e.id) (hp : ∀ e, (f e).phase = e.phase)
    (s : State) (id : OpId) : (s.updOp i f).phaseOf id = s.phaseOf id := by
  rw [State.phaseOf, State.op?_updOp s i id f hid]
  split
  · next h =>
    rw [h, Option.map_map, State.phaseOf]
    exact congrArg (fun g => (s.op? i).map g) (funext hp)
  · rfl

theorem phaseOf_addStat (s : State) (i : OpId) (st : Nat) (id : OpId) : (s.addStat i st).phaseOf id = s.phaseOf id :=
  phaseOf_updOp (addStat_id st) (addStat_phase st) s id

/-! ### Writes that decide no outcome -/

/-- The phase of the operation, and the freeze mask. -/
def State.course (id : OpId) (s : State) : Option Phase × FMap Bool := (s.phaseOf id, s.frozen)

theorem course_congr (ho : t.ops = s.ops) (hf : t.frozen = s.frozen) : t.course id = s.course id :=
  Prod.ext (phaseOf_congr ho id) hf

theorem course_updOp {i : OpId} {f : OpEntry → OpEntry} (hid : ∀ e, (f e).id = e.id) (hp : ∀ e, (f e).phase = e.phase)
    (s : State) : (s.updOp i f).course id = s.course id :=
  Prod.ext (phaseOf_updOp hid hp s id) rfl

theorem course_addStat (s : State) (i : OpId) (st : Nat) : (s.addStat i st).course id = s.course id :=
  course_updOp (addStat_id st) (addStat_phase st) s

theorem plainPiece_course (i : OpId) (a : Nat) (bs : List Byte) (s : State) :
    (plainPiece s i a bs).course id = s.course id := by
  have hw : (writeUnit s a bs).course id = s.course id :=
    course_congr (writeUnit_ops s a bs) (congrArg State.frozen (writeUnit_frame s a bs) :)
  unfold plainPiece
  dsimp only
  split
  · exact (course_addStat ..).trans hw
  · exact hw

theorem maskedPiece_course (i : OpId) (a : Nat) (bs : List Byte) (s : State) :
    (maskedPiece s i a bs).course id = s.course id := by
  unfold maskedPiece
  split
  · refine (course_updOp ?_ ?_ _).trans (course_addStat ..)
    · exact fun _ => rfl
    · exact fun _ => rfl
  · exact plainPiece_course i a bs s

theorem opWrite_course (i : OpId) (cls : Nat) (priv : Bool) (a : Nat) (bs : List Byte) (s : State) :
    (opWrite s i cls priv a bs).course id = s.course id :=
  foldl_keeps (State.course id) _ _ (fun s p => by
    split
    · exact maskedPiece_course i p.1 p.2 s
    · exact plainPiece_course i p.1 p.2 s) s

theorem frozenAt_of_course (h : t.course id = s.course id) (a : Nat) : frozenAt t a = frozenAt s a :=
  congrArg (fun p : Option Phase × FMap Bool => fget false p.2 (a / 65536)) h

/-- No piece of a write is empty. -/
theorem length_pos_of_mem_pieces {k a : Nat} {bs : List Byte} {p : Nat × List Byte} (h : p ∈ pieces k a bs) :
    0 < p.2.length := by
  induction k generalizing a bs with
  | zero => cases h
  | succ k ih =>
    cases bs with
    | nil => cases h
    | cons b bs =>
      have hu := lt_unitBase_add a
      have hv := unitBase_le a
      rw [pieces_cons] at h
      obtain rfl | h := List.mem_cons.1 h
      · simp only [List.length_take, List.length_cons]
        omega
      · exact ih h

theorem foldl_maskedPiece_eq {ps : List (Nat × List Byte)}
    (h : ∀ p ∈ ps, (decide (p.1 < hbmTop) && frozenAt s p.1) = false) :
    ps.foldl (fun s p => maskedPiece s id p.1 p.2) s = ps.foldl (fun s p => plainPiece s id p.1 p.2) s := by
  induction ps generalizing s with
  | nil => rfl
  | cons p ps ih =>
    have hp : maskedPiece s id p.1 p.2 = plainPiece s id p.1 p.2 := if_neg (by simp [h p (by simp)])
    rw [List.foldl_cons, List.foldl_cons, hp]
    refine ih fun q hq => ?_
    rw [frozenAt_of_course (plainPiece_course (id := id) id p.1 p.2 s)]
    exact h q (by simp [hq])

/-- A write none of whose bytes the freeze mask drops is made as any write is. -/
theorem opWrite_mem_of_unmasked {a : Nat} {bs : List Byte}
    (h : ∀ i, i < bs.length → masked s clsUPD false (a + i) = false) :
    (opWrite s id clsUPD false a bs).mem = (memWrite s a bs).mem := by
  have hp : ∀ p ∈ pieces bs.length a bs, (decide (p.1 < hbmTop) && frozenAt s p.1) = false := by
    intro p hp
    obtain ⟨-, h1, h2⟩ := pieces_bounds hp
    have hpos := length_pos_of_mem_pieces hp
    have hm := h (p.1 - a) (by omega)
    rwa [Nat.add_sub_cancel' h1] at hm
  have hw : opWrite s id clsUPD false a bs = (pieces bs.length a bs).foldl (fun s p => plainPiece s id p.1 p.2) s :=
    foldl_maskedPiece_eq hp
  rw [hw]
  exact (congrArg State.mem (foldl_plainPiece_frame s id (pieces bs.length a bs)) :)

/-! ### What the routine leaves -/

/-- Sound bytes outside `l` read as before, no byte becomes poisoned, and the operation goes on under the same mask. -/
structure Works (l : List (Nat × Nat)) (id : OpId) (s t : State) : Prop extends Drains l s t where
  course : t.course id = s.course id

theorem Works.trans (h : Works l id s t) (k : Works l id t u) : Works l id s u :=
  ⟨h.toDrains.trans k.toDrains, k.course.trans h.course⟩

theorem Works.refl (s : State) : Works l id s s := ⟨.of_contents rfl, rfl⟩

theorem Works.foldl {α : Type} {f : State → α → State} {xs : List α} (h : ∀ s x, Works l id s (f s x)) (s : State) :
    Works l id s (xs.foldl f s) := by
  induction xs generalizing s with
  | nil => exact .refl s
  | cons x xs ih => exact (h s x).trans (ih _)

theorem works_opWrite {a : Nat} {bs : List Byte} (h : Covers l a bs.length) (cls : Nat) (priv : Bool) (s : State) :
    Works l id s (opWrite s id cls priv a bs) :=
  ⟨drains_opWrite h id cls priv s, opWrite_course ..⟩

theorem works_countReads (a n : Nat) (s : State) : Works l id s (countReads s a n) := by
  rw [countReads_eq]
  exact ⟨.of_contents rfl, rfl⟩

theorem works_cellEvents (s : State) (cell c n : Nat) : Works l id s (cellEvents s cell c n) := by
  unfold cellEvents
  split
  · exact .refl s
  · exact ⟨(drains_updCell (f := Cell.bump (offVecEvt c) n) (fun _ => rfl) s).trans (.of_contents rfl), rfl⟩

theorem works_draw (s : State) : Works l id s s.draw.2 := ⟨.of_contents rfl, rfl⟩

theorem works_readPoison (s : State) (e : OpEntry) (a n : Nat) : Works l id s (readPoison s e a n) := by
  unfold readPoison
  dsimp only
  split
  · exact works_countReads a n s
  · exact (works_countReads a n s).trans ((works_draw _).trans ((works_cellEvents ..).trans
      ⟨.of_contents rfl, course_addStat ..⟩))

theorem works_freeEvents (s : State) (e : OpEntry) (classes : List Nat) : Works l id s (freeEvents s e classes) := by
  unfold freeEvents
  dsimp only
  refine (works_draw s).trans (Works.trans (t := countValues s.draw.2 _ _ _ _) ?_
    (.foldl (fun s n => .foldl (fun s c => (works_draw s).trans (works_cellEvents ..)) s) _))
  unfold countValues
  split
  · exact ⟨.of_contents rfl, rfl⟩
  · exact .refl _

theorem works_oneBadEvent (s : State) (e : OpEntry) : Works l id s (oneBadEvent s e) :=
  (works_draw s).trans (works_cellEvents ..)

theorem works_irEvents (s : State) (e : OpEntry) (finite : Bool) (x : IrEnd) : Works l id s (irEvents s e finite x) := by
  unfold irEvents
  dsimp only
  split
  · exact works_freeEvents ..
  · split
    · exact .refl s
    · split
      · exact (works_freeEvents ..).trans (works_oneBadEvent ..)
      · exact works_freeEvents ..

theorem length_wordBytes (ws : List Word) : (wordBytes ws).length = 4 * ws.length := by
  simp [wordBytes, List.length_flatMap, Nat.mul_comm]

/-- N × N elements of 4 bytes. -/
theorem four_mul_irBytes_div (e : OpEntry) : 4 * (e.irBytes / 4) = e.irBytes :=
  Nat.mul_div_cancel' (Dvd.intro_left _ rfl)

theorem works_irOutput (h : (e.irOut, e.irBytes) ∈ l) (s : State) (reason : Nat) :
    Works l e.id s (irOutput s e reason) := by
  have hcov {ws : List Word} (hw : ws.length = e.irBytes / 4) : Covers l e.irOut (wordBytes ws).length :=
    ⟨_, h, Nat.le_refl _, by rw [length_wordBytes, hw, four_mul_irBytes_div]⟩
  unfold irOutput
  dsimp only
  split
  · exact (works_opWrite (hcov (by simp [freeFinite])) _ _ s).trans ⟨.of_contents rfl, rfl⟩
  · split
    · exact .refl s
    · exact (works_readPoison ..).trans (works_opWrite (hcov (by simp [readFp32s])) _ _ _)

/-! ### How it ends (R299, Table 10-8) -/

theorem laterSteps_reason (e : OpEntry) (ds : List Val) (v : List Nat) : (laterSteps e ds v).reason < 4 := by
  have h3 (k : Nat) : (if k = 0 then 0 else 3) < 4 := by split <;> decide
  unfold laterSteps pivotEnd
  dsimp only
  split
  · exact (by decide : 1 < 4)
  · split
    · exact (by decide : 1 < 4)
    · exact (by decide : 2 < 4)
    · exact h3 _

theorem irEnd_reason (s : State) (e : OpEntry) (v : List Nat) : (irEnd s e v).reason < 4 := by
  unfold irEnd
  split
  · exact laterSteps_reason ..
  · exact (by decide : 3 < 4)

theorem irEnd_of_nonfinite (v : List Nat) (h : (readFp32s s e.irG e.irBytes).any (fun w => !finite32 w) = true) :
    (irEnd s e v).reason = 3 := by
  unfold irEnd
  rw [if_neg]
  simpa using h

/-- The end of the run that starts in `s`. -/
def irOf (s : State) (e : OpEntry) : IrEnd := irEnd s e ((List.range 6).map fun i => Config.free (s.fresh + i))

/-- The status that the end of a run gives. -/
def IrEnd.status (x : IrEnd) : Nat := if x.reason = 0 then stOK else stSINGULAR

/-- The state in which the run has written its result, and not yet its record. -/
def irResultIn (s : State) (e : OpEntry) : State :=
  irOutput (irEvents (readPoison { s with fresh := s.fresh + 6 } e e.irG e.irBytes) e
    ((readFp32s s e.irG e.irBytes).all finite32) (irOf s e)) e (irOf s e).reason

theorem irOf_reason (s : State) (e : OpEntry) : (irOf s e).reason < 4 := irEnd_reason s e _

theorem invRootRun_eq (s : State) (e : OpEntry) : invRootRun s e =
    ((opWrite (irResultIn s e) e.id clsUPD false e.irResult (irRecord (irOf s e))).finishOp e.id (irOf s e).status).updOp e.id
      fun y => { y with d0 := BitVec.ofNat 64 (irOf s e).reason, d1 := BitVec.ofNat 64 (irOf s e).iters } := rfl

theorem works_irResultIn (h : (e.irOut, e.irBytes) ∈ l) (s : State) : Works l e.id s (irResultIn s e) :=
  Works.trans (t := { s with fresh := s.fresh + 6 }) ⟨.of_contents rfl, rfl⟩
    ((works_readPoison ..).trans ((works_irEvents ..).trans (works_irOutput h _ _)))

theorem length_irRecord (x : IrEnd) : (irRecord x).length = 32 := by simp [irRecord]

/-- The run writes its result and its record. -/
theorem works_irRecord (s : State) (e : OpEntry) : Works [(e.irOut, e.irBytes), (e.irResult, 32)] e.id s
    (opWrite (irResultIn s e) e.id clsUPD false e.irResult (irRecord (irOf s e))) :=
  (works_irResultIn (by simp) s).trans
    (works_opWrite ⟨(e.irResult, 32), by simp, Nat.le_refl _, by rw [length_irRecord]⟩ _ _ _)

theorem invRootRun_mem (s : State) (e : OpEntry) : (invRootRun s e).mem =
    (opWrite (irResultIn s e) e.id clsUPD false e.irResult (irRecord (irOf s e))).mem := by
  rw [invRootRun_eq, State.updOp_mem, State.finishOp_mem]

theorem invRootRun_bytes (s : State) (e : OpEntry) :
    OnlyBytes [(e.irOut, e.irBytes), (e.irResult, 32)] s (invRootRun s e) := fun x hx hb => by
  rw [rdByte, invRootRun_mem]
  exact (works_irRecord s e).bytes x hx hb

/-- The operation ends with REASON in DETAIL0, and with SINGULAR_STATISTIC where REASON is above 0. -/
theorem invRootRun_op? (hop : s.op? e.id = some e) (hp : e.phase = .running) :
    ∃ y, (invRootRun s e).op? e.id = some y ∧ y.phase = .finished ∧ y.d0 = BitVec.ofNat 64 (irOf s e).reason
      ∧ ((irOf s e).reason ≠ 0 → stSINGULAR ∈ y.stats) := by
  have hph := (congrArg Prod.fst (works_irRecord s e).course).trans ((phaseOf_of_op? hop).trans (congrArg some hp))
  obtain ⟨y, hy, hyp⟩ := phaseOf_eq_some hph
  rw [invRootRun_eq]
  refine ⟨_, op?_updOp_self (fun _ => rfl) (op?_finishOp_self _ hy (by simp [hyp])), rfl, rfl, fun hr => ?_⟩
  rw [IrEnd.status, if_neg hr]
  exact mem_addStat _ y (by decide)

theorem leNat_leBytes (n v : Nat) : leNat (leBytes n v) = v % 256 ^ n := by
  induction n generalizing v with
  | zero => rw [Nat.pow_zero, Nat.mod_one]; rfl
  | succ n ih =>
    have hp : 256 ^ (n + 1) = 256 * 256 ^ n := Nat.pow_succ'
    rw [leBytes, leNat, ih, BitVec.toNat_ofNat, hp, Nat.mod_mul]

/-- A field at the front of a record, and one behind its first `n` bytes. -/
theorem fld_leBytes_append (n v : Nat) (bs : List Byte) : fld (leBytes n v ++ bs) 0 n = v % 256 ^ n := by
  rw [fld, List.drop_zero, List.take_left' (length_leBytes n v), leNat_leBytes]

theorem fld_append_right {as bs : List Byte} {n : Nat} (h : as.length = n) (k : Nat) : fld (as ++ bs) n k = fld bs 0 k := by
  rw [fld, List.drop_left' h, fld, List.drop_zero]

/-- The record holds the status and REASON, unless the freeze mask drops it. -/
theorem invRootRun_record (h : ∀ i, i < 32 → masked s clsUPD false (e.irResult + i) = false) :
    rdNat (invRootRun s e) e.irResult 4 = (irOf s e).status
      ∧ rdNat (invRootRun s e) (e.irResult + 4) 4 = (irOf s e).reason := by
  have hmask : ∀ i, i < (irRecord (irOf s e)).length → masked (irResultIn s e) clsUPD false (e.irResult + i) = false := by
    intro i hi
    rw [masked, frozenAt_of_course (works_irResultIn (l := [(e.irOut, e.irBytes)]) (by simp) s).course]
    exact h i (length_irRecord _ ▸ hi)
  have hmem : (invRootRun s e).mem = (memWrite (irResultIn s e) e.irResult (irRecord (irOf s e))).mem := by
    rw [invRootRun_mem]
    exact opWrite_mem_of_unmasked hmask
  have hrec := (written_of_mem hmem).1
  rw [length_irRecord] at hrec
  have hstat : (irOf s e).status < 256 ^ 4 := by unfold IrEnd.status; split <;> decide
  have hreason : (irOf s e).reason < 256 ^ 4 := (irOf_reason s e).trans (by decide)
  constructor
  · rw [← Nat.add_zero e.irResult, ← fld_rdBytes _ _ 32 0 4 (by decide), hrec]
    simp only [irRecord, List.append_assoc]
    rw [fld_leBytes_append]
    exact Nat.mod_eq_of_lt hstat
  · rw [← fld_rdBytes _ _ 32 4 4 (by decide), hrec]
    simp only [irRecord, List.append_assoc]
    rw [fld_append_right (length_leBytes ..), fld_leBytes_append, Nat.mod_eq_of_lt hreason]

/-! ### How it starts, and waits (R274, R298) -/

/-- Where the routine may start, it runs, and its staging area holds what it leaves there. -/
theorem invRootStart_spec (hop : s.op? e.id = some y) (hm : (mayUpdate s e && irCtxsFree s e) = true) :
    ∃ y, (invRootStart s e).op? e.id = some y ∧ y.phase = .running ∧ y.started = true
      ∧ OnlyBytes [(e.irStaging, 3 * e.irBytes)] s (invRootStart s e) := by
  have hlen := length_freeBytes (3 * e.irBytes) s
  have hw : Works [(e.irStaging, 3 * e.irBytes)] e.id s (opWrite (freeBytes (3 * e.irBytes) s).2 e.id clsUPD false e.irStaging
      (freeBytes (3 * e.irBytes) s).1) := by
    refine Works.trans ?_ (works_opWrite ⟨_, List.mem_singleton_self _, Nat.le_refl _, Nat.le_of_eq (congrArg _ hlen)⟩ _ _ _)
    rw [freeBytes_eq]
    exact ⟨.of_contents rfl, rfl⟩
  obtain ⟨z, hz, -⟩ := phaseOf_eq_some ((congrArg Prod.fst hw.course).trans (phaseOf_of_op? hop))
  rw [invRootStart, if_pos hm]
  exact ⟨_, op?_updOp_self (fun _ => rfl) hz, rfl, rfl, hw.bytes⟩

theorem invRootStart_of_not (hm : (mayUpdate s e && irCtxsFree s e) = false) : invRootStart s e = s :=
  if_neg (Bool.eq_false_iff.mp hm)

/-- What the entry of a routine becomes whose body is in order. -/
def irHold (s : State) (e x : OpEntry) : OpEntry := { x with phase := .held, released := updateFree s e, cells := e.irCells }

/-- It is held; and starts at once, when nothing holds UPDATE work back. -/
theorem invRoot_admitted (h : Admitted s 0x203 e) (hst : invRootStatus s e = stOK) :
    invRoot s e.id =
      if updateFree s e then invRootStart (s.updOp e.id (irHold s e)) e else s.updOp e.id (irHold s e) := by
  obtain ⟨hop, hopc, hph⟩ := h
  unfold invRoot
  simp only [hop, hopc, hph, hst, opINVROOT, bne_self_eq_false, Bool.false_eq_true, if_false, ne_eq, not_true_eq_false]
  rfl

theorem invRoot_held (hop : s.op? e.id = some e) (hopc : e.opcode = 0x203) (hph : e.phase = .held) (hr : e.released = true) :
    invRoot s e.id = invRootStart s e := by
  unfold invRoot
  simp only [hop, hopc, hph, hr, opINVROOT, bne_self_eq_false, Bool.false_eq_true, if_false, if_true]

theorem invRoot_running (hop : s.op? e.id = some e) (hopc : e.opcode = 0x203) (hph : e.phase = .running)
    (hr : e.irCells.all (cellRuns s) = true) : invRoot s e.id = invRootRun s e := by
  unfold invRoot
  simp only [hop, hopc, hph, hr, opINVROOT, bne_self_eq_false, Bool.false_eq_true, if_false, if_true]

/-! ### O38 -/

/-- Settles O38: the start by its equation and its frame, and the end by what the run leaves of the operation, of its record
and of the other bytes. -/
theorem inverseRootRuns : Obligations.InverseRootRuns := by
  unfold Obligations.InverseRootRuns
  intro s e
  dsimp only
  refine ⟨fun h hst => ?_, fun hop hopc hph hr hm => ?_, fun hop hopc hph hrun => ?_⟩
  · have heq := invRoot_admitted h hst
    have hheld : (s.updOp e.id (irHold s e)).op? e.id = some (irHold s e e) := op?_updOp_self (fun _ => rfl) h.1
    refine ⟨fun hu hm => ?_, fun hw => ?_⟩
    · obtain ⟨y, hy⟩ := invRootStart_spec hheld hm
      exact ⟨_, y, congrArg Host.Outcome.next (heq.trans (if_pos hu)), hy⟩
    · refine ⟨_, irHold s e e, congrArg Host.Outcome.next (heq.trans ?_), hheld, rfl, rfl, rfl, rfl⟩
      split
      · next hu => exact invRootStart_of_not (hw.resolve_left (by simp [hu]))
      · rfl
  · obtain ⟨y, hy⟩ := invRootStart_spec hop hm
    exact ⟨_, y, congrArg Host.Outcome.next (invRoot_held hop hopc hph hr), hy⟩
  · have hlt := irOf_reason s e
    obtain ⟨y, hy, hyp, hd, hs⟩ := invRootRun_op? hop hph
    have hd' : y.d0.toNat = (irOf s e).reason := by
      rw [hd, BitVec.toNat_ofNat]
      omega
    have h0 : y.d0 = 0 ↔ (irOf s e).reason = 0 := by rw [← hd', BitVec.toNat_eq]; rfl
    refine ⟨_, y, congrArg Host.Outcome.next (invRoot_running hop hopc hph hrun), hy, hyp, by omega,
      fun hne => hs (mt h0.mpr hne), fun hbad => ?_, fun hmask => ?_, invRootRun_bytes s e⟩
    · rw [hd, irOf, irEnd_of_nonfinite _ hbad]
      rfl
    · obtain ⟨h1, h2⟩ := invRootRun_record hmask
      exact ⟨h1.trans (by simp only [IrEnd.status, h0]), h2.trans hd'.symm⟩

end Sys2Proof.Machine
end

section
/-! SUPPORT. The commit tree (R357 to R361): what messages, the opening of a step and its copies leave of the pointer, what a
result does with it and with the operations of an abandoned step, and how a round of votes grows. -/

namespace Sys2Proof.Machine

variable {s t : State} {id : OpId} {e : OpEntry}

/-! ### Messages of the tree -/

theorem hrw_of_unsent (h : t.unsent = s.unsent) : t.hrw = s.hrw := (congrArg State.hrw h :)
theorem hub_of_unsent (h : t.unsent = s.unsent) : t.hub = s.hub := (congrArg State.hub h :)

theorem sendOob_unsent (s : State) (dev typ : Nat) (body : List Byte) : (sendOob s dev typ body).1.unsent = s.unsent := by
  unfold sendOob
  split <;> rfl

theorem sendBridle_unsent (s : State) (r : Nat) (op : Option OpId) (dev region typ : Nat) (body : List Byte) :
    (sendBridle s r op dev region typ body).1.unsent = s.unsent := by
  unfold sendBridle
  dsimp only
  split
  · split <;> rfl
  · split
    · next h => exact (forwardNoted_unsent h :)
    · rfl

theorem treeSend_unsent (s : State) (rank typ : Nat) (body : List Byte) : (treeSend s rank typ body).unsent = s.unsent := by
  unfold treeSend reachBridle
  dsimp only
  split
  · next h => exact (congrArg (fun x => x.1.unsent) h.symm).trans (sendBridle_unsent ..)
  · exact sendOob_unsent ..

theorem askRoot_unsent (s : State) : (askRoot s).unsent = s.unsent := by
  unfold askRoot
  split
  · split
    · exact sendOob_unsent ..
    · rfl
  · rfl

theorem askRoot_mem (s : State) : (askRoot s).mem = s.mem := by
  unfold askRoot
  split
  · split
    · unfold sendOob
      split <;> rfl
    · rfl
  · rfl

/-- A device that has a result passes it on to its children, and applies it. -/
theorem passResult_eq (s : State) (result recover reason step durable firstNo : Nat) :
    ∃ u, u.unsent = s.unsent
      ∧ passResult s result recover reason step durable firstNo = applyResult u result recover reason step durable firstNo :=
  ⟨_, foldl_keeps State.unsent _ _ (fun u c => treeSend_unsent u c 6 _) s, rfl⟩

/-! ### The pointer, and the opening of a step -/

/-- The slot that is current, the step last committed, and the open step. -/
def State.pointer (s : State) : Nat × Nat × DWord := (s.hrw.current, s.hrw.committed, s.hub.step)

theorem pointer_of_unsent (h : t.unsent = s.unsent) : t.pointer = s.pointer :=
  (congrArg State.pointer h :)

/-- As `unsent`, and Girth left out. -/
def State.books (s : State) : State := { s.unsent with gth := {} }

theorem books_of_unsent (h : t.unsent = s.unsent) : t.books = s.books := congrArg (fun u : State => { u with gth := {} }) h

theorem gthCopy_unsent (a : Nat) (b : List Byte) (s : State) : (gthCopy a b s).unsent = s.unsent := by
  unfold gthCopy
  split
  · exact memWrite_unsent s a b
  · rfl

theorem updGth_books (s : State) (f : Girth → Girth) : (s.updGth f).books = s.books := rfl

theorem gthOpen_books (s : State) (n : Nat) : (gthOpen s n).books = s.books := by
  have hblk (off : Nat) (b : List Byte) (u : State) :
      ((List.range 20).foldl (fun s k => if fencedBlock s k then s else gthCopy (blkAddr k + off) b s) u).unsent
        = u.unsent :=
    foldl_keeps State.unsent _ _ (fun v k => by
      split
      · rfl
      · exact gthCopy_unsent ..) u
  unfold gthOpen
  extract_lets s1
  have h1 : s1.books = s.books := by
    dsimp only [s1]
    split <;> rfl
  clear_value s1
  split
  · exact h1
  · refine (updGth_books ..).trans (Eq.trans (books_of_unsent ?_) h1)
    split
    · exact hblk _ _ _
    · exact (gthCopy_unsent ..).trans (hblk _ _ _)

theorem tlmWrite_unsent (s : State) (r : Nat) : (tlmWrite s r).unsent = s.unsent := by
  unfold tlmWrite
  extract_lets m a wr s1
  have h1 : s1.unsent = s.unsent := by
    dsimp only [s1]
    split
    · exact memWrite_unsent s _ _
    · rfl
  clear_value s1
  split
  · exact h1
  · rfl

theorem tlmClose_unsent (s : State) (r flags : Nat) : (tlmClose s r flags).unsent = s.unsent :=
  (tlmWrite_unsent s r :)

/-- A step opens: the pointer and the operations stay, and the open step is the new one. -/
theorem openStep_spec (s : State) (n flags : Nat) (restored : Bool) :
    (openStep s n flags restored).pointer = (s.hrw.current, s.hrw.committed, BitVec.ofNat 64 n)
      ∧ (openStep s n flags restored).ops = s.ops := by
  unfold openStep
  extract_lets s1 s2 s3 s4
  have h1 : s1.unsent = s.unsent :=
    foldl_keeps State.unsent _ (fun s r => tlmClose s r flags) (fun s r => tlmClose_unsent s r flags) s
  have h2 : s2.hrw = s.hrw ∧ s2.ops = s.ops := ⟨(hrw_of_unsent h1 :), (ops_of_unsent h1 :)⟩
  clear_value s2
  have h3 : s3.books = s2.books := gthOpen_books s2 n
  clear_value s3
  have hhrw : s3.hrw = s.hrw := (congrArg State.hrw h3 :).trans h2.1
  have hops : s3.ops = s.ops := (congrArg State.ops h3 :).trans h2.2
  refine ⟨?_, hops⟩
  change (s3.hrw.current, s3.hrw.committed, BitVec.ofNat 64 n) = _
  rw [hhrw]

/-! ### Copies of a step -/

theorem commitColls_unsent (s : State) (n : Nat) : (commitColls s n).unsent = s.unsent :=
  foldl_keeps State.unsent _ _ (by intro s r; rfl) s

theorem countReads_unsent (s : State) (a n : Nat) : (countReads s a n).unsent = s.unsent := by
  rw [countReads_eq]
  rfl

theorem shipWrite_unsent (s : State) (r : Nat) (marks : List (Nat × Nat)) (a : Nat) (bs : List Byte) :
    (shipWrite s r marks a bs).unsent = s.unsent := sendNoted_unsent ..

theorem shipPiece_unsent (s : State) (r a dst : Nat) : (shipPiece s r a dst).unsent = s.unsent :=
  (shipWrite_unsent ..).trans (countReads_unsent ..)

theorem shipRanges_pointer (s : State) (r step : Nat) : (shipRanges s r step).pointer = s.pointer := by
  unfold shipRanges
  extract_lets out bad_
  have h : out.1.unsent = s.unsent :=
    foldl_keeps (fun x : State × Nat => x.1.unsent) _ _ (fun x e => by
      dsimp only
      exact foldl_keeps State.unsent _ _ (fun s i => shipPiece_unsent ..) x.1) _
  clear_value out
  exact (pointer_of_unsent h :)

theorem shipStart_pointer (s : State) (step : Nat) : (shipStart s step).pointer = s.pointer := by
  unfold shipStart
  exact foldl_keeps State.pointer _ _ (fun s r =>
    (shipRanges_pointer ..).trans (pointer_of_unsent (shipWrite_unsent ..))) _

theorem nvmeWrites_unsent (s : State) (area step : Nat) : (nvmeWrites s area step).unsent = s.unsent := by
  unfold nvmeWrites
  exact foldl_keeps State.unsent _ _ (by intro s r; rfl) s

theorem flashStart_pointer (s : State) (step : Nat) : (flashStart s step).pointer = s.pointer := by
  have hread (slot : Nat) (rs : List Nat) (u : State) : (rs.foldl (fun s r => readSlot s slot r) u).unsent = u.unsent :=
    foldl_keeps State.unsent _ _ (fun u r => foldl_keeps State.unsent _ _ (fun u e => countReads_unsent ..) u) u
  unfold flashStart
  dsimp only
  split
  · rfl
  · exact (pointer_of_unsent (nvmeWrites_unsent ..)).trans (pointer_of_unsent (hread _ _ s) :)

theorem copyStart_pointer (s : State) (step : Nat) : (copyStart s step).pointer = s.pointer := by
  unfold copyStart
  extract_lets s1
  have h1 : s1.pointer = s.pointer := by
    dsimp only [s1]
    split
    · exact shipStart_pointer ..
    · rfl
  clear_value s1
  split
  · exact (flashStart_pointer ..).trans h1
  · exact h1

/-! ### Operations of an abandoned step (R276) -/

theorem op?_dropOp_other {i : OpId} (h : id ≠ i) (s : State) : (s.dropOp i).op? id = s.op? id := by
  rw [State.op?, State.dropOp, List.find?_filter]
  refine congrArg (fun p => s.ops.find? p) (funext fun e => ?_)
  by_cases he : e.id = id
  · simp [he, h]
  · simp [he]

/-- The mark of an abort, on an operation that nothing has saved. -/
theorem markAbort_marks {p : Phase} (h : s.phaseOf id = some p) (hp : p ≠ .preempted) :
    (markAbort s id).phaseOf id = some .aborting := by
  obtain ⟨e, he, rfl⟩ := phaseOf_eq_some h
  unfold markAbort
  rw [he]
  dsimp only
  split
  · next ha => rw [h, ha]
  · contradiction
  · have hu : (stopUnits (dropKept s id) id).op? id = some e :=
      (op?_congr (ops_of_besideUnits (stopped_besideUnits s id)) id).trans he
    rw [State.phaseOf, op?_updOp_self (fun e => ?_) hu]
    · rfl
    · exact addStat_id ..

/-- The mark of another operation. -/
theorem markAbort_phaseOf_other {i : OpId} (h : id ≠ i) (s : State) : (markAbort s i).phaseOf id = s.phaseOf id := by
  unfold markAbort
  split
  · rfl
  · split
    · rfl
    · rw [State.phaseOf, op?_dropOp_other h, op?_congr (ops_of_besideUnits (dropKept_besideUnits s i)), State.phaseOf]
    · rw [State.phaseOf, State.op?_updOp _ _ _ _ (fun e => ?_), if_neg h,
        op?_congr (ops_of_besideUnits (stopped_besideUnits s i)), State.phaseOf]
      exact addStat_id ..

/-- A mark stays. -/
theorem markAbort_keeps (h : s.phaseOf id = some .aborting) (i : OpId) : (markAbort s i).phaseOf id = some .aborting := by
  by_cases e : id = i
  · subst e
    exact markAbort_marks h (by decide)
  · rw [markAbort_phaseOf_other e, h]

theorem foldl_markAbort_keeps (l : List OpEntry) (h : s.phaseOf id = some .aborting) :
    (l.foldl (fun s e => markAbort s e.id) s).phaseOf id = some .aborting := by
  induction l generalizing s with
  | nil => exact h
  | cons e l ih => exact ih (markAbort_keeps h e.id)

theorem foldl_markAbort_marks {l : List OpEntry} (hm : e ∈ l) (h : s.phaseOf e.id = some e.phase)
    (hp : e.phase ≠ .preempted) :
    (l.foldl (fun s e => markAbort s e.id) s).phaseOf e.id = some .aborting := by
  induction l generalizing s with
  | nil => cases hm
  | cons x l ih =>
    by_cases hx : e.id = x.id
    · have hmark : (markAbort s x.id).phaseOf e.id = some .aborting := by
        rw [← hx]
        exact markAbort_marks h hp
      exact foldl_markAbort_keeps l hmark
    · exact ih ((List.mem_cons.mp hm).resolve_left fun c => hx (congrArg OpEntry.id c))
        ((markAbort_phaseOf_other hx s).trans h)

/-- Every operation that the abandonment of the step aborts is marked. -/
theorem abandonStep_marks {n : Nat} (hop : s.op? e.id = some e) (h : abandoned (BitVec.ofNat 64 n) e = true) :
    (abandonStep s n).phaseOf e.id = some .aborting := by
  have hp : e.phase ≠ .preempted := by
    intro c
    simp [abandoned, c] at h
  have hm : (abortStep s (BitVec.ofNat 64 n)).phaseOf e.id = some .aborting :=
    foldl_markAbort_marks (List.mem_filter.mpr ⟨List.mem_of_find?_eq_some hop, h⟩) (phaseOf_of_op? hop) hp
  unfold abandonStep abortColls
  rw [phaseOf_congr (foldl_keeps State.ops _ _ (by intro s r; rfl) _)]
  exact foldl_markAbort_keeps _ hm

theorem markAbort_pointer (s : State) (i : OpId) : (markAbort s i).pointer = s.pointer := by
  unfold markAbort
  split
  · rfl
  · split
    · rfl
    · exact (congrArg State.pointer (dropKept_besideUnits s i) :)
    · exact (congrArg State.pointer (stopped_besideUnits s i) :)

theorem abandonStep_pointer (s : State) (n : Nat) : (abandonStep s n).pointer = s.pointer := by
  unfold abandonStep abortColls abortStep
  exact (foldl_keeps State.pointer _ _ (by intro s r; rfl) _).trans
    ((foldl_keeps State.pointer _ _ (by intro s e; exact markAbort_pointer s e.id) _).trans
      (foldl_keeps State.pointer _ _ (by intro s e; exact markAbort_pointer s e.id) _))

theorem finishOp_keeps (h : s.phaseOf id = some .aborting) (i : OpId) (st : Nat) :
    (s.finishOp i st).phaseOf id = some .aborting := by
  obtain ⟨y, hy, hp⟩ := phaseOf_eq_some h
  rw [State.phaseOf, State.op?_finishOp]
  split
  · next hi =>
    subst hi
    rw [hy, Option.map_some, OpEntry.finish, hp]
    exact congrArg some hp
  · exact h

theorem endCommit_keeps (h : s.phaseOf id = some .aborting) (st result reason firstNo durable : Nat) :
    (endCommit s st result reason firstNo durable).phaseOf id = some .aborting := by
  unfold endCommit
  split
  · exact h
  · next i _ _ _ =>
    extract_lets s1
    have h1 : s1.phaseOf id = some .aborting := by
      refine finishOp_keeps ?_ i st
      split
      · rw [phaseOf_addStat, h]
      · exact h
    clear_value s1
    refine (phaseOf_updOp ?_ ?_ s1 id).trans h1
    · intro e
      split <;> rfl
    · intro e
      split <;> rfl

theorem endCommit_pointer (s : State) (st result reason firstNo durable : Nat) :
    (endCommit s st result reason firstNo durable).pointer = s.pointer := by
  unfold endCommit
  split
  · rfl
  · dsimp only
    split <;> rfl

/-! ### Results (R359) -/

/-- COMMIT moves the pointer, commits the step and opens the next. -/
theorem applyCommit_pointer (s : State) (step reason firstNo durable : Nat) :
    (applyCommit s step reason firstNo durable).pointer = (1 - s.hrw.current, step, BitVec.ofNat 64 (step + 1)) := by
  unfold applyCommit
  dsimp only
  rw [copyStart_pointer, endCommit_pointer, (openStep_spec ..).1, hrw_of_unsent (commitColls_unsent ..)]
  rfl

/-- ABANDON leaves the pointer and the open step. -/
theorem applyAbandon_pointer {step : Nat} (h : step = s.hub.step.toNat) (recover reason firstNo durable : Nat) :
    (applyAbandon s step recover reason firstNo durable).pointer = s.pointer := by
  have h1 : (endCommit (abandonStep s step) stABANDONED 1 reason firstNo durable).pointer = s.pointer :=
    (endCommit_pointer ..).trans (abandonStep_pointer ..)
  unfold applyAbandon
  extract_lets s1 s2
  have h2 : s2.pointer = s.pointer := h1
  clear_value s2
  split
  · rw [(openStep_spec ..).1, h, BitVec.ofNat_toNat, BitVec.setWidth_eq]
    simp only [State.pointer, Prod.mk.injEq, and_true] at h2 ⊢
    obtain ⟨hcur, hcom, -⟩ := h2
    exact ⟨hcur, hcom⟩
  · exact h2

/-- It aborts the operations of the step. -/
theorem applyAbandon_marks {step : Nat} (hop : s.op? e.id = some e) (h : abandoned (BitVec.ofNat 64 step) e = true)
    (recover reason firstNo durable : Nat) :
    (applyAbandon s step recover reason firstNo durable).phaseOf e.id = some .aborting := by
  have h1 := endCommit_keeps (abandonStep_marks hop h) stABANDONED 1 reason firstNo durable
  unfold applyAbandon
  extract_lets s1 s2
  have h2 : s2.phaseOf e.id = some .aborting := h1
  clear_value s2
  split
  · exact (phaseOf_congr (openStep_spec ..).2 e.id).trans h2
  · exact h2

theorem applyAbandon_recoverWait {recover : Nat} (h : recover ≠ 0) (s : State) (step reason firstNo durable : Nat) :
    (applyAbandon s step recover reason firstNo durable).hrw.recoverWait = true := by
  unfold applyAbandon
  dsimp only
  rw [if_neg h]
  rfl

/-- WITHDRAW moves the pointer back, and the device waits for recovery. -/
theorem applyWithdraw_spec (s : State) (step : Nat) :
    (applyWithdraw s step).pointer = (if step = 0 then s.hrw.current else 1 - s.hrw.current, step - 1, s.hub.step)
      ∧ (applyWithdraw s step).hrw.recoverWait = true := by
  have h1 : (endCommit (abandonStep s (step + 1)) stABANDONED 3 0 (2 ^ 32 - 1) s.hrw.durable).pointer = s.pointer :=
    (endCommit_pointer ..).trans (abandonStep_pointer ..)
  unfold applyWithdraw
  extract_lets lost s1 s2
  refine ⟨?_, rfl⟩
  simp only [State.pointer, Prod.mk.injEq] at h1
  obtain ⟨hc, -, hs⟩ := h1
  change (if step = 0 then s1.hrw.current else 1 - s1.hrw.current, step - 1, s1.hub.step) = _
  rw [hc, hs]

/-! ### Rounds of votes (R358) -/

theorem roundAt_key (s : State) (step phase : Nat) :
    (roundAt s step phase).step = step ∧ (roundAt s step phase).phase = phase := by
  unfold roundAt
  cases h : s.hrw.rounds.find? (isRound step phase) with
  | none => exact ⟨rfl, rfl⟩
  | some x =>
    have hx := List.find?_some h
    simpa [isRound] using hx

theorem roundAt_congr (h : t.hrw = s.hrw) (step phase : Nat) : roundAt t step phase = roundAt s step phase := by
  rw [roundAt, h, roundAt]

theorem roundAt_putRound {x : Round} {step phase : Nat} (hs : x.step = step) (hp : x.phase = phase) (s : State) :
    roundAt (putRound s x) step phase = x := by
  have hnone : (s.hrw.rounds.filter fun y => !isRound step phase y).find? (isRound step phase) = none := by
    rw [List.find?_eq_none]
    intro y hy
    simpa using (List.mem_filter.mp hy).2
  have hx : isRound step phase x = true := by simp [isRound, hs, hp]
  subst hs hp
  rw [roundAt, putRound, State.updHrw_hrw]
  dsimp only
  rw [List.find?_append, hnone, Option.none_or, List.find?_singleton, if_pos hx]
  rfl

/-- While the own vote is missing and no vote is NO, a node has none. -/
theorem nodeVote_eq_none {x : Round} (ho : x.own = none) (hv : (x.votes.all fun v => v.2.1) = true) (s : State) (rank : Nat) :
    nodeVote s rank x = none := by
  have hno : (x.votes.find? fun v => !v.2.1) = none := by
    rw [List.find?_eq_none]
    intro v h
    simp [List.all_eq_true.mp hv v h]
  simp [nodeVote, firstNoOf, ho, hno]

/-- A round in which the device has no vote yet stays. -/
theorem settleRound_eq_self {step phase : Nat} (h : ∀ rank, nodeVote s rank (roundAt s step phase) = none) :
    settleRound s step phase = s := by
  unfold settleRound
  dsimp only
  split
  · rfl
  · split
    · rfl
    · rw [h]

/-- A device with a parent sends it NO. -/
theorem settleRound_no {step phase k reason j : Nat} (hk : ownRank s = some k) (h0 : 0 < k)
    (hs : (roundAt s step phase).sent = false) (hno : firstNoOf k (roundAt s step phase) = some (reason, j)) :
    settleRound s step phase = treeSend (putRound s { roundAt s step phase with sent := true }) (parentOf s.hrw.fanout k) 5
      (voteBody s (roundAt s step phase) false reason j) := by
  unfold settleRound
  simp only [hk, hs, nodeVote, hno, Bool.false_eq_true, if_false, if_neg (Nat.pos_iff_ne_zero.mp h0)]

theorem firstNoOf_isSome {x : Round} (h : (x.votes.any fun v => !v.2.1) = true) (k : Nat) :
    ∃ reason j, firstNoOf k x = some (reason, j) := by
  unfold firstNoOf
  split
  · exact ⟨_, _, rfl⟩
  · obtain ⟨v, hv⟩ := Option.isSome_iff_exists.mp (List.find?_isSome.mpr (List.any_eq_true.mp h))
    exact ⟨_, _, by rw [hv]; rfl⟩

/-- A round with the vote of one more child. -/
def Round.addVote (x : Round) (v : Nat × Bool × Nat × Nat × Nat) : Round := { x with votes := x.votes ++ [v] }

/-- The first vote of a child is noted, and the round goes on as it allows. -/
theorem childVote_eq {step phase rank : Nat} (h : ((roundAt s step phase).votes.any fun v => v.1 == rank) = false)
    (yes : Bool) (reason cov firstNo : Nat) :
    childVote s step phase rank yes reason cov firstNo
      = settleRound (putRound s ((roundAt s step phase).addVote (rank, yes, reason, cov, firstNo))) step phase := by
  unfold childVote
  dsimp only
  rw [h]
  rfl

theorem roundAt_addVote (s : State) (step phase : Nat) (v : Nat × Bool × Nat × Nat × Nat) :
    roundAt (putRound s ((roundAt s step phase).addVote v)) step phase = (roundAt s step phase).addVote v := by
  obtain ⟨hs, hp⟩ := roundAt_key s step phase
  exact roundAt_putRound (by exact hs) (by exact hp) s

/-! ### COMMIT_VOTE -/

/-- The vote of a child for the open step. -/
theorem commitVote_eq {src : Src} {b : List Byte} {rank : Nat} (hz : zeros b 0x18 222 = true) (hcid : fld b 0 4 = s.hrw.cid)
    (hph : fld b 4 1 = 0) (hyes : fld b 5 1 = 1) (hst : fld b 8 8 = s.hub.step.toNat) (hc : s.hrw.configured = true)
    (hr : s.hrw.recoverWait = false) (hu : s.hrw.undecided = false)
    (hrank : (s.hrw.group.findIdx? fun w => memberDev w == src.id) = some rank) (hch : (ownChildren s).contains rank = true) :
    commitVote s src b
      = childVote s s.hub.step.toNat 0 rank true (fld b 6 2) (fld b 0x10 4) (fld b 0x14 4) := by
  unfold commitVote
  simp only [hcid, hph, hyes, hst, hc, hr, hu, hrank, hch, hz, beq_self_eq_true, decide_true, Nat.zero_le,
    Nat.le_refl, Bool.not_false, Bool.and_self, if_true]

/-- A YES, while the own vote is missing and no vote is NO, is noted and does nothing else. -/
theorem childVote_waits {step phase rank reason cov firstNo : Nat} (ho : (roundAt s step phase).own = none)
    (hv : ((roundAt s step phase).votes.all fun v => v.2.1) = true)
    (h : ((roundAt s step phase).votes.any fun v => v.1 == rank) = false) :
    childVote s step phase rank true reason cov firstNo
      = putRound s ((roundAt s step phase).addVote (rank, true, reason, cov, firstNo)) := by
  rw [childVote_eq h]
  refine settleRound_eq_self fun k => ?_
  rw [roundAt_addVote]
  exact nodeVote_eq_none (x := (roundAt s step phase).addVote (rank, true, reason, cov, firstNo)) ho
    (by simp [Round.addVote, hv]) _ k

/-! ### COMMIT_RESULT -/

theorem resultIn_eq {b : List Byte} (hb : bridleBodyOk 6 b = true) (hcid : fld b 0 4 = s.hrw.cid)
    (hl : resultLive s (fld b 4 1) (fld b 8 8) = true) :
    resultIn s b = passResult (takeBridle s (commitRegion s) 6 b) (fld b 4 1) (fld b 5 1) (fld b 6 2) (fld b 8 8) (fld b 0x10 4)
      (fld b 0x14 4) := by
  have hz : zeros b 0x18 222 = true := hb
  have hl' : resultLive (takeBridle s (commitRegion s) 6 b) (fld b 4 1) (fld b 8 8) = true := hl
  have hcid' : (fld b 0 4 == (takeBridle s (commitRegion s) 6 b).hrw.cid) = true := beq_iff_eq.mpr hcid
  rw [resultIn, if_pos hb, commitResult, if_pos (by rw [hcid', hl', hz]; rfl)]

/-- Of a result of the commit round, the step is the open one. -/
theorem step_of_resultLive {result step : Nat} (h : resultLive s result step = true) (hr : result ≤ 1) :
    step = s.hub.step.toNat := by
  simp only [resultLive, hr, if_true, Bool.and_eq_true, decide_eq_true_eq] at h
  exact h.2

/-- A result that is in order is applied, on a state that differs by messages only. -/
theorem resultIn_applies {b : List Byte} (hb : bridleBodyOk 6 b = true) (hcid : fld b 0 4 = s.hrw.cid)
    (hl : resultLive s (fld b 4 1) (fld b 8 8) = true) :
    ∃ u, u.unsent = s.unsent ∧ resultIn s b = applyResult u (fld b 4 1) (fld b 5 1) (fld b 6 2) (fld b 8 8) (fld b 0x10 4)
      (fld b 0x14 4) := by
  obtain ⟨u, hu, heq⟩ := passResult_eq (takeBridle s (commitRegion s) 6 b) (fld b 4 1) (fld b 5 1) (fld b 6 2) (fld b 8 8)
    (fld b 0x10 4) (fld b 0x14 4)
  exact ⟨u, hu, (resultIn_eq hb hcid hl).trans heq⟩

theorem applyResult_commit (s : State) (recover reason step durable firstNo : Nat) :
    applyResult s 0 recover reason step durable firstNo = applyCommit s step reason firstNo durable := rfl

theorem applyResult_abandon (s : State) (recover reason step durable firstNo : Nat) :
    applyResult s 1 recover reason step durable firstNo = applyAbandon s step recover reason firstNo durable := rfl

theorem applyResult_durable (s : State) (recover reason step durable firstNo : Nat) :
    (applyResult s 2 recover reason step durable firstNo).pointer = s.pointer
      ∧ (applyResult s 2 recover reason step durable firstNo).hrw.durable = step
      ∧ (applyResult s 2 recover reason step durable firstNo).hrw.hasDurable = true := ⟨rfl, rfl, rfl⟩

theorem applyResult_withdraw (s : State) (recover reason step durable firstNo : Nat) :
    applyResult s 3 recover reason step durable firstNo = applyWithdraw s step := rfl

section
variable {b : List Byte} (hb : bridleBodyOk 6 b = true) (hcid : fld b 0 4 = s.hrw.cid)
  (hl : resultLive s (fld b 4 1) (fld b 8 8) = true)
include hb hcid hl

/-- COMMIT moves the pointer, commits the open step and opens the next. -/
theorem resultIn_commit (h : fld b 4 1 = 0) :
    (resultIn s b).pointer = (1 - s.hrw.current, fld b 8 8, s.hub.step + 1) := by
  obtain ⟨u, hu, heq⟩ := resultIn_applies hb hcid hl
  have hst := step_of_resultLive hl (by omega)
  have hnext : BitVec.ofNat 64 (fld b 8 8 + 1) = s.hub.step + 1 := by
    rw [hst, BitVec.ofNat_add, BitVec.ofNat_toNat, BitVec.setWidth_eq]
    rfl
  rw [heq, h, applyResult_commit, applyCommit_pointer, hrw_of_unsent hu, hnext]

/-- ABANDON leaves the pointer and the steps, and the operations of the open step abort. -/
theorem resultIn_abandon (h : fld b 4 1 = 1) :
    (resultIn s b).pointer = s.pointer ∧ (fld b 5 1 ≠ 0 → (resultIn s b).hrw.recoverWait = true)
      ∧ ∀ id x, s.op? id = some x → abandoned s.hub.step x = true → (resultIn s b).phaseOf id = some .aborting := by
  obtain ⟨u, hu, heq⟩ := resultIn_applies hb hcid hl
  have hst := step_of_resultLive hl (by omega)
  have hopen : BitVec.ofNat 64 (fld b 8 8) = s.hub.step := by rw [hst, BitVec.ofNat_toNat, BitVec.setWidth_eq]
  rw [heq, h, applyResult_abandon]
  refine ⟨(applyAbandon_pointer (by rw [hub_of_unsent hu, hst]) ..).trans (pointer_of_unsent hu),
    fun hrec => applyAbandon_recoverWait hrec .., fun id x hx ha => ?_⟩
  have hid : x.id = id := by simpa using List.find?_some hx
  subst hid
  exact applyAbandon_marks ((op?_congr (ops_of_unsent hu) _).trans hx) (hopen ▸ ha) ..

/-- DURABLE makes the step durable, and nothing is written but what the messages write. -/
theorem resultIn_durable (h : fld b 4 1 = 2) :
    (resultIn s b).pointer = s.pointer ∧ (resultIn s b).hrw.durable = fld b 8 8 ∧ (resultIn s b).hrw.hasDurable = true
      ∧ OnlyBytes (retryRanges s) s (resultIn s b) := by
  obtain ⟨u, hu, heq⟩ := resultIn_applies hb hcid hl
  have hsends : Sends s (resultIn s b) := by
    rw [resultIn_eq hb hcid hl]
    have htake : Sends s (takeBridle s (commitRegion s) 6 b) := .of_media rfl
    exact htake.trans (.passResult h.ge ..)
  obtain ⟨hptr, hdur, hhas⟩ := applyResult_durable u (fld b 5 1) (fld b 6 2) (fld b 8 8) (fld b 0x10 4) (fld b 0x14 4)
  rw [h] at heq
  rw [← heq] at hptr hdur hhas
  exact ⟨hptr.trans (pointer_of_unsent hu), hdur, hhas, hsends.onlyBytes⟩

/-- WITHDRAW moves the pointer back from the step, and the device waits for recovery. -/
theorem resultIn_withdraw (h : fld b 4 1 = 3) :
    (resultIn s b).pointer = (if fld b 8 8 = 0 then s.hrw.current else 1 - s.hrw.current, fld b 8 8 - 1, s.hub.step)
      ∧ (resultIn s b).hrw.recoverWait = true := by
  obtain ⟨u, hu, heq⟩ := resultIn_applies hb hcid hl
  rw [heq, h, applyResult_withdraw, ← hrw_of_unsent hu, ← hub_of_unsent hu]
  exact applyWithdraw_spec u (fld b 8 8)

end

/-! ### COMMIT_VOTE as it comes in -/

/-- The first YES of a child for the open step, while the own vote is missing and no vote is NO: it is taken and noted. -/
theorem voteIn_noted {src : Src} {b : List Byte} {rank : Nat} (hb : bridleBodyOk 5 b = true) (hcid : fld b 0 4 = s.hrw.cid)
    (hph : fld b 4 1 = 0) (hyes : fld b 5 1 = 1) (hst : fld b 8 8 = s.hub.step.toNat) (hc : s.hrw.configured = true)
    (hr : s.hrw.recoverWait = false) (hu : s.hrw.undecided = false)
    (hrank : (s.hrw.group.findIdx? fun w => memberDev w == src.id) = some rank) (hch : (ownChildren s).contains rank = true)
    (ho : (roundAt s s.hub.step.toNat 0).own = none) (hv : ((roundAt s s.hub.step.toNat 0).votes.all fun v => v.2.1) = true)
    (hfirst : ((roundAt s s.hub.step.toNat 0).votes.any fun v => v.1 == rank) = false) :
    voteIn s src b = putRound (takeBridle s (commitRegion s) 5 b)
      ((roundAt s s.hub.step.toNat 0).addVote (rank, true, fld b 6 2, fld b 0x10 4, fld b 0x14 4)) := by
  rw [voteIn, if_pos hb]
  exact (commitVote_eq (s := takeBridle s (commitRegion s) 5 b) hb hcid hph hyes hst hc hr hu hrank hch).trans
    (childVote_waits (s := takeBridle s (commitRegion s) 5 b) ho hv hfirst)

/-! ### VOTE_TIMEOUT -/

/-- The open step's round after the time of a child's vote ran out. -/
def timedOut (s : State) (rank : Nat) : Round := (roundAt s s.hub.step.toNat 0).addVote (rank, false, 4, 0, rank)

/-- The time of a child's vote for the open step runs out on a device with a parent: the child counts as NO, and the vote
goes up. -/
theorem voteTimeout_eq {rank k : Nat} (hc : s.hrw.configured = true) (hr : s.hrw.recoverWait = false)
    (hch : (ownChildren s).contains rank = true) (hopen : (openRound s).2 = 0) (hk : ownRank s = some k) (h0 : 0 < k)
    (hvote : (roundAt s s.hub.step.toNat 0).own ≠ none ∨ (roundAt s s.hub.step.toNat 0).votes ≠ [])
    (hsent : (roundAt s s.hub.step.toNat 0).sent = false)
    (hfirst : ((roundAt s s.hub.step.toNat 0).votes.any fun v => v.1 == rank) = false) :
    ∃ dst body, voteTimeout s rank
      = treeSend (putRound (putRound s (timedOut s rank)) { timedOut s rank with sent := true }) dst 5 body := by
  have hgo : ((roundAt s s.hub.step.toNat 0).own.isSome || !(roundAt s s.hub.step.toNat 0).votes.isEmpty) = true := by
    simpa [Option.isSome_iff_ne_none] using hvote
  have hstart : voteTimeout s rank = childVote s s.hub.step.toNat 0 rank false 4 0 rank := by
    unfold voteTimeout
    simp [hc, hr, hopen, hsent, List.contains_iff_mem.mp hch, hgo]
  obtain ⟨reason, j, hno⟩ := firstNoOf_isSome (x := timedOut s rank) (by simp [timedOut, Round.addVote]) k
  have hx : roundAt (putRound s (timedOut s rank)) s.hub.step.toNat 0 = timedOut s rank := roundAt_addVote ..
  have hup := settleRound_no (s := putRound s (timedOut s rank)) (step := s.hub.step.toNat) (phase := 0) hk h0
    (by rw [hx]; exact hsent) (by rw [hx]; exact hno)
  rw [hx] at hup
  exact ⟨_, _, hstart.trans ((childVote_eq hfirst ..).trans hup)⟩

/-! ### RESULT_TIMEOUT -/

/-- With no answer the device is undecided; the pointer and memory stay. -/
theorem resultTimeout_none (hc : s.hrw.configured = true) (hs : s.hrw.rounds.any Round.sent = true)
    (hu : s.hrw.undecided = false) (hr : s.hrw.recoverWait = false) :
    (resultTimeout s none).hrw.undecided = true ∧ (resultTimeout s none).hrw.current = s.hrw.current
      ∧ (resultTimeout s none).mem = s.mem := by
  have hcur : (askRoot s).hrw.current = s.hrw.current := congrArg Hrw.current (hrw_of_unsent (askRoot_unsent s))
  have hmem := askRoot_mem s
  unfold resultTimeout
  rw [if_neg (by simp [hc, hs, hu, hr])]
  dsimp only
  split
  · refine ⟨rfl, Eq.trans ?_ hcur, Eq.trans ?_ hmem⟩ <;> split <;> rfl
  · exact ⟨rfl, hcur, hmem⟩

/-- A status that an operation has stays. -/
theorem mem_addStat_of_mem {st : Nat} (h : st ∈ e.stats) (st' : Nat) : st ∈ (e.addStat st').stats := by
  unfold OpEntry.addStat
  split
  · exact h
  · exact List.mem_append_left _ h

/-- It ends the commit that runs with CONTROL_TIMEOUT. -/
theorem resultTimeout_ends {a b : Nat} (hc : s.hrw.configured = true) (hs : s.hrw.rounds.any Round.sent = true)
    (hu : s.hrw.undecided = false) (hr : s.hrw.recoverWait = false) (hcom : s.hrw.commit = some (e.id, a, b))
    (hop : s.op? e.id = some e) (hp : e.phase = .running) :
    (resultTimeout s none).hrw.commit = none ∧ ∃ y, (resultTimeout s none).op? e.id = some y ∧ y.phase = .finished
      ∧ stTIMEOUT ∈ y.stats ∧ (s.hrw.correlated = true → stCORRELATED ∈ y.stats) := by
  have hhrw := hrw_of_unsent (askRoot_unsent s)
  have hop' : (askRoot s).op? e.id = some e := (op?_congr (ops_of_unsent (askRoot_unsent s)) _).trans hop
  unfold resultTimeout
  rw [if_neg (by simp [hc, hs, hu, hr])]
  dsimp only
  rw [hhrw, hcom]
  refine ⟨rfl, ?_⟩
  dsimp only
  by_cases hcor : s.hrw.correlated = true
  · have hadd : ((askRoot s).addStat e.id stCORRELATED).op? e.id = some (e.addStat stCORRELATED) :=
      op?_updOp_self (addStat_id _) hop'
    have hend := op?_finishOp_self stTIMEOUT hadd (by rw [addStat_phase, hp]; decide)
    rw [if_pos hcor]
    exact ⟨_, hend, rfl, mem_addStat _ _ (by decide), fun _ => mem_addStat_of_mem (mem_addStat _ _ (by decide)) _⟩
  · have hend := op?_finishOp_self stTIMEOUT hop' (by rw [hp]; decide)
    rw [if_neg hcor]
    exact ⟨_, hend, rfl, mem_addStat _ _ (by decide), fun h => absurd h hcor⟩

/-- Settles O46: each clause is what its function leaves. A YES that closes no round is only noted; a result is applied to a
state that differs by messages alone; the time of a vote gives a NO that goes up; and a device without a result keeps its
pointer. -/
theorem commitTree : Obligations.CommitTree := by
  unfold Obligations.CommitTree
  intro s
  refine ⟨?_, ?_, ?_, ?_⟩
  · intro src b rank hb hcid hph hyes hst hc hr hu hrank hch x ho hv hfirst
    refine ⟨_, congrArg Host.Outcome.next (voteIn_noted hb hcid hph hyes hst hc hr hu hrank hch ho hv hfirst), rfl, rfl, ?_⟩
    exact roundAt_addVote (takeBridle s (commitRegion s) 5 b) ..
  · intro b hb hcid hl step
    refine ⟨resultIn s b, rfl, fun h => ?_, fun h => ?_, fun h => ?_, fun h => ?_⟩
    · simpa only [State.pointer, Prod.mk.injEq] using resultIn_commit hb hcid hl h
    · obtain ⟨hptr, hrec, hops⟩ := resultIn_abandon hb hcid hl h
      simp only [State.pointer, Prod.mk.injEq] at hptr
      exact ⟨hptr.1, hptr.2.1, hptr.2.2, hrec, fun id x hx ha => phaseOf_eq_some (hops id x hx ha)⟩
    · obtain ⟨hptr, hdur, hhas, hbytes⟩ := resultIn_durable hb hcid hl h
      simp only [State.pointer, Prod.mk.injEq] at hptr
      exact ⟨hdur, hhas, hptr.1, hptr.2.2, hbytes⟩
    · obtain ⟨hptr, hrec⟩ := resultIn_withdraw hb hcid hl h
      simp only [State.pointer, Prod.mk.injEq] at hptr
      exact ⟨hrec, hptr.2.1, hptr.2.2, hptr.1⟩
  · intro rank k hc hr hch hopen hk h0 x hvote hsent hfirst
    obtain ⟨dst, body, heq⟩ := voteTimeout_eq hc hr hch hopen hk h0 hvote hsent hfirst
    obtain ⟨hst, hph⟩ := roundAt_key s s.hub.step.toNat 0
    have hround := (roundAt_congr (hrw_of_unsent (treeSend_unsent _ dst 5 body)) ..).trans
      (roundAt_putRound (x := { timedOut s rank with sent := true }) hst hph (putRound s (timedOut s rank)))
    refine ⟨_, congrArg Host.Outcome.next heq, ?_, ?_, ?_, ?_⟩
    · exact (((Sends.putRound s _).trans (.putRound _ _)).trans (.treeSend ..)).onlyBytes
    · exact (ops_of_unsent (treeSend_unsent ..) :)
    · rw [hround]; rfl
    · rw [hround]
  · intro hc hs hu hr
    obtain ⟨hund, hcur, hmem⟩ := resultTimeout_none hc hs hu hr
    exact ⟨resultTimeout s none, rfl, hund, hcur, hmem, fun e a b hcom hop hp => resultTimeout_ends hc hs hu hr hcom hop hp⟩

end Sys2Proof.Machine
end

section
/-! SUPPORT. What a message on its way leaves as it is: of each link all but its output queues and its tunnels' windows, and
of each region all but what has come to it, which only grows (R314, R316, R338). -/

namespace Sys2Proof.Machine

variable {s t u : State}

/-! ### What lasts -/

/-- What no message on its way changes of a link: all but the output queues, the credits that it owes, the flits that its
input buffer holds, and the numbering and windows of its tunnels. -/
def Link.lasting (k : Link) : Link × (Nat → List Byte × Nat × Bool) :=
  ({ k with txq := [], bridleWait := [], offers := [], bridleMax := 0, owed := [], inbuf := [], tunnels := [] },
    fun t => ((k.tunnel t).entry, (k.tunnel t).rxNext, (k.tunnel t).fenced))

/-- What none changes of a region: all but its queue of messages that have come and its record of Bridle messages sent. -/
def Region.lasting (g : Region) : Region := { g with mtag := 0, bridles := [], inbox := [] }

/-- The rest of the device, beside the operations. -/
def State.beyond (s : State) : State := { s.unsent with ops := [] }

/-- Messages of `s` have gone on their way, and `t` is what they leave. -/
structure Mails (s t : State) : Prop where
  link : ∀ l, (t.link l).lasting = (s.link l).lasting
  region : ∀ r, (t.region r).lasting = (s.region r).lasting
  inbox : ∀ r, (s.region r).inbox <+: (t.region r).inbox
  beyond : t.beyond = s.beyond

theorem beyond_of_unsent (h : t.unsent = s.unsent) : t.beyond = s.beyond :=
  congrArg (fun u : State => { u with ops := [] }) h

theorem Mails.refl (s : State) : Mails s s := ⟨fun _ => rfl, fun _ => rfl, fun _ => List.prefix_refl _, rfl⟩

theorem Mails.trans (h : Mails s t) (k : Mails t u) : Mails s u where
  link l := (k.link l).trans (h.link l)
  region r := (k.region r).trans (h.region r)
  inbox r := (h.inbox r).trans (k.inbox r)
  beyond := k.beyond.trans h.beyond

theorem Mails.either {c : Prop} [Decidable c] (ht : Mails s t) (hu : Mails s u) : Mails s (if c then t else u) := by
  split
  · exact ht
  · exact hu

theorem Mails.foldl {α : Type} (l : List α) {f : State → α → State} (hf : ∀ s x, Mails s (f s x)) (s : State) :
    Mails s (l.foldl f s) := by
  induction l generalizing s with
  | nil => exact .refl s
  | cons a t ih => exact (hf s a).trans (ih _)

theorem region_congr (h : t.regions = s.regions) (r : Nat) : t.region r = s.region r := by simp only [State.region, h]

/-- Neither links nor regions change. -/
theorem Mails.of_same (hl : t.links = s.links) (hr : t.regions = s.regions) (hb : t.beyond = s.beyond) : Mails s t where
  link l := by rw [link_congr hl]
  region r := by rw [region_congr hr]
  inbox r := by rw [region_congr hr]
  beyond := hb

theorem Mails.updLink {l : Nat} {f : Link → Link} (h : (f (s.link l)).lasting = (s.link l).lasting) :
    Mails s (s.updLink l f) where
  link i := by
    rw [State.link_updLink]
    split
    · next e => rw [h, e]
    · rfl
  region _ := rfl
  inbox _ := List.prefix_refl _
  beyond := rfl

theorem Mails.updRegion {r : Nat} {f : Region → Region} (h : (f (s.region r)).lasting = (s.region r).lasting)
    (hi : (s.region r).inbox <+: (f (s.region r)).inbox) : Mails s (s.updRegion r f) where
  link _ := rfl
  region i := by
    rw [State.region_updRegion]
    split
    · next e => rw [h, e]
    · rfl
  inbox i := by
    rw [State.region_updRegion]
    split
    · next e => rw [e]; exact hi
    · exact List.prefix_refl _
  beyond := rfl

/-! ### What lasts, read off -/

theorem Mails.hub (h : Mails s t) : t.hub = s.hub := (congrArg State.hub h.beyond :)
theorem Mails.mbx (h : Mails s t) : t.mbx = s.mbx := (congrArg State.mbx h.beyond :)
theorem Mails.ringDown (h : Mails s t) : t.ringDown = s.ringDown := (congrArg State.ringDown h.beyond :)

/-- A field that no message changes. -/
theorem Mails.link_proj {β : Type} (h : Mails s t) (l : Nat) (f : Link → β)
    (hf : ∀ k, f k = f k.lasting.1) : f (t.link l) = f (s.link l) := by
  rw [hf, h.link, ← hf]

theorem Mails.tunnel (h : Mails s t) (l tn : Nat) :
    ((t.link l).tunnel tn).entry = ((s.link l).tunnel tn).entry ∧ ((t.link l).tunnel tn).rxNext = ((s.link l).tunnel tn).rxNext
      ∧ ((t.link l).tunnel tn).fenced = ((s.link l).tunnel tn).fenced := by
  have ht := congrFun (congrArg Prod.snd (h.link l)) tn
  exact ⟨congrArg Prod.fst ht, congrArg (fun x => x.2.1) ht, congrArg (fun x => x.2.2) ht⟩

theorem Mails.region_proj {β : Type} (h : Mails s t) (r : Nat) (f : Region → β)
    (hf : ∀ g, f g = f g.lasting) : f (t.region r) = f (s.region r) := by
  rw [hf, h.region, ← hf]

theorem Mails.cycle (h : Mails s t) (r : Nat) : (t.region r).cycle = (s.region r).cycle :=
  h.region_proj r Region.cycle fun _ => rfl

/-! ### Tunnels and queues -/

theorem tunnel_updTunnel (k : Link) (i j : Nat) (f : Tunnel → Tunnel) :
    (k.updTunnel i f).tunnel j = if j = i then f (k.tunnel i) else k.tunnel j := fget_fset ..

/-- A tunnel's window and queue may change. -/
theorem updTunnel_lasting (k : Link) (i : Nat) {f : Tunnel → Tunnel} (he : (f (k.tunnel i)).entry = (k.tunnel i).entry)
    (hr : (f (k.tunnel i)).rxNext = (k.tunnel i).rxNext) (hf : (f (k.tunnel i)).fenced = (k.tunnel i).fenced) :
    (k.updTunnel i f).lasting = k.lasting := by
  refine Prod.ext rfl (funext fun j => ?_)
  change (((k.updTunnel i f).tunnel j).entry, ((k.updTunnel i f).tunnel j).rxNext, ((k.updTunnel i f).tunnel j).fenced) = _
  rw [tunnel_updTunnel]
  split
  · next e => rw [e, he, hr, hf]; rfl
  · rfl

theorem Mails.updTunnel {l i : Nat} {f : Tunnel → Tunnel}
    (he : (f ((s.link l).tunnel i)).entry = ((s.link l).tunnel i).entry)
    (hr : (f ((s.link l).tunnel i)).rxNext = ((s.link l).tunnel i).rxNext)
    (hf : (f ((s.link l).tunnel i)).fenced = ((s.link l).tunnel i).fenced) :
    Mails s (s.updLink l fun k => k.updTunnel i f) := .updLink (updTunnel_lasting _ i he hr hf)

theorem owe_lasting (key n : Nat) (k : Link) : (owe key n k).lasting = k.lasting := by
  unfold owe
  split <;> rfl

theorem offerOne_lasting (now : DWord) (k : Link) : (offerOne now k).lasting = k.lasting := by
  unfold offerOne
  split <;> rfl

theorem offerBridle_lasting (now : DWord) (k : Link) : (offerBridle now k).lasting = k.lasting :=
  foldl_keeps Link.lasting _ _ (fun k _ => offerOne_lasting now k) k

theorem enqueue_lasting (now : DWord) (fs : List TxFlit) (k : Link) : (enqueue now fs k).lasting = k.lasting := by
  unfold enqueue
  split
  · exact offerBridle_lasting now _
  · rfl

/-! ### Every way by which a message goes -/

theorem Mails.leaves (s : State) (f : TxFlit) : Mails s (leaves s f) := by
  unfold Machine.leaves
  split
  · exact .updLink (owe_lasting ..)
  · exact .refl s

theorem Mails.shipped (s : State) (f : TxFlit) : Mails s (shipped s f) := by
  unfold Machine.shipped
  split <;> exact .of_same rfl rfl rfl

theorem memWrite_regions (s : State) (a : Nat) (bs : List Byte) : (memWrite s a bs).regions = s.regions :=
  (congrArg State.regions (memWrite_frame s a bs) :)

theorem Mails.memWrite (s : State) (a : Nat) (bs : List Byte) : Mails s (memWrite s a bs) :=
  .of_same (memWrite_links ..) (memWrite_regions ..) (beyond_of_unsent (memWrite_unsent ..))

theorem Mails.keepFlits (s : State) (l t n : Nat) (fs : List (List Byte)) : Mails s (keepFlits s l t n fs) := by
  refine .foldl _ (fun s x => ?_) s
  dsimp only
  split
  · exact .refl s
  · exact .memWrite ..

theorem Mails.tunnelOut (s : State) (l t seq : Nat) (fs : List (List Byte)) : Mails s (tunnelOut s l t seq fs) :=
  .of_same rfl rfl rfl

theorem Mails.tunnelPut (s : State) (l t : Nat) (fs : List TxFlit) : Mails s (tunnelPut s l t fs) := by
  unfold Machine.tunnelPut
  dsimp only
  refine Mails.trans ?_ (Mails.trans (.keepFlits _ l t _ _) (.trans (.tunnelOut _ _ _ _ _)
    (.foldl _ (fun s f => (Mails.leaves s f).trans (.shipped _ f)) _)))
  exact .updTunnel rfl rfl rfl

theorem Mails.tunnelSend (s : State) (l t : Nat) (fs : List TxFlit) : Mails s (tunnelSend s l t fs) := by
  unfold Machine.tunnelSend
  dsimp only
  split
  · exact .tunnelPut ..
  · exact .updTunnel rfl rfl rfl

theorem Mails.sendFlits (s : State) (k p t : Nat) (fs : List TxFlit) : Mails s (sendFlits s k p t fs) := by
  unfold Machine.sendFlits
  split
  · exact .updLink (enqueue_lasting ..)
  · exact .tunnelSend ..

theorem Mails.forwardNoted {r cls : Nat} {op : Option OpId} {x : Option Shipment} {m : Msg}
    (h : forwardNoted s r cls op x m = some t) : Mails s t := by
  unfold Machine.forwardNoted at h
  split at h
  · cases h; exact .sendFlits ..
  · cases h

theorem Mails.deliver (s : State) (r : Nat) (d : Deliver) : Mails s (deliver s r d) :=
  .updRegion rfl (List.prefix_append ..)

theorem Mails.opLinkDown (s : State) (op : Option OpId) : Mails s (opLinkDown s op) := by
  unfold Machine.opLinkDown
  split
  · split
    · split <;> exact .of_same rfl rfl rfl
    · exact .refl s
  · exact .refl s

theorem Mails.sendOob (s : State) (dev typ : Nat) (body : List Byte) : Mails s (sendOob s dev typ body).1 := by
  unfold Machine.sendOob
  split
  · exact .of_same rfl rfl rfl
  · exact .refl s

theorem Mails.sendBridle (s : State) (r : Nat) (op : Option OpId) (dev region typ : Nat) (body : List Byte) :
    Mails s (sendBridle s r op dev region typ body).1 := by
  have htag : Mails s (takeTag s r).2 :=
    .updRegion (f := fun g => { g with mtag := (g.mtag + 1) % 4095 }) rfl (List.prefix_refl _)
  unfold Machine.sendBridle
  dsimp only
  split
  · split
    · exact .deliver ..
    · exact .refl s
  · split
    · next h =>
      refine (htag.trans (.forwardNoted h)).trans ?_
      dsimp only
      exact .updRegion rfl (List.prefix_refl _)
    · exact .refl s

theorem Mails.reachBridle (s : State) (r : Nat) (op : Option OpId) (dev region typ : Nat) (body : List Byte) :
    Mails s (reachBridle s r op dev region typ body).1 := by
  unfold Machine.reachBridle
  split
  · next h => have := Mails.sendBridle s r op dev region typ body; rwa [h] at this
  · exact .sendOob ..

theorem Mails.transit (s : State) (r cls : Nat) (m : Msg) (fs : List TxFlit) : Mails s (transit s r cls m fs) := by
  unfold Machine.transit
  split
  · exact .sendFlits ..
  · have hl := Mails.foldl fs (fun s f => Mails.leaves s f) s
    dsimp only
    split
    · exact hl
    · exact hl.trans (.reachBridle ..)

/-! ### What a Bridle message leaves of the operations -/

theorem reachBridle_unsent (s : State) (r : Nat) (op : Option OpId) (dev region typ : Nat) (body : List Byte) :
    (reachBridle s r op dev region typ body).1.unsent = s.unsent := by
  unfold reachBridle
  split
  · next h => exact (congrArg (fun x => x.1.unsent) h.symm).trans (sendBridle_unsent ..)
  · exact sendOob_unsent ..

/-! ### Routes depend on little of a link -/

/-- What a route depends on: whether each link is up and in which mode, which of its tunnels are valid, the ring, and the
route tables and fences of the regions. -/
def State.roads (s : State) : (Nat → Nat × Nat × (Nat → Bool)) × FMap Bool × (Nat → FMap Nat × DWord) :=
  (fun l => ((s.link l).st, (s.link l).mode, fun t => ((s.link l).tunnel t).valid), s.ringDown,
    fun r => ((s.region r).routes, (s.region r).fence))

theorem ringJoins_of_ringDown (h : t.ringDown = s.ringDown) (a b : Nat) : ringJoins t a b = ringJoins s a b := by
  have hu (k : Nat) : ringUp t k = ringUp s k := by simp only [ringUp, h]
  simp only [ringJoins, ringPath, ringHops, hu]

theorem linkUp_of_roads (h : t.roads = s.roads) (l mode : Nat) : linkUp t l mode = linkUp s l mode := by
  have hst : (t.link l).st = (s.link l).st := congrArg (fun w => (w.1 l).1) h
  have hm : (t.link l).mode = (s.link l).mode := congrArg (fun w => (w.1 l).2.1) h
  have hf (r : Nat) : (t.region r).fence = (s.region r).fence := congrArg (fun w => (w.2.2 r).2) h
  simp only [linkUp, fencedLink, fencedRegion, hst, hm, hf]

theorem portUsable_of_roads (h : t.roads = s.roads) (r port tn : Nat) : portUsable t r port tn = portUsable s r port tn := by
  have hv (l : Nat) : ((t.link l).tunnel tn).valid = ((s.link l).tunnel tn).valid := congrArg (fun w => (w.1 l).2.2 tn) h
  have hr : t.ringDown = s.ringDown := congrArg (fun w => w.2.1) h
  simp only [portUsable, linkUp_of_roads h, ringJoins_of_ringDown hr, hv]

theorem pathFrom_of_roads (h : t.roads = s.roads) (n r dev cls : Nat) : pathFrom n t r dev cls = pathFrom n s r dev cls := by
  have hw (r : Nat) : (t.region r).routes = (s.region r).routes := congrArg (fun w => (w.2.2 r).1) h
  have hroute (r cls : Nat) : routeOf t r dev cls = routeOf s r dev cls := by
    simp only [routeOf, routeWord, portUsable_of_roads h, hw]
    rfl
  induction n generalizing r cls with
  | zero => rfl
  | succ n ih => simp only [pathFrom, hroute, ih]

/-- An update of a link that leaves it up or down, in its mode, with its tunnels. -/
theorem roads_updLink {l : Nat} {f : Link → Link} (h : ((f (s.link l)).st, (f (s.link l)).mode, (f (s.link l)).tunnels)
    = ((s.link l).st, (s.link l).mode, (s.link l).tunnels)) : (s.updLink l f).roads = s.roads := by
  simp only [Prod.mk.injEq] at h
  obtain ⟨hst, hm, ht⟩ := h
  refine Prod.ext (funext fun i => ?_) rfl
  change (((s.updLink l f).link i).st, ((s.updLink l f).link i).mode, fun t => (((s.updLink l f).link i).tunnel t).valid) = _
  rw [State.link_updLink]
  split
  · next e => simp only [e, hst, hm, Link.tunnel, ht]; rfl
  · rfl

end Sys2Proof.Machine
end

section
/-! SUPPORT. Flits of a native link: acceptance, discard, re-send and transmission (R314 to R322, R330). -/

namespace Sys2Proof.Machine

variable {s t : State} {l : Nat} {flit : List Byte}

/-! ### What a flit changes of its link -/

/-- An update that leaves a link's mode, tunnels and retry area as they are moves no byte. -/
theorem Sends.updLink_area {f : Link → Link} (h : (f (s.link l)).area = (s.link l).area) (hst : (s.link l).st ≠ 4) :
    Sends s (s.updLink l f) := by
  simp only [Link.area, Prod.mk.injEq] at h
  obtain ⟨hm, ha, ht, hs⟩ := h
  exact .updLink (fun hk => by unfold Link.keeps at *; rw [hm, ht] at hk; exact ⟨hk, ha⟩) hs fun e => absurd e hst

/-- The ACK and the credits of a header touch the retry buffer and the credits alone. -/
theorem headerIn_frame (h : LinkHead) (k : Link) : headerIn h k
    = { k with retry := (headerIn h k).retry, resend := (headerIn h k).resend, resv := (headerIn h k).resv,
               shared := (headerIn h k).shared } := by
  unfold headerIn creditBack ackRetry
  split <;> rfl

/-- A link from which something has come. -/
def Link.heardAt (now : DWord) (k : Link) : Link := { k with lastRx := now, unresponsive := false }

theorem heard_eq (s : State) (l : Nat) : heard s l = s.updLink l (Link.heardAt (s.region (l / 6)).cycle) := rfl

theorem heard_link (s : State) (l : Nat) : (heard s l).link l = (s.link l).heardAt (s.region (l / 6)).cycle :=
  link_updLink_same s l _

/-- What an ACK leaves in the retry buffer. -/
theorem headerIn_retry (h : LinkHead) (k : Link) : (headerIn h k).retry
    = ((k.retry.findIdx? fun x => x.1 == h.ack).map fun i => k.retry.drop (i + 1)).getD k.retry := by
  change (ackRetry h.ack k).retry = _
  unfold ackRetry
  split <;> next e => rw [e]; rfl

theorem headerIn_heardAt_retry (h : LinkHead) (now : DWord) (k : Link) :
    (headerIn h (k.heardAt now)).retry = (headerIn h k).retry := by
  rw [headerIn_retry, headerIn_retry]
  rfl

/-- A data flit that is next in order has been taken, and lies in the input buffer. -/
def Link.takesData (h : LinkHead) (k : Link) : Link :=
  let key := 2 * h.vc + h.cls
  let k' := headerIn h { k.bump 0x10 1 with rxLast := h.seq, discarding := false }
  { k' with inbuf := fset 0 k'.inbuf key (fget 0 k'.inbuf key + 1) }

/-- The state of the device then. -/
def dataTaken (s : State) (l : Nat) (h : LinkHead) : State :=
  let key := 2 * h.vc + h.cls
  ((heard s l).updLink l fun k => headerIn h { k.bump 0x10 1 with rxLast := h.seq, discarding := false }).updLink l
    fun k => { k with inbuf := fset 0 k.inbuf key (fget 0 k.inbuf key + 1) }

theorem dataTaken_link (s : State) (l : Nat) (h : LinkHead) :
    (dataTaken s l h).link l = ((s.link l).heardAt (s.region (l / 6)).cycle).takesData h := by
  rw [dataTaken, link_updLink_same, link_updLink_same, heard_link]
  rfl

theorem dataTaken_link_other (s : State) (h : LinkHead) {i : Nat} (hi : i ≠ l) : (dataTaken s l h).link i = s.link i := by
  simp only [dataTaken, heard_eq, State.link_updLink, if_neg hi]

/-- What a taken flit leaves of its link. -/
theorem takesData_frame (h : LinkHead) (now : DWord) (k : Link) : (k.heardAt now).takesData h
    = { k with lastRx := now, unresponsive := false, ctr := ctrAdd k.ctr 0x10 1, rxLast := h.seq, discarding := false,
               inbuf := fset 0 k.inbuf (2 * h.vc + h.cls) (fget 0 k.inbuf (2 * h.vc + h.cls) + 1),
               retry := ((k.heardAt now).takesData h).retry, resend := ((k.heardAt now).takesData h).resend,
               resv := ((k.heardAt now).takesData h).resv, shared := ((k.heardAt now).takesData h).shared } := by
  unfold Link.takesData
  dsimp only
  rw [headerIn_frame]
  rfl

theorem inService_up (h : inService s l = true) : (s.link l).st ≠ 4 :=
  (linkUp_st (Bool.and_eq_true_iff.1 h).1).1

theorem dataTaken_sends (h : LinkHead) (hst : (s.link l).st ≠ 4) : Sends s (dataTaken s l h) := by
  have h1 : Sends s (heard s l) := .updLink_area rfl hst
  have h2 := h1.trans (.updLink_area (f := fun k => headerIn h { k.bump 0x10 1 with rxLast := h.seq, discarding := false })
    (by rw [headerIn_frame]; rfl) (by rw [h1.st]; exact hst))
  exact h2.trans (.updLink_area
    (f := fun k => { k with inbuf := fset 0 k.inbuf (2 * h.vc + h.cls) (fget 0 k.inbuf (2 * h.vc + h.cls) + 1) }) rfl
    (by rw [h2.st]; exact hst))

theorem dataTaken_roads (s : State) (l : Nat) (h : LinkHead) : (dataTaken s l h).roads = s.roads := by
  refine (roads_updLink rfl).trans ((roads_updLink ?_).trans (roads_updLink rfl))
  rw [headerIn_frame]
  rfl

/-! ### A message that has come whole -/

/-- The message that payloads of flits carry (R316). -/
def carried (parts : List (List Byte)) : Msg :=
  { msgOf parts.flatten with data := (msgOf parts.flatten).data.take (msgOf parts.flatten).length }

theorem passFlits_payloads (m : Msg) (cls : Nat) (src : Option (Nat × Nat)) (parts : List (List Byte)) :
    (passFlits m cls src parts).flatMap TxFlit.payload = parts.flatten := by
  unfold passFlits
  rw [List.flatMap_map, List.flatMap_def]
  exact congrArg List.flatten (List.map_fst_zip (by simp))

/-- The flits that go on carry the message that came. -/
theorem messageOf_passFlits (m : Msg) (cls : Nat) (src : Option (Nat × Nat)) (parts : List (List Byte)) :
    messageOf (passFlits m cls src parts) = carried parts := by
  unfold messageOf carried
  rw [passFlits_payloads]

theorem messageIn_eq (s : State) (l cls : Nat) (src : Option (Nat × Nat)) (parts : List (List Byte)) :
    messageIn s l cls src parts =
      if devOf (carried parts).dest = s.hub.deviceId then
        messageHome ((passFlits (msgOf parts.flatten) cls src parts).foldl leaves s) l (carried parts)
      else transit s (l / 6) cls (carried parts) (passFlits (msgOf parts.flatten) cls src parts) := by
  unfold messageIn
  dsimp only
  rw [messageOf_passFlits]

theorem Mails.messageHome (s : State) (l : Nat) (m : Msg) : Mails s (messageHome s l m) := by
  unfold Machine.messageHome
  exact .either (.refl s) (.either (.deliver ..) (.refl s))

theorem Sends.messageHome (s : State) (l : Nat) (m : Msg) : Sends s (messageHome s l m) := by
  unfold Machine.messageHome
  exact .either (.refl s) (.either (.deliver ..) (.refl s))

theorem Mails.messageIn (s : State) (l cls : Nat) (src : Option (Nat × Nat)) (parts : List (List Byte)) :
    Mails s (messageIn s l cls src parts) := by
  rw [messageIn_eq]
  split
  · exact (Mails.foldl _ Mails.leaves s).trans (.messageHome ..)
  · exact .transit ..

theorem Sends.messageIn (s : State) (l cls : Nat) (src : Option (Nat × Nat)) (parts : List (List Byte)) :
    Sends s (messageIn s l cls src parts) := by
  rw [messageIn_eq]
  exact .either ((Sends.foldl _ (fun s f _ => .leaves s f) s).trans (.messageHome ..)) (.transit ..)

theorem leaves_regions (s : State) (f : TxFlit) : (leaves s f).regions = s.regions := by
  unfold leaves
  split <;> rfl

/-- A message for this device joins the queue of its region. -/
theorem messageHome_inbox {m : Msg} (h4 : m.op ≠ 4) (h5 : m.op ≠ 5)
    (hj : ringJoins s (l / 6) (if m.op = 6 ∧ fld m.data 0 2 = 1 then l / 6 else homeOf (l / 6) (localOf m.dest)) = true) :
    messageHome s l m
      = deliver s (if m.op = 6 ∧ fld m.data 0 2 = 1 then l / 6 else homeOf (l / 6) (localOf m.dest)) (.msg m) := by
  unfold messageHome
  dsimp only
  rw [if_neg (by simp [h4, h5]), if_pos hj]

theorem messageIn_home {cls : Nat} {src : Option (Nat × Nat)} {parts : List (List Byte)}
    (hd : devOf (carried parts).dest = s.hub.deviceId) (h4 : (carried parts).op ≠ 4) (h5 : (carried parts).op ≠ 5) {r : Nat}
    (hr : r = if (carried parts).op = 6 ∧ fld (carried parts).data 0 2 = 1 then l / 6
      else homeOf (l / 6) (localOf (carried parts).dest)) (hj : ringJoins s (l / 6) r = true) :
    ((messageIn s l cls src parts).region r).inbox = (s.region r).inbox ++ [.msg (carried parts)] := by
  have hm := Mails.foldl (passFlits (msgOf parts.flatten) cls src parts) Mails.leaves s
  have hreg := region_congr (foldl_keeps State.regions (passFlits (msgOf parts.flatten) cls src parts) leaves leaves_regions s) r
  rw [messageIn_eq, if_pos hd, messageHome_inbox h4 h5 (by rw [ringJoins_of_ringDown hm.ringDown, ← hr, hj]), ← hr, deliver,
    State.region_updRegion, if_pos rfl, hreg]

/-- A message for another device joins the output queue of the native link by which it goes on. -/
theorem messageIn_onward {cls q p c tn : Nat} {src : Option (Nat × Nat)} {parts : List (List Byte)}
    (hd : devOf (carried parts).dest ≠ s.hub.deviceId)
    (hp : pathFrom 8 s (l / 6) (devOf (carried parts).dest) cls = some (q, p, c, tn)) (h6 : p < 6) :
    ((messageIn s l cls src parts).link (6 * q + p)).txq
      = (s.link (6 * q + p)).txq ++ passFlits (msgOf parts.flatten) c src parts := by
  have hc : ((passFlits (msgOf parts.flatten) cls src parts).map fun f => { f with cls := c })
      = passFlits (msgOf parts.flatten) c src parts := by
    unfold passFlits
    rw [List.map_map]
    rfl
  rw [messageIn_eq, if_neg hd, transit, hp]
  dsimp only
  rw [sendFlits, if_pos h6, link_updLink_same, hc]
  refine enqueue_txq _ (fun f hf => ?_) _
  obtain ⟨x, -, rfl⟩ := List.mem_map.1 hf
  rfl

/-! ### FLIT_RECEIVE -/

/-- The payloads of its message that lie at the link with this flit. -/
def partsAt (k : Link) (flit : List Byte) : List (List Byte) :=
  let h := LinkHead.of flit
  (if h.som then [] else fget [] k.rx (2 * h.vc + h.cls)) ++ [((flit.drop 12).take 240).take h.valid]

theorem flitReceive_data (hs : inService s l = true) (hl : flit.length = 256) (hc : flitCrcOk flit = true)
    (ht : (LinkHead.of flit).typ = 0) (hq : (LinkHead.of flit).seq = ((s.link l).rxLast + 1) % 4096) :
    flitReceive s l flit = payloadIn (dataTaken s l (LinkHead.of flit)) l (2 * (LinkHead.of flit).vc + (LinkHead.of flit).cls)
      (some (l, 2 * (LinkHead.of flit).vc + (LinkHead.of flit).cls)) (LinkHead.of flit) flit := by
  have hr : ((heard s l).link l).rxLast = (s.link l).rxLast := by rw [heard_link]; rfl
  unfold flitReceive
  dsimp only
  rw [if_neg (by simp [hs, hl]), if_neg (by simp [ht]), if_neg (by simp [hc, hr, hq]), if_neg (by simp [ht])]
  rfl

theorem flitReceive_discard (hs : inService s l = true) (hl : flit.length = 256)
    (h : flitCrcOk flit = false ∨ ((LinkHead.of flit).typ ≠ 1 ∧ (LinkHead.of flit).typ ≠ 2
      ∧ (LinkHead.of flit).seq ≠ ((s.link l).rxLast + 1) % 4096)) :
    flitReceive s l flit = flitDiscard (heard s l) l := by
  have hr : ((heard s l).link l).rxLast = (s.link l).rxLast := by rw [heard_link]; rfl
  unfold flitReceive
  dsimp only
  rw [if_neg (by simp [hs, hl]), if_neg, if_pos]
  · simpa [hr] using h.imp_right fun h => h.2.2
  · obtain h | ⟨h1, h2, -⟩ := h
    · simp [h]
    · simp [h1, h2]

theorem payloadIn_rest {key : Nat} {src : Option (Nat × Nat)} {h : LinkHead} (he : h.eom = false) :
    payloadIn s l key src h flit = s.updLink l fun k =>
      { k with rx := fset [] k.rx key
                 ((if h.som then [] else fget [] (s.link l).rx key) ++ [((flit.drop 12).take 240).take h.valid]) } := by
  unfold payloadIn
  dsimp only
  rw [if_neg (by simp [he])]

theorem payloadIn_last {key : Nat} {src : Option (Nat × Nat)} {h : LinkHead} (he : h.eom = true) :
    payloadIn s l key src h flit = messageIn (s.updLink l fun k => { k with rx := fset [] k.rx key [] }) l h.cls src
      ((if h.som then [] else fget [] (s.link l).rx key) ++ [((flit.drop 12).take 240).take h.valid]) := by
  unfold payloadIn
  dsimp only
  rw [if_pos he]

theorem fget_ctrAdd (m : FMap DWord) (off n : Nat) : fget 0 (ctrAdd m off n) off = fget 0 m off + BitVec.ofNat 64 n :=
  fget_fset_same ..

theorem dataTaken_rx (s : State) (l : Nat) (h : LinkHead) : ((dataTaken s l h).link l).rx = (s.link l).rx := by
  rw [dataTaken_link, takesData_frame]

/-- What an accepted flit counts at its link. -/
def Link.accepted (k : Link) : Nat × Bool × DWord := (k.rxLast, k.discarding, fget 0 k.ctr 0x10)

theorem dataTaken_accepted (s : State) (l : Nat) (h : LinkHead) :
    ((dataTaken s l h).link l).accepted = (h.seq, false, fget 0 (s.link l).ctr 0x10 + 1) := by
  rw [dataTaken_link, takesData_frame]
  exact Prod.ext rfl (Prod.ext rfl (fget_ctrAdd ..))

/-- The message's payloads are gone from the link, and the message is about to go on. -/
def handedOn (s : State) (l : Nat) (flit : List Byte) : State :=
  (dataTaken s l (LinkHead.of flit)).updLink l fun k =>
    { k with rx := fset [] k.rx (2 * (LinkHead.of flit).vc + (LinkHead.of flit).cls) [] }

theorem handedOn_txq (s : State) (l i : Nat) (flit : List Byte) : ((handedOn s l flit).link i).txq = (s.link i).txq := by
  rw [handedOn, State.link_updLink]
  split
  · next e => rw [e, dataTaken_link, takesData_frame]
  · next e => rw [dataTaken_link_other s _ e]

theorem handedOn_sends (flit : List Byte) (h : (s.link l).st ≠ 4) : Sends s (handedOn s l flit) := by
  have h1 := dataTaken_sends (LinkHead.of flit) h
  exact h1.trans (.updLink_area rfl (by rw [h1.st]; exact h))

theorem handedOn_roads (s : State) (l : Nat) (flit : List Byte) : (handedOn s l flit).roads = s.roads :=
  (roads_updLink rfl).trans (dataTaken_roads ..)

section
variable (hs : inService s l = true) (hl : flit.length = 256) (hc : flitCrcOk flit = true)
  (ht : (LinkHead.of flit).typ = 0) (hq : (LinkHead.of flit).seq = ((s.link l).rxLast + 1) % 4096)
include hs hl hc ht hq

/-- A flit of a message that is to go on stays at the link. -/
theorem flitReceive_rest (he : (LinkHead.of flit).eom = false) :
    flitReceive s l flit = (dataTaken s l (LinkHead.of flit)).updLink l fun k =>
      { k with rx := fset [] k.rx (2 * (LinkHead.of flit).vc + (LinkHead.of flit).cls) (partsAt (s.link l) flit) } := by
  rw [flitReceive_data hs hl hc ht hq, payloadIn_rest he, dataTaken_rx]
  rfl

/-- The last flit of a message sends it on. -/
theorem flitReceive_last (he : (LinkHead.of flit).eom = true) :
    flitReceive s l flit = messageIn (handedOn s l flit) l (LinkHead.of flit).cls
      (some (l, 2 * (LinkHead.of flit).vc + (LinkHead.of flit).cls)) (partsAt (s.link l) flit) := by
  rw [flitReceive_data hs hl hc ht hq, payloadIn_last he, dataTaken_rx]
  rfl

theorem flitReceive_accepted : Sends s (flitReceive s l flit)
    ∧ ((flitReceive s l flit).link l).accepted = ((LinkHead.of flit).seq, false, fget 0 (s.link l).ctr 0x10 + 1) := by
  have hst := inService_up hs
  rw [← dataTaken_accepted s l (LinkHead.of flit)]
  cases he : (LinkHead.of flit).eom with
  | false =>
    have h1 := dataTaken_sends (LinkHead.of flit) hst
    rw [flitReceive_rest hs hl hc ht hq he]
    refine ⟨h1.trans (.updLink_area rfl (by rw [h1.st]; exact hst)), ?_⟩
    rw [link_updLink_same]
    rfl
  | true =>
    rw [flitReceive_last hs hl hc ht hq he]
    refine ⟨(handedOn_sends flit hst).trans (.messageIn ..),
      ((Mails.messageIn ..).link_proj l Link.accepted fun _ => rfl).trans ?_⟩
    rw [handedOn, link_updLink_same]
    rfl

theorem flitReceive_onward (he : (LinkHead.of flit).eom = true)
    (hd : devOf (carried (partsAt (s.link l) flit)).dest ≠ s.hub.deviceId) {q p c tn : Nat}
    (hp : pathFrom 8 s (l / 6) (devOf (carried (partsAt (s.link l) flit)).dest) (LinkHead.of flit).cls = some (q, p, c, tn))
    (h6 : p < 6) : ((flitReceive s l flit).link (6 * q + p)).txq = (s.link (6 * q + p)).txq
      ++ passFlits (msgOf (partsAt (s.link l) flit).flatten) c
        (some (l, 2 * (LinkHead.of flit).vc + (LinkHead.of flit).cls)) (partsAt (s.link l) flit) := by
  rw [flitReceive_last hs hl hc ht hq he,
    messageIn_onward (s := handedOn s l flit) hd (by rw [pathFrom_of_roads (handedOn_roads s l flit), hp]) h6, handedOn_txq]

end

/-! ### Discard, ACK and re-send -/

/-- The header with which a flit leaves. -/
def LinkHead.leaving (h : LinkHead) (k : Link) : LinkHead :=
  { h with ack := k.rxLast, crVc := (creditOut k).1 / 2, crClass := (creditOut k).1 % 2, crCount := (creditOut k).2 }

/-- Credits that are owed go with a flit. -/
def Link.repaid (k : Link) : Link :=
  { k with owed := fset 0 k.owed (creditOut k).1 (fget 0 k.owed (creditOut k).1 - (creditOut k).2) }

theorem sendFlit_eq (s : State) (l : Nat) (h : LinkHead) (payload : List Byte) :
    sendFlit s l h payload = (s.updLink l fun _ => (s.link l).repaid).emit
      (.flit l (flitBytes (h.leaving (s.link l)) payload)) := rfl

theorem sendFlit_link (s : State) (l : Nat) (h : LinkHead) (payload : List Byte) :
    (sendFlit s l h payload).link l = (s.link l).repaid := by
  rw [sendFlit_eq]
  exact link_updLink_same ..

theorem sendFlit_out (s : State) (l : Nat) (h : LinkHead) (payload : List Byte) :
    (sendFlit s l h payload).out = .flit l (flitBytes (h.leaving (s.link l)) payload) :: s.out := rfl

theorem flitDiscard_eq (s : State) (l : Nat) : flitDiscard s l =
    if (s.link l).discarding then s.updLink l fun k => { k.bump 0x18 1 with discarding := true }
    else sendFlit ((s.updLink l fun k => { k.bump 0x18 1 with discarding := true }).updLink l (Link.bump 0x08 1)) l
      { typ := 2 } [] := rfl

theorem fget_ctrAdd_other (m : FMap DWord) {i off : Nat} (n : Nat) (h : i ≠ off) :
    fget 0 (ctrAdd m off n) i = fget 0 m i := by
  rw [ctrAdd, fget_fset, if_neg h]

/-- What a discard changes at the link. -/
theorem flitDiscard_link (s : State) (l : Nat) : ((flitDiscard s l).link l).discarding = true
    ∧ ((flitDiscard s l).link l).rxLast = (s.link l).rxLast ∧ ((flitDiscard s l).link l).rx = (s.link l).rx
    ∧ fget 0 ((flitDiscard s l).link l).ctr 0x18 = fget 0 (s.link l).ctr 0x18 + 1 := by
  rw [flitDiscard_eq]
  split
  · rw [link_updLink_same]
    exact ⟨rfl, rfl, rfl, fget_ctrAdd ..⟩
  · rw [sendFlit_link, link_updLink_same, link_updLink_same]
    exact ⟨rfl, rfl, rfl, (fget_ctrAdd_other _ _ (by decide)).trans (fget_ctrAdd ..)⟩

theorem flitDiscard_out (s : State) (l : Nat) : ((s.link l).discarding = true → (flitDiscard s l).out = s.out)
    ∧ ((s.link l).discarding = false → ∃ g : LinkHead, (flitDiscard s l).out = .flit l (flitBytes g []) :: s.out
        ∧ g.typ = 2 ∧ g.ack = (s.link l).rxLast) := by
  rw [flitDiscard_eq]
  refine ⟨fun h => by rw [if_pos h]; rfl, fun h => ?_⟩
  rw [if_neg (by simp [h]), sendFlit_out, link_updLink_same, link_updLink_same]
  exact ⟨_, rfl, rfl, rfl⟩

theorem flitDiscard_mem (s : State) (l : Nat) : (flitDiscard s l).mem = s.mem := by
  rw [flitDiscard_eq]
  split <;> rfl

/-- An ACK that names a flit of the retry buffer takes that flit and those before it. -/
theorem headerIn_retry_named {h : LinkHead} {k : Link} {i : Nat} (hi : (k.retry.findIdx? fun x => x.1 == h.ack) = some i) :
    (headerIn h k).retry = k.retry.drop (i + 1) := by
  rw [headerIn_retry, hi]
  rfl

theorem nullFlitReceive_good (hs : inService s l = true) (hl : flit.length = 256) (hc : flitCrcOk flit = true)
    (ht : (LinkHead.of flit).typ = 1) :
    nullFlitReceive s l flit = (heard s l).updLink l (headerIn (LinkHead.of flit)) := by
  unfold nullFlitReceive
  dsimp only
  rw [if_neg (by simp [hs, hl]), if_neg (by simp [hc]), if_neg (by simp [ht])]

/-- Everything that the ACK of a re-send request leaves in the retry buffer is to go again. -/
def Link.resendAll (h : LinkHead) (k : Link) : Link := { headerIn h k with resend := (headerIn h k).retry }

theorem retryRequest_good (hs : inService s l = true) (hl : flit.length = 256) (hc : flitCrcOk flit = true)
    (ht : (LinkHead.of flit).typ = 2) :
    retryRequest s l flit =
      if (headerIn (LinkHead.of flit) (s.link l)).retry.any fun x => decide (8 ≤ x.2.tries) then
        fenceLink ((heard s l).updLink l (Link.resendAll (LinkHead.of flit))) l
      else (heard s l).updLink l (Link.resendAll (LinkHead.of flit)) := by
  have hr : (((heard s l).updLink l (Link.resendAll (LinkHead.of flit))).link l).retry
      = (headerIn (LinkHead.of flit) (s.link l)).retry := by
    rw [link_updLink_same, heard_link]
    exact headerIn_heardAt_retry ..
  unfold retryRequest
  dsimp only
  rw [if_neg (by simp [hs, hl]), if_neg (by simp [hc]), if_neg (by simp [ht]), ← hr]
  rfl

/-! ### Transmission -/

theorem sendNull_out (s : State) (l : Nat) : ∃ g : LinkHead,
    (sendNull s l).out = .flit l (flitBytes g []) :: s.out ∧ g.typ = 1 ∧ g.ack = (s.link l).rxLast := by
  rw [sendNull, sendFlit_out, link_updLink_same]
  exact ⟨_, rfl, rfl, rfl⟩

/-- The link has its Bridle flits offered. -/
def offered (s : State) (l : Nat) : State := s.updLink l (offerBridle (s.region (l / 6)).cycle)

theorem offered_link (s : State) (l : Nat) : (offered s l).link l = offerBridle (s.region (l / 6)).cycle (s.link l) :=
  link_updLink_same ..

/-- What offering Bridle flits leaves of the link. -/
theorem offerBridle_proj {β : Type} (now : DWord) (k : Link) (f : Link → β) (hf : ∀ k, f k = f k.lasting.1) :
    f (offerBridle now k) = f k := by
  rw [hf, offerBridle_lasting, ← hf]

/-- A flit of the retry buffer has gone again. -/
def Link.sentAgain (now : DWord) (x : Nat × TxFlit) (rest : List (Nat × TxFlit)) (k : Link) : Link :=
  let k1 := slotPasses (triedAgain x.1 { k.bump 0x20 1 with
    resend := rest, resendAt := (k.resendAt.filter fun t => decide ((now - t).toNat < 1600000)) ++ [now] })
  { k1 with sinceBridle := if isBridleFlit x.2 then 0 else k1.sinceBridle }

theorem sentAgain_counters (now : DWord) (x : Nat × TxFlit) (rest : List (Nat × TxFlit)) (k : Link) :
    (k.sentAgain now x rest).ctr = ctrAdd k.ctr 0x20 1 := rfl

theorem sentAgain_rxLast (now : DWord) (x : Nat × TxFlit) (rest : List (Nat × TxFlit)) (k : Link) :
    (k.sentAgain now x rest).rxLast = k.rxLast := rfl

/-- Short of 1,024 re-sends within 1 ms, a flit that may go now goes. -/
theorem sendAgain_goes {x : Nat × TxFlit} {rest : List (Nat × TxFlit)} (hn : (s.link l).resendAt.length < 1024)
    (hb : isBridleFlit x.2 = true → 15 ≤ (s.link l).sinceBridle) :
    sendAgain s l x rest = match x.2.control with
      | some p => (s.updLink l (Link.sentAgain (s.region (l / 6)).cycle x rest)).emit (.control l p)
      | none => sendFlit (s.updLink l (Link.sentAgain (s.region (l / 6)).cycle x rest)) l (x.2.head x.1) x.2.payload := by
  have hlen := List.length_filter_le (fun t => decide (((s.region (l / 6)).cycle - t).toNat < 1600000)) (s.link l).resendAt
  unfold sendAgain
  dsimp only
  rw [if_neg (by rintro ⟨h, h'⟩; have := hb h; omega), if_neg (by rw [List.length_append, List.length_singleton]; omega)]
  rfl

theorem flitTransmit_resend {x : Nat × TxFlit} {rest : List (Nat × TxFlit)} (hs : inService s l = true)
    (hr : (s.link l).resend = x :: rest) : flitTransmit s l = sendAgain (offered s l) l x rest := by
  have hk : ((offered s l).link l).resend = x :: rest := by
    rw [offered_link, offerBridle_proj _ _ Link.resend fun _ => rfl, hr]
  unfold flitTransmit
  dsimp only
  rw [if_neg (by simp [hs])]
  unfold offered at hk
  rw [hk]
  rfl

/-- A new flit has gone, and is kept for re-sending. -/
def Link.sent (f : TxFlit) (turn left : Nat) (k : Link) : Link :=
  let k1 := slotPasses (spendCredit (2 * f.vc + f.cls) (k.bump 0x08 1))
  { k1 with txq := k.txq.erase f, retry := k.retry ++ [(k.txSeq, f)], txSeq := (k.txSeq + 1) % 4096,
            turn := turn, turnLeft := left, sinceBridle := if f.vc = 0 then 0 else k1.sinceBridle }

theorem flitTransmit_new {f : TxFlit} {turn left : Nat} (hs : inService s l = true) (hr : (s.link l).resend = [])
    (hn : (s.link l).retry.length < 128)
    (hp : pickFlit (offerBridle (s.region (l / 6)).cycle (s.link l)) = some (f, turn, left)) :
    flitTransmit s l = shipped (leaves (sendFlit ((offered s l).updLink l (Link.sent f turn left)) l
      (f.head ((offered s l).link l).txSeq) f.payload) f) f := by
  have hk : ((offered s l).link l).resend = [] := by
    rw [offered_link, offerBridle_proj _ _ Link.resend fun _ => rfl, hr]
  have hy : ((offered s l).link l).retry.length < 128 := by
    rw [offered_link, offerBridle_proj _ _ Link.retry fun _ => rfl]; exact hn
  rw [← offered_link] at hp
  unfold flitTransmit
  dsimp only
  rw [if_neg (by simp [hs])]
  unfold offered at hk hy hp
  rw [hk]
  dsimp only
  rw [if_neg (by omega), hp]
  rfl

theorem shipped_out (s : State) (f : TxFlit) : (shipped s f).out = noteOut f ++ s.out := by
  unfold shipped noteOut
  split <;> simp_all [State.emit]

theorem leaves_out (s : State) (f : TxFlit) : (leaves s f).out = s.out := by
  unfold leaves
  split <;> rfl

/-- Of its link's own queue a flit that leaves changes nothing, but for what is owed for it. -/
theorem departed_proj {β : Type} (s : State) (f : TxFlit) (l : Nat) (g : Link → β)
    (hg : ∀ k : Link, g k = g { k with owed := [], inbuf := [] }) : g ((shipped (leaves s f) f).link l) = g (s.link l) := by
  have hship : (shipped (leaves s f) f).link l = (leaves s f).link l := by
    unfold shipped
    split <;> rfl
  rw [hship]
  unfold leaves
  split
  · rw [State.link_updLink]
    split
    · next e => rw [hg, e, hg (s.link _)]; unfold owe; split <;> rfl
    · rfl
  · rfl

theorem spendCredit_counters (k : Nat) (b : Link) : (spendCredit k b).ctr = b.ctr := by
  unfold spendCredit
  split <;> rfl

theorem sent_counters (f : TxFlit) (turn left : Nat) (k : Link) : (Link.sent f turn left k).ctr = ctrAdd k.ctr 0x08 1 :=
  spendCredit_counters (2 * f.vc + f.cls) (k.bump 0x08 1)

/-- A flit that goes again. -/
theorem flitTransmit_again {x : Nat × TxFlit} {rest : List (Nat × TxFlit)} (hs : inService s l = true)
    (hr : (s.link l).resend = x :: rest) (hn : (s.link l).resendAt.length < 1024)
    (hb : isBridleFlit x.2 = true → 15 ≤ (s.link l).sinceBridle) :
    ((flitTransmit s l).link l).resend = rest
      ∧ (x.2.control = none → ∃ g : LinkHead, (flitTransmit s l).out = [] ++ .flit l (flitBytes g x.2.payload) :: s.out
          ∧ g.seq = x.1 ∧ g.ack = (s.link l).rxLast)
      ∧ (∀ p, x.2.control = some p → (flitTransmit s l).out = .control l p :: s.out)
      ∧ fget 0 ((flitTransmit s l).link l).ctr 0x20 = fget 0 (s.link l).ctr 0x20 + 1 := by
  have hk {β : Type} (f : Link → β) (hf : ∀ k, f k = f k.lasting.1) : f ((offered s l).link l) = f (s.link l) := by
    rw [offered_link, offerBridle_proj _ _ f hf]
  have hc : fget 0 (((offered s l).link l).sentAgain ((offered s l).region (l / 6)).cycle x rest).ctr 0x20
      = fget 0 (s.link l).ctr 0x20 + 1 := by
    rw [sentAgain_counters, fget_ctrAdd, hk Link.ctr fun _ => rfl]
    rfl
  have ha : (((offered s l).link l).sentAgain ((offered s l).region (l / 6)).cycle x rest).rxLast = (s.link l).rxLast :=
    (sentAgain_rxLast ..).trans (hk Link.rxLast fun _ => rfl)
  rw [flitTransmit_resend hs hr, sendAgain_goes (by rw [hk Link.resendAt fun _ => rfl]; exact hn)
    (by rw [hk Link.sinceBridle fun _ => rfl]; exact hb)]
  cases hx : x.2.control with
  | none =>
    dsimp only
    rw [sendFlit_link, link_updLink_same, sendFlit_out, link_updLink_same]
    exact ⟨rfl, fun _ => ⟨_, rfl, rfl, ha⟩, fun _ h => by simp at h, hc⟩
  | some p =>
    have hl : (((offered s l).updLink l (Link.sentAgain ((offered s l).region (l / 6)).cycle x rest)).emit (.control l p)).link l
        = _ := link_updLink_same ..
    dsimp only
    rw [hl]
    exact ⟨rfl, fun h => by simp at h, fun q h => by cases h; rfl, hc⟩

/-- A new flit. -/
theorem flitTransmit_first {f : TxFlit} {turn left : Nat} (hs : inService s l = true) (hr : (s.link l).resend = [])
    (hn : (s.link l).retry.length < 128)
    (hp : pickFlit (offerBridle (s.region (l / 6)).cycle (s.link l)) = some (f, turn, left)) :
    (∃ g : LinkHead, (flitTransmit s l).out = noteOut f ++ .flit l (flitBytes g f.payload) :: s.out
        ∧ g.seq = (s.link l).txSeq ∧ g.ack = (s.link l).rxLast)
      ∧ ((flitTransmit s l).link l).txq = (offerBridle (s.region (l / 6)).cycle (s.link l)).txq.erase f
      ∧ ((flitTransmit s l).link l).retry = (s.link l).retry ++ [((s.link l).txSeq, f)]
      ∧ ((flitTransmit s l).link l).txSeq = ((s.link l).txSeq + 1) % 4096
      ∧ fget 0 ((flitTransmit s l).link l).ctr 0x08 = fget 0 (s.link l).ctr 0x08 + 1 := by
  have hk {β : Type} (f : Link → β) (hf : ∀ k, f k = f k.lasting.1) : f ((offered s l).link l) = f (s.link l) := by
    rw [offered_link, offerBridle_proj _ _ f hf]
  have hseq := hk Link.txSeq fun _ => rfl
  have hack : (Link.sent f turn left ((offered s l).link l)).rxLast = (s.link l).rxLast := by
    refine Eq.trans ?_ (hk Link.rxLast fun _ => rfl)
    rw [Link.sent, slotPasses, spendCredit]
    split <;> rfl
  rw [flitTransmit_new hs hr hn hp]
  have hout := fun u : State => (shipped_out (leaves u f) f).trans (congrArg (noteOut f ++ ·) (leaves_out u f))
  refine ⟨?_, ?_, ?_, ?_, ?_⟩
  · rw [hout, sendFlit_out, link_updLink_same]
    exact ⟨_, rfl, hseq, hack⟩
  · rw [departed_proj _ _ _ Link.txq fun _ => rfl, sendFlit_link, link_updLink_same, offered_link]
    rfl
  · rw [departed_proj _ _ _ Link.retry fun _ => rfl, sendFlit_link, link_updLink_same]
    exact congrArg₂ (· ++ ·) (hk Link.retry fun _ => rfl) (by rw [hseq])
  · rw [departed_proj _ _ _ Link.txSeq fun _ => rfl, sendFlit_link, link_updLink_same]
    exact congrArg (fun n => (n + 1) % 4096) hseq
  · rw [departed_proj _ _ _ Link.ctr fun _ => rfl, sendFlit_link, link_updLink_same]
    change fget 0 (Link.sent f turn left ((offered s l).link l)).ctr 0x08 = _
    rw [sent_counters, fget_ctrAdd, hk Link.ctr fun _ => rfl]
    rfl

/-! ### O52 -/

/-- Settles O52: an equation of each command, read through what a flit and a message on its way leave of their link. -/
theorem linkFlits : Obligations.LinkFlits := by
  intro s l flit hl
  dsimp only
  have run {c : Instr} {t : State} (h : exec c s = .next (if l < 24 then t else s)) : exec c s = .next t := by
    rw [h, if_pos hl]
  refine ⟨fun hs hlen => ⟨fun hc ht hq => ?_, fun hbad => ?_, fun hc ht i hi => ?_,
    fun hc ht => ⟨fun hn => ?_, fun hy => ?_⟩⟩, fun hs => ?_,
    fun hs => ⟨?_, ?_⟩, fun hs => ⟨fun x rest hr hn hb => ?_, fun f turn left hr hn hp => ?_⟩⟩
  · obtain ⟨hsends, hacc⟩ := flitReceive_accepted hs hlen hc ht hq
    simp only [Link.accepted, Prod.mk.injEq] at hacc
    obtain ⟨hseq, hdisc, hctr⟩ := hacc
    refine ⟨_, run rfl, hsends.toOnlyRetry.onlyBytes, hseq, hdisc, hctr, fun he => ?_, fun he hd h4 h5 hj => ?_,
      fun he hd q p c tn hp h6 => ?_⟩
    · rw [flitReceive_rest hs hlen hc ht hq he, link_updLink_same, dataTaken_link, takesData_frame]
      exact ⟨fget_fset_same .., fget_fset_same .., rfl⟩
    · rw [flitReceive_last hs hlen hc ht hq he]
      exact messageIn_home (s := handedOn s l flit) hd h4 h5 rfl
        ((ringJoins_of_ringDown (s := s) rfl ..).trans hj)
    · rw [flitReceive_onward hs hlen hc ht hq he hd hp h6, List.drop_left]
      exact List.map_map ..
  · have hk := heard_link s l
    obtain ⟨hd, hrx, hparts, hctr⟩ := flitDiscard_link (heard s l) l
    obtain ⟨hquiet, hask⟩ := flitDiscard_out (heard s l) l
    rw [hk] at hrx hparts hctr hquiet hask
    refine ⟨_, (run rfl).trans (congrArg Host.Outcome.next (flitReceive_discard hs hlen hbad)), flitDiscard_mem _ l, hrx, hd,
      hparts, hctr, hquiet, hask⟩
  · refine ⟨_, (run rfl).trans (congrArg Host.Outcome.next (nullFlitReceive_good hs hlen hc ht)), ?_, ?_, rfl⟩
    · rw [link_updLink_same, heard_link, headerIn_heardAt_retry, headerIn_retry_named hi]
    · rw [link_updLink_same, heard_link, headerIn_frame]
      rfl
  · have h := retryRequest_good hs hlen hc ht
    rw [hn, if_neg (by decide)] at h
    refine ⟨_, (run rfl).trans (congrArg Host.Outcome.next h), ?_, ?_, rfl⟩
    · rw [link_updLink_same]; rfl
    · rw [link_updLink_same, heard_link]
      exact headerIn_heardAt_retry ..
  · have h := retryRequest_good hs hlen hc ht
    rw [hy, if_pos rfl] at h
    refine ⟨_, (run rfl).trans (congrArg Host.Outcome.next h), (fallen_fenceLink ?_).st⟩
    rw [link_updLink_same, heard_link, Link.resendAll, headerIn_frame]
    exact inService_up hs
  · obtain ⟨g, hout, hg⟩ := sendNull_out (s.updLink l fun k => { k with sinceBridle := 16 }) l
    rw [link_updLink_same] at hg
    exact ⟨_, g, (run rfl).trans (congrArg Host.Outcome.next (if_pos hs)), hout, hg⟩
  · exact (run rfl).trans (congrArg Host.Outcome.next (if_neg (by simp [hs])))
  · exact (run rfl).trans (congrArg Host.Outcome.next (if_pos (by simp [hs])))
  · exact ⟨_, run rfl, flitTransmit_again hs hr hn hb⟩
  · exact ⟨_, run rfl, flitTransmit_first hs hr hn hp⟩

end Sys2Proof.Machine
end

section
/-! SUPPORT. Links in Ethernet mode: priority pauses, host frames, and the tunnels' datagrams, re-sends and fences
(R336 to R338). -/

namespace Sys2Proof.Machine

variable {s t v : State} {l tn : Nat} {id : OpId} {p : OpEntry → Prop}

/-! ### What an operation keeps -/

/-- The operation is in the table, and `p` holds of its entry. -/
def State.has (s : State) (id : OpId) (p : OpEntry → Prop) : Prop := ∃ y, s.op? id = some y ∧ p y

/-- No status and no end that an operation meets takes `p` from it. -/
def Stays (p : OpEntry → Prop) : Prop := ∀ st y, p y → p (y.addStat st) ∧ p (y.finish st)

theorem stays_true : Stays fun _ => True := fun _ _ _ => ⟨trivial, trivial⟩

theorem finish_stats {st st' : Nat} {e : OpEntry} (h : st ∈ e.stats) : st ∈ (e.finish st').stats := by
  unfold OpEntry.finish
  split
  · exact h
  · exact mem_addStat_of_mem h st'

theorem finish_id (st : Nat) (e : OpEntry) : (e.finish st).id = e.id := by
  unfold OpEntry.finish
  split
  · rfl
  · exact addStat_id st e

theorem stays_stat (st : Nat) : Stays fun y => st ∈ y.stats :=
  fun st' _ h => ⟨mem_addStat_of_mem h st', finish_stats h⟩

theorem has_congr (h : t.ops = s.ops) : t.has id p ↔ s.has id p := by simp only [State.has, op?_congr h]

theorem has_updOp {f : OpEntry → OpEntry} (j : OpId) (hid : ∀ e, (f e).id = e.id) (hp : ∀ y, p y → p (f y))
    (h : s.has id p) : (s.updOp j f).has id p := by
  obtain ⟨y, hy, hpy⟩ := h
  by_cases hj : id = j
  · subst hj
    exact ⟨f y, op?_updOp_self hid hy, hp y hpy⟩
  · exact ⟨y, by rw [State.op?_updOp s j id f hid, if_neg hj, hy], hpy⟩

theorem has_addStat (hp : Stays p) (j : OpId) (st : Nat) (h : s.has id p) : (s.addStat j st).has id p :=
  has_updOp j (addStat_id st) (fun y hy => (hp st y hy).1) h

theorem has_finishOp (hp : Stays p) (j : OpId) (st : Nat) (h : s.has id p) : (s.finishOp j st).has id p :=
  has_updOp j (finish_id st) (fun y hy => (hp st y hy).2) h

theorem has_opLinkDown (hp : Stays p) (op : Option OpId) (h : s.has id p) : (opLinkDown s op).has id p := by
  unfold opLinkDown
  split
  · split
    · split
      · exact has_finishOp hp _ _ h
      · exact has_addStat hp _ _ h
    · exact h
  · exact h

/-- The operation of a message that is lost meets LINK_DOWN. -/
theorem opLinkDown_has {e : OpEntry} (h : s.op? id = some e) :
    (opLinkDown s (some id)).has id fun y => stLINKDOWN ∈ y.stats := by
  unfold opLinkDown
  dsimp only
  rw [h]
  dsimp only
  split
  · next hr =>
    have hp : e.phase = .running := by simpa using (Bool.and_eq_true_iff.1 hr).1
    exact ⟨_, op?_finishOp_self _ h (by simp [hp]), mem_addStat _ _ (by decide)⟩
  · exact ⟨e.addStat stLINKDOWN, by rw [State.op?_addStat, if_pos rfl, h]; rfl, mem_addStat _ _ (by decide)⟩

theorem dropWaits_ops (s : State) (id : OpId) : (dropWaits s id).ops = s.ops := (congrArg State.ops (dropWaits_frame s id) :)

theorem has_lostMessages (hp : Stays p) (j : OpId) (h : (opLinkDown s (some j)).has id p) : (lostMessages s j).has id p := by
  have h1 : (dropWaits (opLinkDown s (some j)) j).has id p := (has_congr (dropWaits_ops ..)).2 h
  unfold lostMessages
  dsimp only
  split
  · exact has_finishOp hp _ _ ((has_congr rfl).2 h1)
  · exact h1

/-- Each operation whose messages are lost meets LINK_DOWN. -/
theorem foldl_lostMessages_has {ids : List OpId} {e : OpEntry} (h : s.op? id = some e)
    (hm : id ∈ ids ∨ stLINKDOWN ∈ e.stats) : (ids.foldl lostMessages s).has id fun y => stLINKDOWN ∈ y.stats := by
  induction ids generalizing s e with
  | nil => exact ⟨e, h, hm.resolve_left (by simp)⟩
  | cons j ids ih =>
    by_cases hj : id = j ∨ stLINKDOWN ∈ e.stats
    · have hd : (opLinkDown s (some j)).has id fun y => stLINKDOWN ∈ y.stats := by
        obtain rfl | he := hj
        · exact opLinkDown_has h
        · exact has_opLinkDown (stays_stat _) _ ⟨e, h, he⟩
      obtain ⟨y, hy, hs⟩ := has_lostMessages (stays_stat _) j hd
      exact ih hy (.inr hs)
    · obtain ⟨y, hy, -⟩ := has_lostMessages stays_true j (has_opLinkDown stays_true _ ⟨e, h, trivial⟩)
      obtain ⟨h1, h2⟩ := not_or.1 hj
      exact ih hy (.inl ((List.mem_cons.1 (hm.resolve_right h2)).resolve_left h1))

/-! ### The bytes of a tunnel's datagrams -/

/-- After messages that `s` sent, a tunnel of a link that keeps what it sends may be written. -/
theorem Sends.tunnelAt (h : Sends s v) (hm : Mails s v) (ht : tunnelled s l) (tn : Nat) (f : Tunnel → Tunnel) :
    Sends s (v.updLink l fun k => k.updTunnel tn f) where
  bytes := h.bytes
  sound := h.sound
  area i hk := by
    rw [State.link_updLink] at hk ⊢
    by_cases e : i = l
    · subst e
      rw [if_pos rfl]
      exact ⟨ht.1, hm.link_proj i Link.retryArea fun _ => rfl⟩
    · rw [if_neg e] at hk ⊢
      exact h.area i hk
  st i := by
    rw [State.link_updLink]
    split
    · next e => subst e; exact h.st i
    · exact h.st i
  down i hi := by
    rw [State.link_updLink]
    split
    · next e => subst e; exact absurd hi ht.2
    · exact h.down i hi

theorem Sends.putAt (h : Sends s v) (hm : Mails s v) (ht : tunnelled s l) (h256 : tn < 256) (fs : List TxFlit) :
    Sends s (Machine.tunnelPut v l tn fs) := by
  unfold Machine.tunnelPut
  dsimp only
  refine Sends.trans (h.tunnelAt hm ht tn _) (.trans (Sends.keepFlits fs ?_ h256) (.trans (.tunnelOut _ _ _ _ _)
    (.foldl _ (fun s f _ => (Sends.leaves s f).trans (.shipped _ f)) _)))
  rw [State.link_updLink, if_pos rfl]
  exact ⟨(hm.link_proj l Link.mode fun _ => rfl).trans ht.1.1,
    fset_ne_nil _ _ fun e => by simpa using congrArg Tunnel.window e⟩

/-- A tunnel's waiting messages are others. -/
theorem Mails.setQueue (s : State) (l tn : Nat) (q : List (List TxFlit)) :
    Mails s (s.updLink l fun k => k.updTunnel tn fun u => { u with queue := q }) := .updTunnel rfl rfl rfl

theorem Mails.drainTunnel (l tn n : Nat) (s : State) : Mails s (drainTunnel l tn n s) := by
  induction n generalizing s with
  | zero => exact .refl s
  | succ n ih =>
    unfold Machine.drainTunnel
    dsimp only
    split
    · exact .refl s
    · next rest _ => exact .either ((Mails.setQueue s l tn rest).trans ((Mails.tunnelPut ..).trans (ih _))) (.refl s)

theorem Sends.drainAt (ht : tunnelled s l) (h256 : tn < 256) (n : Nat) {v : State} (h : Sends s v) (hm : Mails s v) :
    Sends s (Machine.drainTunnel l tn n v) := by
  induction n generalizing v with
  | zero => exact h
  | succ n ih =>
    unfold Machine.drainTunnel
    dsimp only
    split
    · exact h
    · next rest _ =>
      have hm1 := hm.trans (.setQueue v l tn rest)
      exact .either (ih ((h.tunnelAt hm ht tn _).putAt hm1 ht h256 _) (hm1.trans (.tunnelPut ..))) h

theorem drainTunnel_unsent (l tn n : Nat) (s : State) : (drainTunnel l tn n s).unsent = s.unsent := by
  induction n generalizing s with
  | zero => rfl
  | succ n ih =>
    unfold drainTunnel
    dsimp only
    split
    · rfl
    · split
      · exact (ih _).trans (tunnelPut_unsent ..)
      · rfl

theorem Mails.drainLink (s : State) (l : Nat) : Mails s (drainLink s l) := .foldl _ (fun _ _ => .drainTunnel ..) s

theorem drainLink_unsent (s : State) (l : Nat) : (drainLink s l).unsent = s.unsent :=
  foldl_keeps State.unsent _ _ (fun _ _ => drainTunnel_unsent ..) s

theorem Sends.drainFold (ht : tunnelled s l) {ts : List (Nat × Tunnel)} (h256 : ∀ x ∈ ts, x.1 < 256) {v : State}
    (h : Sends s v) (hm : Mails s v) : Sends s (ts.foldl (fun s x => Machine.drainTunnel l x.1 x.2.queue.length s) v) := by
  induction ts generalizing v with
  | nil => exact h
  | cons x ts ih =>
    exact ih (fun y hy => h256 y (by simp [hy])) (h.drainAt ht (h256 x (by simp)) _ hm) (hm.trans (.drainTunnel ..))

/-- The tunnels of an Ethernet-mode link send what waits. -/
theorem Sends.drainLink (hm : (s.link l).mode = 1) (hst : (s.link l).st ≠ 4) (h256 : ∀ x ∈ (s.link l).tunnels, x.1 < 256) :
    Sends s (drainLink s l) := by
  unfold Machine.drainLink
  cases ht : (s.link l).tunnels with
  | nil => exact .refl s
  | cons x ts =>
    rw [ht] at h256
    exact .drainFold ⟨⟨hm, by simp [ht]⟩, hst⟩ h256 (.refl s) (.refl s)

/-! ### Priority pauses -/

/-- One priority of a PAUSE frame. -/
def pauseOne (now : DWord) (f : List Byte) (k : Link) (i : Nat) : Link :=
  if natBit (beFld f 16 2) i then
    { k with paused := fset 0 k.paused i
               (if beFld f (18 + 2 * i) 2 = 0 then 0 else now + BitVec.ofNat 64 (pauseCycles (beFld f (18 + 2 * i) 2))) }
  else k

theorem pfcIn_eq (now : DWord) (f : List Byte) (k : Link) : pfcIn now f k = (List.range 8).foldl (pauseOne now f) k := rfl

theorem pfcIn_area (now : DWord) (f : List Byte) (k : Link) : (pfcIn now f k).area = k.area := by
  rw [pfcIn_eq]
  exact foldl_keeps Link.area _ _ (fun k i => by unfold pauseOne; split <;> rfl) k

theorem fget_pauses (now : DWord) (f : List Byte) (k : Link) (n i : Nat) :
    fget 0 ((List.range n).foldl (pauseOne now f) k).paused i =
      if i < n ∧ natBit (beFld f 16 2) i = true then
        (if beFld f (18 + 2 * i) 2 = 0 then 0 else now + BitVec.ofNat 64 (pauseCycles (beFld f (18 + 2 * i) 2)))
      else fget 0 k.paused i := by
  induction n with
  | zero => simp
  | succ n ih =>
    rw [List.range_succ, List.foldl_append, List.foldl_cons, List.foldl_nil]
    generalize (List.range n).foldl (pauseOne now f) k = k' at ih
    unfold pauseOne
    by_cases hi : n = i
    · rw [hi]
      by_cases hb : natBit (beFld f 16 2) i = true
      · rw [if_pos (c := natBit _ _ = true) hb, if_pos (c := _ ∧ _) ⟨by omega, hb⟩]
        exact fget_fset_same ..
      · rw [if_neg hb, ih, if_neg (by omega), if_neg (by simp [hb])]
    · have hlt : i < n + 1 ↔ i < n := by omega
      simp only [hlt]
      rw [← ih]
      split
      · exact (fget_fset ..).trans (if_neg (Ne.symm hi))
      · rfl

/-! ### A tunnel's datagrams as they go out -/

/-- What the datagrams of a tunnel take from the device: the link's addresses and pauses, the tunnel's entry and the number
expected next, and the region's counter. -/
def State.tunnelEnd (s : State) (l tn : Nat) : (List Byte × List Byte × Nat × FMap DWord) × (List Byte × Nat) × DWord :=
  (((s.link l).mac, (s.link l).ipv6, (s.link l).port, (s.link l).paused),
    (((s.link l).tunnel tn).entry, ((s.link l).tunnel tn).rxNext), (s.region (l / 6)).cycle)

theorem Mails.tunnelEnd (h : Mails s t) (l tn : Nat) : t.tunnelEnd l tn = s.tunnelEnd l tn := by
  obtain ⟨he, hr, -⟩ := h.tunnel l tn
  refine Prod.ext (h.link_proj l (fun k => (k.mac, k.ipv6, k.port, k.paused)) fun _ => rfl) (Prod.ext (Prod.ext he hr) ?_)
  exact h.cycle _

theorem tunnelFrame_congr {k k' : Link} {u u' : Tunnel} (hm : k'.mac = k.mac) (hi : k'.ipv6 = k.ipv6) (hp : k'.port = k.port)
    (he : u'.entry = u.entry) (x y z : Nat) (pay : List Byte) : tunnelFrame k' u' x y z pay = tunnelFrame k u x y z pay := by
  have ht : u'.tag = u.tag := by rw [Tunnel.tag, he, Tunnel.tag]
  unfold tunnelFrame
  rw [hm, hi, hp, ht, he]

theorem tunnelPaused_congr {k k' : Link} {u u' : Tunnel} (hp : k'.paused = k.paused) (he : u'.entry = u.entry) (now : DWord) :
    tunnelPaused now k' u' = tunnelPaused now k u := by
  have ht : u'.tag = u.tag := by rw [Tunnel.tag, he, Tunnel.tag]
  unfold tunnelPaused Tunnel.priority
  rw [hp, ht]

/-- The datagram with the flits `fs` that leaves a tunnel under a number, with the ACK that the tunnel owes. -/
def datagramOut (s : State) (l tn seq : Nat) (fs : List (List Byte)) (o : Out) : Prop :=
  ∃ x y z, o = .tunnel l tn (tunnelFrame (s.link l) ((s.link l).tunnel tn) x y z
    (tunnelHeader seq ((((s.link l).tunnel tn).rxNext + 2 ^ 32 - 1) % 2 ^ 32) fs.length ++ fs.flatten))

theorem tunnelOut_out (s : State) (l tn seq : Nat) (fs : List (List Byte)) :
    ∃ o, (tunnelOut s l tn seq fs).out = o :: s.out ∧ datagramOut s l tn seq fs o := ⟨_, rfl, _, _, _, rfl⟩

theorem datagramOut_congr (h : t.tunnelEnd l tn = s.tunnelEnd l tn) (seq : Nat) (fs : List (List Byte)) (o : Out) :
    datagramOut t l tn seq fs o ↔ datagramOut s l tn seq fs o := by
  simp only [State.tunnelEnd, Prod.mk.injEq] at h
  obtain ⟨⟨hmac, hip, hport, -⟩, ⟨hentry, hrx⟩, -⟩ := h
  unfold datagramOut
  rw [hrx]
  simp only [tunnelFrame_congr hmac hip hport hentry]

/-! ### A tunnel's datagrams as they come in -/

theorem Mails.releaseWindow (s : State) (l tn : Nat) (now : DWord) (ack : Nat) :
    Mails s (s.updLink l fun k => k.updTunnel tn (releaseWindow now ack)) := by
  have h (u : Tunnel) : ((Machine.releaseWindow now ack u).entry, (Machine.releaseWindow now ack u).rxNext,
      (Machine.releaseWindow now ack u).fenced) = (u.entry, u.rxNext, u.fenced) := by
    unfold Machine.releaseWindow
    split
    · rfl
    · dsimp only
      split <;> rfl
  simp only [Prod.mk.injEq] at h
  exact .updTunnel (h _).1 (h _).2.1 (h _).2.2

theorem tunnelEnd_setRx (s : State) (l tn : Nat) (rx : Link → FMap (List (List Byte))) :
    (s.updLink l fun k => { k with rx := rx k }).tunnelEnd l tn = s.tunnelEnd l tn := by
  unfold State.tunnelEnd
  rw [link_updLink_same]
  rfl

theorem payloadIn_tunnelEnd (s : State) (l key tn : Nat) (src : Option (Nat × Nat)) (h : LinkHead) (flit : List Byte) :
    (payloadIn s l key src h flit).tunnelEnd l tn = s.tunnelEnd l tn := by
  cases he : h.eom with
  | false => rw [payloadIn_rest he, tunnelEnd_setRx]
  | true => rw [payloadIn_last he, (Mails.messageIn ..).tunnelEnd, tunnelEnd_setRx]

theorem Sends.payloadIn (key : Nat) (src : Option (Nat × Nat)) (h : LinkHead) (flit : List Byte) (hst : (s.link l).st ≠ 4) :
    Sends s (payloadIn s l key src h flit) := by
  cases he : h.eom with
  | false => rw [payloadIn_rest he]; exact .updLink_area rfl hst
  | true => rw [payloadIn_last he]; exact (Sends.updLink_area rfl hst).trans (.messageIn ..)

theorem tunnelFlits_tunnelEnd (s : State) (l tn : Nat) (fs : List (List Byte)) :
    (tunnelFlits s l tn fs).tunnelEnd l tn = s.tunnelEnd l tn :=
  foldl_keeps (fun s => s.tunnelEnd l tn) _ _ (fun s f => by
    dsimp only
    split
    · exact payloadIn_tunnelEnd ..
    · rfl) s

theorem Sends.tunnelFlits (tn : Nat) (fs : List (List Byte)) (hst : (s.link l).st ≠ 4) : Sends s (tunnelFlits s l tn fs) := by
  unfold Machine.tunnelFlits
  induction fs generalizing s with
  | nil => exact .refl s
  | cons f fs ih =>
    have h1 : Sends s (if (LinkHead.of f).typ = 0 then
        Machine.payloadIn s l (16 + 8 * tn + 2 * (LinkHead.of f).vc + (LinkHead.of f).cls) none (LinkHead.of f) f else s) :=
      .either (.payloadIn _ _ _ _ hst) (.refl s)
    exact h1.trans (ih (by rw [h1.st]; exact hst))

/-- The tunnel once the ACK of a datagram has been taken and what it lets go has gone. -/
def ackTaken (s : State) (l tn : Nat) (b : List Byte) : State :=
  let s1 := s.updLink l fun k => k.updTunnel tn (releaseWindow (s.region (l / 6)).cycle (fld b 4 4))
  drainTunnel l tn ((s1.link l).tunnel tn).queue.length s1

/-- A datagram that is next in order is counted. -/
def countedIn (s : State) (l tn seq : Nat) : State :=
  s.updLink l fun k => k.updTunnel tn fun u => { u with rxNext := (seq + 1) % 2 ^ 32 }

theorem Mails.ackTaken (s : State) (l tn : Nat) (b : List Byte) : Mails s (ackTaken s l tn b) :=
  (Mails.releaseWindow ..).trans (.drainTunnel ..)

theorem Sends.ackTaken (b : List Byte) (ht : tunnelled s l) (h256 : tn < 256) : Sends s (ackTaken s l tn b) :=
  .drainAt ht h256 _ ((Sends.refl s).tunnelAt (.refl s) ht tn _) (.releaseWindow ..)

/-- A datagram next in order that carries data. -/
theorem tunnelIn_data {b : List Byte} (hseq : fld b 0 4 = ((s.link l).tunnel tn).rxNext)
    (hd : ((flitsIn (b.drop 16)).all fun f => (LinkHead.of f).typ == 1) = false) :
    tunnelIn s l tn b
      = tunnelAck (tunnelFlits (countedIn (ackTaken s l tn b) l tn (fld b 0 4)) l tn (flitsIn (b.drop 16))) l tn := by
  have hr : fld b 0 4 = (((ackTaken s l tn b).link l).tunnel tn).rxNext := by
    rw [((Mails.ackTaken s l tn b).tunnel l tn).2.1, hseq]
  unfold tunnelIn
  dsimp only
  rw [if_neg (by simp [hd])]
  exact if_pos hr

theorem countedIn_tunnelEnd (s : State) (l tn seq : Nat) : (countedIn s l tn seq).tunnelEnd l tn
    = ((s.tunnelEnd l tn).1, ((s.tunnelEnd l tn).2.1.1, (seq + 1) % 2 ^ 32), (s.tunnelEnd l tn).2.2) := by
  unfold State.tunnelEnd countedIn
  rw [link_updLink_same]
  dsimp only
  rw [tunnel_updTunnel, if_pos rfl]
  rfl

/-- The tunnel's end of the link when the data of a datagram have come. -/
theorem dataIn_tunnelEnd (s : State) (l tn seq : Nat) (b : List Byte) (fs : List (List Byte)) :
    (tunnelFlits (countedIn (ackTaken s l tn b) l tn seq) l tn fs).tunnelEnd l tn
      = ((s.tunnelEnd l tn).1, ((s.tunnelEnd l tn).2.1.1, (seq + 1) % 2 ^ 32), (s.tunnelEnd l tn).2.2) := by
  rw [tunnelFlits_tunnelEnd, countedIn_tunnelEnd, (Mails.ackTaken ..).tunnelEnd]

theorem dataIn_sends (seq : Nat) (b : List Byte) (fs : List (List Byte)) (ht : tunnelled s l) (h256 : tn < 256) :
    Sends s (tunnelFlits (countedIn (ackTaken s l tn b) l tn seq) l tn fs) := by
  have h1 := (Sends.ackTaken b ht h256).tunnelAt (.ackTaken s l tn b) ht tn fun u => { u with rxNext := (seq + 1) % 2 ^ 32 }
  exact h1.trans (.tunnelFlits tn fs (by rw [h1.st]; exact ht.2))

theorem tunnelAck_cases (s : State) (l tn : Nat) : Sends s (tunnelAck s l tn) ∧ (tunnelAck s l tn).links = s.links := by
  unfold tunnelAck
  dsimp only
  split
  · exact ⟨.refl s, rfl⟩
  · exact ⟨.tunnelOut .., rfl⟩

/-- The datagram that acknowledges what has come, unless the peer has paused the tunnel. -/
theorem tunnelAck_out (h : tunnelPaused (s.region (l / 6)).cycle (s.link l) ((s.link l).tunnel tn) = false) :
    ∃ seq o, (tunnelAck s l tn).out.head? = some o ∧ datagramOut s l tn seq [flitBytes { typ := 1 } []] o := by
  unfold tunnelAck
  dsimp only
  rw [if_neg (by simp [h])]
  obtain ⟨o, ho, hg⟩ :=
    tunnelOut_out s l tn ((((s.link l).tunnel tn).txSeq + 2 ^ 32 - 1) % 2 ^ 32) [flitBytes { typ := 1 } []]
  exact ⟨_, o, by rw [ho]; rfl, hg⟩

theorem tunnelFrom_spec {k : Link} {addr : List Byte} (h : tunnelFrom k addr = some tn) :
    tn < 256 ∧ (k.tunnel tn).valid = true := by
  have hv := List.find?_some h
  exact ⟨List.mem_range.1 (List.mem_of_find?_eq_some h), (Bool.and_eq_true_iff.1 hv).1⟩

/-- The tunnels' datagram of a frame, acknowledged. -/
theorem tunnelIn_spec {b : List Byte} (ht : tunnelled s l) (h256 : tn < 256)
    (hseq : fld b 0 4 = ((s.link l).tunnel tn).rxNext)
    (hd : ((flitsIn (b.drop 16)).all fun f => (LinkHead.of f).typ == 1) = false) :
    OnlyBytes (retryRanges s) s (tunnelIn s l tn b)
      ∧ (((tunnelIn s l tn b).link l).tunnel tn).rxNext = (fld b 0 4 + 1) % 2 ^ 32
      ∧ (tunnelPaused (s.region (l / 6)).cycle (s.link l) ((s.link l).tunnel tn) = false →
          ∃ g seq, (tunnelIn s l tn b).out.head? = some (.tunnel l tn g)
            ∧ ∃ x y z, g = tunnelFrame (s.link l) ((s.link l).tunnel tn) x y z
                (tunnelHeader seq (fld b 0 4) [flitBytes { typ := 1 } []].length ++ [flitBytes { typ := 1 } []].flatten)) := by
  have hsends := dataIn_sends (fld b 0 4) b (flitsIn (b.drop 16)) ht h256
  have hend := dataIn_tunnelEnd s l tn (fld b 0 4) b (flitsIn (b.drop 16))
  rw [tunnelIn_data hseq hd]
  generalize tunnelFlits (countedIn (ackTaken s l tn b) l tn (fld b 0 4)) l tn (flitsIn (b.drop 16)) = v at hsends hend
  simp only [State.tunnelEnd, Prod.mk.injEq] at hend
  obtain ⟨⟨hmac, hip, hport, hpaused⟩, ⟨hentry, hrx⟩, hcyc⟩ := hend
  obtain ⟨hack, hlinks⟩ := tunnelAck_cases v l tn
  refine ⟨(hsends.trans hack).toOnlyRetry.onlyBytes, by rw [link_congr hlinks, hrx], fun hp => ?_⟩
  obtain ⟨seq, o, hout, x, y, z, rfl⟩ := tunnelAck_out (s := v) (l := l) (tn := tn)
    (by rw [hcyc, tunnelPaused_congr hpaused hentry, hp])
  have hlt := fld_lt b 0 4
  refine ⟨_, seq, hout, x, y, z, ?_⟩
  rw [tunnelFrame_congr hmac hip hport hentry, hrx, show ((fld b 0 4 + 1) % 2 ^ 32 + 2 ^ 32 - 1) % 2 ^ 32 = fld b 0 4 by omega]

/-! ### Re-sends and fences of tunnels -/

/-- The datagrams of a window go out again, oldest first. -/
theorem foldl_tunnelOut (ws : List (Nat × List TxFlit)) (s : State) (l tn : Nat) : ∃ outs : List Out,
    (ws.foldl (fun s w => tunnelOut s l tn w.1 (w.2.map tunnelFlit)) s).out = outs.reverse ++ s.out
      ∧ outs.length = ws.length ∧ ∀ p ∈ outs.zip ws, datagramOut s l tn p.2.1 (p.2.2.map tunnelFlit) p.1 := by
  induction ws generalizing s with
  | nil => exact ⟨[], rfl, rfl, by simp⟩
  | cons w ws ih =>
    obtain ⟨o, ho, hg⟩ := tunnelOut_out s l tn w.1 (w.2.map tunnelFlit)
    obtain ⟨outs, hfold, hlen, hall⟩ := ih (tunnelOut s l tn w.1 (w.2.map tunnelFlit))
    refine ⟨o :: outs, ?_, by rw [List.length_cons, hlen, List.length_cons], fun p hp => ?_⟩
    · rw [List.foldl_cons, hfold, ho, List.reverse_cons, List.append_assoc, List.singleton_append]
    · rw [List.zip_cons_cons] at hp
      obtain rfl | hp := List.mem_cons.1 hp
      · exact hg
      · exact (datagramOut_congr rfl ..).1 (hall p hp)

/-- Everything in the window of a tunnel goes out again. -/
theorem tunnelAgain_spec (h : tunnelPaused (s.region (l / 6)).cycle (s.link l) ((s.link l).tunnel tn) = false) :
    ∃ outs : List Out, (((tunnelAgain s l tn).link l).tunnel tn).tried = (s.region (l / 6)).cycle
      ∧ (((tunnelAgain s l tn).link l).tunnel tn).window = ((s.link l).tunnel tn).window
      ∧ (tunnelAgain s l tn).mem = s.mem ∧ (tunnelAgain s l tn).out = outs.reverse ++ s.out
      ∧ outs.length = ((s.link l).tunnel tn).window.length
      ∧ ∀ p ∈ outs.zip ((s.link l).tunnel tn).window, datagramOut s l tn p.2.1 (p.2.2.map tunnelFlit) p.1 := by
  unfold tunnelAgain
  dsimp only
  rw [if_neg (by simp [h])]
  have htried : Mails s (s.updLink l fun k => k.updTunnel tn fun u => { u with tried := (s.region (l / 6)).cycle }) :=
    .updTunnel rfl rfl rfl
  obtain ⟨outs, hout, hlen, hall⟩ := foldl_tunnelOut ((s.link l).tunnel tn).window
    (s.updLink l fun k => k.updTunnel tn fun u => { u with tried := (s.region (l / 6)).cycle }) l tn
  obtain ⟨hmem, hlinks⟩ := Prod.mk.inj (foldl_keeps (fun s : State => (s.mem, s.links)) ((s.link l).tunnel tn).window
    (fun s w => tunnelOut s l tn w.1 (w.2.map tunnelFlit)) (fun _ _ => rfl)
    (s.updLink l fun k => k.updTunnel tn fun u => { u with tried := (s.region (l / 6)).cycle }))
  rw [link_congr hlinks, link_updLink_same, tunnel_updTunnel, if_pos rfl]
  exact ⟨outs, rfl, rfl, hmem, hout, hlen, fun p hp => (datagramOut_congr (htried.tunnelEnd l tn) ..).1 (hall p hp)⟩

/-- A tunnel that is fenced loses what it has sent and what waits. -/
def emptied (u : Tunnel) : Tunnel := { u with fenced := true, window := [], queue := [] }

/-- The messages of a tunnel that is fenced are lost. -/
theorem tunnelFence_spec (hup : linkUp s l 1 = true) (hv : ((s.link l).tunnel tn).valid = true)
    (hw : ((s.link l).tunnel tn).window ≠ [])
    (hc : fenceCycles ≤ ((s.region (l / 6)).cycle - ((s.link l).tunnel tn).since).toNat) :
    (((tunnelFence s l tn).link l).tunnel tn) = emptied ((s.link l).tunnel tn) ∧ (tunnelFence s l tn).mem = s.mem
      ∧ ∀ w ∈ ((s.link l).tunnel tn).window, ∀ f ∈ w.2, ∀ id e, f.op = some id → s.op? id = some e →
          (tunnelFence s l tn).has id fun y => stLINKDOWN ∈ y.stats := by
  have heq : tunnelFence s l tn
      = (((((s.link l).tunnel tn).window.flatMap Prod.snd) ++ ((s.link l).tunnel tn).queue.flatten).filterMap
          TxFlit.op).dedup.foldl lostMessages
            (((s.link l).tunnel tn).queue.flatten.foldl leaves (s.updLink l fun k => k.updTunnel tn emptied)) :=
    if_pos (by simpa [hup, hv, hw] using hc)
  rw [heq]
  generalize hids : List.dedup (α := OpId) _ = ids
  generalize hfs : ((s.link l).tunnel tn).queue.flatten = fs at hids
  have htun := foldl_keeps (fun t : State => (t.link l).config) fs leaves (fun t f => leaves_config t f l)
    (s.updLink l fun k => k.updTunnel tn emptied)
  have hmo := foldl_keeps (fun t : State => (t.mem, t.ops)) fs leaves (fun t f => leaves_mem_ops t f)
    (s.updLink l fun k => k.updTunnel tn emptied)
  generalize fs.foldl leaves (s.updLink l fun k => k.updTunnel tn emptied) = v at htun hmo
  obtain ⟨hmem, hops⟩ := Prod.mk.inj hmo
  obtain ⟨hlm, hll⟩ := Prod.mk.inj
    (foldl_keeps (fun t : State => (t.mem, t.links)) ids lostMessages (fun t j => lostMessages_mem_links t j) v)
  refine ⟨?_, hlm.trans hmem, fun w hw f hf id e ho he => ?_⟩
  · rw [link_congr hll]
    have h : (v.link l).tunnels = _ := congrArg (fun c => c.2.2.2) htun
    rw [Link.tunnel, h, link_updLink_same]
    exact (tunnel_updTunnel ..).trans (if_pos rfl)
  · refine foldl_lostMessages_has ((op?_congr hops id).trans he) (.inl ?_)
    rw [← hids, List.mem_dedup]
    exact List.mem_filterMap.2 ⟨f, List.mem_append_left _ (List.mem_flatMap.2 ⟨w, hw, hf⟩), ho⟩

/-! ### ETHERNET_FRAME_RECEIVE -/

section
variable {f : List Byte} (hup : linkUp s l 1 = true) (hlock : s.mbx.locked = true) (h64 : 64 ≤ f.length)
  (h9k : f.length ≤ 9216)
include hup hlock h64 h9k

theorem frameReceive_taken : frameReceive s l f =
    if isPfc f then drainLink (s.updLink l (pfcIn (s.region (l / 6)).cycle f)) l
    else match (if f.take 6 = (s.link l).mac then udpTo f (s.link l).port else none) with
      | some (addr, b) => match tunnelFrom (s.link l) addr with
        | some t => if tunnelOk b then tunnelIn s l t b else s
        | none => s
      | none =>
        if f.take 6 = (s.link l).mac ∨ isGroup (f.take 6) then s.updLink l fun k => { k with frames := k.frames ++ [f] }
        else s :=
  if_neg (by simp [hup, hlock, h64, h9k])

/-- A priority pause. -/
theorem frameReceive_pause (hp : isPfc f = true) :
    (frameReceive s l f).ops = s.ops
      ∧ ((∀ x ∈ (s.link l).tunnels, x.1 < 256) → OnlyBytes (retryRanges s) s (frameReceive s l f))
      ∧ ∀ i, i < 8 → fget 0 ((frameReceive s l f).link l).paused i =
          if natBit (beFld f 16 2) i then
            (if beFld f (18 + 2 * i) 2 = 0 then 0
             else (s.region (l / 6)).cycle + BitVec.ofNat 64 (pauseCycles (beFld f (18 + 2 * i) 2)))
          else fget 0 (s.link l).paused i := by
  obtain ⟨hst, hm⟩ := linkUp_st hup
  rw [frameReceive_taken hup hlock h64 h9k, if_pos hp]
  have harea := pfcIn_area (s.region (l / 6)).cycle f (s.link l)
  refine ⟨ops_of_unsent (drainLink_unsent ..), fun h256 => ?_, fun i hi => ?_⟩
  · have h1 : Sends s (s.updLink l (pfcIn (s.region (l / 6)).cycle f)) := .updLink_area harea hst
    simp only [Link.area, Prod.mk.injEq] at harea
    obtain ⟨hmode, -, htun, hst'⟩ := harea
    refine (h1.trans (.drainLink ?_ ?_ ?_)).toOnlyRetry.onlyBytes <;> rw [link_updLink_same]
    · rw [hmode, hm]
    · rw [hst']; exact hst
    · rw [htun]; exact h256
  · rw [(Mails.drainLink ..).link_proj l Link.paused fun _ => rfl, link_updLink_same, pfcIn_eq, fget_pauses]
    simp [hi]

/-- A frame for the host. -/
theorem frameReceive_host (hp : isPfc f = false) (hd : f.take 6 = (s.link l).mac ∨ isGroup (f.take 6) = true)
    (hu : f.take 6 = (s.link l).mac → udpTo f (s.link l).port = none) :
    frameReceive s l f = s.updLink l fun k => { k with frames := k.frames ++ [f] } := by
  have hn : (if f.take 6 = (s.link l).mac then udpTo f (s.link l).port else none) = none := by
    split
    · next h => exact hu h
    · rfl
  rw [frameReceive_taken hup hlock h64 h9k, if_neg (by simp [hp]), hn]
  exact if_pos hd

/-- A tunnel's datagram. -/
theorem frameReceive_tunnel {addr b : List Byte} (hp : isPfc f = false) (hd : f.take 6 = (s.link l).mac)
    (hu : udpTo f (s.link l).port = some (addr, b)) (ht : tunnelFrom (s.link l) addr = some tn) (hok : tunnelOk b = true) :
    frameReceive s l f = tunnelIn s l tn b := by
  rw [frameReceive_taken hup hlock h64 h9k, if_neg (by simp [hp]), if_pos hd, hu]
  dsimp only
  rw [ht]
  exact if_pos hok

end

end Sys2Proof.Machine

namespace Sys2Proof

open Machine

/-- Settles O55: each frame by its own equation, and of a tunnel what its datagrams take from its end of the link. -/
theorem ethernetLinks : Obligations.EthernetLinks := by
  intro s l hl hup
  dsimp only
  obtain ⟨hst, hm⟩ := linkUp_st hup
  refine ⟨fun f hlock h64 h9k => ⟨fun hp => ?_, fun hp hd hu => ?_, fun addr b tn hp hd hu ht hok hseq hdata => ?_⟩,
    fun tn htn hv hw => ⟨fun hc => ⟨fun hp => ?_, fun hp => ?_⟩, fun hc => ?_⟩⟩
  · exact ⟨_, congrArg Host.Outcome.next (if_pos hl), frameReceive_pause hup hlock h64 h9k hp⟩
  · exact ⟨_, congrArg Host.Outcome.next ((if_pos hl).trans (frameReceive_host hup hlock h64 h9k hp hd hu)),
      link_updLink_same .., rfl⟩
  · obtain ⟨h256, hvalid⟩ := tunnelFrom_spec ht
    exact ⟨_, congrArg Host.Outcome.next ((if_pos hl).trans (frameReceive_tunnel hup hlock h64 h9k hp hd hu ht hok)),
      tunnelIn_spec ⟨⟨hm, tunnels_of_valid hvalid⟩, hst⟩ h256 hseq hdata⟩
  · have hr : tunnelResend s l tn = tunnelAgain s l tn := if_pos (by simpa [hup, hv, hw] using hc)
    exact congrArg Host.Outcome.next ((if_pos ⟨hl, htn⟩).trans (hr.trans (if_pos hp)))
  · have hr : tunnelResend s l tn = tunnelAgain s l tn := if_pos (by simpa [hup, hv, hw] using hc)
    obtain ⟨outs, htried, hwin, hmem, hout, hlen, hall⟩ := tunnelAgain_spec hp
    refine ⟨_, outs, congrArg Host.Outcome.next ((if_pos ⟨hl, htn⟩).trans hr), htried, hwin, hmem, hout, hlen,
      fun p hq => ?_⟩
    obtain ⟨x, y, z, hg⟩ := hall p hq
    exact ⟨_, hg, x, y, z, rfl⟩
  · obtain ⟨htun, hmem, hlost⟩ := tunnelFence_spec hup hv hw hc
    refine ⟨_, congrArg Host.Outcome.next (if_pos ⟨hl, htn⟩), ?_, ?_, hmem, hlost⟩ <;> rw [htun] <;> rfl

end Sys2Proof
end

section
/-! SUPPORT. Bridle messages of the fabric: heartbeats and silence, lost devices, finalisation notices, UNREACHABLE and bodies
that are discarded (R324 to R329, R335, R347). -/

namespace Sys2Proof.Machine

variable {s t : State} {r l : Nat} {id : OpId} {p : OpEntry → Prop}

/-! ### Heartbeats -/

/-- The rest of the device, beside its links. -/
def State.unlinked (s : State) : State := { s with links := [] }

theorem regions_of_unlinked (h : t.unlinked = s.unlinked) : t.regions = s.regions := (congrArg State.regions h :)

theorem inService_congr (hl : t.link l = s.link l) (h : t.unlinked = s.unlinked) : inService t l = inService s l := by
  have hm : t.mbx = s.mbx := (congrArg State.mbx h :)
  simp only [inService, linkUp, fencedLink, fencedRegion, hl, hm, region_congr (regions_of_unlinked h)]

/-- The HEARTBEAT of a link. -/
def beatMsg (s : State) (r l : Nat) : Msg :=
  { bridleMsg (regionAddr (s.link l).peerId 0) 1 (beatBody s r l) with srcId := s.hub.deviceId, srcRegion := r }

/-- Its one flit. -/
def beatFlit (s : State) (r l : Nat) : TxFlit :=
  { payload := msgHeader (beatMsg s r l) ++ (beatMsg s r l).data, som := true, eom := true, region := some r }

theorem length_bridleData (dest typ : Nat) (body : List Byte) : (bridleMsg dest typ body).data.length = 224 := by
  simp only [bridleMsg, List.length_append, length_leBytes, List.length_take, List.length_replicate]
  omega

/-- A Bridle message fits in one flit. -/
theorem flitsOf_short {m : Msg} (h : m.data.length ≤ 224) (cls : Nat) (op : Option OpId) : flitsOf m cls op
    = [{ payload := msgHeader m ++ m.data, vc := vcOf m.op, cls := cls, som := true, eom := true, op := op }] := by
  have hl : (msgHeader m ++ m.data).length ≤ 240 := by
    rw [List.length_append, msgHeader, length_leBytes]
    omega
  have hp : payloads 32 (msgHeader m ++ m.data) = [msgHeader m ++ m.data] := if_pos hl
  rw [flitsOf, hp]
  rfl

theorem sendBeat_eq (s : State) (r l : Nat) : sendBeat r s l =
    if inService s l then s.updLink l (enqueue (s.region r).cycle [beatFlit s r l]) else s := by
  have hf : ((flitsOf (beatMsg s r l) 0 none).map fun f => { f with region := some r }) = [beatFlit s r l] := by
    rw [flitsOf_short (m := beatMsg s r l) (length_bridleData (regionAddr (s.link l).peerId 0) 1 (beatBody s r l)).le]
    rfl
  rw [← hf]
  rfl

/-- What a HEARTBEAT shows of a link: the link itself, and the rest of the device. -/
def beatView (l : Nat) (s : State) : Link × State := (s.link l, s.unlinked)

theorem sendBeat_other (s : State) {i j : Nat} (h : i ≠ j) : beatView i (sendBeat r s j) = beatView i s := by
  rw [sendBeat_eq]
  split
  · exact Prod.ext ((State.link_updLink ..).trans (if_neg h)) rfl
  · rfl

theorem beatFlit_congr (hl : t.link l = s.link l) (h : t.unlinked = s.unlinked) : beatFlit t r l = beatFlit s r l := by
  have hh : t.hub = s.hub := (congrArg State.hub h :)
  simp only [beatFlit, beatMsg, beatBody, hl, hh, region_congr (regions_of_unlinked h)]

/-- The state in which a region's period starts anew. -/
def beatStarts (s : State) (r : Nat) : State := s.updRegion r fun g => { g with lastBeat := (s.region r).cycle }

theorem heartbeatTimer_due (hf : fencedRegion s r = false)
    (hb : beatCycles ≤ ((s.region r).cycle - (s.region r).lastBeat).toNat) :
    heartbeatTimer s r = ((List.range 6).map (6 * r + ·)).foldl (sendBeat r) (beatStarts s r) := by
  unfold heartbeatTimer
  dsimp only
  rw [if_pos (by simp only [hf, hb, decide_true]; rfl)]
  rfl

theorem foldl_sendBeat_unlinked (ls : List Nat) (s : State) : (ls.foldl (sendBeat r) s).unlinked = s.unlinked :=
  foldl_keeps State.unlinked _ _ (fun s l => by
    rw [sendBeat_eq]
    split <;> rfl) s

/-- Every link in service, of those that are asked, is offered its HEARTBEAT. -/
theorem foldl_sendBeat_link {ls : List Nat} (hn : ls.Nodup) (hl : l ∈ ls) (hs : inService s l = true) :
    (ls.foldl (sendBeat r) s).link l = enqueue (s.region r).cycle [beatFlit s r l] (s.link l) := by
  obtain ⟨t, ht, hfold⟩ := foldl_own (view := beatView) (f := sendBeat r) (fun s _ _ h => sendBeat_other s h) hn hl s
  obtain ⟨hk, hu⟩ := Prod.mk.inj ht
  obtain ⟨hown, -⟩ := Prod.mk.inj hfold
  rw [hown, sendBeat_eq, if_pos ((inService_congr hk hu).trans hs), link_updLink_same, hk, beatFlit_congr hk hu,
    region_congr (regions_of_unlinked hu)]

theorem nodup_linksOf (r : Nat) : ((List.range 6).map (6 * r + ·)).Nodup := List.nodup_range.map fun a b h => by simpa using h

theorem mem_linksOf (r : Nat) {j : Nat} (hj : j < 6) : 6 * r + j ∈ (List.range 6).map (6 * r + ·) :=
  List.mem_map.2 ⟨j, List.mem_range.2 hj, rfl⟩

theorem beatFlit_type (s : State) (r l : Nat) : ((beatFlit s r l).payload.drop 16).take 2 = leBytes 2 1 := by
  have h : (msgHeader (beatMsg s r l)).length = 16 := length_leBytes ..
  change ((msgHeader (beatMsg s r l) ++ (leBytes 2 1 ++ _)).drop 16).take 2 = _
  rw [← h, List.drop_left]
  exact List.take_left' (length_leBytes ..)

/-- A Bridle flit that finds none waiting, and that may be offered, joins the queue. -/
theorem enqueue_offered {now : DWord} {f : TxFlit} {k : Link} (hv : f.vc = 0) (hr : f.region.isSome = true)
    (hw : k.bridleWait = []) (hm : mayOffer now k f = true) : (enqueue now [f] k).txq = k.txq ++ [f] := by
  have hm' : mayOffer now { k with bridleWait := [f] } f = true := hm
  have hq : enqueue now [f] k = offerOne now { k with bridleWait := [f] } := by
    unfold enqueue
    rw [if_pos (by simp [hv, hr]), hw]
    rfl
  rw [hq]
  unfold offerOne
  rw [List.find?_singleton, if_pos hm']
  rfl

theorem beatStarts_cycle (s : State) (r : Nat) : ((beatStarts s r).region r).cycle = (s.region r).cycle := by
  rw [beatStarts, State.region_updRegion, if_pos rfl]

theorem inService_beatStarts (s : State) (r l : Nat) : inService (beatStarts s r) l = inService s l := by
  have hfence (i : Nat) : ((beatStarts s r).region i).fence = (s.region i).fence := by
    rw [beatStarts, State.region_updRegion]
    split
    · next e => rw [e]
    · rfl
  have hl : (beatStarts s r).link l = s.link l := rfl
  have hm : (beatStarts s r).mbx = s.mbx := rfl
  simp only [inService, linkUp, fencedLink, fencedRegion, hfence, hl, hm]

/-- What HEARTBEAT_TIMER does when the period is over. -/
theorem heartbeatTimer_spec (hf : fencedRegion s r = false)
    (hb : beatCycles ≤ ((s.region r).cycle - (s.region r).lastBeat).toNat) :
    ((heartbeatTimer s r).region r).lastBeat = (s.region r).cycle ∧ (heartbeatTimer s r).mem = s.mem
      ∧ ∀ j, j < 6 → inService s (6 * r + j) = true →
          ∃ f, (heartbeatTimer s r).link (6 * r + j) = enqueue (s.region r).cycle [f] (s.link (6 * r + j)) ∧ f.vc = 0
            ∧ f.typ = 0 ∧ f.region = some r ∧ (f.payload.drop 16).take 2 = leBytes 2 1
            ∧ ((s.link (6 * r + j)).bridleWait = [] → mayOffer (s.region r).cycle (s.link (6 * r + j)) f = true →
                ((heartbeatTimer s r).link (6 * r + j)).txq = (s.link (6 * r + j)).txq ++ [f]) := by
  rw [heartbeatTimer_due hf hb]
  have hn := nodup_linksOf r
  have hmem := fun j => mem_linksOf r (j := j)
  generalize (List.range 6).map (6 * r + ·) = ls at hn hmem
  have hkeep := foldl_sendBeat_unlinked (r := r) ls (beatStarts s r)
  refine ⟨?_, (congrArg State.mem hkeep :), fun j hj hs => ?_⟩
  · rw [region_congr (regions_of_unlinked hkeep), beatStarts, State.region_updRegion, if_pos rfl]
  · have hlink := foldl_sendBeat_link (r := r) hn (hmem j hj) ((inService_beatStarts s r _).trans hs)
    rw [beatStarts_cycle] at hlink
    refine ⟨_, hlink, rfl, rfl, rfl, beatFlit_type .., fun hw hm => ?_⟩
    rw [hlink]
    exact enqueue_offered rfl rfl hw hm

/-! ### HEARTBEAT -/

theorem takeBridle_cycle (s : State) (r typ : Nat) (b : List Byte) (i : Nat) :
    ((takeBridle s r typ b).region i).cycle = (s.region i).cycle := by
  rw [takeBridle, State.region_updRegion]
  split
  · next e => rw [e]
  · rfl

/-! ### A lost device: its collectives -/

/-- A region's collective that cannot go on without the device. -/
def needs (s : State) (dev : Nat) (c : Coll) : Bool := liveColl s c && namesDev dev c && cPolicy c.body == 0

/-- It ends. -/
def collEnds (r : Nat) (s : State) (c : Coll) : State :=
  bumpPlc ((s.updRegion r fun g =>
      { g with colls := g.colls.filter (fun x => x.op != c.op),
               shards := g.shards.filter fun x => !(x.cid == cCid c.body && x.step == c.step) }).finishOp c.op stTIMEOUT)
    r 0x20 1

theorem pleacherLost_eq (s : State) (r dev : Nat) :
    pleacherLost s r dev = ((s.region r).colls.filter (needs s dev)).foldl (collEnds r) s := rfl

theorem pleacherLost_links (s : State) (r dev : Nat) : (pleacherLost s r dev).links = s.links :=
  foldl_keeps State.links _ (collEnds r) (fun _ _ => rfl) s

/-- The operation has met TIMEOUT, and holds nothing that an abort would drop. -/
def timedOutOp (y : OpEntry) : Prop := stTIMEOUT ∈ y.stats ∧ y.phase ≠ .preempted

theorem finish_phase (st : Nat) (e : OpEntry) : (e.finish st).phase ≠ .preempted := by
  unfold OpEntry.finish
  split
  · next h => rw [h]; decide
  · exact Phase.noConfusion

theorem stays_timedOut : Stays timedOutOp := fun st y ⟨hm, hp⟩ =>
  ⟨⟨mem_addStat_of_mem hm st, by rwa [addStat_phase]⟩, finish_stats hm, finish_phase st y⟩

theorem collEnds_has {c : Coll} (h : s.has id p) (hp : ∀ y, p y → p (y.finish stTIMEOUT)) : (collEnds r s c).has id p :=
  (has_congr rfl).2 (has_updOp c.op (finish_id stTIMEOUT) hp ((has_congr (t := s.updRegion r _) rfl).2 h))

/-- A running operation of a collective that ends meets TIMEOUT. -/
theorem collEnds_own {c : Coll} {e : OpEntry} (h : s.op? c.op = some e) (hp : e.phase = .running) :
    (collEnds r s c).has c.op timedOutOp :=
  ⟨_, op?_finishOp_self (s := s.updRegion r _) stTIMEOUT h (by simp [hp]), mem_addStat _ _ (by decide), Phase.noConfusion⟩

/-- Every operation of such a collective meets TIMEOUT. -/
theorem foldl_collEnds_has {ls : List Coll} {c : Coll} (hc : c ∈ ls)
    (h : s.has c.op fun y => y.phase = .running ∨ timedOutOp y) :
    (ls.foldl (collEnds r) s).has c.op timedOutOp := by
  induction ls generalizing s with
  | nil => cases hc
  | cons x ls ih =>
    have hdone : ∀ (ls : List Coll) (v : State), v.has c.op timedOutOp → (ls.foldl (collEnds r) v).has c.op timedOutOp := by
      intro ls
      induction ls with
      | nil => exact fun v hv => hv
      | cons y ls ih => exact fun v hv => ih _ (collEnds_has hv fun z hz => (stays_timedOut _ z hz).2)
    obtain ⟨e, he, hrun | htimed⟩ := h
    · by_cases hx : c.op = x.op
      · have hown := collEnds_own (r := r) (c := x) (hx ▸ he) hrun
        rw [← hx] at hown
        exact hdone ls _ hown
      · refine ih ((List.mem_cons.1 hc).resolve_left fun e => hx (congrArg Coll.op e)) ⟨e, ?_, .inl hrun⟩
        exact (State.op?_finishOp ..).trans ((if_neg hx).trans he)
    · exact hdone (x :: ls) s ⟨e, he, htimed⟩

theorem pleacherLost_has {c : Coll} {dev : Nat} (hc : c ∈ (s.region r).colls) (hl : liveColl s c = true)
    (hd : namesDev dev c = true) (hw : cPolicy c.body = 0) : (pleacherLost s r dev).has c.op timedOutOp := by
  rw [pleacherLost_eq]
  refine foldl_collEnds_has (List.mem_filter.2 ⟨hc, by simp [needs, hl, hd, hw]⟩) ?_
  unfold liveColl at hl
  split at hl
  · next e he => exact ⟨e, he, .inl (by simpa using hl)⟩
  · cases hl

/-! ### A lost device: the commit tree -/

/-- Losing a device of the group notes a NO of its rank. The device then votes, or decides: what the tree's messages and the
results ABANDON and WITHDRAW keep, it keeps. -/
theorem treeLost_keeps {P : State → Prop} (hput : ∀ s x, P s → P (putRound s x))
    (hsend : ∀ s rank typ body, P s → P (treeSend s rank typ body))
    (habandon : ∀ s step rec_ reason k dur, P s → P (applyAbandon s step rec_ reason k dur))
    (hwithdraw : ∀ s step, P s → P (applyWithdraw s step)) (dev : Nat) (h : P s) : P (treeLost s dev) := by
  have hpass (v : State) (phase rec_ reason step dur k : Nat) (hv : P v) :
      P (passResult v (if phase = 0 then 1 else 3) rec_ reason step dur k) := by
    have hdown (body : List Byte) (cs : List Nat) (v : State) (hv : P v) : P (cs.foldl (fun s c => treeSend s c 6 body) v) := by
      induction cs generalizing v with
      | nil => exact hv
      | cons c cs ih => exact ih _ (hsend v c 6 body hv)
    unfold passResult
    dsimp only
    split
    · exact habandon _ _ _ _ _ _ (hdown _ _ v hv)
    · exact hwithdraw _ _ (hdown _ _ v hv)
  have hsettle (step phase rank : Nat) :
      P (settleRound (putRound s ((roundAt s step phase).addVote (rank, false, 5, 0, rank))) step phase) := by
    have hv := hput s ((roundAt s step phase).addVote (rank, false, 5, 0, rank)) h
    have hx := roundAt_addVote s step phase (rank, false, 5, 0, rank)
    generalize putRound s _ = v at hv hx
    unfold settleRound
    dsimp only
    rw [hx]
    split
    · exact hv
    · next own _ =>
      obtain ⟨reason, k, hno⟩ := firstNoOf_isSome (x := (roundAt s step phase).addVote (rank, false, 5, 0, rank))
        (by simp [Round.addVote]) own
      have hvote : nodeVote v own ((roundAt s step phase).addVote (rank, false, 5, 0, rank)) = some (false, reason, k) := by
        unfold nodeVote
        rw [hno]
      rw [hvote]
      split
      · exact hv
      · dsimp only
        split
        · exact hpass _ _ _ _ _ _ _ (hput _ _ hv)
        · exact hsend _ _ _ _ (hput _ _ hv)
  unfold treeLost childVote
  dsimp only
  split
  · split
    · split
      · exact h
      · exact hsettle _ _ _
    · exact h
  · exact h

/-! #### It leaves the links' marks -/

theorem gthOpen_links (s : State) (n : Nat) : (gthOpen s n).links = s.links := by
  have hcopy (a : Nat) (b : List Byte) (u : State) : (gthCopy a b u).links = u.links := by
    unfold gthCopy
    split
    · exact memWrite_links ..
    · rfl
  have hblk (off : Nat) (b : List Byte) (u : State) :
      ((List.range 20).foldl (fun s k => if fencedBlock s k then s else gthCopy (blkAddr k + off) b s) u).links = u.links :=
    foldl_keeps State.links _ _ (fun v k => by
      split
      · rfl
      · exact hcopy ..) u
  unfold gthOpen
  extract_lets s1
  have h1 : s1.links = s.links := by
    dsimp only [s1]
    split <;> rfl
  clear_value s1
  split
  · exact h1
  · refine Eq.trans ?_ h1
    change State.links (ite _ _ _) = _
    split
    · exact hblk _ _ _
    · exact (hcopy ..).trans (hblk _ _ _)

theorem tlmClose_links (s : State) (r flags : Nat) : (tlmClose s r flags).links = s.links := by
  change (tlmWrite s r).links = s.links
  unfold tlmWrite
  extract_lets m a wr s1
  have h1 : s1.links = s.links := by
    dsimp only [s1]
    split
    · exact memWrite_links ..
    · rfl
  clear_value s1
  split
  · exact h1
  · rfl

theorem openStep_links (s : State) (n flags : Nat) (restored : Bool) : (openStep s n flags restored).links = s.links := by
  unfold openStep
  extract_lets s1 s2 s3 s4
  have h1 : s1.links = s.links :=
    foldl_keeps State.links _ (fun s r => tlmClose s r flags) (fun s r => tlmClose_links s r flags) s
  clear_value s1
  exact (gthOpen_links s2 n).trans h1

theorem links_of_media (h : t.media = s.media) : t.links = s.links := congrArg (fun m => m.2.2) h

theorem applyAbandon_links (s : State) (step rec_ reason k dur : Nat) :
    (applyAbandon s step rec_ reason k dur).links = s.links := by
  have h1 : (endCommit (abandonStep s step) stABANDONED 1 reason k dur).links = s.links :=
    links_of_media ((endCommit_media ..).trans (abandonStep_media ..))
  unfold applyAbandon
  extract_lets s1 s2
  have h2 : s2.links = s.links := h1
  clear_value s2
  split
  · exact (openStep_links ..).trans h2
  · exact h2

theorem treeLost_unresponsive (dev : Nat) (h : (s.link l).unresponsive = true) :
    ((treeLost s dev).link l).unresponsive = true :=
  treeLost_keeps (P := fun s => (s.link l).unresponsive = true) (fun _ _ h => h)
    (fun _ _ _ _ h => ((Mails.reachBridle ..).link_proj l Link.unresponsive fun _ => rfl).trans h)
    (fun s step rec_ reason k dur h => by rw [link_congr (applyAbandon_links s step rec_ reason k dur)]; exact h)
    (fun s step h => by rw [link_congr (links_of_media (applyWithdraw_media s step))]; exact h) dev h

/-! #### It leaves the TIMEOUT of an operation -/

theorem markAbort_timedOut (i : OpId) (h : s.has id timedOutOp) : (markAbort s i).has id timedOutOp := by
  obtain ⟨y, hy, hm, hp⟩ := h
  unfold markAbort
  split
  · exact ⟨y, hy, hm, hp⟩
  · next e he =>
    split
    · exact ⟨y, hy, hm, hp⟩
    · next hpre =>
      have hne : id ≠ i := fun c => hp (by rw [c, he] at hy; cases hy; exact hpre)
      refine ⟨y, ?_, hm, hp⟩
      rw [op?_dropOp_other hne, op?_congr (ops_of_besideUnits (dropKept_besideUnits s i)), hy]
    · refine has_updOp i (addStat_id stABORTED) (fun z hz => ⟨mem_addStat_of_mem hz.1 _, Phase.noConfusion⟩) ?_
      exact (has_congr (ops_of_besideUnits (stopped_besideUnits s i))).2 ⟨y, hy, hm, hp⟩

theorem foldl_markAbort_timedOut (es : List OpEntry) (h : s.has id timedOutOp) :
    (es.foldl (fun s e => markAbort s e.id) s).has id timedOutOp := by
  induction es generalizing s with
  | nil => exact h
  | cons e es ih => exact ih (markAbort_timedOut e.id h)

theorem abandonStep_timedOut (n : Nat) (h : s.has id timedOutOp) : (abandonStep s n).has id timedOutOp := by
  unfold abandonStep abortColls abortStep
  refine (has_congr (foldl_keeps State.ops _ _ (by intro s r; rfl) _)).2 ?_
  exact foldl_markAbort_timedOut _ (foldl_markAbort_timedOut _ h)

theorem has_updHrw (f : Hrw → Hrw) (h : s.has id p) : (s.updHrw f).has id p := h

theorem endCommit_timedOut (st result reason k dur : Nat) (h : s.has id timedOutOp) :
    (endCommit s st result reason k dur).has id timedOutOp := by
  unfold endCommit
  split
  · exact h
  · next i _ _ _ =>
    extract_lets s1
    have h1 : s1.has id timedOutOp := by
      refine has_finishOp stays_timedOut i st ?_
      split
      · exact has_addStat stays_timedOut i _ h
      · exact h
    clear_value s1
    refine has_updHrw _ (has_updOp i (fun e => ?_) (fun y hy => ?_) h1)
    · split <;> rfl
    · split
      · exact hy
      · exact ⟨hy.1, hy.2⟩

theorem applyAbandon_timedOut (step rec_ reason k dur : Nat) (h : s.has id timedOutOp) :
    (applyAbandon s step rec_ reason k dur).has id timedOutOp := by
  have h1 := endCommit_timedOut stABANDONED 1 reason k dur (abandonStep_timedOut step h)
  unfold applyAbandon
  extract_lets s1 s2
  have h2 : s2.has id timedOutOp := (has_congr rfl).2 h1
  clear_value s2
  split
  · exact (has_congr (openStep_spec ..).2).2 h2
  · exact (has_congr rfl).2 h2

theorem applyWithdraw_timedOut (step : Nat) (h : s.has id timedOutOp) : (applyWithdraw s step).has id timedOutOp := by
  unfold applyWithdraw
  extract_lets lost s1 s2
  have h1 : s1.has id timedOutOp := endCommit_timedOut _ _ _ _ _ (abandonStep_timedOut (step + 1) h)
  clear_value s1
  have h2 : s2.has id timedOutOp := (has_congr (s := s1) rfl).2 h1
  clear_value s2
  exact (has_congr (s := s2) rfl).2 h2

theorem treeLost_timedOut (dev : Nat) (h : s.has id timedOutOp) : (treeLost s dev).has id timedOutOp :=
  treeLost_keeps (P := fun s => s.has id timedOutOp) (fun _ _ h => (has_congr rfl).2 h)
    (fun s rank typ body h => (has_congr (ops_of_unsent (treeSend_unsent s rank typ body))).2 h)
    (fun _ _ _ _ _ _ h => applyAbandon_timedOut _ _ _ _ _ h) (fun _ _ h => applyWithdraw_timedOut _ h) dev h

/-! ### UNREACHABLE, and the other bodies -/

theorem takeBridle_region (s : State) (r typ : Nat) (b : List Byte) :
    (takeBridle s r typ b).region r = { s.region r with inbox := (s.region r).inbox.eraseP (isBridle typ b) } := by
  rw [takeBridle, State.region_updRegion, if_pos rfl]

/-- What leaves through the management port. -/
theorem sendOob_out {dev typ : Nat} {body a : List Byte} (h : peerOf s dev = some a) :
    ∃ d : Datagram, (sendOob s dev typ body).1.out = .oob a d :: s.out ∧ d.typ = 0x20
      ∧ d.body = leBytes 2 typ ++ (body ++ List.replicate 222 0).take 222 := by
  obtain ⟨q, hq, rfl⟩ := Option.map_eq_some_iff.1 h
  unfold sendOob
  rw [hq]
  exact ⟨_, rfl, rfl, rfl⟩

theorem sendOob_mem (s : State) (dev typ : Nat) (body : List Byte) : (sendOob s dev typ body).1.mem = s.mem := by
  unfold sendOob
  split <;> rfl

/-- UNREACHABLE for this region reaches the part that its operation names. -/
theorem unreachable_ours {b : List Byte} (hok : bridleBodyOk 8 b = true) (hd : fld b 8 2 = s.hub.deviceId)
    (hr : fld b 0x0A 1 = r) : unreachable s r b = match fld b 0x0B 1 with
      | 0 => writeLost (takeBridle s r 8 b) r (fld b 0x0C 2)
      | 1 => readLost (takeBridle s r 8 b) r (fld b 0x0C 2)
      | 4 => collLost (takeBridle s r 8 b) r (devOf (fld b 0 8))
      | 5 => collLost (takeBridle s r 8 b) r (devOf (fld b 0 8))
      | 6 => bridleAgain (takeBridle s r 8 b) r (fld b 0x0C 2)
      | _ => takeBridle s r 8 b :=
  if_neg (by simp [hok, hd, hr])

theorem writeLost_spec {mtag : Nat} {q : Nat × OpId} {e : OpEntry}
    (hq : ((s.region r).wrote.find? fun p => p.1 == mtag) = some q) (he : s.op? q.2 = some e) :
    (∃ y, (writeLost s r mtag).op? q.2 = some y ∧ stLINKDOWN ∈ y.stats) ∧ (writeLost s r mtag).mem = s.mem := by
  unfold writeLost
  rw [hq]
  refine ⟨⟨e.addStat stLINKDOWN, ?_, mem_addStat _ _ (by decide)⟩, rfl⟩
  exact (State.op?_addStat ..).trans (by rw [if_pos rfl, he]; rfl)

/-- A Bridle message that the region remembers goes out again. -/
theorem bridleAgain_spec {mtag dev typ : Nat} {body a : List Byte}
    (hb : fget (0, 0, []) (s.region r).bridles mtag = (dev, typ, body)) (ht : typ ≠ 0) (ha : peerOf s dev = some a) :
    (∃ d : Datagram, (bridleAgain s r mtag).out = .oob a d :: s.out ∧ d.typ = 0x20
        ∧ d.body = leBytes 2 typ ++ (body ++ List.replicate 222 0).take 222)
      ∧ (bridleAgain s r mtag).mem = s.mem ∧ (bridleAgain s r mtag).ops = s.ops := by
  have heq : bridleAgain s r mtag = (sendOob (s.updRegion r fun g =>
      { g with bridles := fset (0, 0, []) g.bridles mtag (0, 0, []) }) dev typ body).1 := by
    unfold bridleAgain
    rw [hb]
    exact if_neg ht
  rw [heq]
  exact ⟨sendOob_out (s := s.updRegion r _) ha, sendOob_mem .., ops_of_unsent (sendOob_unsent ..)⟩

/-- A notice of a collective that is not active here is remembered. -/
theorem plcFinal_notes {b : List Byte} (hz : zeros b 0x1C 222 = true)
    (ha : ((s.region r).colls.any fun c => cCid c.body == fld b 0 4 && c.step == fld b 8 8) = false) :
    (plcFinal s r b).mem = s.mem ∧ (plcFinal s r b).ops = s.ops
      ∧ (fld b 0 4, fld b 8 8, fld b 4 4, fld b 0x13 1) ∈ ((plcFinal s r b).region r).finals := by
  unfold plcFinal
  dsimp only
  rw [if_neg (by simp [hz]), ha, Bool.false_or]
  split
  · next hc => exact ⟨rfl, rfl, List.contains_iff_mem.1 hc⟩
  · refine ⟨rfl, rfl, ?_⟩
    rw [State.region_updRegion, if_pos rfl]
    exact List.mem_append_right _ (List.mem_singleton.2 rfl)

/-- What a body that breaks its table leaves. -/
theorem bridleBad_spec {typ : Nat} {b : List Byte} (h : bridleBodyOk typ b = false) :
    fget 0 ((bridleBad s l typ b).link l).ctr 0x48 = fget 0 (s.link l).ctr 0x48 + 1
      ∧ (bridleBad s l typ b).mem = s.mem ∧ (bridleBad s l typ b).ops = s.ops := by
  have hkeep := foldl_keeps (fun s : State => (s.links, s.mem, s.ops)) (List.range 4) (fun s r => takeBridle s r typ b)
    (fun _ _ => rfl) s
  have heq : bridleBad s l typ b
      = ((List.range 4).foldl (fun s r => takeBridle s r typ b) s).updLink l (Link.bump offBridleBad 1) :=
    if_neg (by simp [h])
  rw [heq]
  generalize (List.range 4).foldl (fun s r => takeBridle s r typ b) s = v at hkeep
  simp only [Prod.mk.injEq] at hkeep
  obtain ⟨hl, hm, ho⟩ := hkeep
  refine ⟨?_, hm, ho⟩
  rw [link_updLink_same, link_congr hl]
  exact fget_ctrAdd ..

/-- A silent peer is marked. -/
theorem peerSilence_marks (hup : linkUp s l 0 = true) (hu : (s.link l).unresponsive = false)
    (ht : silenceCycles ≤ ((s.region (l / 6)).cycle - (s.link l).lastRx).toNat) :
    ((peerSilence s l).link l).unresponsive = true := by
  unfold peerSilence
  dsimp only
  rw [if_pos (by simp only [hup, hu, ht, decide_true]; rfl)]
  refine treeLost_unresponsive _ ?_
  rw [link_congr (pleacherLost_links ..)]
  refine ((Mails.foldl _ (fun s w => Mails.reachBridle ..) _).link_proj l Link.unresponsive fun _ => rfl).trans ?_
  rw [link_updLink_same]

/-! ### O54 -/

/-- Settles O54. A lost device's NO goes to the commit tree, which keeps what the links' marks and the ended collectives have;
every other clause is an equation of its command. -/
theorem fabricMessages : Obligations.FabricMessages := by
  intro s r l b hr hl
  dsimp only
  refine ⟨fun hf hd => ?_, fun hok => ?_, fun hup hu ht => ?_, fun hok c hc hlive hdev hpol => ?_, fun hok ha => ?_,
    fun hok hd hreg => ⟨fun h0 q e hq he => ?_, fun h6 dev typ body a hb ht ha => ?_⟩, fun typ hbad => ?_⟩
  · exact ⟨_, congrArg Host.Outcome.next (if_pos hr), heartbeatTimer_spec hf hd⟩
  · have hk := heard_link (takeBridle s r 1 b) l
    rw [takeBridle_cycle] at hk
    refine ⟨_, congrArg Host.Outcome.next ((if_pos ⟨hr, hl⟩).trans (if_pos hok)), ?_, ?_, rfl, rfl⟩ <;> rw [hk] <;> rfl
  · exact ⟨_, congrArg Host.Outcome.next (if_pos hl), peerSilence_marks hup hu ht⟩
  · have hcoll : c ∈ ((takeBridle s r 2 b).region r).colls := by
      rw [takeBridle_region]
      exact hc
    obtain ⟨y, hy, hm, -⟩ := treeLost_timedOut (fld b 0 2)
      (pleacherLost_has (s := takeBridle s r 2 b) (dev := fld b 0 2) hcoll hlive hdev hpol)
    exact ⟨_, y, congrArg Host.Outcome.next ((if_pos hr).trans (if_pos hok)), hy, hm⟩
  · refine ⟨_, congrArg Host.Outcome.next ((if_pos hr).trans (if_pos hok)), plcFinal_notes (s := takeBridle s r 7 b) hok ?_⟩
    rw [takeBridle_region]
    exact ha
  · have heq := unreachable_ours hok hd hreg
    rw [h0] at heq
    obtain ⟨⟨y, hy, hm⟩, hmem⟩ := writeLost_spec (s := takeBridle s r 8 b) (r := r) (e := e)
      (by rw [takeBridle_region]; exact hq) he
    exact ⟨_, y, congrArg Host.Outcome.next ((if_pos hr).trans heq), hy, hm, hmem⟩
  · have heq := unreachable_ours hok hd hreg
    rw [h6] at heq
    obtain ⟨⟨d, hout, htyp, hbody⟩, hmem, hops⟩ :=
      bridleAgain_spec (s := takeBridle s r 8 b) (r := r) (by rw [takeBridle_region]; exact hb) ht ha
    exact ⟨_, d, congrArg Host.Outcome.next ((if_pos hr).trans heq), hout, htyp, hbody, hmem, hops⟩
  · exact ⟨_, congrArg Host.Outcome.next (if_pos hl), bridleBad_spec hbad⟩

end Sys2Proof.Machine
end

section
/-! SUPPORT. Control operations between devices: requests and their time-outs, requests of other devices, answers, and the
watchdog (R325, R329, R398, R399). -/

namespace Sys2Proof.Machine

variable {s t u : State} {e x : OpEntry} {id : OpId} {p : OpEntry → Prop}

/-! ### The end of a control operation -/

/-- The statuses after one more depend on the statuses alone. -/
theorem addStat_stats_congr {y : OpEntry} (h : x.stats = y.stats) (st : Nat) : (x.addStat st).stats = (y.addStat st).stats := by
  unfold OpEntry.addStat
  rw [h]
  split
  · exact h
  · rfl

/-- A control operation that ends, and waits for no answer. -/
def ctrlOver (s : State) (id : OpId) (st : Nat) (d0 d1 : DWord) : State :=
  (ctrlEnd s id st d0 d1).updOp id fun x => { x with sent := none }

theorem ctrlEnd_op? {y : OpEntry} (h : s.op? id = some y) (st : Nat) (d0 d1 : DWord) :
    (ctrlEnd s id st d0 d1).op? id = some { y.addStat st with phase := .finished, d0 := d0, d1 := d1 } :=
  op?_updOp_self (f := fun e => { e.addStat st with phase := .finished, d0 := d0, d1 := d1 }) (fun e => addStat_id st e) h

theorem ctrlOver_op? {y : OpEntry} (h : s.op? id = some y) (st : Nat) (d0 d1 : DWord) :
    (ctrlOver s id st d0 d1).op? id = some { y.addStat st with phase := .finished, d0 := d0, d1 := d1, sent := none } :=
  op?_updOp_self (f := fun x => { x with sent := none }) (fun _ => rfl) (ctrlEnd_op? h st d0 d1)

theorem ctrlOver_ends {y : OpEntry} (h : s.op? e.id = some y) (hs : y.stats = e.stats) (st : Nat) (d0 d1 : DWord) :
    Ends (ctrlOver s e.id st d0 d1) e st := ⟨_, ctrlOver_op? h st d0 d1, rfl, addStat_stats_congr hs st⟩

theorem ctrlOver_ops (s : State) (id : OpId) (st : Nat) (d0 d1 : DWord) : OnlyOps s (ctrlOver s id st d0 d1) := rfl

/-! ### A Bridle message on its way -/

theorem takeTag_roads (s : State) (r : Nat) : (takeTag s r).2.roads = s.roads := by
  refine Prod.ext rfl (Prod.ext rfl (funext fun i => ?_))
  change (((s.updRegion r _).region i).routes, ((s.updRegion r _).region i).fence) = _
  rw [State.region_updRegion]
  split
  · next h => rw [h]; rfl
  · rfl

theorem sendBridle_routed {r dev region typ : Nat} {op : Option OpId} {body : List Byte} (hd : dev ≠ s.hub.deviceId)
    (hlt : dev < 65536) (hr : region < 4) (h : pathFrom 8 s r dev 0 ≠ none) :
    (sendBridle s r op dev region typ body).2 = true := by
  have hw : ∀ d c, pathFrom 8 (takeTag s r).2 r d c = pathFrom 8 s r d c := fun d c => pathFrom_of_roads (takeTag_roads s r) ..
  unfold sendBridle forward forwardNoted
  dsimp only
  rw [if_neg hd]
  obtain ⟨⟨q, p, c, tn⟩, hq⟩ := Option.ne_none_iff_exists'.1 h
  have hdev : devOf (bridleMsg (regionAddr dev region) typ body).dest = dev := devOf_regionAddr hlt hr
  simp only [hdev, hw, hq]

theorem sendBridle_lost {r dev region typ : Nat} {op : Option OpId} {body : List Byte} (hd : dev ≠ s.hub.deviceId)
    (hlt : dev < 65536) (hr : region < 4) (h : pathFrom 8 s r dev 0 = none) :
    sendBridle s r op dev region typ body = (s, false) := by
  have hw : ∀ d c, pathFrom 8 (takeTag s r).2 r d c = pathFrom 8 s r d c := fun d c => pathFrom_of_roads (takeTag_roads s r) ..
  have hdev : devOf (bridleMsg (regionAddr dev region) typ body).dest = dev := devOf_regionAddr hlt hr
  unfold sendBridle forward forwardNoted
  dsimp only
  rw [if_neg hd]
  simp only [hdev, hw, h]

/-! ### Remote requests -/

/-- The request of a remote control operation is noted. -/
def asked (s : State) (e : OpEntry) : State :=
  (s.updHub fun h => { h with ctlSeq := (h.ctlSeq + 1) % 2 ^ 32 }).updOp e.id fun x =>
    { x with phase := .running, sent := some (s.hub.cycle, s.hub.ctlSeq) }

theorem asked_path (s : State) (e : OpEntry) (r dev cls : Nat) : pathFrom 8 (asked s e) r dev cls = pathFrom 8 s r dev cls :=
  pathFrom_of_roads (s := s) (t := asked s e) rfl ..

theorem sendRequest_eq (s : State) (e : OpEntry) : sendRequest s e =
    let x := reachBridle (asked s e) e.region (some e.id) e.targetId 0 (requestBody s e s.hub.ctlSeq).1
      (requestBody s e s.hub.ctlSeq).2
    if x.2 then x.1 else ctrlOver (asked s e) e.id stTIMEOUT 0 0 := rfl

theorem ctrlEntry_of_waiting {opc : Nat} (h : s.op? e.id = some e) (hop : e.opcode = opc) (hp : e.phase = .waiting) :
    ctrlEntry s e.id opc = some e := by
  unfold ctrlEntry
  rw [h]
  exact if_pos (by simp [hop, hp])

theorem ctrlRun_remote {opc : Nat} {act : State → OpEntry → State} (h : Control s opc true e) :
    ctrlRun opc act s e.id = sendRequest s e := by
  obtain ⟨hop, hopc, hph, hok, hfar⟩ := h
  unfold ctrlRun
  rw [ctrlEntry_of_waiting hop hopc hph]
  dsimp only
  rw [hok, hfar]
  rfl

/-- The operation's entry once its request is noted. -/
theorem asked_op? (h : s.op? e.id = some e) :
    (asked s e).op? e.id = some { e with phase := .running, sent := some (s.hub.cycle, s.hub.ctlSeq) } :=
  op?_updOp_self (s := s.updHub _) (f := fun x => { x with phase := .running, sent := some (s.hub.cycle, s.hub.ctlSeq) })
    (fun _ => rfl) h

theorem sendRequest_sends (s : State) (e : OpEntry) : Sends s (sendRequest s e) := by
  have h : Sends s (asked s e) := .of_media rfl
  rw [sendRequest_eq]
  exact .either (h.trans (.reachBridle ..)) (.of_media rfl)

theorem sendOob_none {dev typ : Nat} {body : List Byte} (h : peerOf s dev = none) : sendOob s dev typ body = (s, false) := by
  unfold sendOob
  rw [Option.map_eq_none_iff.1 h]

theorem sendOob_done {dev typ : Nat} {body a : List Byte} (h : peerOf s dev = some a) :
    (sendOob s dev typ body).2 = true := by
  obtain ⟨q, hq, -⟩ := Option.map_eq_some_iff.1 h
  unfold sendOob
  rw [hq]

theorem reachBridle_lost {r dev region typ : Nat} {op : Option OpId} {body : List Byte}
    (h : sendBridle s r op dev region typ body = (s, false)) :
    reachBridle s r op dev region typ body = sendOob s dev typ body := by
  unfold reachBridle
  rw [h]

theorem reachBridle_done {r dev region typ : Nat} {op : Option OpId} {body : List Byte}
    (h : (sendBridle s r op dev region typ body).2 = true) : (reachBridle s r op dev region typ body).2 = true := by
  unfold reachBridle
  split
  · rfl
  · next hn =>
    exact (hn (sendBridle s r op dev region typ body).1 (Prod.ext rfl h)).elim

section
variable (hd : e.targetId ≠ s.hub.deviceId) (hlt : e.targetId < 65536)
include hd hlt

/-- With no route it goes to the management port. -/
theorem sendRequest_unrouted (h : pathFrom 8 s e.region e.targetId 0 = none) : sendRequest s e =
    let x := sendOob (asked s e) e.targetId (requestBody s e s.hub.ctlSeq).1 (requestBody s e s.hub.ctlSeq).2
    if x.2 then x.1 else ctrlOver (asked s e) e.id stTIMEOUT 0 0 := by
  rw [sendRequest_eq, reachBridle_lost (sendBridle_lost (s := asked s e) hd hlt (by decide)
    (by rw [asked_path]; exact h))]

variable (hop : s.op? e.id = some e)
include hop

/-- A request that has a route leaves by it. -/
theorem sendRequest_routed (h : pathFrom 8 s e.region e.targetId 0 ≠ none) :
    (sendRequest s e).op? e.id = some { e with phase := .running, sent := some (s.hub.cycle, s.hub.ctlSeq) } := by
  have hb := reachBridle_done (sendBridle_routed (s := asked s e) (r := e.region) (region := 0) (op := some e.id)
    (typ := (requestBody s e s.hub.ctlSeq).1) (body := (requestBody s e s.hub.ctlSeq).2) hd hlt (by decide)
    (by rw [asked_path]; exact h))
  rw [sendRequest_eq]
  dsimp only
  rw [if_pos hb, op?_congr (ops_of_unsent (reachBridle_unsent ..)), asked_op? hop]

theorem sendRequest_byPort (h : pathFrom 8 s e.region e.targetId 0 = none) {a : List Byte}
    (ha : peerOf s e.targetId = some a) :
    (sendRequest s e).op? e.id = some { e with phase := .running, sent := some (s.hub.cycle, s.hub.ctlSeq) }
      ∧ ∃ d : Datagram, (sendRequest s e).out = .oob a d :: s.out ∧ d.typ = 0x20 := by
  have hp : peerOf (asked s e) e.targetId = some a := ha
  obtain ⟨d, hout, htyp, -⟩ := sendOob_out (s := asked s e) (typ := (requestBody s e s.hub.ctlSeq).1)
    (body := (requestBody s e s.hub.ctlSeq).2) hp
  rw [sendRequest_unrouted hd hlt h]
  dsimp only
  rw [if_pos (sendOob_done hp)]
  exact ⟨(op?_congr (ops_of_unsent (sendOob_unsent ..)) _).trans (asked_op? hop), d, hout, htyp⟩

theorem sendRequest_unsendable (h : pathFrom 8 s e.region e.targetId 0 = none) (ha : peerOf s e.targetId = none) :
    Ends (sendRequest s e) e stTIMEOUT := by
  rw [sendRequest_unrouted hd hlt h, sendOob_none (s := asked s e) ha]
  exact ctrlOver_ends (asked_op? hop) rfl ..

end

/-! ### Time-outs -/

theorem unanswered_ends (s : State) (e : OpEntry) : unanswered s e false = ctrlOver s e.id stTIMEOUT 0 0 := rfl

/-- The request goes out again by the management port, where that knows the device. -/
theorem unanswered_again (hop : s.op? e.id = some e) : (unanswered s e true).mem = s.mem
    ∧ (∀ a, peerOf s e.targetId = some a → (unanswered s e true).ops = s.ops
        ∧ ∃ d : Datagram, (unanswered s e true).out = .oob a d :: s.out ∧ d.typ = 0x20)
    ∧ (peerOf s e.targetId = none → Ends (unanswered s e true) e stTIMEOUT) := by
  have heq : unanswered s e true = if (sendOob s e.targetId (requestBody s e ((e.sent.map Prod.snd).getD 0)).1
      (requestBody s e ((e.sent.map Prod.snd).getD 0)).2).2 = true then
        (sendOob s e.targetId (requestBody s e ((e.sent.map Prod.snd).getD 0)).1
          (requestBody s e ((e.sent.map Prod.snd).getD 0)).2).1
      else ctrlOver s e.id stTIMEOUT 0 0 := by
    unfold unanswered
    dsimp only
    rw [if_pos rfl]
    split
    · next h => rw [h]; rfl
    · next hn => exact (if_neg fun h => hn _ (Prod.ext rfl h)).symm
  rw [heq]
  refine ⟨?_, fun a ha => ?_, fun ha => ?_⟩
  · split
    · exact sendOob_mem ..
    · rfl
  · rw [if_pos (sendOob_done ha)]
    obtain ⟨d, hout, htyp, -⟩ := sendOob_out (s := s) (typ := (requestBody s e ((e.sent.map Prod.snd).getD 0)).1)
      (body := (requestBody s e ((e.sent.map Prod.snd).getD 0)).2) ha
    exact ⟨ops_of_unsent (sendOob_unsent ..), d, hout, htyp⟩
  · rw [sendOob_none ha]
    exact ctrlOver_ends hop rfl ..

section
variable {sent : DWord × Nat} (hop : s.op? e.id = some e) (hc : e.isCtrl = true) (hp : e.phase = .running)
  (hs : e.sent = some sent)
include hop hc hp hs

theorem remoteTimeout_eq (oob : Bool) : remoteTimeout s e.id oob =
    if 160000 ≤ (s.hub.cycle - sent.1).toNat then unanswered s e oob else s := by
  unfold remoteTimeout
  rw [hop]
  dsimp only
  rw [hs]
  dsimp only
  rw [hc, hp]
  by_cases h : 160000 ≤ (s.hub.cycle - sent.1).toNat
  · rw [if_pos h, if_pos (by rw [decide_eq_true h]; rfl)]
  · rw [if_neg h, if_neg (by rw [decide_eq_false h]; decide)]

theorem deliveryTimeout_eq (oob : Bool) : deliveryTimeout s e.id oob = unanswered s e oob := by
  unfold deliveryTimeout
  rw [hop]
  exact if_pos (by simp [hc, hp, hs])

end

/-! ### Requests of other devices -/

/-- The descriptor of the entry that stands for a remote request. -/
def requestDesc (opc tag ch scope : Nat) : List Byte :=
  (leBytes 16 opc ++ leBytes 4 tag ++ leBytes 1 ch ++ leBytes 1 scope) ++ List.replicate 26 0

theorem requestDesc_drop (opc tag ch scope : Nat) {off : Nat} (h : 22 ≤ off) :
    (requestDesc opc tag ch scope).drop off = List.replicate (26 - (off - 22)) 0 := by
  have hl : (leBytes 16 opc ++ leBytes 4 tag ++ leBytes 1 ch ++ leBytes 1 scope).length = 22 := by
    simp only [List.length_append, length_leBytes]
  rw [requestDesc, List.drop_append, hl, List.drop_of_length_le (by omega), List.nil_append, List.drop_replicate]

/-- Past its fields the descriptor is zero. -/
theorem requestDesc_zeros (opc tag ch scope : Nat) {lo hi : Nat} (h : 22 ≤ lo) :
    zeros (requestDesc opc tag ch scope) lo hi = true := by
  rw [zeros, requestDesc_drop _ _ _ _ h, List.take_replicate, List.all_eq_true]
  intro b hb
  rw [List.eq_of_mem_replicate hb]
  rfl

theorem requestDesc_remote (opc tag ch scope : Nat) :
    fld (requestDesc opc tag ch scope) 0x16 1 = 0 ∧ fld (requestDesc opc tag ch scope) 0x18 2 = 0 := by
  constructor <;> rw [fld, requestDesc_drop _ _ _ _ (by decide)] <;> decide

theorem requestDesc_tag (opc tag ch scope : Nat) : fld (requestDesc opc tag ch scope) 0x10 4 = tag % 256 ^ 4 := by
  unfold requestDesc
  simp only [List.append_assoc]
  rw [fld_append_right (length_leBytes 16 opc), fld_leBytes_append]

theorem requestDesc_channel (opc tag ch scope : Nat) : fld (requestDesc opc tag ch scope) 0x14 1 = ch % 256 ^ 1 := by
  have hl : (leBytes 16 opc ++ leBytes 4 tag).length = 20 := by simp only [List.length_append, length_leBytes]
  unfold requestDesc
  rw [List.append_assoc, List.append_assoc, fld_append_right hl, fld_leBytes_append]

theorem requestDesc_scope (opc tag ch scope : Nat) : fld (requestDesc opc tag ch scope) 0x15 1 = scope % 256 ^ 1 := by
  have hl : (leBytes 16 opc ++ leBytes 4 tag ++ leBytes 1 ch).length = 21 := by simp only [List.length_append, length_leBytes]
  unfold requestDesc
  rw [List.append_assoc, fld_append_right hl, fld_leBytes_append]

section
variable {r opc : Nat} {byPort : Bool} {src : Src} {b : List Byte}

theorem requestEntry_desc : (requestEntry s r opc byPort src b).desc
    = requestDesc opc (fld b 4 4) (fld b 2 1) (if opc = opUNQUIESCE then 0 else fld b 1 1) := rfl

theorem requestEntry_scope : (requestEntry s r opc byPort src b).scope = if opc = opUNQUIESCE then 0 else fld b 1 1 := by
  have hlt := fld_lt b 1 1
  rw [OpEntry.scope, requestEntry_desc, requestDesc_scope]
  split
  · rfl
  · exact Nat.mod_eq_of_lt hlt

theorem requestEntry_target : (requestEntry s r opc byPort src b).target = ⟨fld b 2 1, fld b 4 4⟩ := by
  rw [OpEntry.target, requestEntry_desc, requestDesc_channel, requestDesc_tag, Nat.mod_eq_of_lt (fld_lt b 2 1),
    Nat.mod_eq_of_lt (fld_lt b 4 4)]

/-- It asks for nothing on another device. -/
theorem requestEntry_local : (requestEntry s r opc byPort src b).remoteReq = false := by
  rw [OpEntry.remoteReq, requestEntry_desc, (requestDesc_remote ..).1]
  rfl

/-- Its body is in form, when its SCOPE is in range. -/
theorem requestEntry_bodyOk (ho : opc = opABORT ∨ opc = opQUIESCE ∨ opc = opUNQUIESCE)
    (hs : (requestEntry s r opc byPort src b).scope ≤ if opc = opABORT then 1 else if opc = opQUIESCE then 2 else 0) :
    ctrlBodyOk (requestEntry s r opc byPort src b) = true := by
  have hd := requestEntry_desc (s := s) (r := r) (opc := opc) (byPort := byPort) (src := src) (b := b)
  have hfar : (opc == opABORT || opc == opQUIESCE || opc == opUNQUIESCE || opc == opECHO) = true := by
    rcases ho with h | h | h <;> simp [h]
  unfold ctrlBodyOk
  rw [requestEntry_local, hd]
  dsimp only
  obtain ⟨h1, h2⟩ := requestDesc_remote opc (fld b 4 4) (fld b 2 1) (if opc = opUNQUIESCE then 0 else fld b 1 1)
  rw [h1, h2, requestDesc_zeros _ _ _ _ (by decide), requestDesc_zeros _ _ _ _ (by decide),
    requestDesc_zeros _ _ _ _ (by decide), requestDesc_zeros _ _ _ _ (by decide)]
  have hs' : decide ((requestEntry s r opc byPort src b).scope
      ≤ if (requestEntry s r opc byPort src b).opcode = opABORT then 1
        else if (requestEntry s r opc byPort src b).opcode = opQUIESCE then 2 else 0) = true := decide_eq_true hs
  have hfar' : ((requestEntry s r opc byPort src b).opcode == opABORT || (requestEntry s r opc byPort src b).opcode == opQUIESCE
      || (requestEntry s r opc byPort src b).opcode == opUNQUIESCE
      || (requestEntry s r opc byPort src b).opcode == opECHO) = true := hfar
  rw [hs', hfar']
  simp

/-- The request is in the table, behind the device's own operations. -/
def requested (s : State) (x : OpEntry) : State := { s with ops := s.ops ++ [x] }

theorem requested_op? (h : tagUsed s x.id = false) : (requested s x).op? x.id = some x := by
  have hn : (s.ops.find? fun e => e.id == x.id) = none :=
    List.find?_eq_none.2 fun e he hx => by
      have := List.any_eq_false.1 h e he
      exact this hx
  change (s.ops ++ [x]).find? _ = some x
  rw [List.find?_append, hn, Option.none_or, List.find?_singleton, if_pos (beq_self_eq_true x.id)]

theorem requested_op?_other {y : OpEntry} (h : s.op? id = some y) : (requested s x).op? id = some y := by
  have h' : (s.ops.find? fun e => e.id == id) = some y := h
  change (s.ops ++ [x]).find? _ = some y
  rw [List.find?_append, h']
  rfl

theorem bridleRequest_refused (typ : Nat) :
    bridleRequest s r typ opc byPort false src b = answerBounds s r typ byPort src b := rfl

/-- A request that a device may make is performed as an operation of this device would be. -/
theorem bridleRequest_runs {act : State → OpEntry → State}
    (hact : (opc = opABORT ∧ act = abortRun) ∨ (opc = opQUIESCE ∧ act = quiesceRun)
      ∨ (opc = opUNQUIESCE ∧ act = unquiesceRun))
    (hfree : tagUsed s (requestEntry s r opc byPort src b).id = false)
    (hs : (requestEntry s r opc byPort src b).scope ≤ if opc = opABORT then 1 else if opc = opQUIESCE then 2 else 0)
    (typ : Nat) :
    bridleRequest s r typ opc byPort true src b
      = flushAnswers (act (requested s (requestEntry s r opc byPort src b)) (requestEntry s r opc byPort src b)) := by
  have hrun (f : State → OpEntry → State) :
      ctrlRun opc f (requested s (requestEntry s r opc byPort src b)) (requestEntry s r opc byPort src b).id
        = f (requested s (requestEntry s r opc byPort src b)) (requestEntry s r opc byPort src b) := by
    unfold ctrlRun
    rw [ctrlEntry_of_waiting (opc := opc) (requested_op? hfree) rfl rfl]
    dsimp only
    rw [requestEntry_bodyOk (hact.imp (·.1) (Or.imp (·.1) (·.1))) hs, requestEntry_local]
    rfl
  unfold bridleRequest
  dsimp only
  rw [if_neg (by decide), if_neg (by rw [hfree]; decide)]
  rcases hact with ⟨rfl, rfl⟩ | ⟨rfl, rfl⟩ | ⟨rfl, rfl⟩
  · exact congrArg flushAnswers ((if_pos rfl).trans (hrun _))
  · exact congrArg flushAnswers (((if_neg (by decide)).trans (if_pos rfl)).trans (hrun _))
  · exact congrArg flushAnswers (((if_neg (by decide)).trans (if_neg (by decide))).trans (hrun _))

end

/-! ### Answers that leave -/

theorem answerBridle_unsent (s : State) (r : Nat) (byPort : Bool) (src : Src) (typ : Nat) (body : List Byte) :
    (answerBridle s r byPort src typ body).unsent = s.unsent := by
  unfold answerBridle
  split
  · exact sendOob_unsent ..
  · exact reachBridle_unsent ..

theorem Sends.answerBridle (s : State) (r : Nat) (byPort : Bool) (src : Src) (typ : Nat) (body : List Byte) :
    Sends s (answerBridle s r byPort src typ body) := .either (.sendOob ..) (.reachBridle ..)

theorem flushAnswer_mbx (s : State) (x : OpEntry) : (flushAnswer s x).mbx = s.mbx := by
  unfold flushAnswer
  split
  · exact (mbx_of_unsent (t := answerBridle _ _ _ _ _ _) (answerBridle_unsent ..) :)
  · rfl

theorem flushAnswers_mbx (s : State) : (flushAnswers s).mbx = s.mbx := foldl_keeps State.mbx _ _ flushAnswer_mbx s

/-- No answer of another operation, and none while the outcome is open, takes an operation from the table. -/
theorem flushAnswer_has (h : s.has id p) (hx : x.id = id → ctrlDone s x = none) : (flushAnswer s x).has id p := by
  unfold flushAnswer
  split
  · next hd =>
    have hne : id ≠ x.id := fun c => by rw [hx c.symm] at hd; cases hd
    obtain ⟨y, hy, hp⟩ := (has_congr (ops_of_unsent (answerBridle_unsent ..))).2 h
    exact ⟨y, (op?_dropOp_other hne _).trans hy, hp⟩
  · exact h

theorem ctrlDone_aborting (s : State) (h : x.phase = .aborting) : ctrlDone s x = none := by
  unfold ctrlDone
  rw [h]
  rfl

theorem flushAnswers_has (h : s.has id p) (ha : ∀ z ∈ s.ops, z.id = id → z.phase = .aborting) :
    (flushAnswers s).has id p := by
  unfold flushAnswers
  generalize s.ops = es at ha
  induction es generalizing s with
  | nil => exact h
  | cons z es ih =>
    exact ih (flushAnswer_has h fun c => ctrlDone_aborting s (ha z (by simp) c)) fun y hy => ha y (by simp [hy])

/-! ### An abort strikes its target -/

/-- An abort has marked the operation, no snapshot commit. -/
def State.struck (s : State) (id : OpId) : Prop :=
  (s.has id fun y => y.phase = .aborting ∧ stABORTED ∈ y.stats ∧ y.opcode ≠ 0x502)
    ∧ ∀ z ∈ s.ops, z.id = id → z.phase = .aborting

theorem struck_congr (h : t.ops = s.ops) : t.struck id ↔ s.struck id := by
  unfold State.struck
  rw [has_congr h, h]

theorem mem_updOp {j : OpId} {f : OpEntry → OpEntry} {z : OpEntry} (h : z ∈ (s.updOp j f).ops) :
    ∃ w ∈ s.ops, w.id = j ∧ z = f w ∨ w.id ≠ j ∧ z = w := by
  obtain ⟨w, hw, rfl⟩ := List.mem_map.1 h
  by_cases hj : w.id = j
  · exact ⟨w, hw, .inl ⟨hj, by simp [hj]⟩⟩
  · exact ⟨w, hw, .inr ⟨hj, by simp [hj]⟩⟩

theorem struck_updOp {j : OpId} {f : OpEntry → OpEntry} (hid : ∀ e, (f e).id = e.id) (hj : id ≠ j) (h : s.struck id) :
    (s.updOp j f).struck id := by
  obtain ⟨⟨y, hy, hp⟩, ha⟩ := h
  refine ⟨⟨y, by rw [State.op?_updOp s j id f hid, if_neg hj, hy], hp⟩, fun z hz hzi => ?_⟩
  obtain ⟨w, hw, ⟨hwj, rfl⟩ | ⟨-, rfl⟩⟩ := mem_updOp hz
  · exact absurd (hzi.symm.trans ((hid w).trans hwj)) hj
  · exact ha _ hw hzi

/-- An abort of an operation that is no snapshot commit marks it. -/
theorem abortTarget_eq (h : s.op? id = some e) (hop : e.opcode ≠ 0x502) : abortTarget s id
    = (markAbort s id).updHrw fun h =>
        { h with pairing := h.pairing.filter (fun p => p.1 != id), restoring := h.restoring.filter fun x => x.op != id } := by
  unfold abortTarget
  rw [h]
  dsimp only
  rw [if_neg (by simp [hop])]

/-- The mark of an abort. -/
def abortMark (e : OpEntry) : OpEntry := { e.addStat stABORTED with phase := .aborting, preempt := false, d0 := 0, d1 := 0 }

theorem markAbort_running (h : s.op? id = some e) (hp : e.phase = .running) :
    markAbort s id = (stopUnits (dropKept s id) id).updOp id abortMark := by
  unfold markAbort
  rw [h]
  dsimp only
  rw [hp]
  rfl

theorem addStat_opcode (st : Nat) (e : OpEntry) : (e.addStat st).opcode = e.opcode := by
  unfold OpEntry.addStat
  split <;> rfl

theorem abortTarget_strikes (h : s.op? id = some e) (hop : e.opcode ≠ 0x502) (hp : e.phase = .running) :
    (abortTarget s id).struck id := by
  have hops := ops_of_besideUnits (stopped_besideUnits s id)
  rw [abortTarget_eq h hop, markAbort_running h hp]
  refine ⟨⟨abortMark e, ?_, rfl, mem_addStat _ _ (by decide), fun c => hop ((addStat_opcode stABORTED e).symm.trans c)⟩,
    fun z hz hzi => ?_⟩
  · exact op?_updOp_self (fun e => addStat_id stABORTED e) ((op?_congr hops id).trans h)
  · obtain ⟨w, -, ⟨-, rfl⟩ | ⟨hw, rfl⟩⟩ := mem_updOp hz
    · rfl
    · exact absurd hzi hw

/-- Another abort finds it marked. -/
theorem abortTarget_again (h : s.struck id) : (abortTarget s id).ops = s.ops := by
  obtain ⟨⟨y, hy, hp, -, hop⟩, -⟩ := h
  rw [abortTarget_eq hy hop]
  unfold markAbort
  rw [hy]
  dsimp only
  rw [hp]
  rfl

theorem foldl_abortTarget_struck (es : List OpEntry) (hes : ∀ z ∈ es, z.id = id) (h : s.struck id) :
    (es.foldl (fun s x => abortTarget s x.id) s).struck id := by
  induction es generalizing s with
  | nil => exact h
  | cons z es ih =>
    refine ih (fun y hy => hes y (by simp [hy])) ?_
    dsimp only
    rw [hes z (by simp)]
    exact (struck_congr (abortTarget_again h)).2 h

theorem ctrlEnd_id (st : Nat) (d0 d1 : DWord) (e : OpEntry) :
    ({ e.addStat st with phase := .finished, d0 := d0, d1 := d1 } : OpEntry).id = e.id := addStat_id st e

/-- An abort of one running operation strikes it. -/
theorem abortRun_strikes (h : s.op? x.id = some x) (ht : x.isTarget = true) (hop : x.opcode ≠ 0x502) (hp : x.phase = .running)
    (hsc : e.scope ≠ 1) (hn : e.target = x.id) (hne : x.id ≠ e.id) : (abortRun s e).struck x.id := by
  have hids : ∀ z ∈ abortNames s e, z.id = x.id := by
    intro z hz
    have := (List.mem_filter.1 hz).2
    rw [if_neg hsc, Bool.and_eq_true] at this
    rw [← hn]
    simpa using this.2
  have hx : x ∈ abortNames s e := by
    refine List.mem_filter.2 ⟨List.mem_of_find?_eq_some h, ?_⟩
    rw [if_neg hsc, ht, hn]
    simp
  unfold abortRun
  dsimp only
  generalize abortNames s e = es at hids hx
  have hstruck : (es.foldl (fun s x => abortTarget s x.id) s).struck x.id := by
    cases es with
    | nil => cases hx
    | cons z es =>
      refine foldl_abortTarget_struck es (fun y hy => hids y (by simp [hy])) ?_
      dsimp only
      rw [hids z (by simp)]
      exact abortTarget_strikes h hop hp
  have hsome : es.isEmpty = false := by
    cases es with
    | nil => cases hx
    | cons => rfl
  rw [if_neg (by simp [hsome])]
  split
  · exact struck_updOp (ctrlEnd_id _ _ _) hne hstruck
  · exact struck_updOp (fun _ => rfl) hne hstruck

/-! ### BRIDLE_ABORT and BRIDLE_QUIESCE -/

section
variable {r : Nat} {src : Src} {b : List Byte} (hok : ctlBodyOk b = true)
include hok

theorem bridleAbort_answer (hk : fld b 0 1 = 1) : bridleAbort s r src b
    = answerIn (takeBridle s r 4 b) 4 src (fld b 8 4) (fld b 0xC 2) (BitVec.ofNat 64 (fld b 0x10 8)) := by
  unfold bridleAbort
  dsimp only
  rw [hok, if_pos hk]
  rfl

theorem bridleQuiesce_answer (hk : fld b 0 1 = 1) : bridleQuiesce s r src b
    = answerIn (takeBridle s r 3 b) 3 src (fld b 8 4) (fld b 0xC 2) (BitVec.ofNat 64 (fld b 0x10 8)) := by
  unfold bridleQuiesce
  dsimp only
  rw [hok, if_pos hk]
  rfl

variable (hk : fld b 0 1 = 0)
include hk

theorem bridleAbort_request (hv : bindValid s (fld b 2 1) = true) (hs : bindSend s (fld b 2 1) = proxyId s src) :
    bridleAbort s r src b = bridleRequest (takeBridle s r 4 b) r 4 opABORT (cameByPort s r 4 b) true src b := by
  have hmay : (bindValid (takeBridle s r 4 b) (fld b 2 1)
      && bindSend (takeBridle s r 4 b) (fld b 2 1) == proxyId (takeBridle s r 4 b) src) = true := by
    change (bindValid s (fld b 2 1) && bindSend s (fld b 2 1) == proxyId s src) = true
    simp [hv, hs]
  unfold bridleAbort
  dsimp only
  rw [hok, if_neg (by omega : ¬ fld b 0 1 = 1), hmay]
  rfl

theorem bridleQuiesce_request {may : Bool}
    (hm : ((List.range 256).any fun ch => bindValid s ch && bindCtrl s ch && bindSend s ch == proxyId s src) = may) :
    bridleQuiesce s r src b = bridleRequest (takeBridle s r 3 b) r 3 (if fld b 1 1 = 3 then opUNQUIESCE else opQUIESCE)
      (cameByPort s r 3 b) may src b := by
  have hmay : ((List.range 256).any fun ch => bindValid (takeBridle s r 3 b) ch && bindCtrl (takeBridle s r 3 b) ch
      && bindSend (takeBridle s r 3 b) ch == proxyId (takeBridle s r 3 b) src) = may := hm
  unfold bridleQuiesce
  dsimp only
  rw [hok, if_neg (by omega : ¬ fld b 0 1 = 1), hmay]
  rfl

/-- A device that a channel lets do so quiesces this one. -/
theorem bridleQuiesce_quiesces (hfree : tagUsed s ⟨65536 + 4 * src.id + src.region, fld b 8 4⟩ = false)
    (hm : ((List.range 256).any fun ch => bindValid s ch && bindCtrl s ch && bindSend s ch == proxyId s src) = true)
    (hs : fld b 1 1 ≤ 2) : (bridleQuiesce s r src b).mbx.quiesced = true := by
  rw [bridleQuiesce_request hok hk hm, if_neg (by omega),
    bridleRequest_runs (s := takeBridle s r 3 b) (.inr (.inl ⟨rfl, rfl⟩)) hfree
      (requestEntry_scope.trans_le hs), flushAnswers_mbx]
  rfl

/-- And lets it go on. -/
theorem bridleQuiesce_unquiesces (hfree : tagUsed s ⟨65536 + 4 * src.id + src.region, fld b 8 4⟩ = false)
    (hm : ((List.range 256).any fun ch => bindValid s ch && bindCtrl s ch && bindSend s ch == proxyId s src) = true)
    (hs : fld b 1 1 = 3) : (bridleQuiesce s r src b).mbx.quiesced = false := by
  rw [bridleQuiesce_request hok hk hm, if_pos hs,
    bridleRequest_runs (s := takeBridle s r 3 b) (.inr (.inr ⟨rfl, rfl⟩)) hfree
      (requestEntry_scope.trans_le (Nat.le_refl 0)), flushAnswers_mbx]
  rfl

/-- Another device is turned away. -/
theorem bridleQuiesce_refused
    (hm : ((List.range 256).any fun ch => bindValid s ch && bindCtrl s ch && bindSend s ch == proxyId s src) = false) :
    (bridleQuiesce s r src b).mbx = s.mbx ∧ (bridleQuiesce s r src b).ops = s.ops
      ∧ OnlyBytes (retryRanges s) s (bridleQuiesce s r src b) := by
  have heq : bridleQuiesce s r src b = answerBounds (takeBridle s r 3 b) r 3 (cameByPort s r 3 b) src b := by
    rw [bridleQuiesce_request hok hk hm, bridleRequest_refused]
  have htake : Sends s (takeBridle s r 3 b) := .of_media rfl
  rw [heq]
  exact ⟨mbx_of_unsent (answerBridle_unsent ..), ops_of_unsent (answerBridle_unsent ..),
    (htake.trans (.answerBridle ..)).toOnlyRetry.onlyBytes⟩

/-- A device that may write a channel aborts an operation of the channel. -/
theorem bridleAbort_strikes (hfree : tagUsed s ⟨65536 + 4 * src.id + src.region, fld b 8 4⟩ = false)
    (hv : bindValid s (fld b 2 1) = true) (hs : bindSend s (fld b 2 1) = proxyId s src) (hsc : fld b 1 1 = 0)
    (hid : x.id = ⟨fld b 2 1, fld b 4 4⟩) (hx : s.op? x.id = some x) (ht : x.isTarget = true) (hop : x.opcode ≠ 0x502)
    (hp : x.phase = .running) : (bridleAbort s r src b).has x.id fun y => y.phase = .aborting ∧ stABORTED ∈ y.stats := by
  have hlt := fld_lt b 2 1
  have hscope : (requestEntry (takeBridle s r 4 b) r opABORT (cameByPort s r 4 b) src b).scope = 0 := by
    rw [requestEntry_scope, if_neg (by decide), hsc]
  rw [bridleAbort_request hok hk hv hs, bridleRequest_runs (s := takeBridle s r 4 b) (.inl ⟨rfl, rfl⟩) hfree
    (hscope.trans_le (Nat.zero_le _))]
  obtain ⟨⟨y, hy, hpy, hst, hopy⟩, hall⟩ := abortRun_strikes
    (s := requested (takeBridle s r 4 b) (requestEntry (takeBridle s r 4 b) r opABORT (cameByPort s r 4 b) src b))
    (e := requestEntry (takeBridle s r 4 b) r opABORT (cameByPort s r 4 b) src b)
    (requested_op?_other hx) ht hop hp (by rw [hscope]; decide) (requestEntry_target.trans hid.symm)
    (by
      rw [hid]
      intro c
      have h : fld b 2 1 = 65536 + 4 * src.id + src.region := congrArg OpId.channel c
      omega)
  exact flushAnswers_has ⟨y, hy, hpy, hst⟩ hall

end

/-! ### Answers -/

/-- Does the entry wait for an answer of that type, device and number? -/
def awaits (typ : Nat) (src : Src) (seq : Nat) (e : OpEntry) : Bool :=
  e.isCtrl && e.phase == .running && e.targetId == src.id
    && (if typ = 9 then e.opcode == opECHO else if typ = 4 then e.opcode == opABORT
        else e.opcode == opQUIESCE || e.opcode == opUNQUIESCE)
    && (match e.sent with
      | some (_, k) => k == seq
      | none => false)

theorem answerIn_eq {typ seq st : Nat} {src : Src} {d0 : DWord} (h : (s.ops.find? (awaits typ src seq)) = some e) :
    answerIn s typ src seq st d0 = ctrlOver s e.id st d0 (if typ = 4 then targetWord e.target else 0) := by
  have h' : s.ops.find? (fun e => e.isCtrl && e.phase == .running && e.targetId == src.id
      && (if typ = 9 then e.opcode == opECHO else if typ = 4 then e.opcode == opABORT
          else e.opcode == opQUIESCE || e.opcode == opUNQUIESCE)
      && (match e.sent with
        | some (_, k) => k == seq
        | none => false)) = some e := h
  unfold answerIn
  dsimp only
  split
  · next y hy =>
    cases hy.symm.trans h'
    rfl
  · next hy => cases hy.symm.trans h'

/-- Of one entry that has sent a request, what asks for such an entry finds it. -/
theorem find?_asker {q : OpEntry → Bool} (hx : e ∈ s.ops) (hs : ∀ y ∈ s.ops, y ≠ e → y.sent = none) (hq : q e = true)
    (hsent : ∀ y, q y = true → y.sent ≠ none) : s.ops.find? q = some e := by
  obtain ⟨y, hy⟩ := Option.isSome_iff_exists.1 (List.find?_isSome.2 ⟨e, hx, hq⟩)
  by_cases hye : y = e
  · rw [hy, hye]
  · exact absurd (hs y (List.mem_of_find?_eq_some hy) hye) (hsent y (List.find?_some hy))

theorem awaits_sent {typ seq : Nat} {src : Src} (y : OpEntry) (h : awaits typ src seq y = true) : y.sent ≠ none := by
  intro c
  unfold awaits at h
  rw [c, Bool.and_false] at h
  cases h

section
variable {src : Src} {t0 : DWord} {seq : Nat} (hop : s.op? e.id = some e) (hp : e.phase = .running) (ht : e.targetId = src.id)
  (hs : ∀ y ∈ s.ops, y ≠ e → y.sent = none) (hsent : e.sent = some (t0, seq))
include hop hp ht hs hsent

theorem awaited {typ : Nat} (ho : e.opcode = if typ = 9 then opECHO else if typ = 4 then opABORT else e.opcode)
    (hq : typ ≠ 9 → typ ≠ 4 → e.opcode = opQUIESCE ∨ e.opcode = opUNQUIESCE) :
    s.ops.find? (awaits typ src seq) = some e := by
  refine find?_asker (List.mem_of_find?_eq_some hop) hs ?_ awaits_sent
  unfold awaits
  rw [hsent, hp, ht]
  by_cases h9 : typ = 9
  · rw [if_pos h9] at ho
    simp [h9, OpEntry.isCtrl, OpEntry.group, ho, opECHO]
  · by_cases h4 : typ = 4
    · rw [if_neg h9, if_pos h4] at ho
      simp [h4, OpEntry.isCtrl, OpEntry.group, ho, opABORT]
    · rcases hq h9 h4 with h | h <;> simp [h9, h4, OpEntry.isCtrl, OpEntry.group, h, opQUIESCE, opUNQUIESCE]

end

/-! ### ECHO -/

section
variable {r : Nat} {src : Src} {b : List Byte} (hz : zeros b 1 4 = true)
include hz

/-- A request goes back. -/
theorem bridleEcho_request (hk : fld b 0 1 = 0) :
    bridleEcho s r src b = answerBridle (takeBridle s r 9 b) r (cameByPort s r 9 b) src 9 (1#8 :: b.drop 1) := by
  unfold bridleEcho
  dsimp only
  rw [if_neg (by simp [hk, hz]), if_pos hk]

/-- An answer gives the round trip. -/
theorem bridleEcho_answer {t0 : DWord} (hk : fld b 0 1 = 1) (hop : s.op? e.id = some e)
    (hs : ∀ y ∈ s.ops, y ≠ e → y.sent = none) (hsent : e.sent = some (t0, fld b 4 4)) (ho : e.opcode = opECHO) :
    bridleEcho s r src b = answerIn (takeBridle s r 9 b) 9 src (fld b 4 4) stOK (s.hub.cycle - t0) := by
  have hfind {q : OpEntry → Bool} := find?_asker (s := takeBridle s r 9 b) (q := q) (List.mem_of_find?_eq_some hop) hs
  unfold bridleEcho
  dsimp only
  rw [if_neg (by simp [hk, hz]), if_neg (by omega : ¬ fld b 0 1 = 0), hfind, Option.bind_some, hsent]
  · rfl
  · rw [hsent]
    simp [ho]
  · intro y hy c
    rw [c] at hy
    cases hy

end

/-! ### The watchdog -/

/-- What the watchdog makes of an entry. -/
def watched (x : OpEntry) : OpEntry :=
  { x.addStat stINTERNAL with phase := if x.isCtrl then .finished else .aborting, reason := 1, preempt := false,
                              sent := none, targets := [], d0 := 0, d1 := 0 }

/-- An operation that the watchdog has ended. -/
def bitten (y : OpEntry) : Prop := stINTERNAL ∈ y.stats ∧ y.reason = 1 ∧ (y.phase = .finished ∨ y.phase = .aborting)

theorem bitten_watched (x : OpEntry) : bitten (watched x) := by
  refine ⟨mem_addStat _ _ (by decide), rfl, ?_⟩
  change (if x.isCtrl then Phase.finished else .aborting) = _ ∨ (if x.isCtrl then Phase.finished else .aborting) = _
  split
  · exact .inl rfl
  · exact .inr rfl

/-- The watchdog ends one operation. -/
def watchdogEnds (s : State) (e : OpEntry) : State :=
  (if e.isCtrl then s else stopUnits (dropKept s e.id) e.id).updOp e.id watched

theorem watchdog_eq (s : State) (core : Nat) : watchdog s core
    = (s.ops.filter fun e => e.region == core && e.phase != .preempted && e.answer.isNone).foldl watchdogEnds s := rfl

theorem watchdogStop_ops (s : State) (e : OpEntry) :
    (if e.isCtrl then s else stopUnits (dropKept s e.id) e.id).ops = s.ops ∧
    (if e.isCtrl then s else stopUnits (dropKept s e.id) e.id).mem = s.mem := by
  split
  · exact ⟨rfl, rfl⟩
  · exact ⟨ops_of_besideUnits (stopped_besideUnits ..),
      congrArg Prod.fst (media_of_besideUnits (stopped_besideUnits s e.id))⟩

theorem watchdogEnds_has (y : OpEntry) (h : s.has id p) (hp : ∀ z, p z → p (watched z)) : (watchdogEnds s y).has id p :=
  has_updOp y.id (fun e => addStat_id _ e) hp ((has_congr (watchdogStop_ops s y).1).2 h)

theorem watchdogEnds_own (h : s.op? x.id = some e) : (watchdogEnds s x).has x.id bitten :=
  ⟨_, op?_updOp_self (fun e => addStat_id _ e) ((op?_congr (watchdogStop_ops s x).1 _).trans h), bitten_watched e⟩

theorem foldl_watchdogEnds_has {es : List OpEntry} (hx : x ∈ es ∨ s.has x.id bitten) (h : s.has x.id fun _ => True) :
    (es.foldl watchdogEnds s).has x.id bitten := by
  induction es generalizing s with
  | nil => exact hx.resolve_left (by simp)
  | cons y es ih =>
    refine ih ?_ (watchdogEnds_has y h fun _ _ => trivial)
    obtain hx | hb := hx
    · obtain rfl | hx := List.mem_cons.1 hx
      · obtain ⟨e, he, -⟩ := h
        exact .inr (watchdogEnds_own he)
      · exact .inl hx
    · exact .inr (watchdogEnds_has y hb fun z _ => bitten_watched z)

theorem watchdog_mem (s : State) (core : Nat) : (watchdog s core).mem = s.mem :=
  foldl_keeps State.mem _ watchdogEnds (fun s e => (watchdogStop_ops s e).2) s

/-! ### O50 -/

/-- Settles O50: a request, its answer and its time-outs by the entry that stands for them; a remote abort through the mark
that its target keeps while answers leave. -/
theorem remoteControl : Obligations.RemoteControl := by
  intro s
  refine ⟨fun e p hp hc hd hlt => ?_, fun e sent hop hc hp hs => ⟨fun ht => ⟨?_, ?_⟩, fun ht oob => ?_, ?_, ?_⟩,
    fun r src b hr hok hk hfree => ⟨fun hm h2 => ?_, fun hm h3 => ?_, fun hm => ?_, fun x hv hs hsc hid hx ht hop hp => ?_⟩,
    fun r src b e t0 hr hop hp ht hs hk => ⟨fun hok hsent ho => ?_, fun hok hsent ho => ?_, fun hz hsent ho => ?_⟩,
    fun r src b hr hk hz => ?_, fun core x hcore hx hreg hph ha => ?_⟩
  · have hrun : exec (p.1 e.id) s = .next (sendRequest s e) := by
      simp only [List.mem_cons, List.not_mem_nil, or_false] at hp
      rcases hp with rfl | rfl | rfl | rfl <;> exact congrArg Host.Outcome.next (ctrlRun_remote hc)
    have hop := hc.1
    refine ⟨_, hrun, (sendRequest_sends s e).toOnlyRetry.onlyBytes, fun h => ?_, fun h a ha => ?_, fun h ha => ?_⟩
    · exact ⟨_, sendRequest_routed hd hlt hop h, rfl, rfl⟩
    · obtain ⟨hz, hout⟩ := sendRequest_byPort hd hlt hop h ha
      exact ⟨⟨_, hz, rfl, rfl⟩, hout⟩
    · exact sendRequest_unsendable hd hlt hop h ha
  · have h := (remoteTimeout_eq hop hc hp hs false).trans (if_pos ht)
    exact ⟨_, congrArg Host.Outcome.next h, ctrlOver_ends hop rfl .., ctrlOver_ops ..⟩
  · have h := (remoteTimeout_eq hop hc hp hs true).trans (if_pos ht)
    exact ⟨_, congrArg Host.Outcome.next h, unanswered_again hop⟩
  · exact congrArg Host.Outcome.next ((remoteTimeout_eq hop hc hp hs oob).trans (if_neg (by omega)))
  · exact ⟨_, congrArg Host.Outcome.next (deliveryTimeout_eq hop hc hp hs false), ctrlOver_ends hop rfl .., ctrlOver_ops ..⟩
  · exact ⟨_, congrArg Host.Outcome.next (deliveryTimeout_eq hop hc hp hs true), unanswered_again hop⟩
  · exact ⟨_, congrArg Host.Outcome.next (if_pos hr), bridleQuiesce_quiesces hok hk hfree hm h2⟩
  · exact ⟨_, congrArg Host.Outcome.next (if_pos hr), bridleQuiesce_unquiesces hok hk hfree hm h3⟩
  · exact ⟨_, congrArg Host.Outcome.next (if_pos hr), bridleQuiesce_refused hok hk hm⟩
  · obtain ⟨y, hy, hpy, hst⟩ := bridleAbort_strikes (r := r) hok hk hfree hv hs hsc hid hx ht hop hp
    exact ⟨_, y, congrArg Host.Outcome.next (if_pos hr), hy, hpy, hst⟩
  · have hq : e.opcode = opQUIESCE ∨ e.opcode = opUNQUIESCE := ho
    have h := awaited (s := takeBridle s r 3 b) (typ := 3) hop hp ht hs hsent rfl fun _ _ => hq
    exact ⟨_, congrArg Host.Outcome.next ((if_pos hr).trans ((bridleQuiesce_answer hok hk).trans (answerIn_eq h))),
      ctrlOver_ends (s := takeBridle s r 3 b) hop rfl ..⟩
  · have h := awaited (s := takeBridle s r 4 b) (typ := 4) hop hp ht hs hsent ho fun _ h4 => absurd rfl h4
    exact ⟨_, congrArg Host.Outcome.next ((if_pos hr).trans ((bridleAbort_answer hok hk).trans (answerIn_eq h))),
      ctrlOver_ends (s := takeBridle s r 4 b) hop rfl ..⟩
  · have h := awaited (s := takeBridle s r 9 b) (typ := 9) hop hp ht hs hsent ho fun h9 => absurd rfl h9
    exact ⟨_, _, congrArg Host.Outcome.next ((if_pos hr).trans
        ((bridleEcho_answer hz hk hop hs hsent ho).trans (answerIn_eq h))),
      ctrlOver_ends (s := takeBridle s r 9 b) hop rfl .., ctrlOver_op? (s := takeBridle s r 9 b) hop .., rfl⟩
  · have htake : Sends s (takeBridle s r 9 b) := .of_media rfl
    refine ⟨_, congrArg Host.Outcome.next ((if_pos hr).trans (bridleEcho_request hz hk)),
      ops_of_unsent (answerBridle_unsent ..), (htake.trans (.answerBridle ..)).toOnlyRetry.onlyBytes, fun hport a ha => ?_⟩
    obtain ⟨d, hout, -, hbody⟩ := sendOob_out (s := takeBridle s r 9 b) (typ := 9) (body := 1#8 :: b.drop 1) ha
    refine ⟨d, ?_, hbody⟩
    rw [hport]
    exact hout
  · obtain ⟨y, hy, hst, hre, hpy⟩ := foldl_watchdogEnds_has (s := s) (x := x)
      (es := s.ops.filter fun e => e.region == core && e.phase != .preempted && e.answer.isNone)
      (.inl (List.mem_filter.2 ⟨List.mem_of_find?_eq_some hx, by simp [hreg, hph, ha]⟩)) ⟨x, hx, trivial⟩
    exact ⟨_, y, congrArg Host.Outcome.next (if_pos hcore), hy, hst, hre, hpy, watchdog_mem s core⟩

end Sys2Proof.Machine
end

section
/-! SUPPORT. Contributions to a shard, its finalisation, and the results that a member gets (R341 to R346). -/

namespace Sys2Proof.Machine

variable {s t u v : State} {r : Nat} {x : Shard} {c : Contribution}

/-! ### Messages of collectives -/

theorem Mails.sendShipment (r : Nat) (op : Option OpId) (y : Shipment) (ms : List Msg) (s : State) :
    Mails s (sendShipment s r op y ms) := by
  induction ms generalizing s with
  | nil => exact .refl s
  | cons m ms ih =>
    unfold Machine.sendShipment
    split
    · next h => exact (Mails.forwardNoted h).trans (ih _)
    · exact .opLinkDown ..

theorem Sends.sendShipment (r : Nat) (op : Option OpId) (y : Shipment) (ms : List Msg) (s : State) :
    Sends s (sendShipment s r op y ms) := by
  induction ms generalizing s with
  | nil => exact .refl s
  | cons m ms ih =>
    unfold Machine.sendShipment
    split
    · next h => exact (Sends.forwardNoted h).trans (ih _)
    · exact .of_media (opLinkDown_media ..)

theorem Mails.sendResult (s : State) (r : Nat) (op : Option OpId) (w : Nat) (q : CollResult) :
    Mails s (sendResult s r op w q) := .either (.either (.deliver ..) (.opLinkDown ..)) (.sendShipment ..)

theorem Sends.sendResult (s : State) (r : Nat) (op : Option OpId) (w : Nat) (q : CollResult) :
    Sends s (sendResult s r op w q) :=
  .either (.either (.deliver ..) (.of_media (opLinkDown_media ..))) (.sendShipment ..)

/-- A member on this device gets its result over the ring. -/
theorem sendResult_home {op : Option OpId} {w : Nat} {q : CollResult} (hd : memberDev w = s.hub.deviceId)
    (hj : ringJoins s r (memberReg w) = true) :
    Deliver.result q ∈ ((sendResult s r op w q).region (memberReg w)).inbox := by
  unfold sendResult
  dsimp only
  rw [if_pos hd, if_pos hj, deliver, State.region_updRegion, if_pos rfl]
  exact List.mem_append_right _ (List.mem_singleton.2 rfl)

/-- What one of many messages brings stays. -/
theorem Mails.foldl_at {α : Type} {l : List α} {f : State → α → State} (hf : ∀ s x, Mails s (f s x))
    {a : α} (ha : a ∈ l) (s : State) : ∃ v, Mails s v ∧ Mails (f v a) (l.foldl f s) := by
  induction l generalizing s with
  | nil => cases ha
  | cons b l ih =>
    by_cases hb : a = b
    · exact ⟨s, .refl s, hb ▸ .foldl l hf _⟩
    · obtain ⟨v, hv, ht⟩ := ih ((List.mem_cons.1 ha).resolve_left hb) (f s b)
      exact ⟨v, (hf s b).trans hv, ht⟩

/-! ### Shards -/

/-- What the shards of the regions, and where their results go, depend on. -/
def State.shardView (s : State) : (FMap Byte × FMap Bool × FMap Link) × (Nat → List Shard) × Hub × FMap Bool :=
  (s.media, fun i => (s.region i).shards, s.hub, s.ringDown)

theorem shardView_updRegion {f : Region → Region} (h : (f (s.region r)).shards = (s.region r).shards) :
    (s.updRegion r f).shardView = s.shardView := by
  refine Prod.ext rfl (Prod.ext (funext fun i => ?_) rfl)
  change ((s.updRegion r f).region i).shards = _
  rw [State.region_updRegion]
  split
  · next e => rw [h, e]; rfl
  · rfl

theorem media_of_shardView (h : t.shardView = s.shardView) : t.media = s.media := congrArg (fun w => w.1) h
theorem mem_of_shardView (h : t.shardView = s.shardView) : t.mem = s.mem := congrArg (fun w => w.1.1) h
theorem hub_of_shardView (h : t.shardView = s.shardView) : t.hub = s.hub := congrArg (fun w => w.2.2.1) h
theorem ringDown_of_shardView (h : t.shardView = s.shardView) : t.ringDown = s.ringDown := congrArg (fun w => w.2.2.2) h

theorem shardAt_of_shards (h : (t.region r).shards = (s.region r).shards) (cid step shard : Nat) :
    shardAt t r cid step shard = shardAt s r cid step shard := by rw [shardAt, h, shardAt]

theorem shardAt_of_shardView (h : t.shardView = s.shardView) (r cid step shard : Nat) :
    shardAt t r cid step shard = shardAt s r cid step shard :=
  shardAt_of_shards (congrFun (congrArg (fun w => w.2.1) h) r) ..

theorem takeMsg_shardView (s : State) (r : Nat) (d : Deliver) : (takeMsg s r d).shardView = s.shardView :=
  shardView_updRegion rfl

theorem accountFor_shardView (s : State) (c : Contribution) : (accountFor s c).shardView = s.shardView :=
  foldl_keeps State.shardView _ _ (fun _ _ => shardView_updRegion rfl) s

theorem chargeEvents_shardView (s : State) (r fmt tag : Nat) (evs : List Nat) :
    (chargeEvents s r fmt tag evs).shardView = s.shardView := by
  unfold chargeEvents
  split
  · rfl
  · exact shardView_updRegion rfl

theorem isShard_iff {cid step shard : Nat} :
    isShard cid step shard x = true ↔ x.cid = cid ∧ x.step = step ∧ x.shard = shard := by
  simp [isShard, and_assoc]

/-- The shard after an update that leaves it which shard it is. -/
theorem shardAt_updShard {cid step shard : Nat} {f : Shard → Shard}
    (hf : ∀ y, isShard cid step shard (f y) = isShard cid step shard y)
    (h : shardAt s r cid step shard = some x) :
    shardAt (updShard s r cid step shard f) r cid step shard = some (f x) := by
  have hg (y : Shard) : isShard cid step shard (if isShard cid step shard y then f y else y) = isShard cid step shard y := by
    split
    · exact hf y
    · rfl
  have hx : isShard cid step shard x = true := List.find?_some h
  have hfind : (s.region r).shards.find? (isShard cid step shard) = some x := h
  rw [shardAt, updShard, State.region_updRegion, if_pos rfl]
  dsimp only
  rw [List.find?_map, show (isShard cid step shard ∘ fun y => if isShard cid step shard y then f y else y)
    = isShard cid step shard from funext hg, hfind, Option.map_some, if_pos hx]

theorem updShard_sends (s : State) (r cid step shard : Nat) (f : Shard → Shard) : Sends s (updShard s r cid step shard f) :=
  .of_media rfl

/-! ### Finalisation -/

/-- A shard that is final. -/
def Shard.closed (x : Shard) : Shard := { x with final := true, sums := [] }

/-- A shard has been finalised: it is final, nothing is written but retry areas, and the members on this device to which the
ring leads have a result with a header. -/
structure Finalised (s : State) (r : Nat) (x : Shard) (t : State) : Prop where
  sends : Sends s t
  shard : ∀ y, shardAt s r x.cid x.step x.shard = some y → shardAt t r x.cid x.step x.shard = some y.closed
  result : ∀ w ∈ x.group, memberDev w = s.hub.deviceId → ringJoins s r (memberReg w) = true →
    ∃ q : CollResult, Deliver.result q ∈ (t.region (memberReg w)).inbox
      ∧ q.cid = x.cid ∧ q.step = x.step ∧ q.shard = x.shard ∧ q.header.isSome = true

/-- Later messages leave a shard finalised. -/
theorem Finalised.mails (h : Finalised s r x u) (hm : Mails u t) (hs : Sends u t) : Finalised s r x t where
  sends := h.sends.trans hs
  shard y hy := by
    rw [shardAt_of_shards (hm.region_proj r Region.shards fun _ => rfl)]
    exact h.shard y hy
  result w hw hd hj := by
    obtain ⟨q, hq, hrest⟩ := h.result w hw hd hj
    exact ⟨q, (hm.inbox (memberReg w)).subset hq, hrest⟩

/-- Sending the members their results finalises a shard that is closed. -/
theorem finalised_of_sent {op : Option OpId} {res : Bool → CollResult}
    (hv : v.shardView = (updShard s r x.cid x.step x.shard Shard.closed).shardView)
    (hres : ∀ own, (res own).cid = x.cid ∧ (res own).step = x.step ∧ (res own).shard = x.shard
      ∧ (res own).header.isSome = true) :
    Finalised s r x ((ranked x.group).foldl (fun s w => sendResult s r op w.1 (res (w.2 == x.shard))) v) := by
  have hmail := Mails.foldl (ranked x.group) (fun s w => Mails.sendResult s r op w.1 (res (w.2 == x.shard))) v
  have hsv : Sends s v := (updShard_sends s r x.cid x.step x.shard Shard.closed).trans (.of_media (media_of_shardView hv))
  refine ⟨hsv.trans (.foldl _ (fun s w _ => .sendResult ..) v), fun y hy => ?_, fun w hw hd hj => ?_⟩
  · rw [shardAt_of_shards (hmail.region_proj r Region.shards fun _ => rfl), shardAt_of_shardView hv]
    exact shardAt_updShard (fun _ => rfl) hy
  · obtain ⟨k, hk, hkw⟩ := List.getElem_of_mem hw
    have hmem : (w, k) ∈ ranked x.group := by
      unfold ranked
      exact List.mem_iff_getElem.2 ⟨k, by simpa using hk, by simp [hkw]⟩
    obtain ⟨u, hu, hlast⟩ := Mails.foldl_at (fun s w => Mails.sendResult s r op w.1 (res (w.2 == x.shard))) hmem v
    have hhub : u.hub = s.hub := hu.hub.trans (hub_of_shardView hv :)
    have hring : u.ringDown = s.ringDown := hu.ringDown.trans (ringDown_of_shardView hv :)
    have hgot := sendResult_home (s := u) (r := r) (op := op) (q := res (k == x.shard)) (w := w) (by rw [hhub]; exact hd)
      (by rw [ringJoins_of_ringDown hring]; exact hj)
    exact ⟨res (k == x.shard), (hlast.inbox (memberReg w)).subset hgot, hres _⟩

theorem finalised_finalise (s : State) (r : Nat) (now : DWord) (x : Shard) : Finalised s r x (finalise s r now x) := by
  have hcharged (v : State) (f tag g tag' : Nat) (ev ev' : List Nat) :
      (chargeEvents (chargeEvents v r f tag ev) r g tag' ev').shardView = v.shardView :=
    (chargeEvents_shardView ..).trans (chargeEvents_shardView ..)
  unfold finalise
  extract_lets d old folded hdr s1 op
  split
  next sums ev1 _ =>
  split
  next bytes ev2 _ =>
  extract_lets s2 res s3
  have hv : s2.shardView = (updShard s r x.cid x.step x.shard Shard.closed).shardView := hcharged s1 ..
  have hres (own : Bool) : (res own).cid = x.cid ∧ (res own).step = x.step ∧ (res own).shard = x.shard
      ∧ (res own).header.isSome = true := ⟨rfl, rfl, rfl, rfl⟩
  have hsent : Finalised s r x s3 := finalised_of_sent hv hres
  clear_value s3
  split
  · exact hsent
  · exact hsent.mails (.foldl _ (fun _ _ => .reachBridle ..) _) (.foldl _ (fun _ _ _ => .reachBridle ..) _)

/-! ### Contributions -/

/-- A shard `y` after the contribution that is on time for shard `x`. -/
def Shard.join (x : Shard) (now : DWord) (c : Contribution) (y : Shard) : Shard :=
  { y with
    sums := (combineAll (cIn x.body == fINT32) (cRed x.body) x.sums (widenAll (cIn x.body) c.data)).1
    ranks := y.ranks ++ [c.rank]
    first := if y.ranks.isEmpty then now else y.first }

/-- A contribution on time leaves the shard with the contribution in it, or finalises that. -/
theorem onTime_cases (now : DWord) (c : Contribution) (h : shardAt s r x.cid x.step x.shard = some x) (hf : x.final = false) :
    ∃ v, v.shardView = (updShard s r x.cid x.step x.shard (x.join now c)).shardView
      ∧ shardAt v r x.cid x.step x.shard = some (x.join now c x)
      ∧ onTime s r now x c = if x.ranks.length + 1 = cMembers x.body then finalise v r (v.region r).cycle (x.join now c x)
        else v := by
  unfold onTime
  extract_lets d
  split
  next sums ev heq =>
  have hsums : sums = (combineAll (cIn d == fINT32) (cRed d) x.sums (widenAll (cIn d) c.data)).1 := by rw [heq]
  subst hsums
  extract_lets s1
  have hv : (chargeEvents s1 r (accFmt d) (cTag d) ev).shardView = s1.shardView := chargeEvents_shardView ..
  have hat : shardAt (chargeEvents s1 r (accFmt d) (cTag d) ev) r x.cid x.step x.shard = some (x.join now c x) :=
    (shardAt_of_shardView hv ..).trans (shardAt_updShard (f := x.join now c) (fun _ => rfl) h)
  refine ⟨_, hv, hat, ?_⟩
  rw [finaliseFull, hat]
  simp [Shard.join, hf]

/-- What the contribution is on time for is the shard itself. -/
theorem collContribution_eq (h : shardAt s r c.cid c.step c.shard = some x) (hr : x.ranks.contains c.rank = false)
    (hf : x.final = false) (ho : overdue x (s.region r).cycle = false) :
    collContribution s r c = onTime (accountFor (takeMsg s r (.contribution c)) c) r (s.region r).cycle x c := by
  have hat := shardAt_of_shardView (takeMsg_shardView s r (.contribution c)) r c.cid c.step c.shard
  rw [collContribution, contribute, hat, h]
  simp only [hr, hf, ho, Bool.false_eq_true, if_false]

/-- The state in which a contribution on time is added up has the shards and the memory of the one in which it came. -/
theorem accounted_shardView (s : State) (r : Nat) (c : Contribution) :
    (accountFor (takeMsg s r (.contribution c)) c).shardView = s.shardView :=
  (accountFor_shardView ..).trans (takeMsg_shardView ..)

theorem collContribution_spec (h : shardAt s r c.cid c.step c.shard = some x) (hr : x.ranks.contains c.rank = false)
    (hf : x.final = false) (ho : overdue x (s.region r).cycle = false) :
    (x.ranks.length + 1 ≠ cMembers x.body → (collContribution s r c).mem = s.mem
      ∧ shardAt (collContribution s r c) r c.cid c.step c.shard = some (x.join (s.region r).cycle c x))
    ∧ (x.ranks.length + 1 = cMembers x.body → ∃ u y, Sends s u ∧ u.hub = s.hub ∧ u.ringDown = s.ringDown
      ∧ shardAt u r c.cid c.step c.shard = some (x.join (s.region r).cycle c x)
      ∧ collContribution s r c = finalise u r y (x.join (s.region r).cycle c x)) := by
  obtain ⟨hcid, hstep, hshard⟩ := isShard_iff.1 (List.find?_some h)
  have hacc := accounted_shardView s r c
  obtain ⟨v, hv, hat, heq⟩ := onTime_cases (s.region r).cycle c
    ((shardAt_of_shardView hacc ..).trans (by rw [hcid, hstep, hshard]; exact h)) hf
  rw [hcid, hstep, hshard] at hat
  have hmedia : v.media = s.media := (media_of_shardView hv).trans (media_of_shardView hacc :)
  rw [collContribution_eq h hr hf ho, heq]
  refine ⟨fun hn => ?_, fun hn => ?_⟩
  · rw [if_neg hn]
    exact ⟨congrArg Prod.fst hmedia, hat⟩
  · rw [if_pos hn]
    exact ⟨v, _, .of_media hmedia, (hub_of_shardView hv).trans (hub_of_shardView hacc :),
      (ringDown_of_shardView hv).trans (ringDown_of_shardView hacc :), hat, rfl⟩

/-! ### SHARD_DEADLINE -/

/-- The shard whose deadline has passed is final, and nothing is written but retry areas. -/
theorem shardDeadline_spec (h : (s.region r).shards.find? (fun y =>
      y.cid == x.cid && y.shard == x.shard && !y.final && overdue y (s.region r).cycle) = some x) :
    ∃ y, shardAt (shardDeadline s r x.cid x.shard) r x.cid x.step x.shard = some y ∧ y.final = true
      ∧ Sends s (shardDeadline s r x.cid x.shard) := by
  have heq : shardDeadline s r x.cid x.shard = finaliseLate s r x := by rw [shardDeadline, h]
  have hfin := finalised_finalise s r (BitVec.ofNat 64 (lastCycle x)) x
  have hhas : ((s.region r).shards.find? (isShard x.cid x.step x.shard)).isSome = true :=
    List.find?_isSome.2 ⟨x, List.mem_of_find?_eq_some h, isShard_iff.2 ⟨rfl, rfl, rfl⟩⟩
  obtain ⟨y, hy⟩ := Option.isSome_iff_exists.1 hhas
  rw [heq, finaliseLate]
  exact ⟨y.closed, hfin.shard y hy, rfl, hfin.sends⟩

end Sys2Proof.Machine
end

section
/-! SUPPORT and O44. A result that a member awaits is written and noted, and its operation may be over (R344, R346). -/

namespace Sys2Proof.Machine

variable {s t v : State} {r : Nat} {x : Coll} {c : CollResult} {id : OpId}

/-! ### COLLECTIVE_RESULT -/

/-- What the end of a member's operation depends on, and the fences that its writes meet. -/
def State.memberView (id : OpId) (s : State) : FMap Link × (DWord × (Nat → DWord × DWord) × Fences) × Option Phase :=
  (s.links, s.standing, s.phaseOf id)

theorem opWrite_memberView (a : Nat) (bs : List Byte) : (opWrite s id 0 false a bs).memberView id = s.memberView id := by
  have hw := opWrite_with_ops s id (cls := 0) false a bs (by decide)
  have hlinks : (opWrite s id 0 false a bs).links = s.links := (congrArg State.links hw).trans (memWrite_links s a bs)
  have hstand : (opWrite s id 0 false a bs).standing = s.standing :=
    (congrArg State.standing hw).trans (memWrite_keeps_proj s State.standing (fun _ _ _ _ => rfl) a bs)
  exact Prod.ext hlinks (Prod.ext hstand (congrArg Prod.fst (opWrite_course (id := id) id 0 false a bs s)))

theorem countValues_memberView (fmt tag n : Nat) : (countValues s r fmt tag n).memberView id = s.memberView id := by
  have hstand : (countValues s r fmt tag n).standing = s.standing := by
    unfold countValues
    split
    · exact State.updRegion_standing s r _ rfl rfl
    · rfl
  refine Prod.ext ?_ (Prod.ext hstand ?_)
  · unfold countValues
    split <;> rfl
  · refine phaseOf_congr ?_ id
    unfold countValues
    split <;> rfl

theorem countValues_mem (fmt tag n : Nat) : (countValues s r fmt tag n).mem = s.mem :=
  congrArg (fun w => w.2.1) (countValues_contents s r fmt tag n)

/-- The bytes of a result go to their place, where it is mapped and in service. -/
def resultData (s : State) (r : Nat) (x : Coll) (c : CollResult) : State :=
  let d := x.body
  let a := cDst d + c.element * elSize (cOut d)
  if c.data.isEmpty || fencedRange s a c.data.length || !inMem ((memOf a).getD .hbm) a c.data.length then s
  else countValues (opWrite s x.op 0 false a c.data) r (cOut d) (cTag d) (c.data.length / elSize (cOut d))

/-- The header of a result goes to the member's headers. -/
def resultHeader (s : State) (x : Coll) (c : CollResult) : State :=
  let h := c.header.getD []
  let ha := cHdr x.body + 64 * c.shard
  if h.isEmpty || fencedRange s ha 64 then s else opWrite s x.op 0 false ha h

/-- The member with a result in. -/
def Coll.withResult (x : Coll) (c : CollResult) : Coll :=
  let h := c.header.getD []
  { x with
    got := x.got ++ [c.shard]
    late := if !h.isEmpty && decide (0 < fld h 0x14 4) then x.late ++ [c.shard] else x.late }

/-- The state in which all of a result is written, and the member has noted it. -/
def resultNoted (s : State) (r : Nat) (x : Coll) (c : CollResult) : State :=
  (resultHeader (resultData s r x c) x c).updRegion r fun g =>
    { g with colls := g.colls.map fun y => if y.op == x.op then x.withResult c else y }

theorem resultData_memberView : (resultData s r x c).memberView x.op = s.memberView x.op := by
  unfold resultData
  extract_lets d a
  split
  · rfl
  · rw [countValues_memberView, opWrite_memberView]

theorem resultHeader_memberView : (resultHeader s x c).memberView x.op = s.memberView x.op := by
  unfold resultHeader
  extract_lets h ha
  split
  · rfl
  · rw [opWrite_memberView]

theorem resultNoted_memberView : (resultNoted s r x c).memberView x.op = s.memberView x.op := by
  rw [resultNoted]
  generalize hu : resultHeader (resultData s r x c) x c = u
  refine Eq.trans (b := u.memberView x.op) ?_ (by rw [← hu, resultHeader_memberView, resultData_memberView])
  exact Prod.ext rfl (Prod.ext (State.updRegion_standing u r _ rfl rfl) rfl)

theorem resultData_mem (hd : c.data ≠ [])
    (hf : fencedRange s (cDst x.body + c.element * elSize (cOut x.body)) c.data.length = false)
    (hm : inMem ((memOf (cDst x.body + c.element * elSize (cOut x.body))).getD .hbm)
      (cDst x.body + c.element * elSize (cOut x.body)) c.data.length = true) :
    (resultData s r x c).mem = (memWrite s (cDst x.body + c.element * elSize (cOut x.body)) c.data).mem := by
  have hn : c.data.isEmpty = false := List.isEmpty_eq_false_iff.2 hd
  unfold resultData
  extract_lets d a
  have hcond : ¬ (c.data.isEmpty || fencedRange s a c.data.length || !inMem ((memOf a).getD .hbm) a c.data.length) = true := by
    simp [hn, hf, hm, a, d]
  rw [if_neg hcond, countValues_mem]
  exact opWrite_mem s x.op false a c.data (by decide)

/-- A result without a header writes its bytes and no other. -/
theorem resultNoted_data (hd : c.data ≠ [])
    (hf : fencedRange s (cDst x.body + c.element * elSize (cOut x.body)) c.data.length = false)
    (hm : inMem ((memOf (cDst x.body + c.element * elSize (cOut x.body))).getD .hbm)
      (cDst x.body + c.element * elSize (cOut x.body)) c.data.length = true) (hh : c.header = none) :
    (resultNoted s r x c).mem = (memWrite s (cDst x.body + c.element * elSize (cOut x.body)) c.data).mem := by
  have hnone : resultHeader (resultData s r x c) x c = resultData s r x c := by simp [resultHeader, hh]
  rw [← resultData_mem hd hf hm, ← hnone]
  rfl

/-- The header is written last. -/
theorem resultNoted_header {h : List Byte} (hh : c.header = some h) (hlen : h.length = 64)
    (hf : fencedRange s (cHdr x.body + 64 * c.shard) 64 = false) :
    rdBytes (resultNoted s r x c) (cHdr x.body + 64 * c.shard) 64 = h := by
  have hstand : (resultData s r x c).standing = s.standing := congrArg (fun w => w.2.1) (resultData_memberView (s := s) (r := r))
  have hopen : fencedRange (resultData s r x c) (cHdr x.body + 64 * c.shard) 64 = false :=
    (fencedRange_of_standing hstand ..).trans hf
  have hne : h ≠ [] := by rintro rfl; cases hlen
  have hmem : (resultNoted s r x c).mem = (memWrite (resultData s r x c) (cHdr x.body + 64 * c.shard) h).mem := by
    rw [← opWrite_mem (resultData s r x c) x.op (cls := 0) false _ h (by decide)]
    refine (rfl : _ = (resultHeader (resultData s r x c) x c).mem).trans (congrArg State.mem ?_)
    simp [resultHeader, hh, hopen, hne]
  have hrd := (written_of_mem hmem).1
  rwa [hlen] at hrd

theorem takeMsg_collView (s : State) (r : Nat) (m : Deliver) :
    ((takeMsg s r m).region r).colls = (s.region r).colls ∧ liveColl (takeMsg s r m) = liveColl s := by
  rw [takeMsg, State.region_updRegion, if_pos rfl]
  exact ⟨rfl, rfl⟩

/-- A result that an active member awaits is written and noted, and the member's operation may be over. -/
theorem collResult_eq
    (h : ((s.region r).colls.find? fun x => cCid x.body == c.cid && x.step == c.step && liveColl s x) = some x)
    (hg : x.got.contains c.shard = false) :
    collResult s r c = settleColl (resultNoted (takeMsg s r (.result c)) r x c) r (x.withResult c) := by
  obtain ⟨hcolls, hlive⟩ := takeMsg_collView s r (.result c)
  unfold collResult
  extract_lets s'
  have hfind : ((s'.region r).colls.find? fun x => cCid x.body == c.cid && x.step == c.step && liveColl s' x) = some x := by
    rw [hcolls, hlive]
    exact h
  rw [hfind]
  exact if_neg (by rw [hg]; decide)

theorem liveColl_iff : liveColl s x = true ↔ s.phaseOf x.op = some .running := by
  unfold liveColl State.phaseOf
  cases s.op? x.op <;> simp

theorem opInFlight_of_links (h : t.links = s.links) (id : OpId) : opInFlight t id = opInFlight s id := by
  rw [opInFlight, h, opInFlight]

theorem settleColl_mem : (settleColl s r x).mem = s.mem := by
  unfold settleColl
  split <;> rfl

/-- A running member's operation has finished if its collective is over, and else runs on. -/
theorem settleColl_phase (h : s.phaseOf x.op = some .running) :
    ∃ y, (settleColl s r x).op? x.op = some y ∧ y.phase = if collDone s x then .finished else .running := by
  obtain ⟨e, he, hp⟩ := Option.map_eq_some_iff.1 h
  unfold settleColl
  split
  · extract_lets st
    have hup := op?_updOp_self (s := s.updRegion r fun g => { g with colls := g.colls.filter fun y => y.op != x.op })
      (f := fun e => { e with d0 := BitVec.ofNat 64 x.late.length }) (fun _ => rfl) he
    exact ⟨_, op?_finishOp_self st hup (by rw [hp]; decide), rfl⟩
  · exact ⟨e, he, hp⟩

theorem withResult_late : (x.withResult c).late.isEmpty
    = (x.late.isEmpty && ((c.header.getD []).isEmpty || fld (c.header.getD []) 0x14 4 == 0)) := by
  unfold Coll.withResult
  extract_lets h
  have hnot : (h.isEmpty || fld h 0x14 4 == 0) = !(!h.isEmpty && decide (0 < fld h 0x14 4)) := by
    rw [Bool.not_and, Bool.not_not, ← decide_not, beq_eq_decide]
    simp only [Nat.not_lt, Nat.le_zero]
  rw [hnot]
  cases !h.isEmpty && decide (0 < fld h 0x14 4) <;> simp

/-- Is the collective over with this result? -/
theorem collDone_withResult (hv : v.memberView x.op = s.memberView x.op) (hl : s.phaseOf x.op = some .running) :
    collDone v (x.withResult c) = ((expected x.body).all (fun k => (x.got ++ [c.shard]).contains k) && x.unsettled.isEmpty
      && ((x.late.isEmpty && ((c.header.getD []).isEmpty || fld (c.header.getD []) 0x14 4 == 0)) || !opInFlight s x.op)) := by
  have hlinks : v.links = s.links := congrArg (fun w => w.1) hv
  have hphase : v.phaseOf x.op = s.phaseOf x.op := congrArg (fun w => w.2.2) hv
  have hlive : liveColl v (x.withResult c) = true := liveColl_iff.2 (hphase.trans hl)
  rw [collDone, hlive, withResult_late, Bool.true_and, show (x.withResult c).op = x.op from rfl, opInFlight_of_links hlinks]
  rfl

/-- The operation of a member that awaits a result is running. -/
theorem phaseOf_awaiting
    (h : ((s.region r).colls.find? fun x => cCid x.body == c.cid && x.step == c.step && liveColl s x) = some x) :
    s.phaseOf x.op = some .running := by
  have hx := List.find?_some h
  exact liveColl_iff.1 (Bool.and_eq_true_iff.1 hx).2

theorem takeMsg_memberView (s : State) (r : Nat) (m : Deliver) (id : OpId) :
    (takeMsg s r m).memberView id = s.memberView id :=
  Prod.ext rfl (Prod.ext (State.updRegion_standing s r _ rfl rfl) rfl)

theorem collResult_spec
    (h : ((s.region r).colls.find? fun x => cCid x.body == c.cid && x.step == c.step && liveColl s x) = some x)
    (hg : x.got.contains c.shard = false) :
    let t := resultNoted (takeMsg s r (.result c)) r x c
    (collResult s r c).mem = t.mem ∧ ∃ y, (collResult s r c).op? x.op = some y
      ∧ y.phase = if collDone t (x.withResult c) then .finished else .running := by
  intro t
  have hphase : t.phaseOf x.op = some .running :=
    (congrArg (fun w => w.2.2) (resultNoted_memberView (s := takeMsg s r (.result c)))).trans (phaseOf_awaiting h)
  rw [collResult_eq h hg]
  exact ⟨settleColl_mem, settleColl_phase (x := x.withResult c) hphase⟩

/-- Settles O44: a contribution on time joins its shard, finalisation only closes it and sends its results, and a result is
written before the member's end is judged. -/
theorem collectiveTraffic : Obligations.CollectiveTraffic := by
  unfold Obligations.CollectiveTraffic
  intro s r hr now
  refine ⟨fun c x hx hrank hfin hover => ?_, fun x hx => ?_, fun c x hx hgot => ?_⟩
  · obtain ⟨hpart, hfull⟩ := collContribution_spec hx hrank hfin hover
    obtain ⟨hcid, hstep, hshard⟩ := isShard_iff.1 (List.find?_some hx)
    have hex : exec (.collectiveContribution r c) s = .next (collContribution s r c) :=
      congrArg Host.Outcome.next (if_pos hr)
    refine ⟨fun hn => ⟨_, hex, hpart hn⟩, fun hn => ?_⟩
    obtain ⟨u, y, hsend, hhub, hring, hat, heq⟩ := hfull hn
    have hdone := finalised_finalise u r y (x.join now c x)
    have hclosed := hdone.shard (x.join now c x) (by
      change shardAt u r x.cid x.step x.shard = _
      rw [hcid, hstep, hshard]
      exact hat)
    refine ⟨_, (x.join now c x).closed, hex, ?_, ?_, rfl, rfl, fun w hw hd hj => ?_⟩
    · rw [heq]
      exact (hsend.trans hdone.sends).onlyBytes
    · rw [heq, ← hcid, ← hstep, ← hshard]
      exact hclosed
    · rw [heq]
      exact hdone.result w hw (hd.trans (congrArg Hub.deviceId hhub).symm) ((ringJoins_of_ringDown hring ..).trans hj)
  · obtain ⟨y, hy, hfinal, hsend⟩ := shardDeadline_spec hx
    exact ⟨_, y, congrArg Host.Outcome.next (if_pos hr), hy, hfinal, hsend.onlyBytes⟩
  · intro a ha h ontime all
    obtain ⟨hmem, y, hy, hphase⟩ := collResult_spec hx hgot
    have hfence (b n : Nat) : fencedRange (takeMsg s r (.result c)) b n = fencedRange s b n := fencedRange_takeMsg s r b n _
    refine ⟨_, congrArg Host.Outcome.next (if_pos hr), fun hd hf hm hh => ?_, fun hdr hh hlen hf => ?_, y, hy, ?_⟩
    · exact written_of_mem (s := takeMsg s r (.result c)) (hmem.trans (resultNoted_data hd ((hfence ..).trans hf) hm hh))
    · exact (rdBytes_congr hmem ..).trans (resultNoted_header hh hlen ((hfence ..).trans hf))
    · have hall : collDone (resultNoted (takeMsg s r (.result c)) r x c) (x.withResult c) = all :=
        collDone_withResult (resultNoted_memberView.trans (takeMsg_memberView ..)) (phaseOf_awaiting hx)
      rw [hphase, hall]

end Sys2Proof.Machine
end
